-- ==== Sys2Proof/Word.lean ====
section
/-! DEFINITION. The word types of the model and their plainest arithmetic. -/

namespace Sys2Proof

/-- A control and status register's word (R14). -/
abbrev Word := BitVec 32

/-- One byte of memory, of a cell or of a command. -/
abbrev Byte := BitVec 8

/-- A module address (R256): a 64-bit number, kept as the number it is. -/
abbrev Addr := Nat

/-- A tick count of the local 156.25 MHz reference (R9). -/
abbrev Tick := Nat

/-- A map from numbers, held as a list with strictly rising keys. -/
abbrev Table (α : Type) := List (Nat × α)

end Sys2Proof
end

