-- ==== Sys2Proof/Syntax.lean ====
section
/-! DEFINITION. The commands the block takes from outside (one constructor per row of the table of operations and
events) and the data they carry. -/

namespace Sys2Proof

/-- A context number (R30). -/
abbrev Ctx := Fin 64
/-- A queue number of a context (R276). -/
abbrev QNum := Fin 16
/-- A sync object (R288). -/
abbrev SyncObj := Fin 16384
/-- A torus port: 0 +X, 1 −X, 2 +Y, 3 −Y, 4 +Z, 5 −Z (R230). -/
abbrev TorusPort := Fin 6
/-- An access port. -/
abbrev AccPort := Fin 16
/-- An egress: 0 to 5 torus ports, 6 to 21 access ports 0 to 15 (the order of R393 and Table 9-3). -/
abbrev EgressPort := Fin 22
/-- A lane of a torus port. -/
abbrev LaneNum := Fin 24
/-- A Cay number. -/
abbrev CayNum := Fin 128
/-- A stream of a Milar call (R320). -/
abbrev StreamNum := Fin 4
/-- A core die: 0 is die A, 1 is die B. -/
abbrev Die := Fin 2
/-- A bucket table entry (R100). -/
abbrev BucketNum := Fin 8192
/-- A layer table entry (R145). -/
abbrev LayerNum := Fin 4096
/-- A host port: 0 is H0, 1 is H1. -/
abbrev HostPort := Fin 2
/-- A virtual function, 1 to 32; `k` stands for VF `k + 1` (R362). -/
abbrev VfNum := Fin 32
/-- A rail of Table 15-3. -/
abbrev RailNum := Fin 13
/-- A module coordinate (R21). -/
abbrev Coord := BitVec 15
/-- An owner ID of the pool (R248). -/
abbrev OwnerId := BitVec 16
/-- A pool cell address: die in bit 19 (R245). -/
abbrev CellAddr := BitVec 20

/-- Who makes a register access (R15): a PCIe function of a host port, a management session, a Harbourmaster core. -/
inductive Requester where
  | pf (h : HostPort)
  | vf (h : HostPort) (n : VfNum)
  | mgmt (m : Nat)
  | core (k : Nat)
  deriving DecidableEq, Repr

/-- A cell: the header of Table 7-1, 64 payload bytes, and whether its unit ended with the poisoned tail (Table 12-1). Of an
arriving cell, `crc` is the CRC field (none: the CRC-16 of its header bytes) and `idx` the number of its unit in its
direction of the link (none: the one that comes next under R340). -/
structure Cell where
  dest : Coord := 0
  dateline : Bool := false
  src : Coord := 0
  type : BitVec 4 := 0
  mark : Bool := false
  echo : Bool := false
  last : Bool := false
  retry : Bool := false
  vc : BitVec 3 := 0
  job : BitVec 16 := 0
  tag : BitVec 16 := 0
  seq : BitVec 16 := 0
  scale : BitVec 16 := 0
  payload : List Byte := []
  poison : Bool := false
  crc : Option (BitVec 16) := none
  idx : Option (BitVec 16) := none
  deriving DecidableEq, Repr

/-- A unit that fails at a torus port (R336, R337): a cell unit with its number, whether it is the header CRC that fails, and
what has been forwarded of it (R219) when its header had checked and it was cut through; a control unit; or none that fails, with an invalid sync header all the
same. DESIGN CHOICE (log 119). -/
inductive FailedUnit where
  | cell (idx : BitVec 16) (header : Bool) (through : Option Cell)
  | control
  | passed
  deriving DecidableEq, Repr

/-- What fails at a torus port: the unit, and the lanes whose sync header was invalid (Table 12-13).
DESIGN CHOICE (log 119). -/
structure LinkFail where
  unit : FailedUnit
  lanes : List LaneNum
  deriving DecidableEq, Repr

/-- A TRAIN body (Table 12-3). -/
structure TrainBody where
  id : Word
  serial : BitVec 64
  port : BitVec 8
  levelMax : BitVec 8
  levelMin : BitVec 8
  rateMax : BitVec 8
  coord : BitVec 16
  credits : List (BitVec 16)
  deriving DecidableEq, Repr

/-- A TRAIN unit (Table 12-2): the acknowledgement that every control unit carries, and the body. -/
structure TrainUnit where
  ack : BitVec 16
  body : TrainBody
  deriving DecidableEq, Repr

/-- What a receiver's clock-domain bridge does with an idle row (R338). -/
inductive RowAction where
  | keep
  | delete
  | repeatRow
  deriving DecidableEq, Repr

/-- The accelerator's source addresses in an accepted frame (R354). -/
structure PeerAddr where
  mac : BitVec 48
  ip : BitVec 128
  deriving DecidableEq, Repr

/-- The shim of an encapsulation frame (Table 12-9) and what its receipt shows: the hop limit was 255, the UDP
checksum was zero or right. DESIGN CHOICE (log 115). -/
structure FrameHead where
  fseq : BitVec 16
  ack : BitVec 16
  credit : BitVec 16
  peer : PeerAddr
  hopOk : Bool
  udpOk : Bool
  deriving DecidableEq, Repr

/-- A MEM_WRITE frame (R360): its header, and the bytes of data that it carries. -/
structure WriteFrame where
  head : FrameHead
  bytes : Nat
  deriving DecidableEq, Repr

/-- A certificate of a chain: its DER octets, and of them the signed part, the signature, the modulus of its key and the
subject's serialNumber attribute. The spec leaves the parsing of a certificate to X.509 (R414). -/
structure Cert where
  der : List Byte
  signed : List Byte
  signature : List Byte
  modulus : List Byte
  subject : List Byte := []
  deriving DecidableEq, Repr

/-- What a TLS handshake of a cluster manager shows (R422): version and parameters, its chain with its own certificate first
and its root last, its CertificateVerify signature, and the transcript hashes that the manager's and the module's
CertificateVerify sign. DESIGN CHOICE (log 5). DESIGN CHOICE (log 137). -/
structure TlsOffer where
  tls13 : Bool
  suiteOk : Bool
  groupOk : Bool
  schemeOk : Bool
  chain : List Cert
  verify : List Byte
  clientHash : List Byte
  serverHash : List Byte
  deriving DecidableEq, Repr

/-- What a boot meets outside the model's state: the PUF's response as section 3 of the record corrects it (R411 keeps that
section's layout to the ROM), the HMAC that the flash returns with the replay-protected area (R407), whether initialisation
succeeds, and the voltages of the self-test. DESIGN CHOICE (log 5). -/
structure BootOutcome where
  puf : List Byte
  rpaMac : List Byte
  initOk : Bool
  vminA : Nat
  vminB : Nat
  deriving DecidableEq, Repr

/-- What a configuration request writes (R362, R363): Bus Master Enable; VF Enable with NumVFs, of the physical function;
MSI-X Enable and Function Mask; the mask of one vector; D0 or D3hot; the codes of Max Payload Size (128 bytes × 2^code) and
Max Read Request Size; 10-bit tags; ECRC generation and checking; the range of the completion timeout, A to D, which nothing
disables. -/
inductive CfgWrite where
  | bme (on : Bool)
  | sriov (on : Bool) (vfs : Fin 33)
  | msix (on : Bool) (mask : Bool)
  | vector (v : Fin 17) (mask : Bool)
  | power (d3hot : Bool)
  | limits (payload : Fin 3) (request : Fin 6)
  | tags (tenBit : Bool)
  | ecrc (generate : Bool) (check : Bool)
  | timeout (range : Fin 4)
  deriving DecidableEq, Repr

/-- What the patrol scrubber reads (R270). DESIGN CHOICE (log 5). -/
inductive ScrubTarget where
  | lagoon (block : Nat)
  | hbm (block : Nat)
  | cayStore (addr : Nat)
  | poolCell (a : CellAddr)
  | poolDesc (a : CellAddr)
  | table
  deriving DecidableEq, Repr

/-- Symbols of a block, or bits of a word, that a read finds wrong (Table 9-9). -/
abbrev WrongSymbols := Fin 5

/-- The straps sampled at a start (Table 15-12). -/
structure Straps where
  variant : Bool
  vcore : BitVec 2
  recovery : Bool
  deriving DecidableEq, Repr


/-- The commands of the block: one constructor per row of the table of operations and events. -/
inductive Instr where
  /-- BUCKET_OPEN (R103). Command that checks a bucket descriptor, takes a bucket table entry, computes the digest, reserves resources and joins the admission exchange. -/
  | bucketOpen (c : Ctx) (q : QNum) (i : Word)
  /-- REDUCE (R136). Command that follows an admitted bucket's reduction at this member and completes with the bucket's outcome. -/
  | reduce (c : Ctx) (q : QNum) (i : Word)
  /-- GATHER (R192). Command that binds to a Ferry stream or a retained copy and posts its sync object as delivery advances. -/
  | gather (c : Ctx) (q : QNum) (i : Word)
  /-- FERRY_SEND (R181). Command that checks a plan and sends a LAYER or REGION stream to the plan's direct destinations. -/
  | ferrySend (c : Ctx) (q : QNum) (i : Word)
  /-- PERMUTE (R198). Command that checks a permute descriptor, sends READY and exchanges elements with every member. -/
  | permute (c : Ctx) (q : QNum) (i : Word)
  /-- CAUSEWAY_OP (R141). Command that contributes to one small collective of a KIND 0x02 group and delivers its result. -/
  | causewayOp (c : Ctx) (q : QNum) (i : Word)
  /-- LAYER_BIND (R95). Command that installs a group descriptor and, on the owner, a layer descriptor with its state and scratch. -/
  | layerBind (c : Ctx) (q : QNum) (i : Word)
  /-- UPDATE_PROGRAM_LOAD (R161). Command that checks a code image and constant page and loads them into an update program slot. -/
  | updateProgramLoad (c : Ctx) (q : QNum) (i : Word)
  /-- RETAIN (R193). Command that reserves Lagoon space for a retained copy of a matching stream. -/
  | retain (c : Ctx) (q : QNum) (i : Word)
  /-- RELEASE (R196). Command that evicts a named retained copy and returns its reservation to the quota. -/
  | release (c : Ctx) (q : QNum) (i : Word)
  /-- SIGNAL_WAIT (R286). Command that completes when its header wait and every valid condition are satisfied, with the highest-ranking status. -/
  | signalWait (c : Ctx) (q : QNum) (i : Word)
  /-- SIGNAL_POST (R286). Command that adds to or sets a sync object with a given status when it starts. -/
  | signalPost (c : Ctx) (q : QNum) (i : Word)
  /-- FENCE_QUERY (R286). Command that writes a report of the fabric's fence view of a group. -/
  | fenceQuery (c : Ctx) (q : QNum) (i : Word)
  /-- STEP_CLOSE (R178). Command that waits for running updates, abandons incomplete layers, advances the Tide and writes the step record. -/
  | stepClose (c : Ctx) (q : QNum) (i : Word)
  /-- COPY (R285). Command that moves bytes between module memories and accelerator memories. -/
  | copy (c : Ctx) (q : QNum) (i : Word)
  /-- DOORBELL (R278). Write of QUE_TAIL that posts commands, or is ignored with REWIND or OVERRUN. -/
  | doorbell (r : Requester) (c : Ctx) (q : QNum) (v : Word)
  /-- COMMAND_FETCH (R279). Return of a host read carrying up to 8 commands, which moves HEAD past them, or sets FETCH_FAIL on an error. -/
  | commandFetch (c : Ctx) (q : QNum) (gen : Nat) (data : Option (List Byte))
  /-- COMMAND_START (R283). Start of a fetched command once its BARRIER and wait conditions hold, or DEP_FAILED completion after a failed post. -/
  | commandStart (c : Ctx) (q : QNum) (i : Word)
  /-- COMMAND_COMPLETE (R287). Completion of a command: post of POST_SIG, write of the completion record, and MSI-X when IRQ is set. -/
  | commandComplete (c : Ctx) (q : QNum) (i : Word)
  /-- MIRROR_WRITE (R280). Write of the queue mirror record no later than 64 ticks after a change of HEAD, RETIRE or DONE. -/
  | mirrorWrite (c : Ctx) (q : QNum)
  /-- COMPAT_BLOCKING_DOORBELL (R299). Read of QUE_COMPAT_WAIT that is held until FREE is 1 or more. -/
  | compatBlockingDoorbell (r : Requester) (c : Ctx) (q : QNum)
  /-- COMPAT_HOLD_EXPIRY (R299). Expiry of QUE_COMPAT_HOLD, which returns a held read with BLOCKED 1. -/
  | compatHoldExpiry (c : Ctx) (q : QNum)
  /-- QUEUE_ENABLE (R276). Write of QUE_CTRL.ENABLE 1, which checks the configuration and enables the queue or sets CONFIG. -/
  | queueEnable (r : Requester) (c : Ctx) (q : QNum) (v : Word)
  /-- QUEUE_DISABLE (R276). Write of QUE_CTRL.ENABLE 0, which stops fetching and lets fetched commands run. -/
  | queueDisable (r : Requester) (c : Ctx) (q : QNum) (v : Word)
  /-- MIRROR_ENABLE (R276). Write that sets QUE_CTRL.MIRROR, which takes effect only when the mirror record lies in a writable window. -/
  | mirrorEnable (r : Requester) (c : Ctx) (q : QNum) (v : Word)
  /-- CTX_OPEN (R274). Write of CTX_CTRL.OPEN, which checks the context settings and opens the context or records OPEN_STATUS. -/
  | ctxOpen (r : Requester) (c : Ctx) (v : Word)
  /-- CTX_CLOSE (R275). Write of CTX_CTRL.CLOSE, which moves the context to CLOSING, stops fetching and fails unstarted commands. -/
  | ctxClose (r : Requester) (c : Ctx) (v : Word)
  /-- CTX_CLOSED (R275). End of a close once no command remains, releasing entries, slots, copies and charges. -/
  | ctxClosed (c : Ctx)
  /-- SYNC_POST (R289). Host write to SYNC_POST, which adds its value to the object with status OK. -/
  | syncPost (r : Requester) (o : SyncObj) (v : Word)
  /-- SYNC_NOTIFY (R293). Notification of an object after a post: host write, MSI-X or accelerator write. -/
  | syncNotify (o : SyncObj)
  /-- GLOBAL_TORUS_DIM_WRITE (R23). Write of GLOBAL_TORUS_DIM that assigns or withdraws the axis lengths. -/
  | globalTorusDimWrite (r : Requester) (v : Word)
  /-- GLOBAL_COORD_WRITE (R23). Write of GLOBAL_COORD that assigns or withdraws the module coordinate. -/
  | globalCoordWrite (r : Requester) (v : Word)
  /-- REGISTER_WRITE (R16). Write to a register with no row of its own, applied field by field under the access codes. -/
  | registerWrite (r : Requester) (off : Word) (vs : List (Option Word))
  /-- REGISTER_PAIR_LOW_READ (R15). Read of the low word of a 64-bit pair, which fills the requester's shadow of the high word. -/
  | registerPairLowRead (r : Requester) (off : Word) (en : List Bool)
  /-- UNMAPPED_ACCESS (R18). Access to an undefined BAR0 offset, which reads zero, writes nothing and counts in GLOBAL_UNMAPPED_COUNT. -/
  | unmappedAccess (r : Requester) (off : Word) (wr : Option Word)
  /-- NARROW_ACCESS (R14). Host access narrower than 32 bits or unaligned, which completes without effect. -/
  | narrowAccess (r : Requester) (off : Word) (len : Nat) (wr : Bool)
  /-- CAY_KL_START (R330). Write of CAY_KL_CTRL.START, which checks a user-kernel launch and queues it. -/
  | cayKlStart (r : Requester) (n : CayNum) (v : Word)
  /-- CAY_KL_ABORT (R331). Write of CAY_KL_CTRL.ABORT, which stops the kernel before its next instruction with RETRY. -/
  | cayKlAbort (r : Requester) (n : CayNum) (v : Word)
  /-- KERNEL_RUN (R331). Start of a queued user kernel when the Cay has no update call to run. -/
  | kernelRun (n : CayNum)
  /-- LANE_EYE_START (R351). Write of LANE_EYE_CTRL.START, which begins one offset-sampler measurement. -/
  | laneEyeStart (r : Requester) (p : TorusPort) (l : LaneNum) (v : Word)
  /-- EYE_SCAN_DONE (R351). End of an eye measurement, which writes the disagreement count and sets DONE. -/
  | eyeScanDone (p : TorusPort) (l : LaneNum) (count : Nat)
  /-- LANE_PORT_ENABLE (R347). Write of LANE_PORT_CTRL.ENABLE, which starts or stops the torus port's bring-up. -/
  | lanePortEnable (r : Requester) (p : TorusPort) (v : Word)
  /-- ACC_ENABLE (R353). Write of ACC_CTRL.ENABLE, which starts negotiation and training of an access port. -/
  | accEnable (r : Requester) (a : AccPort) (v : Word)
  /-- HEALTH_KICK (R377). Write of KICK, which satisfies the watchdog and resumes beacons. -/
  | healthKick (r : Requester) (v : Word)
  /-- SELF_FENCE_SELF (R381). Write of HEALTH_SELF_FENCE.SELF, which fences the module with cause SELF. -/
  | selfFenceSelf (r : Requester) (v : Word)
  /-- SELF_FENCE_MANAGER (R381). Write of HEALTH_SELF_FENCE.MANAGER, which fences the module with cause MANAGER. -/
  | selfFenceManager (r : Requester) (v : Word)
  /-- HEALTH_READMIT_REQUEST (R384). Write of HEALTH_READMIT.REQUEST, which sets READMIT in the beacons of one port. -/
  | healthReadmitRequest (r : Requester) (v : Word)
  /-- HEALTH_PORT_OWNER_WRITE (R396). Write of the next holder of an access port. -/
  | healthPortOwnerWrite (r : Requester) (a : AccPort) (v : Word)
  /-- PORT_SWITCH (R396). Switch of an access port to its next holder within 64 ticks of the port becoming idle. -/
  | portSwitch (a : AccPort)
  /-- HEALTH_BEACON_WRITE (R378). Write of HEALTH_BEACON, ignored when INTERVAL or FENCE_MISS is 0 or SUSPECT_MISS is not below FENCE_MISS. -/
  | healthBeaconWrite (r : Requester) (v : Word)
  /-- HEALTH_LEVEL_WRITE (R400). Write of HEALTH_LEVEL.OWN, dropped while the coordinate is valid or for a value other than 2 or 3. -/
  | healthLevelWrite (r : Requester) (v : Word)
  /-- CONFIRM (R418). Write of TRUST_CTRL.CONFIRM, which clears TRIAL, raises FLOOR and revokes key slots. -/
  | confirm (r : Requester) (v : Word)
  /-- MODULE_RESET (R426). Write of TRUST_CTRL.RESET, which resets the module as at power-on. -/
  | moduleReset (r : Requester) (v : Word)
  /-- TRUST_UPDATE_GO (R417). Write of TRUST_UPDATE_CTRL.GO, which starts a firmware image update into the idle slot. -/
  | trustUpdateGo (r : Requester) (v : Word)
  /-- IMAGE_UPDATE_DONE (R417). End of a firmware update, which sets ACTIVE, TRIAL and ATTEMPTS or records the refusal result. -/
  | imageUpdateDone (hostOk : Bool) (flashOk : Bool)
  /-- TRUST_ATTEST_GO (R419). Write of TRUST_ATTEST_CTRL.GO, which reads a CHALLENGE from host memory and starts a report. -/
  | trustAttestGo (r : Requester) (v : Word)
  /-- ATTESTATION_COMPLETE (R413). End of the trust engine's signature of an IDENTITY report, and delivery of the report. -/
  | attestationComplete
  /-- TRUST_OWNER_SET (R424). Write of TRUST_OWNER_CTRL.SET, which stores the owner certificate digest and sets OWNER_SET. -/
  | trustOwnerSet (r : Requester) (v : Word)
  /-- POWER_CAP_WRITE (R442). Write of POWER_CAP, clamped to its range and used from the next loop period. -/
  | powerCapWrite (r : Requester) (v : Word)
  /-- VCORE_TARGET_WRITE (R433). Write of POWER_VCORE.TARGET, clamped and applied at once through PRESENT. -/
  | vcoreTargetWrite (r : Requester) (d : Die) (v : Word)
  /-- POOL_ALLOCATE (R249). Allocation of a cell from a die's free list with COUNT 1 and the allocating unit as last owner. -/
  | poolAllocate (d : Die) (u : OwnerId) (charge : Option Ctx)
  /-- POOL_SHARE (R250). Share of a cell by its last owner, which adds references and names a new last owner. -/
  | poolShare (a : CellAddr) (u : OwnerId) (k : Nat) (l : OwnerId)
  /-- POOL_DROP (R250). Drop of a reference by a holder that is not the last owner. -/
  | poolDrop (a : CellAddr) (u : OwnerId)
  /-- POOL_FREE (R250). Free of a cell or chain by its last owner, which releases it or marks it PENDING. -/
  | poolFree (a : CellAddr) (u : OwnerId) (chain : Bool)
  /-- CELL_FORWARD (R209). Pass-through of a torus cell to its next hop by dimension-order routing, or its discard under R212. -/
  | cellForward (p : TorusPort) (x : Cell)
  /-- DATA_W32 (R114). Arrival of a W32 partial-sum cell, consumed into the bucket's fold. -/
  | dataW32 (p : TorusPort) (x : Cell)
  /-- DATA_S1 (R114). Arrival of an S1 cell, expanded and consumed into the bucket's fold. -/
  | dataS1 (p : TorusPort) (x : Cell)
  /-- TRAILER (R123). Arrival of a stream's TRAILER, which checks the checksum and ends the stream. -/
  | trailerCell (p : TorusPort) (x : Cell)
  /-- ADMIT (R103). Arrival of an ADMIT cell, recorded in the bucket entry, forwarded downstream or decided at the owner. -/
  | admitCell (p : TorusPort) (x : Cell)
  /-- GRANT_ADMITTED (R103). Arrival of GRANT ADMITTED, which completes BUCKET_OPEN, relays the grant and starts the deadline timer. -/
  | grantAdmitted (p : TorusPort) (x : Cell)
  /-- GRANT_REFUSED (R106). Arrival of GRANT REFUSED, which releases reservations, relays the refusal and completes BUCKET_OPEN. -/
  | grantRefused (p : TorusPort) (x : Cell)
  /-- GRANT_RELEASE (R113). Arrival of GRANT RELEASE, which lets this member send its stream. -/
  | grantRelease (p : TorusPort) (x : Cell)
  /-- GRANT_DONE (R125). Arrival of GRANT DONE, which is relayed, frees retained send cells and completes REDUCE. -/
  | grantDone (p : TorusPort) (x : Cell)
  /-- GRANT_RESEND (R127). Arrival of GRANT RESEND, which makes the member send its stream again from its retained copies. -/
  | grantResend (p : TorusPort) (x : Cell)
  /-- CAUSEWAY (R141). Arrival of a Causeway contribution or result cell, combined in a port combiner or delivered. -/
  | causewayCell (p : TorusPort) (x : Cell)
  /-- OPEN (R188). Arrival of a Ferry OPEN, queued for a stream slot or answered with BUSY. -/
  | ferryOpen (p : TorusPort) (x : Cell)
  /-- STREAM_SLOT_TAKEN (R188). Take of a free stream slot for a queued OPEN and the sending of ACCEPT. -/
  | streamSlotTaken (d : Die) (k : Nat)
  /-- ABORT (R190). Arrival of a Ferry ABORT, which aborts the slot and passes ABORT to accepted children. -/
  | ferryAbort (p : TorusPort) (x : Cell)
  /-- ACCEPT (R188). Arrival of ACCEPT, which lets the parent send plan cells and data cells. -/
  | ferryAccept (p : TorusPort) (x : Cell)
  /-- BUSY (R188). Arrival of BUSY, which schedules the OPEN to be sent again. -/
  | ferryBusy (p : TorusPort) (x : Cell)
  /-- WINDOW (R188). Arrival of WINDOW, which advances the parent's send window. -/
  | ferryWindow (p : TorusPort) (x : Cell)
  /-- FINISHED (R188). Arrival of FINISHED with unserved ranges, which may finish a slot or complete FERRY_SEND. -/
  | ferryFinished (p : TorusPort) (x : Cell)
  /-- DATA_PARAM (R188). Arrival of a Ferry data cell, delivered to ports, recorded for retention and copied to children. -/
  | dataParam (p : TorusPort) (x : Cell)
  /-- READY (R198). Arrival of a permute READY, after which this member sends its elements to that peer. -/
  | permuteReady (p : TorusPort) (x : Cell)
  /-- PERMUTE_CELL (R198). Arrival of a PERMUTE cell, written into permute staging. -/
  | permuteCell (p : TorusPort) (x : Cell)
  /-- COMPLETE (R198). Arrival of a permute COMPLETE, after which the member may write DST and complete. -/
  | permuteComplete (p : TorusPort) (x : Cell)
  /-- ECHO (R228). Arrival of an ECN ECHO, which cuts the matching injection limiter. -/
  | ecnEcho (p : TorusPort) (x : Cell)
  /-- CREDIT (R215). Arrival of a CREDIT cell, which returns sub-channel credits to the sender. -/
  | creditCell (p : TorusPort) (x : Cell)
  /-- BEACON (R376). Arrival of a BEACON, which resets the miss count, carries fence records and READMIT. -/
  | beaconCell (p : TorusPort) (x : Cell)
  /-- MGMT (R421). Arrival of a MGMT cell, assembled into a management message by SRC and TAG. -/
  | mgmtCell (p : TorusPort) (x : Cell)
  /-- ECHO_GAP (R227). Expiry of an echo entry's gap, which sends a new ECHO or frees the entry. -/
  | echoGap (d : Die) (src : Coord) (job : BitVec 16) (vc : BitVec 3)
  /-- LIMITER_RECOVER (R228). Expiry of RECOVER, which adds ADD to each limiter's RATE. -/
  | limiterRecover
  /-- CELL_AGED (R225). Expiry of FAB_AGE_THRESH for a queue head, which then takes the egress's next grant. -/
  | cellAged (e : EgressPort)
  /-- CREDIT_DUE (R216). Sending of a CREDIT cell when a return reaches 8 or a tick has passed with returns pending. -/
  | creditDue (p : TorusPort)
  /-- FERRY_BUSY_RETRY (R188). Expiry of FAB_FERRY_BUSY_RETRY, which sends a refused OPEN again. -/
  | ferryBusyRetry (k : Nat)
  /-- ADMIT_TIMEOUT (R107). Expiry of FAB_RED_ADMIT_TIMEOUT, which sends ADMIT with REFUSE or decides the bucket REFUSED. -/
  | admitTimeout (b : BucketNum)
  /-- DEADLINE (R130). Expiry of a bucket's deadline, which excludes ports whose TRAILER has not been consumed. -/
  | deadline (b : BucketNum)
  /-- ARM_DEADLINE (R131). Expiry of an arm's deadline, which excludes an arm whose first DATA cell has not been consumed. -/
  | armDeadline (b : BucketNum) (p : TorusPort)
  /-- ERROR_MEMORY_PREFETCH_DONE (R265). Completion of an error-memory prefetch, which counts the reservation as held. -/
  | errorMemoryPrefetchDone (b : BucketNum)
  /-- ERROR_MEMORY_WRITEBACK_DONE (R264). Completion of an error-memory write-back to its HBM home. -/
  | errorMemoryWritebackDone (c : Ctx) (k : BitVec 13)
  /-- UPDATE_START (R154). Start of a layer update when complete, present and COMMITTED, running the statistics step and entering STAGED. -/
  | updateStart (l : LayerNum)
  /-- TASK_APPLY (R158). Application of a finished task's held stores and done bit as one unit, which may advance the journal phase. -/
  | taskApply (l : LayerNum) (t : Nat)
  /-- MATRIX_PHASE_DONE (R166). End of the whole-layer matrix phase, which sets ORTHO_DONE. -/
  | matrixPhaseDone (l : LayerNum)
  /-- LAYER_STATE_PRESENT (R174). Completion of a host-tier state prefetch, which converts spilled buckets into staging. -/
  | layerStatePresent (l : LayerNum)
  /-- LAYER_STATE_TIMEOUT (R175). Expiry of LAYER_STATE_TIMEOUT for a complete layer, which abandons it with RETRY. -/
  | layerStateTimeout (l : LayerNum)
  /-- LAYER_WRITEBACK_DONE (R176). Host acknowledgement of a layer's write-back, which frees the host-tier cache space. -/
  | layerWritebackDone (l : LayerNum)
  /-- STREAM_COMPLETE (R321). Completion or fault of a Milar stream after its rows have moved. -/
  | streamComplete (n : CayNum) (k : StreamNum)
  /-- KLIMIT_EXCEEDED (R326). Expiry of CAY_KLIMIT in a call, which traps with cause LIMIT. -/
  | klimitExceeded (n : CayNum)
  /-- ADD_D (R312). Scalar 64-bit add. -/
  | addD (n : CayNum) (w : Word)
  /-- SUB_D (R312). Scalar 64-bit subtract. -/
  | subD (n : CayNum) (w : Word)
  /-- ADD_W (R312). Scalar 32-bit add, sign-extended. -/
  | addW (n : CayNum) (w : Word)
  /-- SUB_W (R312). Scalar 32-bit subtract, sign-extended. -/
  | subW (n : CayNum) (w : Word)
  /-- AND (R312). Scalar bitwise AND. -/
  | sAnd (n : CayNum) (w : Word)
  /-- OR (R312). Scalar bitwise OR. -/
  | sOr (n : CayNum) (w : Word)
  /-- XOR (R312). Scalar bitwise XOR. -/
  | sXor (n : CayNum) (w : Word)
  /-- MUL_D (R312). Low 64 bits of a scalar product. -/
  | mulD (n : CayNum) (w : Word)
  /-- MUL_W (R312). Low 32 bits of a scalar product, sign-extended. -/
  | mulW (n : CayNum) (w : Word)
  /-- SHL_D (R312). Scalar left shift by a register count. -/
  | shlD (n : CayNum) (w : Word)
  /-- SHR_D (R312). Scalar logical right shift by a register count. -/
  | shrD (n : CayNum) (w : Word)
  /-- SAR_D (R312). Scalar arithmetic right shift by a register count. -/
  | sarD (n : CayNum) (w : Word)
  /-- SHLI_D (R312). Scalar left shift by an immediate count. -/
  | shliD (n : CayNum) (w : Word)
  /-- SHRI_D (R312). Scalar logical right shift by an immediate count. -/
  | shriD (n : CayNum) (w : Word)
  /-- SARI_D (R312). Scalar arithmetic right shift by an immediate count. -/
  | sariD (n : CayNum) (w : Word)
  /-- MIN_D (R312). Scalar signed minimum. -/
  | minD (n : CayNum) (w : Word)
  /-- MAX_D (R312). Scalar signed maximum. -/
  | maxD (n : CayNum) (w : Word)
  /-- MINU_D (R312). Scalar unsigned minimum. -/
  | minuD (n : CayNum) (w : Word)
  /-- MAXU_D (R312). Scalar unsigned maximum. -/
  | maxuD (n : CayNum) (w : Word)
  /-- PSEL_D (R312). Scalar select of one of two registers by a predicate. -/
  | pselD (n : CayNum) (w : Word)
  /-- ADDI_D (R311). Scalar 64-bit add of a sign-extended immediate. -/
  | addiD (n : CayNum) (w : Word)
  /-- ADDI_W (R311). Scalar 32-bit add of a sign-extended immediate. -/
  | addiW (n : CayNum) (w : Word)
  /-- ANDI (R311). Scalar AND with a zero-extended immediate. -/
  | andi (n : CayNum) (w : Word)
  /-- ORI (R311). Scalar OR with an immediate. -/
  | ori (n : CayNum) (w : Word)
  /-- XORI (R311). Scalar XOR with an immediate. -/
  | xori (n : CayNum) (w : Word)
  /-- LUI (R311). Load of a sign-extended immediate shifted left by 16. -/
  | lui (n : CayNum) (w : Word)
  /-- CEQ (R311). Compare for equality into a predicate, on 64 or 32 bits. -/
  | ceq (n : CayNum) (w : Word)
  /-- CNE (R311). Compare for inequality into a predicate. -/
  | cne (n : CayNum) (w : Word)
  /-- CLT (R311). Signed less-than compare into a predicate. -/
  | clt (n : CayNum) (w : Word)
  /-- CGE (R311). Signed greater-or-equal compare into a predicate. -/
  | cge (n : CayNum) (w : Word)
  /-- CLTU (R311). Unsigned less-than compare into a predicate. -/
  | cltu (n : CayNum) (w : Word)
  /-- CGEU (R311). Unsigned greater-or-equal compare into a predicate. -/
  | cgeu (n : CayNum) (w : Word)
  /-- PAND (R311). Predicate AND. -/
  | pand (n : CayNum) (w : Word)
  /-- POR (R311). Predicate OR. -/
  | por (n : CayNum) (w : Word)
  /-- PXOR (R311). Predicate XOR. -/
  | pxor (n : CayNum) (w : Word)
  /-- PNOT (R311). Predicate NOT. -/
  | pnot (n : CayNum) (w : Word)
  /-- BEQ_D (R311). Branch when two registers are equal. -/
  | beqD (n : CayNum) (w : Word)
  /-- BNE_D (R311). Branch when two registers differ. -/
  | bneD (n : CayNum) (w : Word)
  /-- BLT_D (R311). Branch on signed less-than. -/
  | bltD (n : CayNum) (w : Word)
  /-- BGE_D (R311). Branch on signed greater-or-equal. -/
  | bgeD (n : CayNum) (w : Word)
  /-- BLTU_D (R311). Branch on unsigned less-than. -/
  | bltuD (n : CayNum) (w : Word)
  /-- BGEU_D (R311). Branch on unsigned greater-or-equal. -/
  | bgeuD (n : CayNum) (w : Word)
  /-- BP (R311). Branch when a predicate is set. -/
  | bp (n : CayNum) (w : Word)
  /-- BNP (R311). Branch when a predicate is clear. -/
  | bnp (n : CayNum) (w : Word)
  /-- JAL (R311). Jump and link to a PC-relative word. -/
  | jal (n : CayNum) (w : Word)
  /-- JALR (R311). Jump and link to a register-based address. -/
  | jalr (n : CayNum) (w : Word)
  /-- NOP (R311). No operation. -/
  | nop (n : CayNum) (w : Word)
  /-- RET (R329). Wait for the call's active streams, then end the call. -/
  | ret (n : CayNum) (w : Word)
  /-- RDKC (R303). Read of KC into a g register. -/
  | rdkc (n : CayNum) (w : Word)
  /-- WRKC (R303). Write of the rounding field of KC. -/
  | wrkc (n : CayNum) (w : Word)
  /-- TRAP (R326). Trap with cause USER and an argument. -/
  | trap (n : CayNum) (w : Word)
  /-- LD (R307). Scalar load, sign-extended, of 1, 2, 4 or 8 bytes. -/
  | ld (n : CayNum) (w : Word)
  /-- LDU (R307). Scalar load, zero-extended, of 1, 2 or 4 bytes. -/
  | ldu (n : CayNum) (w : Word)
  /-- ST (R307). Scalar store of 1, 2, 4 or 8 bytes. -/
  | st (n : CayNum) (w : Word)
  /-- VLD (R302). Vector load of 256 bytes. -/
  | vld (n : CayNum) (w : Word)
  /-- VST (R302). Vector store of 256 bytes. -/
  | vst (n : CayNum) (w : Word)
  /-- ALD (R318). Load of one W96 accumulator group from its 208-byte form. -/
  | ald (n : CayNum) (w : Word)
  /-- AST (R318). Store of one W96 accumulator group in its 208-byte form. -/
  | ast (n : CayNum) (w : Word)
  /-- VFADD (R313). Vector floating-point add. -/
  | vfadd (n : CayNum) (w : Word)
  /-- VFSUB (R313). Vector floating-point subtract. -/
  | vfsub (n : CayNum) (w : Word)
  /-- VFMUL (R313). Vector floating-point multiply. -/
  | vfmul (n : CayNum) (w : Word)
  /-- VFDIV (R313). Vector floating-point divide. -/
  | vfdiv (n : CayNum) (w : Word)
  /-- VFSQRT (R313). Vector floating-point square root. -/
  | vfsqrt (n : CayNum) (w : Word)
  /-- VFFMA (R313). Vector fused multiply-add with one rounding. -/
  | vffma (n : CayNum) (w : Word)
  /-- VFMIN (R313). Vector floating-point minimum. -/
  | vfmin (n : CayNum) (w : Word)
  /-- VFMAX (R313). Vector floating-point maximum. -/
  | vfmax (n : CayNum) (w : Word)
  /-- VFABS (R313). Vector absolute value, a sign operation. -/
  | vfabs (n : CayNum) (w : Word)
  /-- VFNEG (R313). Vector negation, a sign operation. -/
  | vfneg (n : CayNum) (w : Word)
  /-- VFEQ (R313). Vector quiet equality compare. -/
  | vfeq (n : CayNum) (w : Word)
  /-- VFLT (R313). Vector quiet less-than compare. -/
  | vflt (n : CayNum) (w : Word)
  /-- VFLE (R313). Vector quiet less-or-equal compare. -/
  | vfle (n : CayNum) (w : Word)
  /-- VADD (R314). Vector integer add. -/
  | vadd (n : CayNum) (w : Word)
  /-- VSUB (R314). Vector integer subtract. -/
  | vsub (n : CayNum) (w : Word)
  /-- VMUL (R314). Vector integer multiply, low lane bits. -/
  | vmul (n : CayNum) (w : Word)
  /-- VAND (R314). Vector bitwise AND. -/
  | vand (n : CayNum) (w : Word)
  /-- VOR (R314). Vector bitwise OR. -/
  | vor (n : CayNum) (w : Word)
  /-- VXOR (R314). Vector bitwise XOR. -/
  | vxor (n : CayNum) (w : Word)
  /-- VSHL (R314). Vector left shift. -/
  | vshl (n : CayNum) (w : Word)
  /-- VSHR (R314). Vector logical right shift. -/
  | vshr (n : CayNum) (w : Word)
  /-- VSAR (R314). Vector arithmetic right shift. -/
  | vsar (n : CayNum) (w : Word)
  /-- VMIN (R314). Vector signed minimum. -/
  | vmin (n : CayNum) (w : Word)
  /-- VMAX (R314). Vector signed maximum. -/
  | vmax (n : CayNum) (w : Word)
  /-- VMINU (R314). Vector unsigned minimum. -/
  | vminu (n : CayNum) (w : Word)
  /-- VMAXU (R314). Vector unsigned maximum. -/
  | vmaxu (n : CayNum) (w : Word)
  /-- VEQ (R314). Vector integer equality compare. -/
  | veq (n : CayNum) (w : Word)
  /-- VLT (R314). Vector signed less-than compare. -/
  | vlt (n : CayNum) (w : Word)
  /-- VSEL (R314). Vector lane select by a third register. -/
  | vsel (n : CayNum) (w : Word)
  /-- VBCAST (R315). Broadcast of a g register into every lane. -/
  | vbcast (n : CayNum) (w : Word)
  /-- VEXT (R315). Extraction of one lane into a g register. -/
  | vext (n : CayNum) (w : Word)
  /-- VINS (R315). Insertion of a g register into one lane. -/
  | vins (n : CayNum) (w : Word)
  /-- VMOV (R315). Copy of a vector register. -/
  | vmov (n : CayNum) (w : Word)
  /-- VCVT (R317). Same-width lane conversion between formats. -/
  | vcvt (n : CayNum) (w : Word)
  /-- VCVTW (R317). Widening lane conversion of one part, including vcvtl and vcvth. -/
  | vcvtw (n : CayNum) (w : Word)
  /-- VCVTN (R317). Narrowing lane conversion of two registers into one part. -/
  | vcvtn (n : CayNum) (w : Word)
  /-- ACLR (R318). Clear of a W96 accumulator. -/
  | aclr (n : CayNum) (w : Word)
  /-- VACC (R318). Combine of converted vector lanes into a W96 accumulator. -/
  | vacc (n : CayNum) (w : Word)
  /-- VSQACC (R318). Combine of exact squares of L8 or L16 lanes into a W96 accumulator. -/
  | vsqacc (n : CayNum) (w : Word)
  /-- AADD (R318). Combine of one accumulator into another. -/
  | aadd (n : CayNum) (w : Word)
  /-- AFCVT_W (R318). Conversion of accumulator lanes to FP32. -/
  | afcvtW (n : CayNum) (w : Word)
  /-- AFCVT_D (R318). Conversion of 32 accumulator lanes to FP64. -/
  | afcvtD (n : CayNum) (w : Word)
  /-- TCLR_L8 (R319). Clear of a tile for L8. -/
  | tclrL8 (n : CayNum) (w : Word)
  /-- TCLR_L16 (R319). Clear of a tile for L16. -/
  | tclrL16 (n : CayNum) (w : Word)
  /-- TMAC_L8 (R319). L8 tile multiply-accumulate of one k-slice. -/
  | tmacL8 (n : CayNum) (w : Word)
  /-- TMAC_L16 (R319). L16 tile multiply-accumulate of one k-slice. -/
  | tmacL16 (n : CayNum) (w : Word)
  /-- TMOV_A (R319). Move of 64 tile elements into a W96 accumulator. -/
  | tmovA (n : CayNum) (w : Word)
  /-- TMOV_W (R319). Move of 64 tile elements into FP32 lanes. -/
  | tmovW (n : CayNum) (w : Word)
  /-- TMOV_D (R319). Move of one tile row into FP64 lanes. -/
  | tmovD (n : CayNum) (w : Word)
  /-- TNORM_A (R319). Combine of the tile's exact sum of squares into lane 0 of an accumulator. -/
  | tnormA (n : CayNum) (w : Word)
  /-- XGATHER (R321). Start of an indexed-source stream. -/
  | xgather (n : CayNum) (w : Word)
  /-- XSCATTER (R321). Start of an indexed-destination stream. -/
  | xscatter (n : CayNum) (w : Word)
  /-- XCOPY (R321). Start of a contiguous stream. -/
  | xcopy (n : CayNum) (w : Word)
  /-- XPREF (R321). Start of a prefetch stream into the stream buffer. -/
  | xpref (n : CayNum) (w : Word)
  /-- XWAIT (R321). Wait for a stream to complete, taking any stream fault as a trap. -/
  | xwait (n : CayNum) (w : Word)
  /-- CAY_HANG (R387). Expiry of 1,024 ticks in which a Cay with work finishes nothing, a hard fault. -/
  | cayHang (n : CayNum)
  /-- SPARE_IN_SERVICE (R388). Completion of a spare taking the fenced Cay's number. -/
  | spareInService (n : CayNum)
  /-- SCORE_DECAY (R393). Expiry of the 1.0 ms period, which decays every health score. -/
  | scoreDecay
  /-- BEACON_DUE (R376). Expiry of the beacon interval, which sends a scheduled beacon on the port. -/
  | beaconDue (p : TorusPort)
  /-- BEACON_MISS (R378). Expiry of a beacon interval without a beacon, which counts a miss and may mark suspect or fence the peer. -/
  | beaconMiss (p : TorusPort)
  /-- WATCHDOG_EXPIRY (R377). Expiry of a watchdog period without a kick, which stops beacons. -/
  | watchdogExpiry
  /-- CHALLENGE (R419). Arrival of a CHALLENGE, answered with a signed IDENTITY report or a resent copy. -/
  | challenge (p : TorusPort) (src : Coord) (tag : BitVec 16)
  /-- IDENTITY (R385). Arrival of an IDENTITY report, verified to clear a fence or a DOWN link. -/
  | identity (p : TorusPort) (src : Coord) (tag : BitVec 16)
  /-- CHALLENGE_RESEND (R421). Expiry of 12.0 ms without an IDENTITY, which sends the CHALLENGE again. -/
  | challengeResend (p : TorusPort)
  /-- MGMT_ASSEMBLY_TIMEOUT (R421). Expiry of 1.0 ms for an incomplete message assembly, which discards it. -/
  | mgmtAssemblyTimeout (src : Coord) (tag : BitVec 16)
  /-- READMIT_TIMEOUT (R386). Expiry of 50 ms for a re-admission exchange, which fails it. -/
  | readmitTimeout (p : TorusPort)
  /-- DIE_BRIDGE_FAIL (R381). Failure of the die bridge's link check in both directions, which self-fences the module. -/
  | dieBridgeFail
  /-- IDLE (R340). Arrival of an IDLE control unit carrying ACK. -/
  | linkIdle (p : TorusPort) (ack : BitVec 16)
  /-- NAK (R341). Arrival of a NAK, which resends every cell from NAKIDX. -/
  | linkNak (p : TorusPort) (ack : BitVec 16) (idx : BitVec 16)
  /-- TRAIN (R349). Arrival of a TRAIN unit, checked for legacy, level, wiring and credits. -/
  | linkTrain (p : TorusPort) (u : TrainUnit)
  /-- STEP (R347). Arrival of a STEP unit, which moves the link to the next rate. -/
  | linkStep (p : TorusPort) (rate : BitVec 2)
  /-- DOWN (R349). Arrival of a DOWN unit from the peer with its cause. -/
  | linkDown (p : TorusPort) (cause : BitVec 4)
  /-- IDLE_ROW (R338). Arrival of an idle row, used for deskew and rate matching. -/
  | idleRow (p : TorusPort) (act : RowAction) (laneOrder : Bool)
  /-- IDLE_ROW_DUE (R338). Insertion of an idle row after 819 frames. -/
  | idleRowDue (p : TorusPort)
  /-- CONTROL_UNIT_DUE (R340). Sending of a control unit after 128 cells or 1 tick with a cell unacknowledged. -/
  | controlUnitDue (p : TorusPort)
  /-- LANE_RETRY_TIMEOUT (R342). Expiry of LANE_RETRY_TIMEOUT without ACK progress, which resends from the oldest copy. -/
  | laneRetryTimeout (p : TorusPort)
  /-- LOCK_LOSS (R339). Missing of four expected idle rows or an invalid idle block, which takes the port down with LOCK. -/
  | lockLoss (p : TorusPort) (l : LaneNum) (badBlock : Bool)
  /-- BRINGUP_PHASE_TIMEOUT (R347). Overrun of a bring-up phase limit, which takes the port down. -/
  | bringupPhaseTimeout (p : TorusPort)
  /-- QUALIFY_DONE (R347). End of a clean 1.0 ms qualification at a rate. -/
  | qualifyDone (p : TorusPort)
  /-- LANE_PORT_UP (R347). Torus port coming up with cell counts and credits started. -/
  | lanePortUp (p : TorusPort)
  /-- LANE_PORT_DOWN (R347). Torus port going down, emptying its retry store and restarting bring-up. -/
  | lanePortDown (p : TorusPort) (cause : BitVec 4)
  /-- CELLS (R357). Arrival of a CELLS frame on an access port, whose cells are consumed in order after the FCS checks. -/
  | cellsFrame (a : AccPort) (h : FrameHead) (cells : List Cell)
  /-- MEM_DATA (R360). Arrival of a MEM_DATA reply to a MEM_READ. -/
  | memData (a : AccPort) (h : FrameHead) (tag : BitVec 16) (ok : Bool) (data : List Byte)
  /-- MEM_WRITE (R360). Arrival of a MEM_WRITE frame from an accelerator, which is dropped. -/
  | memWrite (a : AccPort) (f : WriteFrame)
  /-- MEM_READ (R360). Arrival of a MEM_READ frame from an accelerator, which is dropped. -/
  | memRead (a : AccPort) (h : FrameHead)
  /-- PACE (R358). Arrival of a PACE frame carrying ACK and CREDIT. -/
  | paceFrame (a : AccPort) (h : FrameHead)
  /-- NEIGHBOR_SOLICITATION (R354). Arrival of an ICMPv6 Neighbor Solicitation, which is answered. -/
  | neighborSolicitation (a : AccPort) (peer : PeerAddr) (target : BitVec 128)
  /-- ECHO_REQUEST (R354). Arrival of an ICMPv6 Echo Request, which is answered. -/
  | echoRequest (a : AccPort) (peer : PeerAddr) (target : BitVec 128) (body : List Byte)
  /-- LLDP (R354). Arrival of an LLDP frame, which is read and answered. -/
  | lldpFrame (a : AccPort) (peer : PeerAddr) (chassis : List Byte)
  /-- FOREIGN_FRAME (R5). Arrival of any other frame, which is dropped and counted. -/
  | foreignFrame (a : AccPort) (badFcs : Bool)
  /-- FRAME_ACK_DUE (R358). Acknowledgement of a received frame within 1.0 µs, by PACE when no other frame leaves. -/
  | frameAckDue (a : AccPort)
  /-- ACC_RTO (R358). Expiry of ACC_RTO without ACK progress, which resends frames or takes the port down after 8. -/
  | accRto (a : AccPort)
  /-- ACC_MEM_TIMEOUT (R360). Expiry of ACC_MEM_TIMEOUT without a reply, which ends the COPY with RETRY. -/
  | accMemTimeout (a : AccPort) (tag : BitVec 16)
  /-- ACCESS_LINK_UP (R353). Access port coming up after negotiation and training. -/
  | accessLinkUp (a : AccPort) (rate : BitVec 2)
  /-- HOST_LINK_DOWN (R366). Loss of a host port's link, which resets its functions and halts its queues. -/
  | hostLinkDown (h : HostPort)
  /-- HOST_LINK_UP (R281). Return of a host port, which writes waiting records and mirrors and resumes fetching. -/
  | hostLinkUp (h : HostPort) (gen : BitVec 3) (width : BitVec 4)
  /-- VF_FLR (R366). Function-level reset of a VF, which disables its context's queues and sets HOST_DOWN. -/
  | vfFlr (h : HostPort) (n : VfNum)
  /-- PF_FLR (R366). Function-level reset of a PF, which acts as a VF FLR on every VF of the port. -/
  | pfFlr (h : HostPort)
  /-- PERST (R440). Assertion of H0_PERST_N or H1_PERST_N, which takes that host port down. -/
  | perst (h : HostPort)
  /-- CONFIG_REQUEST (R408). PCIe configuration request, answered with retry status until the boot state is final. -/
  | configRequest (h : HostPort) (fn : Nat) (w : Option CfgWrite)
  /-- TLS_HANDSHAKE (R422). TLS 1.3 session setup on the management port, accepted only against OWNER_DIGEST. -/
  | tlsHandshake (m : Nat) (t : TlsOffer)
  /-- REG_WRITE (R423). Management message that applies register writes in order. -/
  | regWrite (m : Nat) (ws : List (Word × Word))
  /-- REG_READ (R423). Management message that returns register values. -/
  | regRead (m : Nat) (offs : List Word)
  /-- ATTEST (R423). Management message that carries a CHALLENGE and returns an IDENTITY. -/
  | attest (m : Nat) (ch : List Byte)
  /-- IMAGE (R423). Management message that carries firmware image bytes. -/
  | imageData (m : Nat) (off : Word) (data : List Byte)
  /-- IMAGE_END (R423). Management message that ends an image and returns the update result. -/
  | imageEnd (m : Nat) (len : Word) (flashOk : Bool)
  /-- RELEASE_OWNER (R423). Management message that clears OWNER_SET when the session closes. -/
  | releaseOwner (m : Nat)
  /-- MGMT_SESSION_CLOSE (R423). Close of a management session, applying a pending owner release. -/
  | mgmtSessionClose (m : Nat)
  /-- RESET_RELEASE (R408). Release of reset, which runs the boot ROM and the boot sequence to READY, RECOVERY or FAILED. -/
  | resetRelease (b : BootOutcome)
  /-- TRIAL_TIMEOUT (R418). Expiry of 60.0 s without confirmation of a trial image, which resets the module. -/
  | trialTimeout
  /-- RANGE_ZEROED (R425). End of zeroing a range that left a context, which makes it free. -/
  | rangeZeroed (base : Nat)
  /-- PATROL_SCRUB (R270). Patrol scrubber read of a block or word, correcting or poisoning it. -/
  | patrolScrub (t : ScrubTarget) (bad : WrongSymbols)
  /-- POWER_START (R429). Rise of VIN through 55 V or MOD_EN going high, which samples the straps and sequences the rails. -/
  | powerStart (st : Straps)
  /-- RAIL_GOOD_TIMEOUT (R429). A rail not good by its time, which shuts down with CONVERTER. -/
  | railGoodTimeout (rail : RailNum)
  /-- MOD_EN_LOW (R430). MOD_EN going low, which shuts down with DISABLE. -/
  | modEnLow
  /-- INPUT_LOW (R430). VIN below 52 V for 50 µs, which shuts down unlatched. -/
  | inputLow
  /-- INPUT_HIGH (R430). VIN above 76 V for 100 µs, which shuts down latched. -/
  | inputHigh
  /-- THERMAL (R430). A junction sensor at or above 110 °C, which shuts down latched. -/
  | thermal
  /-- CONVERTER (R430). A rail out of tolerance for 20 µs, which shuts down latched. -/
  | converter
  /-- VIN_BELOW_56 (R431). VIN between 52 V and 56 V, which sets POWER_EVENT.INPUT_LOW. -/
  | vinBelow56
  /-- VIN_BELOW_54 (R431). VIN falling below 54 V, after which no flash program or erase starts. -/
  | vinBelow54
  /-- VIN_BELOW_40 (R428). VIN falling below 40 V, which unpowers the module and clears a latch. -/
  | vinBelow40
  /-- POWER_LOOP (R433). Expiry of the 1.0 ms power period, which lowers or raises each die's voltage limit. -/
  | powerLoop (watts : Nat) (tjA : Nat) (tjB : Nat)
  /-- POWER_FAST_STEP (R433). Input power above 1.10 × cap for 10 µs, which lowers both dies' limits by 50 mV. -/
  | powerFastStep (watts : Nat)
  /-- REF_LOST (R435). No reference edge for 64 ns, which takes ports down and holds tick counts. -/
  | refLost
  /-- REF_RESTORED (R435). Reference within ratings for 1.0 ms, which resumes ticks and brings ports up. -/
  | refRestored
  /-- LINK_CHECK_FAIL (R341). Arrival of a cell unit whose check or tail fails, or whose header CRC fails; the receiver sends NAK and discards cells until that index arrives again. -/
  | linkCheckFail (p : TorusPort) (f : LinkFail)
  /-- EGRESS_SLOT (R221). Each cell slot of a torus or access egress, which grants a cell under CREDIT, aging, VC0/VC7 rate limits and DRR, and advances the rate-limit and injection-limiter counters. -/
  | egressSlot (e : EgressPort)
  /-- PLAN_CELL (R188). Arrival at a Ferry child of a plan cell carrying its entry and relay list, after which the child opens a stream to each direct child. -/
  | planCell (p : TorusPort) (x : Cell)
  /-- ACCESS_LINK_DOWN (R365). Loss of an access port's link, which changes ACC_STATUS.STATE, sends PF vector 3 and makes the port discard and drop notifications. -/
  | accessLinkDown (a : AccPort)
  /-- BLOCK_LOCK (R347). A torus lane taking block lock on 64 consecutive valid sync headers, and deskew at a rate, during bring-up. -/
  | blockLock (p : TorusPort)
  /-- TRAIN_EXCHANGE_END (R347). End of the 1,024 further frames of TRAIN after TRAIN has been received, after which the end sends STEP. -/
  | trainExchangeEnd (p : TorusPort)
  /-- VIN_ABOVE_40 (R428). VIN rising through 40 V, which starts the converter controller and resets POWER_LAST_SHUTDOWN to NONE. -/
  | vinAbove40
  /-- LATCH_RELEASE (R430). MOD_EN held low for 10 ms, which clears a latched shutdown and releases FAULT_N. -/
  | latchRelease
  /-- THERM_WARN_N (R434). A junction sensor crossing 100 °C, which drives or releases the MH1 THERM_WARN_N pin. -/
  | thermWarnN (hot : Bool)
  deriving DecidableEq, Repr

end Sys2Proof
end

