-- ==== Sys2Proof/Config.lean ====
section
/-! DEFINITION. What an implementation fixes and what the spec leaves open: constants without a body. Nothing can be
proved of their values, so a claim holds whatever they are. -/

namespace Sys2Proof.Config

/-- A byte of host memory that the module has not written: host memory belongs to the host (R7). The first argument is
the number of the read. DESIGN CHOICE (log 7). DESIGN CHOICE (log 11). -/
opaque hostByte : Nat → Nat → Byte

/-- The random bytes the trust engine draws, by the number of the draw: nonces (R419) and the salts of signatures (R404).
DESIGN CHOICE (log 11). -/
opaque randomByte : Nat → Nat → Byte

/-- The RSA key that the octets of an identity private key spell: its modulus and its private exponent. The spec gives the
octets no layout (R412). DESIGN CHOICE (log 18). -/
opaque identityKey : List Byte → Nat × Nat

/-- The 64-byte SHA-512 digests of the root and image keys that the boot ROM holds, by key slot (R407, R411).
DESIGN CHOICE (log 18). -/
opaque romDigest : Nat → List Byte

/-- A byte of a result that the spec does not state, by the number of the draw and its place.
DESIGN CHOICE (log 11). DESIGN CHOICE (log 52). -/
opaque openByte : Nat → Nat → Byte

/-- What a sensor of the module reads (R428, Table 15-13): the supply, the inlet temperature, a rail, by the number of the
draw and the register's offset. DESIGN CHOICE (log 11). DESIGN CHOICE (log 25). -/
opaque reading : Nat → Nat → Nat

/-- The serial number that the cluster manager has bound to a coordinate (R385).
DESIGN CHOICE (log 18). DESIGN CHOICE (log 103). -/
opaque boundSerial : Nat → Nat

/-- The certificate chain that a verifier is given for a module of a serial number, the device certificate first (R385, R414).
DESIGN CHOICE (log 18). DESIGN CHOICE (log 103). -/
opaque peerChain : Nat → List Cert

/-- The DER octets of the Kearolys root certificate, which a verifier holds (R414).
DESIGN CHOICE (log 18). DESIGN CHOICE (log 103). -/
opaque kearolysRoot : List Byte

/-- What befalls a Cay at a tick, by the number of the draw: nothing, or the Cay and what it is (R91 to R93).
DESIGN CHOICE (log 113). -/
opaque upset : Nat → Option (Nat × Nat)

/-- What error of a memory array work meets at a tick, by the number of the draw: none, or the kind of the array, the place
and how many symbols or bits are wrong (R267 to R269). DESIGN CHOICE (log 135). -/
opaque memError : Nat → Option (Nat × Nat × Nat)

end Sys2Proof.Config
end

