-- ==== Sys2Proof/Machine/Crypto.lean ====
section
/-! DEFINITION. CRC-16 (R204), SHA-512 (FIPS 180-4, R96 and R404 to R405), RSASSA-PSS signing and its check (R404), and
what derives and unwraps the identity key (R407, R412): HMAC-SHA-512, HKDF-SHA-512, AES-256 key wrap with padding. -/

namespace Sys2Proof.Machine

/-! ## Bytes -/

/-- The number a little-endian byte string spells (R10). -/
def leNat : List Byte → Nat
  | [] => 0
  | b :: bs => b.toNat + 256 * leNat bs

/-- `n` little-endian bytes of a number. -/
def natLe : Nat → Nat → List Byte
  | 0, _ => []
  | n + 1, v => BitVec.ofNat 8 v :: natLe n (v / 256)

/-- The number a big-endian byte string spells (R405). -/
def beNat (bs : List Byte) : Nat := bs.foldl (fun a b => a * 256 + b.toNat) 0

/-- `n` big-endian bytes of a number. -/
def natBe (n v : Nat) : List Byte := (natLe n v).reverse

/-- `n` zero bytes. -/
def zeros (n : Nat) : List Byte := List.replicate n 0

/-- Bytes `off` to `off + n - 1` of a string, zero past its end. -/
def slice (bs : List Byte) (off n : Nat) : List Byte :=
  let s := (bs.drop off).take n
  s ++ zeros (n - s.length)

/-- The little-endian field of `n` bytes at an offset. -/
def fieldAt (bs : List Byte) (off n : Nat) : Nat := leNat (slice bs off n)

/-- Bits `[hi:lo]` of a number (R12). -/
def bits (v hi lo : Nat) : Nat := (v >>> lo) % 2 ^ (hi + 1 - lo)

/-- Bit `k` of a number. -/
def bit (v k : Nat) : Bool := v.testBit k

/-! ## CRC-16 -/

/-- One bit of the CRC-16 of polynomial x^16 + x^12 + x^5 + 1. -/
def crcBit (c : Nat) : Nat := if 0x8000 ≤ c then ((c * 2) % 65536) ^^^ 0x1021 else c * 2

/-- One byte, most significant bit first (R204). -/
def crcByte (c : Nat) (b : Byte) : Nat :=
  crcBit (crcBit (crcBit (crcBit (crcBit (crcBit (crcBit (crcBit (c ^^^ (b.toNat * 256)))))))))

/-- The CRC-16 of R204: initial value 0xFFFF, no final inversion. -/
def crc16 (bs : List Byte) : BitVec 16 := BitVec.ofNat 16 (bs.foldl crcByte 0xFFFF)

/-! ## SHA-512 -/

/-- The first `n` primes found by trial division from `k` on. -/
def primesFrom : Nat → Nat → List Nat → List Nat
  | 0, _, acc => acc.reverse
  | fuel + 1, k, acc =>
    if acc.length ≥ 80 then acc.reverse
    else if acc.any (fun p => k % p == 0) then primesFrom fuel (k + 1) acc
    else primesFrom fuel (k + 1) (k :: acc)

/-- The first eighty primes. -/
def primes80 : List Nat := primesFrom 410 2 []

/-- Integer root by bits: the greatest `r` below `2 ^ b + acc` with `r ^ n ≤ x`. -/
def rootBits (n x : Nat) : Nat → Nat → Nat
  | 0, acc => acc
  | b + 1, acc => rootBits n x b (if (acc + 2 ^ b) ^ n ≤ x then acc + 2 ^ b else acc)

/-- The round constants: the first 64 fraction bits of the cube roots of the first eighty primes. -/
def sha512K : List (BitVec 64) := primes80.map (fun p => BitVec.ofNat 64 (rootBits 3 (p * 2 ^ 192) 68 0))

/-- The initial hash value: the first 64 fraction bits of the square roots of the first eight primes. -/
def sha512H0 : List (BitVec 64) := (primes80.take 8).map (fun p => BitVec.ofNat 64 (rootBits 2 (p * 2 ^ 128) 68 0))

/-- The message schedule, extended word by word (newest first). -/
def shaExtend : Nat → List (BitVec 64) → List (BitVec 64)
  | 0, w => w
  | n + 1, w =>
    let a := w.getD 1 0
    let b := w.getD 14 0
    let s1 := a.rotateRight 19 ^^^ a.rotateRight 61 ^^^ (a >>> 6)
    let s0 := b.rotateRight 1 ^^^ b.rotateRight 8 ^^^ (b >>> 7)
    shaExtend n ((s1 + w.getD 6 0 + s0 + w.getD 15 0) :: w)

/-- One round on the eight working variables. -/
def shaRound (v : List (BitVec 64)) (kw : BitVec 64 × BitVec 64) : List (BitVec 64) :=
  match v with
  | [a, b, c, d, e, f, g, h] =>
    let s1 := e.rotateRight 14 ^^^ e.rotateRight 18 ^^^ e.rotateRight 41
    let ch := (e &&& f) ^^^ ((~~~e) &&& g)
    let t1 := h + s1 + ch + kw.1 + kw.2
    let s0 := a.rotateRight 28 ^^^ a.rotateRight 34 ^^^ a.rotateRight 39
    let mj := (a &&& b) ^^^ (a &&& c) ^^^ (b &&& c)
    [t1 + (s0 + mj), a, b, c, d + t1, e, f, g]
  | v => v

/-- One 128-byte block. -/
def shaBlock (h : List (BitVec 64)) (blk : List Byte) : List (BitVec 64) :=
  let w0 := (List.range 16).map (fun i => BitVec.ofNat 64 (beNat (slice blk (8 * i) 8)))
  let w := (shaExtend 64 w0.reverse).reverse
  let v := (List.zip sha512K w).foldl shaRound h
  List.zipWith (· + ·) h v

/-- The padded message. -/
def shaPad (m : List Byte) : List Byte :=
  let l := m.length
  let z := (239 - l % 128) % 128
  m ++ [0x80] ++ zeros z ++ natBe 16 (8 * l)

/-- All blocks of a padded message. -/
def shaBlocks : Nat → List (BitVec 64) → List Byte → List (BitVec 64)
  | 0, h, _ => h
  | n + 1, h, m => shaBlocks n (shaBlock h (m.take 128)) (m.drop 128)

/-- SHA-512 as 64 bytes. -/
def sha512 (m : List Byte) : List Byte :=
  let p := shaPad m
  (shaBlocks (p.length / 128) sha512H0 p).flatMap (fun w => natBe 8 w.toNat)

/-! ## RSASSA-PSS (RFC 8017, R404) -/

/-- `b ^ e mod n`, most significant bit of the exponent first, for an exponent of at most `k` bits. -/
def modPow : Nat → Nat → Nat → Nat → Nat
  | 0, _, _, n => 1 % n
  | k + 1, b, e, n =>
    let h := modPow k b (e / 2) n
    if e % 2 = 1 then h * h % n * (b % n) % n else h * h % n

/-- MGF1 with SHA-512: `len` bytes. -/
def mgf1 (seed : List Byte) (len : Nat) : List Byte :=
  (((List.range ((len + 63) / 64)).flatMap (fun i => sha512 (seed ++ natBe 4 i))).take len)

/-- The exclusive or of two strings of one length. -/
def xorBytes (a b : List Byte) : List Byte := List.zipWith (· ^^^ ·) a b

/-- The highest bit of a string cleared: a message representative of 4,095 bits. -/
def clearTop : List Byte → List Byte
  | b :: bs => (b &&& 0x7F) :: bs
  | [] => []

/-- The hash of EMSA-PSS over a message and its salt. -/
def pssHash (msg salt : List Byte) : List Byte := sha512 (zeros 8 ++ sha512 msg ++ salt)

/-- EMSA-PSS-ENCODE into 4,095 bits with a salt of 64 bytes. -/
def pssEncode (msg salt : List Byte) : List Byte :=
  let h := pssHash msg salt
  clearTop (xorBytes (zeros 382 ++ [0x01] ++ salt) (mgf1 h 447)) ++ h ++ [0xBC]

/-- EMSA-PSS-VERIFY. -/
def pssMatches (msg em : List Byte) : Bool :=
  let h := slice em 447 64
  let db := clearTop (xorBytes (em.take 447) (mgf1 h 447))
  em.getD 511 0 == 0xBC && (em.getD 0 0 &&& 0x80) == 0 && db.take 382 == zeros 382 && db.getD 382 0 == 0x01 &&
    pssHash msg (db.drop 383) == h

/-- A signature of R404: the key is its modulus and its private exponent. -/
def pssSign (key : Nat × Nat) (msg salt : List Byte) : List Byte :=
  natBe 512 (modPow 4096 (beNat (pssEncode msg salt)) key.2 key.1)

/-- The signature check of R404: 4,096-bit modulus, exponent 65,537, SHA-512, salt of 64 bytes. -/
def pssVerify (modulus msg sig : List Byte) : Bool :=
  let n := beNat modulus
  let s := beNat sig
  if modulus.length ≠ 512 ∨ sig.length ≠ 512 ∨ n < 2 ^ 4095 ∨ n ≤ s then false
  else pssMatches msg (natBe 512 (modPow 17 s 65537 n))

/-! ## HMAC and HKDF with SHA-512 (R407, R412) -/

/-- HMAC-SHA-512 (RFC 2104). -/
def hmac (key msg : List Byte) : List Byte :=
  let k := slice (if 128 < key.length then sha512 key else key) 0 128
  sha512 (k.map (· ^^^ 0x5C) ++ sha512 (k.map (· ^^^ 0x36) ++ msg))

/-- The blocks T(i), T(i + 1), … of HKDF-Expand. -/
def hkdfBlocks (prk info : List Byte) : Nat → Nat → List Byte → List Byte
  | 0, _, _ => []
  | n + 1, i, last =>
    let t := hmac prk (last ++ info ++ natLe 1 i)
    t ++ hkdfBlocks prk info n (i + 1) t

/-- HKDF-SHA-512 (RFC 5869): extract, then expand to `len` bytes. -/
def hkdf (ikm salt info : List Byte) (len : Nat) : List Byte :=
  (hkdfBlocks (hmac salt ikm) info ((len + 63) / 64) 1 []).take len

/-! ## AES-256 key wrap with padding (RFC 5649, R412) -/

/-- Multiplication by x in GF(2^8) of FIPS 197. -/
def xtime (a : Byte) : Byte := if a.getLsbD 7 then (a <<< 1) ^^^ 0x1B else a <<< 1

/-- The product of GF(2^8), over the lowest `n` bits of the second factor. -/
def gfMul : Nat → Byte → Byte → Byte
  | 0, _, _ => 0
  | n + 1, a, b => (if b.getLsbD 0 then a else 0) ^^^ gfMul n (xtime a) (b >>> 1)

/-- The product of GF(2^8). -/
def gf (a b : Byte) : Byte := gfMul 8 a b

/-- The inverse of GF(2^8), 0 of 0: the power 254. -/
def gfInv (a : Byte) : Byte :=
  let a2 := gf a a
  let a4 := gf a2 a2
  let a8 := gf a4 a4
  let a16 := gf a8 a8
  let a32 := gf a16 a16
  let a64 := gf a32 a32
  gf (gf (gf a2 a4) (gf a8 a16)) (gf (gf a32 a64) (gf a64 a64))

/-- SubBytes of one byte. -/
def sbox (a : Byte) : Byte :=
  let i := gfInv a
  i ^^^ i.rotateLeft 1 ^^^ i.rotateLeft 2 ^^^ i.rotateLeft 3 ^^^ i.rotateLeft 4 ^^^ 0x63

/-- InvSubBytes of one byte. -/
def invSbox (a : Byte) : Byte := gfInv (a.rotateLeft 1 ^^^ a.rotateLeft 3 ^^^ a.rotateLeft 6 ^^^ 0x05)

/-- The words of the key schedule of AES-256 from word `i` on, `n` more of them (newest first). -/
def keyWords : Nat → Nat → Byte → List (List Byte) → List (List Byte)
  | 0, _, _, w => w
  | n + 1, i, rc, w =>
    let t := w.getD 0 []
    let t := if i % 8 = 0 then xorBytes ((t.drop 1 ++ t.take 1).map sbox) [rc, 0, 0, 0] else if i % 8 = 4 then t.map sbox else t
    keyWords n (i + 1) (if i % 8 = 0 then xtime rc else rc) (xorBytes (w.getD 7 []) t :: w)

/-- The fifteen round keys of AES-256, the last first. -/
def roundKeys (key : List Byte) : List (List Byte) :=
  let w := keyWords 52 8 0x01 ((List.range 8).reverse.map (fun i => slice key (4 * i) 4))
  (List.range 15).map (fun r => ((List.range 4).reverse.flatMap (fun i => w.getD (4 * r + i) [])))

/-- InvShiftRows and InvSubBytes. -/
def invShiftSub (b : List Byte) : List Byte :=
  (List.range 16).map (fun k => invSbox (b.getD ((k + 16 - 4 * (k % 4)) % 16) 0))

/-- InvMixColumns. -/
def invMix (b : List Byte) : List Byte :=
  (List.range 16).map (fun k =>
    let a := fun i => b.getD (k / 4 * 4 + (k + i) % 4) 0
    gf (a 0) 0x0E ^^^ gf (a 1) 0x0B ^^^ gf (a 2) 0x0D ^^^ gf (a 3) 0x09)

/-- The inverse cipher of AES-256 on one block, with the round keys of `roundKeys`. -/
def aesDecrypt (keys : List (List Byte)) (b : List Byte) : List Byte :=
  let first := xorBytes b (keys.getD 0 [])
  let inner := ((keys.drop 1).take 13).foldl (fun b k => invMix (xorBytes (invShiftSub b) k)) first
  xorBytes (invShiftSub inner) (keys.getD 14 [])

/-- The 8-byte parts of a string. -/
def semiblocks (bs : List Byte) : List (List Byte) := (List.range (bs.length / 8)).map (fun i => slice bs (8 * i) 8)

/-- Pass `j` of the unwrapping of RFC 3394 over the register A and the semiblocks. -/
def unwrapPass (keys : List (List Byte)) (j : Nat) (ar : List Byte × List (List Byte)) : List Byte × List (List Byte) :=
  ((List.range ar.2.length).zip ar.2).foldr (fun x y =>
    let b := aesDecrypt keys (xorBytes y.1 (natBe 8 (ar.2.length * j + x.1 + 1)) ++ x.2)
    (b.take 8, b.drop 8 :: y.2)) (ar.1, [])

/-- AES key unwrap with padding (RFC 5649); none where its integrity check fails. -/
def keyUnwrap (key c : List Byte) : Option (List Byte) :=
  let keys := roundKeys key
  let ar :=
    if c.length = 16 then
      let b := aesDecrypt keys c
      (b.take 8, [b.drop 8])
    else [5, 4, 3, 2, 1, 0].foldl (fun ar j => unwrapPass keys j ar) (c.take 8, semiblocks (c.drop 8))
  let plain := ar.2.flatten
  let n := beNat (slice ar.1 4 4)
  if c.length % 8 = 0 ∧ 16 ≤ c.length ∧ ar.1.take 4 = [0xA6, 0x59, 0x59, 0xA6] ∧ n ≤ plain.length ∧ plain.length < n + 8 ∧
      plain.drop n = zeros (plain.length - n) then
    some (plain.take n)
  else none

end Sys2Proof.Machine
end

