-- ==== Sys2Proof/Machine/Num.lean ====
section
/-! DEFINITION. Exact numbers, the floating-point and logarithmic formats of chapter 02 and the rounding of
every conversion and arithmetic operation (R34 to R48, R61 to R66, R80 to R82). -/

namespace Sys2Proof.Machine

/-- An exact dyadic number `m * 2 ^ e`. -/
structure Dy where
  m : Int
  e : Int
  deriving DecidableEq, Repr

/-- The exact zero. -/
def dyZero : Dy := ⟨0, 0⟩

/-- The mantissa of `x` over the exponent `e`, for `e` at or below `x.e`. -/
def dyAt (x : Dy) (e : Int) : Int := x.m * (2 : Int) ^ (x.e - e).toNat

/-- Exact sum. -/
def dyAdd (x y : Dy) : Dy :=
  let e := min x.e y.e
  ⟨dyAt x e + dyAt y e, e⟩

/-- Exact negation. -/
def dyNeg (x : Dy) : Dy := ⟨-x.m, x.e⟩

/-- Exact difference. -/
def dySub (x y : Dy) : Dy := dyAdd x (dyNeg y)

/-- Exact product. -/
def dyMul (x y : Dy) : Dy := ⟨x.m * y.m, x.e + y.e⟩

/-- Exact magnitude. -/
def dyAbs (x : Dy) : Dy := ⟨x.m.natAbs, x.e⟩

/-- Whether the number is zero. -/
def dyIsZero (x : Dy) : Bool := x.m == 0

/-- Exact comparison. -/
def dyLt (x y : Dy) : Bool :=
  let e := min x.e y.e
  decide (dyAt x e < dyAt y e)

/-- Equality of the values (not of the representations). -/
def dyEq (x y : Dy) : Bool := (dySub x y).m == 0

/-- `⌊log2 |x|⌋` of a nonzero number. -/
def dyLog2 (x : Dy) : Int := (Nat.log2 x.m.natAbs : Int) + x.e

/-- The greatest of the magnitudes of a list, zero for none. -/
def dyMaxAbs (xs : List Dy) : Dy :=
  xs.foldl (fun a x => if dyLt a (dyAbs x) then dyAbs x else a) dyZero

/-- Exact sum of a list. -/
def dySum (xs : List Dy) : Dy := xs.foldl dyAdd dyZero

/-- The vector rounding field (R81). -/
inductive Rm where
  | nearest | zero | up | down
  deriving DecidableEq, Repr

/-- `⌊|x|⌋ , remainder` of `m / 2 ^ k` rounded to an integer by `rm`; `sticky` adds a positive amount below one unit
of `m`. The answer is the magnitude and whether anything was lost. -/
def roundMag (rm : Rm) (neg : Bool) (m : Nat) (k : Nat) (sticky : Bool) : Nat × Bool :=
  let q := m >>> k
  let r := m - (q <<< k)
  let lost := r != 0 || sticky
  let half := if k = 0 then 0 else 1 <<< (k - 1)
  let upN : Bool :=
    if k = 0 then false
    else if r > half then true
    else if r = half then (if sticky then true else q % 2 == 1)
    else false
  let up : Bool := match rm with
    | .nearest => upN
    | .zero => false
    | .up => lost && !neg
    | .down => lost && neg
  (if up then q + 1 else q, lost)

/-- `x` rounded to an integer, ties to even. -/
def roundEvenInt (x : Dy) : Int :=
  if 0 ≤ x.e then x.m * (2 : Int) ^ x.e.toNat
  else
    let q := ((roundMag .nearest false x.m.natAbs (-x.e).toNat false).1 : Int)
    if x.m < 0 then -q else q

/-- The flags and NV cause that an operation raises (R83, Table 3-11). -/
structure Flags where
  ov : Bool := false
  uf : Bool := false
  nx : Bool := false
  nv : Bool := false
  cause : Nat := 0
  deriving DecidableEq, Repr

/-- No flag. -/
def noFlags : Flags := {}

/-- The flags of two events together; the NV cause is that of the first that raised NV (R85). -/
def orFlags (a b : Flags) : Flags :=
  { ov := a.ov || b.ov, uf := a.uf || b.uf, nx := a.nx || b.nx, nv := a.nv || b.nv
    cause := if a.nv then a.cause else b.cause }

/-- NV with a cause of Table 3-11. -/
def nvFlags (c : Nat) : Flags := { nv := true, cause := c }

/-- The binary floating-point formats (Table 2-1). -/
inductive FloatFmt where
  | fp32 | fp64 | fp16 | bf16 | e4m3 | e5m2
  deriving DecidableEq, Repr

/-- Width in bits. -/
def floatWidth : FloatFmt → Nat
  | .fp32 => 32 | .fp64 => 64 | .fp16 => 16 | .bf16 => 16 | .e4m3 => 8 | .e5m2 => 8

/-- Fraction bits (Table 2-5 and IEEE 754). -/
def floatFrac : FloatFmt → Nat
  | .fp32 => 23 | .fp64 => 52 | .fp16 => 10 | .bf16 => 7 | .e4m3 => 3 | .e5m2 => 2

/-- Exponent bias. -/
def floatBias : FloatFmt → Nat
  | .fp32 => 127 | .fp64 => 1023 | .fp16 => 15 | .bf16 => 127 | .e4m3 => 7 | .e5m2 => 15

/-- Exponent field width. -/
def floatExp (f : FloatFmt) : Nat := floatWidth f - 1 - floatFrac f

/-- Whether the format has infinities (all but E4M3, Table 2-5). -/
def floatHasInf : FloatFmt → Bool
  | .e4m3 => false
  | _ => true

/-- The canonical NaN (Table 2-6). -/
def floatNan : FloatFmt → Nat
  | .fp32 => 0x7FC00000 | .fp64 => 0x7FF8000000000000 | .fp16 => 0x7E00 | .bf16 => 0x7FC0
  | .e4m3 => 0x7F | .e5m2 => 0x7E

/-- The largest finite code, sign 0 (Table 2-5). -/
def floatMaxCode (f : FloatFmt) : Nat :=
  match f with
  | .e4m3 => 0x7E
  | _ => ((2 ^ floatExp f - 1) <<< floatFrac f) - 1

/-- The code of `+∞` in a format that has one. -/
def floatInfCode (f : FloatFmt) : Nat := (2 ^ floatExp f - 1) <<< floatFrac f

/-- A decoded floating-point operand. -/
inductive FVal where
  | fin (neg : Bool) (m : Nat) (e : Int)
  | inf (neg : Bool)
  | nan (signalling : Bool)
  deriving DecidableEq, Repr

/-- Decode a code (R42, R43, Table 2-5). -/
def floatDecode (f : FloatFmt) (c : Nat) : FVal :=
  let fr := floatFrac f
  let frac := c % 2 ^ fr
  let ex := (c >>> fr) % 2 ^ floatExp f
  let neg := (c >>> (floatWidth f - 1)) % 2 == 1
  let fin : FVal :=
    if ex = 0 then .fin neg frac (1 - (floatBias f : Int) - fr)
    else .fin neg (2 ^ fr + frac) ((ex : Int) - floatBias f - fr)
  match f with
  | .e4m3 => if ex = 15 ∧ frac = 7 then .nan false else fin
  | _ =>
    if ex = 2 ^ floatExp f - 1 then
      if frac = 0 then .inf neg else .nan (frac >>> (fr - 1) == 0)
    else fin

/-- The signed code. -/
def withSign (f : FloatFmt) (neg : Bool) (c : Nat) : Nat :=
  if neg then c + 2 ^ (floatWidth f - 1) else c

/-- The overflow result (R62, R63) and its flags. -/
def overflowCode (f : FloatFmt) (ieee : Bool) (neg : Bool) : Nat × Flags :=
  (withSign f neg (if ieee && floatHasInf f then floatInfCode f else floatMaxCode f),
   { ov := true, nx := true })

/-- Round the magnitude `(m + sticky) * 2 ^ e` into a format: rounding mode, the job's mode (`ieee`), tininess after
rounding (R45), overflow (R62, R63). -/
def floatRound (f : FloatFmt) (rm : Rm) (ieee : Bool) (neg : Bool) (m : Nat) (e : Int) (sticky : Bool) :
    Nat × Flags :=
  if m = 0 then
    -- only an exact zero comes here with nothing below it
    (withSign f neg 0, if sticky then { uf := true, nx := true } else noFlags)
  else
    let fr := floatFrac f
    let emin : Int := 1 - (floatBias f : Int)
    let l : Int := (Nat.log2 m : Int) + e
    let q : Int := max l emin - fr
    let shift : Int := q - e
    let r := if 0 ≤ shift then roundMag rm neg m shift.toNat sticky
             else
               let up : Bool := match rm with
                 | .nearest => false | .zero => false | .up => sticky && !neg | .down => sticky && neg
               ((m <<< (-shift).toNat) + (if up then 1 else 0), sticky)
    -- tininess: the value rounded to full precision with no lower exponent bound
    let qt : Int := l - fr
    let st : Int := qt - e
    let rt := if 0 ≤ st then (roundMag rm neg m st.toNat sticky).1 else m <<< (-st).toNat
    let tiny : Bool := decide (l < emin) && !(decide ((Nat.log2 rt : Int) + qt ≥ emin))
    -- code: exponent field and fraction from the rounded magnitude over the quantum `q`
    let exf : Int := q - (emin - fr)
    let code : Int := exf * 2 ^ fr + r.1
    let lost := r.2
    if code > (floatMaxCode f : Int) then overflowCode f ieee neg
    else (withSign f neg code.toNat, { uf := tiny && lost, nx := lost })

/-- Round an exact dyadic number into a format, ties to even. -/
def dyToFloat (f : FloatFmt) (ieee : Bool) (x : Dy) : Nat × Flags :=
  floatRound f .nearest ieee (decide (x.m < 0)) x.m.natAbs x.e false

/-- The exact value of a finite operand. -/
def finDy (neg : Bool) (m : Nat) (e : Int) : Dy := ⟨if neg then -(m : Int) else m, e⟩

/-- The exact value of a finite code, and none for an infinity or a NaN. -/
def floatDy (f : FloatFmt) (c : Nat) : Option Dy :=
  match floatDecode f c with
  | .fin n m e => some (finDy n m e)
  | _ => none

/-! ## Logarithmic formats (R39 to R41) -/

/-- The two logarithmic formats. -/
inductive LogFmt where
  | l8 | l16
  deriving DecidableEq, Repr

/-- Codes per binade: 8 or 256. -/
def logSteps : LogFmt → Nat | .l8 => 8 | .l16 => 256
/-- The magnitude code of 1.0. -/
def logOne : LogFmt → Nat | .l8 => 64 | .l16 => 16384
/-- The largest magnitude code. -/
def logMax : LogFmt → Nat | .l8 => 127 | .l16 => 32767
/-- Width in bits. -/
def logWidth : LogFmt → Nat | .l8 => 8 | .l16 => 16

/-- A decoded logarithmic operand (R41). -/
inductive LVal where
  | zero
  | nar
  | log (neg : Bool) (m : Nat)
  deriving DecidableEq, Repr

/-- Decode an L code. -/
def logDecode (f : LogFmt) (c : Nat) : LVal :=
  let s := 2 ^ (logWidth f - 1)
  let m := c % s
  let neg := (c / s) % 2 == 1
  if m = 0 then (if neg then .nar else .zero) else .log neg m

/-- The NaR code. -/
def logNar (f : LogFmt) : Nat := 2 ^ (logWidth f - 1)

/-- The code of a sign and a magnitude code. -/
def logCode (f : LogFmt) (neg : Bool) (m : Nat) : Nat := if neg then m + 2 ^ (logWidth f - 1) else m

/-- Integer `n`-th root of `x`, found bit by bit below `2 ^ bits`. -/
def iroot (n x : Nat) : Nat → Nat → Nat
  | 0, acc => acc
  | b + 1, acc =>
    let t := acc + 2 ^ b
    iroot n x b (if t ^ n ≤ x then t else acc)

/-- `round (2 ^ (j / steps) * 2 ^ 29)`: the product table T of R70. -/
def tableT (f : LogFmt) (j : Nat) : Nat :=
  (iroot (logSteps f) (2 ^ (j + logSteps f * 30)) 31 0 + 1) / 2

/-- The value of a log code sum `k` (steps of `1 / steps` binade) in the table's 30 bits (R69, R70). -/
def logLinear (f : LogFmt) (neg : Bool) (k : Int) : Dy :=
  let s : Int := logSteps f
  let e := k.fdiv s
  let j := (k - s * e).toNat
  ⟨(if neg then -1 else 1) * (tableT f j : Int), e - 29⟩

/-- The value of an L operand as W96 takes it (Table 2-8): 30 bits, then exact. `none` is the invalid value. -/
def logToWide (f : LogFmt) (c : Nat) : Option Dy :=
  match logDecode f c with
  | .zero => some dyZero
  | .nar => none
  | .log n m => some (logLinear f n ((m : Int) - logOne f))

/-- Correctly rounded conversion out of an L format (R66). -/
def logToFloat (f : LogFmt) (g : FloatFmt) (ieee : Bool) (c : Nat) : Nat × Flags :=
  match logDecode f c with
  | .zero => (0, noFlags)
  | .nar => (floatNan g, noFlags)
  | .log n m =>
    let s : Int := logSteps f
    let k : Int := (m : Int) - logOne f
    let e := k.fdiv s
    let j := (k - s * e).toNat
    if j = 0 then floatRound g .nearest ieee n 1 e false
    else floatRound g .nearest ieee n (iroot (logSteps f) (2 ^ (j + logSteps f * 64)) 65 0) (e - 64) true

/-- Nearest magnitude code in the log domain of a positive dyadic (R66): the greatest `k` with
`x ^ (2 * steps) ≥ 2 ^ (2 k - 1)`. -/
def nearestLog (f : LogFmt) (x : Dy) : Int :=
  let n := 2 * logSteps f
  let l : Int := (Nat.log2 (x.m.natAbs ^ n) : Int) + n * x.e
  (l + 1).fdiv 2

/-- Whether the value of magnitude code offset `k` is exactly `|x|`. -/
def logExact (f : LogFmt) (x : Dy) (k : Int) : Bool :=
  let s : Int := logSteps f
  k.fmod s == 0 && dyEq (dyAbs x) ⟨1, k.fdiv s⟩

/-- Conversion of an exact value into an L format (Table 2-8). -/
def dyToLog (f : LogFmt) (x : Dy) : Nat × Flags :=
  if x.m = 0 then (0, noFlags)
  else
    let k := nearestLog f x
    let m := k + logOne f
    let neg := decide (x.m < 0)
    if m > logMax f then (logCode f neg (logMax f), { ov := true, nx := true })
    else if m ≤ 0 then (0, { uf := true, nx := true })
    else (logCode f neg m.toNat, { nx := !logExact f x k })

/-- Conversion of a floating-point code into an L format (Table 2-8). -/
def floatToLog (f : FloatFmt) (g : LogFmt) (c : Nat) : Nat × Flags :=
  match floatDecode f c with
  | .fin n m e => dyToLog g (finDy n m e)
  | .inf _ => (logNar g, nvFlags 8)
  | .nan s => (logNar g, if s then nvFlags 6 else noFlags)

/-- Between the L formats (Table 2-8, R64). -/
def logToLog (f g : LogFmt) (c : Nat) : Nat × Flags :=
  match f, g with
  | .l8, .l8 => (c, noFlags)
  | .l16, .l16 => (c, noFlags)
  | .l8, .l16 =>
    match logDecode .l8 c with
    | .zero => (0, noFlags)
    | .nar => (logNar .l16, noFlags)
    | .log n m => (logCode .l16 n (16384 + 32 * m - 32 * 64), noFlags)
  | .l16, .l8 =>
    match logDecode .l16 c with
    | .zero => (0, noFlags)
    | .nar => (logNar .l8, noFlags)
    | .log n m =>
      -- 64 + (m - 16384) / 32, ties to the even code
      let r := roundEvenInt ⟨(m : Int) - 16384 + 64 * 32, -5⟩
      let lost := m % 32 != 0
      if r > 127 then (logCode .l8 n 127, { ov := true, nx := true })
      else if r ≤ 0 then (0, { uf := true, nx := true })
      else (logCode .l8 n r.toNat, { nx := lost })

/-- Between the floating-point formats (Table 2-8, R47). -/
def floatToFloat (f g : FloatFmt) (ieee : Bool) (c : Nat) : Nat × Flags :=
  match floatDecode f c with
  | .fin n m e => floatRound g .nearest ieee n m e false
  | .inf n => if floatHasInf g then (withSign g n (floatInfCode g), noFlags) else (floatNan g, nvFlags 8)
  | .nan s => (floatNan g, if s then nvFlags 6 else noFlags)

/-- A floating-point operand as W96 takes it (Table 2-8): the exact value, or invalid with its flags. -/
def floatToWide (f : FloatFmt) (c : Nat) : Option Dy × Flags :=
  match floatDecode f c with
  | .fin n m e => (some (finDy n m e), noFlags)
  | .inf _ => (none, nvFlags 8)
  | .nan s => (none, if s then nvFlags 6 else noFlags)

/-- A wide lane into a floating-point format (Table 2-8, last row). -/
def wideToFloat (g : FloatFmt) (ieee : Bool) : Option Dy → Nat × Flags
  | none => (floatNan g, noFlags)
  | some x => if x.m = 0 then (0, noFlags) else dyToFloat g ieee x

/-! ## Arithmetic of the vector unit and the Causeway (R80 to R82, Table 3-5) -/

/-- The settings of an arithmetic operation: rounding, the job's mode, flush to zero (FP32 only, R46). -/
structure FEnv where
  rm : Rm := .nearest
  ieee : Bool := false
  ftz : Bool := false
  deriving DecidableEq, Repr

/-- An operand as an operation reads it: with FTZ a subnormal FP32 reads as zero of its sign (R46). -/
def readOp (f : FloatFmt) (v : FEnv) (c : Nat) : FVal :=
  match floatDecode f c with
  | .fin n m e => if v.ftz && f == .fp32 && decide (m < 2 ^ floatFrac f) then .fin n 0 e else .fin n m e
  | x => x

/-- A result as an operation writes it: with FTZ a subnormal FP32 becomes zero of its sign, UF and NX (R46). -/
def writeRes (f : FloatFmt) (v : FEnv) (r : Nat × Flags) : Nat × Flags :=
  let mag := r.1 % 2 ^ (floatWidth f - 1)
  if v.ftz && f == .fp32 && mag != 0 && decide (mag < 2 ^ floatFrac f) then
    (r.1 - mag, orFlags r.2 { uf := true, nx := true })
  else r

/-- Round an exact result; an exact zero takes the sign IEEE 754 gives a sum (`down` gives minus). -/
def finishSum (f : FloatFmt) (v : FEnv) (zneg : Bool) (x : Dy) : Nat × Flags :=
  if x.m = 0 then (withSign f zneg 0, noFlags)
  else writeRes f v (floatRound f v.rm v.ieee (decide (x.m < 0)) x.m.natAbs x.e false)

/-- The canonical NaN for NaN operands: NV for a signalling one (Table 3-5). -/
def nanResult (f : FloatFmt) (sig : Bool) : Nat × Flags :=
  (floatNan f, if sig then nvFlags 6 else noFlags)

/-- Whether an operand is a signalling NaN. -/
def isSig : FVal → Bool
  | .nan true => true
  | _ => false

/-- Whether an operand is a NaN. -/
def isNan : FVal → Bool
  | .nan _ => true
  | _ => false

/-- The sign of the zero of an exact cancellation. -/
def zeroSign (v : FEnv) : Bool := v.rm == .down

/-- Sum of two decoded operands. -/
def addVals (f : FloatFmt) (v : FEnv) (a b : FVal) : Nat × Flags :=
  match a, b with
  | .nan s, y => nanResult f (s || isSig y)
  | x, .nan s => nanResult f (s || isSig x)
  | .inf n, .inf k => if n == k then (withSign f n (floatInfCode f), noFlags) else (floatNan f, nvFlags 2)
  | .inf n, _ => (withSign f n (floatInfCode f), noFlags)
  | _, .inf n => (withSign f n (floatInfCode f), noFlags)
  | .fin n m e, .fin k p q =>
    let z := if m = 0 ∧ p = 0 then (if n == k then n else zeroSign v) else zeroSign v
    finishSum f v z (dyAdd (finDy n m e) (finDy k p q))

/-- IEEE addition. -/
def fAdd (f : FloatFmt) (v : FEnv) (a b : Nat) : Nat × Flags := addVals f v (readOp f v a) (readOp f v b)

/-- The negated operand. -/
def negVal : FVal → FVal
  | .fin n m e => .fin (!n) m e
  | .inf n => .inf (!n)
  | x => x

/-- IEEE subtraction. -/
def fSub (f : FloatFmt) (v : FEnv) (a b : Nat) : Nat × Flags :=
  addVals f v (readOp f v a) (negVal (readOp f v b))

/-- IEEE multiplication. -/
def fMul (f : FloatFmt) (v : FEnv) (a b : Nat) : Nat × Flags :=
  match readOp f v a, readOp f v b with
  | .nan s, y => nanResult f (s || isSig y)
  | x, .nan s => nanResult f (s || isSig x)
  | .inf n, .inf k => (withSign f (n != k) (floatInfCode f), noFlags)
  | .inf n, .fin k m _ => if m = 0 then (floatNan f, nvFlags 1) else (withSign f (n != k) (floatInfCode f), noFlags)
  | .fin n m _, .inf k => if m = 0 then (floatNan f, nvFlags 1) else (withSign f (n != k) (floatInfCode f), noFlags)
  | .fin n m e, .fin k p q => finishSum f v (n != k) (dyMul (finDy n m e) (finDy k p q))

/-- IEEE division: 0/0 and ∞/∞ are invalid, a finite nonzero over zero raises NV too (R44). -/
def fDiv (f : FloatFmt) (v : FEnv) (a b : Nat) : Nat × Flags :=
  match readOp f v a, readOp f v b with
  | .nan s, y => nanResult f (s || isSig y)
  | x, .nan s => nanResult f (s || isSig x)
  | .inf _, .inf _ => (floatNan f, nvFlags 3)
  | .inf n, .fin k _ _ => (withSign f (n != k) (floatInfCode f), noFlags)
  | .fin n _ _, .inf k => (withSign f (n != k) 0, noFlags)
  | .fin n m e, .fin k p q =>
    if p = 0 then
      if m = 0 then (floatNan f, nvFlags 3) else (withSign f (n != k) (floatInfCode f), nvFlags 4)
    else if m = 0 then (withSign f (n != k) 0, noFlags)
    else
      let sh := 130
      let num := m <<< sh
      writeRes f v (floatRound f v.rm v.ieee (n != k) (num / p) (e - q - sh) (num % p != 0))

/-- Integer square root, bit by bit. -/
def isqrt (x : Nat) : Nat := iroot 2 x (Nat.log2 x / 2 + 1) 0

/-- IEEE square root. -/
def fSqrt (f : FloatFmt) (v : FEnv) (a : Nat) : Nat × Flags :=
  match readOp f v a with
  | .nan s => nanResult f s
  | .inf n => if n then (floatNan f, nvFlags 5) else (floatInfCode f, noFlags)
  | .fin n m e =>
    if m = 0 then (withSign f n 0, noFlags)
    else if n then (floatNan f, nvFlags 5)
    else
      -- an even exponent, with 140 further bits
      let odd := e.fmod 2 == 1
      let m' := (if odd then 2 * m else m) <<< 140
      let e' := (if odd then e - 1 else e).fdiv 2 - 70
      let r := isqrt m'
      writeRes f v (floatRound f v.rm v.ieee false r e' (r * r != m'))

/-- IEEE fused multiply-add, one rounding. -/
def fFma (f : FloatFmt) (v : FEnv) (a b c : Nat) : Nat × Flags :=
  let x := readOp f v a
  let y := readOp f v b
  let z := readOp f v c
  let zeroInf : Bool := match x, y with
    | .inf _, .fin _ m _ => m == 0
    | .fin _ m _, .inf _ => m == 0
    | _, _ => false
  if isSig x || isSig y || isSig z then (floatNan f, nvFlags 6)
  else if zeroInf then (floatNan f, nvFlags 1)
  else match x, y, z with
    | .nan _, _, _ => (floatNan f, noFlags)
    | _, .nan _, _ => (floatNan f, noFlags)
    | _, _, .nan _ => (floatNan f, noFlags)
    | .fin n m e, .fin k p q, w =>
      match w with
      | .inf s => (withSign f s (floatInfCode f), noFlags)
      | .fin s t u =>
        let pr := dyMul (finDy n m e) (finDy k p q)
        let zs := if pr.m = 0 ∧ t = 0 then (if (n != k) == s then s else zeroSign v) else zeroSign v
        finishSum f v zs (dyAdd pr (finDy s t u))
      | .nan _ => (floatNan f, noFlags)
    | x', y', w =>
      -- an infinite product
      let sg : FVal → Bool := fun a => match a with
        | .fin n _ _ => n | .inf n => n | .nan _ => false
      let ps := sg x' != sg y'
      match w with
      | .inf s => if s == ps then (withSign f ps (floatInfCode f), noFlags) else (floatNan f, nvFlags 2)
      | _ => (withSign f ps (floatInfCode f), noFlags)

/-- Order of two non-NaN values with −0 below +0 (R80). -/
def valLt (a b : FVal) : Bool :=
  match a, b with
  | .inf n, .inf k => n && !k
  | .inf n, _ => n
  | _, .inf k => !k
  | .fin n m e, .fin k p q =>
    if m = 0 ∧ p = 0 then n && !k else dyLt (finDy n m e) (finDy k p q)
  | _, _ => false

/-- IEEE minimum (`mx = false`) and maximum: a NaN operand gives the canonical NaN (R80). -/
def fMinMax (mx : Bool) (f : FloatFmt) (v : FEnv) (a b : Nat) : Nat × Flags :=
  let x := readOp f v a
  let y := readOp f v b
  if isNan x || isNan y then nanResult f (isSig x || isSig y)
  else
    let clean := fun (c : Nat) (z : FVal) => match z with
      | .fin n m _ => if m = 0 then withSign f n 0 else c
      | _ => c
    if mx then (if valLt x y then clean b y else clean a x, noFlags)
    else (if valLt y x then clean b y else clean a x, noFlags)

/-- The three quiet compares of R313. -/
inductive FCmp where
  | eq | lt | le
  deriving DecidableEq, Repr

/-- A quiet compare: false for an unordered pair, NV for a signalling NaN only. -/
def fCompare (k : FCmp) (f : FloatFmt) (v : FEnv) (a b : Nat) : Bool × Flags :=
  let x := readOp f v a
  let y := readOp f v b
  if isNan x || isNan y then (false, if isSig x || isSig y then nvFlags 6 else noFlags)
  else
    let zero : FVal → Bool := fun z => match z with
      | .fin _ m _ => m == 0
      | _ => false
    let lt := valLt x y && !(zero x && zero y)
    let gt := valLt y x && !(zero x && zero y)
    (match k with
      | .eq => !lt && !gt
      | .lt => lt
      | .le => !gt, noFlags)

/-- vfabs and vfneg (R313): a sign operation, which flushes nothing; a NaN gives the canonical NaN and raises nothing. -/
def fSign (neg : Bool) (f : FloatFmt) (v : FEnv) (a : Nat) : Nat × Flags :=
  match readOp f { v with ftz := false } a with
  | .nan _ => (floatNan f, noFlags)
  | .inf n => (withSign f (neg && !n) (floatInfCode f), noFlags)
  | .fin n m _ =>
    let mag := if m = 0 then 0 else a % 2 ^ (floatWidth f - 1)
    (withSign f (neg && !n) mag, noFlags)

/-! ## Integers (R316) -/

/-- The signed value of the low `w` bits. -/
def toSigned (w : Nat) (c : Nat) : Int :=
  let v := c % 2 ^ w
  if v < 2 ^ (w - 1) then v else (v : Int) - 2 ^ w

/-- The `w`-bit code of an integer. -/
def ofSigned (w : Nat) (x : Int) : Nat := (x.emod ((2 : Int) ^ w)).toNat

/-- Floating point to a `w`-bit integer: nearest, ties to even; out of range or NaN raises NV, cause 9. -/
def floatToInt (f : FloatFmt) (w : Nat) (c : Nat) : Nat × Flags :=
  let hi : Int := 2 ^ (w - 1) - 1
  let lo : Int := -(2 ^ (w - 1))
  match floatDecode f c with
  | .nan _ => (0, nvFlags 9)
  | .inf n => (ofSigned w (if n then lo else hi), nvFlags 9)
  | .fin n m e =>
    let x := finDy n m e
    let r := roundEvenInt x
    if r > hi then (ofSigned w hi, nvFlags 9)
    else if r < lo then (ofSigned w lo, nvFlags 9)
    else (ofSigned w r, { nx := !dyEq x ⟨r, 0⟩ })

/-- Integer to floating point: nearest, ties to even, overflow under R62. -/
def intToFloat (w : Nat) (g : FloatFmt) (ieee : Bool) (c : Nat) : Nat × Flags :=
  let x := toSigned w c
  if x = 0 then (0, noFlags) else dyToFloat g ieee ⟨x, 0⟩

/-- Integer to integer: sign extension, or the nearest bound (R316). -/
def intToInt (w u : Nat) (c : Nat) : Nat × Flags :=
  let x := toSigned w c
  let hi : Int := 2 ^ (u - 1) - 1
  let lo : Int := -(2 ^ (u - 1))
  (ofSigned u (max lo (min hi x)), noFlags)

/-! ## The format codes of Table 11-13 -/

/-- A lane format. -/
inductive LaneFmt where
  | flt (f : FloatFmt)
  | lg (f : LogFmt)
  | int (w : Nat)
  deriving DecidableEq, Repr

/-- The format a code of Table 11-13 names; 0xC to 0xF name none. -/
def laneFmt : Nat → Option LaneFmt
  | 0 => some (.flt .fp32) | 1 => some (.flt .fp64) | 2 => some (.flt .fp16) | 3 => some (.flt .bf16)
  | 4 => some (.flt .e4m3) | 5 => some (.flt .e5m2) | 6 => some (.lg .l8) | 7 => some (.lg .l16)
  | 8 => some (.int 8) | 9 => some (.int 16) | 10 => some (.int 32) | 11 => some (.int 64)
  | _ => none

/-- Lane width in bits. -/
def laneWidth : LaneFmt → Nat
  | .flt f => floatWidth f
  | .lg f => logWidth f
  | .int w => w

/-- Whether R316 gives the pair a conversion (no L format with an integer). -/
def lanePairOk : LaneFmt → LaneFmt → Bool
  | .lg _, .int _ => false
  | .int _, .lg _ => false
  | _, _ => true

/-- One lane's conversion (Table 2-8 and R316). -/
def laneConvert (src dst : LaneFmt) (ieee : Bool) (c : Nat) : Nat × Flags :=
  match src, dst with
  | .flt f, .flt g => floatToFloat f g ieee c
  | .flt f, .lg g => floatToLog f g c
  | .flt f, .int w => floatToInt f w c
  | .lg f, .flt g => logToFloat f g ieee c
  | .lg f, .lg g => logToLog f g c
  | .int w, .flt g => intToFloat w g ieee c
  | .int w, .int u => intToInt w u c
  | .lg _, .int _ => (0, noFlags)
  | .int _, .lg _ => (0, noFlags)

/-- A lane as W96 takes it, with the flags of its conversion. -/
def laneToWide (src : LaneFmt) (c : Nat) : Option Dy × Flags :=
  match src with
  | .flt f => floatToWide f c
  | .lg f => (logToWide f c, noFlags)
  | .int w => (some ⟨toSigned w c, 0⟩, noFlags)

/-- The exact square of an L lane under R69 and R70 (R318 vsqacc). -/
def logSquare (f : LogFmt) (c : Nat) : Option Dy :=
  match logDecode f c with
  | .zero => some dyZero
  | .nar => none
  | .log _ m => some (logLinear f false (2 * ((m : Int) - logOne f)))

end Sys2Proof.Machine
end

