-- ==== Sys2Proof/Machine/Blocks.lean ====
section
/-! DEFINITION. The block formats G8, W32, W96 and S1 (R49 to R60), the combine rule (R74, R75), the tile's group
sum (R69 to R72), the S1 hop (R116) and the checksum arithmetic (R119, R121). -/

namespace Sys2Proof.Machine

/-! ## Wide lanes and the combine rule -/

/-- The values a set of lanes takes in: `none` is an invalid value. -/
abbrev Wide := Option Dy

/-- Lanes that share one exponent: codes and exponent. `none` is the invalid lane (R56, R73). -/
structure Lanes where
  q : List (Option Int)
  e : Int
  deriving DecidableEq, Repr

/-- Floors of Table 3-3. -/
def floorW96 : Int := -160
/-- Floor of a tile cleared for a format. -/
def floorTile : LogFmt → Int | .l8 => -45 | .l16 => -157

/-- A cleared set of `n` lanes. -/
def clearLanes (n : Nat) (floor : Int) : Lanes := ⟨List.replicate n (some 0), floor⟩

/-- The exact value of a lane. -/
def laneValue (e : Int) : Option Int → Wide
  | none => none
  | some q => some ⟨q, e⟩

/-- The exact values of a set of lanes. -/
def lanesValues (l : Lanes) : List Wide := l.q.map (laneValue l.e)

/-- What a combine answers: the lanes, what each lane dropped, and the flags of R75. -/
structure Combined where
  lanes : Lanes
  dropped : List Dy
  flags : Flags
  deriving DecidableEq, Repr

/-- Lane-wise exact sum; an invalid side makes the lane invalid. -/
def wideSum : List Wide → List Wide → List Wide
  | some a :: as, some b :: bs => some (dyAdd a b) :: wideSum as bs
  | _ :: as, _ :: bs => none :: wideSum as bs
  | as, [] => as
  | [], _ :: _ => []

/-- The greatest `⌊log2⌋` among the nonzero valid values. -/
def wideTop (ys : List Wide) : Option Int :=
  ys.foldl (fun a y => match y with
    | some d => if d.m = 0 then a else
        match a with
        | none => some (dyLog2 d)
        | some h => some (max h (dyLog2 d))
    | none => a) none

/-- One lane of the combine: its new code, what it dropped, whether it saturated. -/
def combineLane (w : Nat) (e : Int) (sat : Bool) : Wide → Option Int × Dy × Bool
  | none => (none, dyZero, false)
  | some y =>
    let q := roundEvenInt ⟨y.m, y.e - e⟩
    let lim : Int := 2 ^ (w - 1) - 1
    let tooBig := sat && decide (lim < (q.natAbs : Int))
    let q := if tooBig then (if y.m < 0 then -lim else lim) else q
    (some q, dySub y ⟨q, e⟩, tooBig)

/-- The combine of R74 for lanes of width `w`; the flags are those of R75. -/
def combine (w : Nat) (l : Lanes) (xs : List Wide) : Combined :=
  let ys := wideSum (lanesValues l) xs
  let e1 := match wideTop ys with
    | none => l.e
    | some h => max l.e (h - ((w : Int) - 3))
  let sat := decide (e1 > 32767)
  let e2 := if sat then 32767 else e1
  let rs := ys.map (combineLane w e2 sat)
  let flush := rs.any (fun r => !r.2.2 && r.2.1.m != 0)
  let tooBig := rs.any (fun r => r.2.2)
  ⟨⟨rs.map (fun r => r.1), e2⟩, rs.map (fun r => r.2.1),
   { ov := tooBig, uf := flush, nx := flush || tooBig }⟩

/-! ## Tile products (R69 to R72) -/

/-- One operand pair: no term, invalid, or sign, exponent and table entry. -/
inductive Term where
  | none
  | invalid
  | term (neg : Bool) (e : Int) (t : Nat)
  deriving DecidableEq, Repr

/-- The product of two L codes (R69 to R71). -/
def logProduct (f : LogFmt) (a b : Nat) : Term :=
  match logDecode f a, logDecode f b with
  | .nar, _ => .invalid
  | _, .nar => .invalid
  | .zero, _ => .none
  | _, .zero => .none
  | .log n m, .log k p =>
    let c : Int := (m : Int) + p - 2 * logOne f
    let s : Int := logSteps f
    let e := c.fdiv s
    .term (n != k) e (tableT f (c - s * e).toNat)

/-- The exact group sum of one output element and one k-slice (R72). -/
def groupSum (f : LogFmt) (ps : List (Nat × Nat)) : Wide :=
  let ts := ps.map (fun p => logProduct f p.1 p.2)
  if ts.any (fun t => t == .invalid) then none
  else some (ts.foldl (fun a t => match t with
    | .term n e v => dyAdd a ⟨if n then -(v : Int) else v, e - 29⟩
    | _ => a) dyZero)

/-! ## G8 -/

/-- The values of a G8 block: codes (bytes) and the E8M0 scale (R49, R50). -/
def g8Values (codes : List Byte) (scale : Byte) : List Wide :=
  codes.map (fun c =>
    if scale = 0xFF ∨ c = 0x80 then none else some ⟨c.toInt, (scale.toNat : Int) - 127⟩)

/-- What quantising a BF16 block answers (R51 to R53): codes, scale, new residues (FP32 codes), what the conversion
and the old residue add to K (values `y - q` and the old residue, by element), flags and NV elements. -/
structure Quantised where
  codes : List Byte
  scale : Byte
  residues : List (BitVec 32)
  lost : List Dy
  flags : Flags
  nvAt : List Nat
  deriving DecidableEq, Repr

/-- The incoming value of an element: `none` when it is invalid or infinite, and whether NV is raised with its cause.
A quiet or signalling NaN raises NV where it enters (R48); an infinity raises it with cause 8 (R53). -/
def ingressValue (c : BitVec 16) (res : BitVec 32) : Wide × Flags :=
  match floatDecode .bf16 c.toNat with
  | .fin n m e => (some (dyAdd (finDy n m e) ((floatDy .fp32 res.toNat).getD dyZero)), noFlags)
  | .inf _ => (none, nvFlags 8)
  | .nan _ => (none, nvFlags 7)

/-- Quantise one BF16 block with its stored residues (R51). -/
def quantiseG8 (xs : List (BitVec 16)) (rs : List (BitVec 32)) : Quantised :=
  let ins := List.zipWith ingressValue xs rs
  let ys := ins.map (fun p => p.1)
  let a := dyMaxAbs (ys.filterMap id)
  let zero := a.m == 0
  let s0 : Int := dyLog2 a + 121
  let s : Int := if zero then 0 else max 0 (min 254 s0)
  let hiLim := !zero && decide (s0 > 254)
  let loLim := !zero && decide (s0 < 0)
  let qs : List (Option Int) := ys.map (fun y => y.map (fun d =>
    if zero then 0 else roundEvenInt ⟨d.m, d.e + 127 - s⟩))
  let lim : Int → Int := fun q => max (-127) (min 127 q)
  let parts := List.zipWith (fun y q => match y, q with
    | some d, some v =>
      let left := dySub d ⟨lim v, s - 127⟩
      (left, (dyToFloat .fp32 false left).1)
    | _, _ => (dyZero, 0)) ys qs
  let res : List (BitVec 32) := parts.map (fun p => BitVec.ofNat 32 (if p.1.m = 0 then 0 else p.2))
  { codes := qs.map (fun q => match q with
      | none => 0x80
      | some v => BitVec.ofInt 8 (lim v))
    scale := BitVec.ofInt 8 s
    residues := res
    lost := parts.map (fun p => p.1)
    flags := orFlags
      { ov := hiLim && qs.any (fun q => match q with | some v => decide (v.natAbs > 127) | none => false)
        uf := loLim && (List.zipWith (fun (y : Wide) (q : Option Int) => match y, q with
          | some d, some v => d.m != 0 && v == 0
          | _, _ => false) ys qs).any id
        nx := res.any (fun r => r != 0) }
      (ins.foldl (fun f p => orFlags f p.2) noFlags)
    nvAt := (ins.zipIdx).filterMap (fun p => if p.1.2.nv then some p.2 else none) }

/-! ## W32 -/

/-- A W32 block: 16 codes and the shared exponent (R54). -/
structure W32 where
  q : List (BitVec 32)
  e : BitVec 16
  deriving DecidableEq, Repr

/-- The zero block. -/
def w32Zero : W32 := ⟨List.replicate 16 0, 0⟩

/-- The values of a W32 block; 0x8000_0000 is invalid. -/
def w32Values (b : W32) : List Wide :=
  b.q.map (fun c => if c = 0x80000000 then none else some ⟨c.toInt, b.e.toInt⟩)

/-- A W32 block formed from wide values, what each element dropped, and the flags: NX for a dropped bit (Table 2-8), OV and
NX where the exponent cannot grow further and a code takes its largest value (R62, R63). -/
structure W32Made where
  block : W32
  lost : List Dy
  flags : Flags

/-- A W32 block of 16 wide values (R55). -/
def toW32 (xs : List Wide) : W32Made :=
  let a := dyMaxAbs (xs.filterMap id)
  let e0 : Int := if a.m = 0 then 0 else min 32767 (max (-32768) (dyLog2 a - 30))
  let rnd : Int → List (Option Int) := fun e => xs.map (fun x => x.map (fun d => roundEvenInt ⟨d.m, d.e - e⟩))
  let tooBig : Int → Bool := fun e => (rnd e).any (fun q => match q with | some v => decide (2 ^ 31 ≤ v.natAbs) | none => false)
  let e := if tooBig e0 ∧ e0 < 32767 then e0 + 1 else e0
  let lim : Int → Int := fun q => max (-(2 ^ 31 - 1)) (min (2 ^ 31 - 1) q)
  let qs := (rnd e).map (fun q => q.map lim)
  let lost := List.zipWith (fun x q => match x, q with
     | some d, some v => dySub d ⟨v, e⟩
     | _, _ => dyZero) xs qs
  ⟨⟨qs.map (fun q => match q with
      | none => 0x80000000
      | some v => BitVec.ofInt 32 v), BitVec.ofInt 16 e⟩, lost,
   { ov := tooBig e, nx := lost.any (fun d => d.m != 0) }⟩

/-! ## S1 -/

/-- Whether a scale is the invalid scale (R60). -/
def s1Invalid (c : BitVec 16) : Bool :=
  match floatDecode .bf16 c.toNat with
  | .fin n _ _ => n
  | _ => true

/-- The values of an S1 cell: 64 payload bytes, LSB first (R36, R59). -/
def s1Values (payload : List Byte) (scale : BitVec 16) : List Wide :=
  let v := (floatDy .bf16 scale.toNat).getD dyZero
  (payload.flatMap (fun b => (List.range 8).map (fun i => b.getLsbD i))).map (fun bit =>
    if s1Invalid scale then none else if v.m = 0 then some dyZero else some (if bit then dyNeg v else v))

/-- What sending one S1 cell answers: the scale, the sign bits, the new error memory, `d` for K, the flags. -/
structure S1Cell where
  scale : BitVec 16
  bits : List Bool
  err : List (BitVec 32)
  lost : List Dy
  flags : Flags
  deriving DecidableEq, Repr

/-- An FP32 rounding in the SAT result (R117). -/
def fp32Sat (x : Dy) : BitVec 32 × Flags :=
  if x.m = 0 then (0, noFlags)
  else
    let r := dyToFloat .fp32 false x
    (BitVec.ofNat 32 r.1, r.2)

/-- The exact value of a finite FP32 code (zero where it is none). -/
def fp32Dy (c : BitVec 32) : Dy := (floatDy .fp32 c.toNat).getD dyZero

/-- The S1 hop of R116 for one cell: the partial (`xs`) and the error memory. -/
def sendS1 (xs : List Wide) (es : List (BitVec 32)) : S1Cell :=
  let vs := List.zipWith (fun x e => match x with
    | some d => some (dyAdd d (fp32Dy e))
    | none => none) xs es
  if xs.any (fun x => x.isNone) then
    { scale := 0x7FC0, bits := xs.map (fun _ => false), err := xs.map (fun _ => 0)
      lost := vs.map (fun v => v.getD dyZero), flags := noFlags }
  else
    let ds := vs.map (fun v => v.getD dyZero)
    let t := dySum (ds.map dyAbs)
    let sc := if t.m = 0 then (0, noFlags) else dyToFloat .bf16 false ⟨t.m, t.e - 9⟩
    let sv := (floatDy .bf16 sc.1).getD dyZero
    let sent := ds.map (fun d => if d.m < 0 then dyNeg sv else sv)
    let lost := List.zipWith dySub ds sent
    let es' := lost.map fp32Sat
    { scale := BitVec.ofNat 16 sc.1, bits := ds.map (fun d => decide (d.m < 0))
      err := es'.map (fun p => p.1), lost := lost
      flags := es'.foldl (fun f p => orFlags f p.2) sc.2 }

/-- The payload bytes of a list of sign bits. -/
def packBits (bits : List Bool) : List Byte :=
  (List.range 64).map (fun i => BitVec.ofNat 8
    ((List.range 8).foldl (fun a k => a + (if bits.getD (8 * i + k) false then 2 ^ k else 0)) 0))

/-! ## Checksum (R119, R120) -/

/-- `P = 2^61 - 1`. -/
def ckP : Nat := 2 ^ 61 - 1

/-- A dyadic value modulo P: `2 ^ e` counts as `2 ^ (e mod 61)` (R119). -/
def ckVal (x : Dy) : Nat :=
  let p := 2 ^ (x.e.emod 61).toNat % ckP
  let m := x.m.natAbs % ckP
  let v := (m * p) % ckP
  if x.m < 0 then (ckP - v) % ckP else v

/-- Sum modulo P. -/
def ckAdd (a b : Nat) : Nat := (a + b) % ckP
/-- Difference modulo P. -/
def ckSub (a b : Nat) : Nat := (a % ckP + (ckP - b % ckP)) % ckP

/-- The checksum of the elements from index `i` on; an invalid element counts as 0 (R119, R120). -/
def ckSum (i : Nat) (xs : List Wide) : Nat :=
  (xs.zipIdx i).foldl (fun a p => match p.1 with
    | some d => ckAdd a (((p.2 + 1) * ckVal d) % ckP)
    | none => a) 0

/-- The checksum of exact values. -/
def ckSumDy (i : Nat) (xs : List Dy) : Nat := ckSum i (xs.map some)

end Sys2Proof.Machine
end

