-- ==== Sys2Proof/Machine/RegMap.lean ====
section
/-! DEFINITION. The register map of BAR0 (R13): one row per register of the chapters' register tables, with the access
code of each field (Table 0-7), the reset value, and, for every field, its place under the spec's own name. A row of a
register that repeats (per port, per context, per Cay and so on) carries its counts and strides. -/

namespace Sys2Proof.Machine

/-- Access codes of Table 0-7; WC is split into flag and counter fields (R17), a 64-bit counter has a low and a high
word (R15), and FAB_PORT_QDEPTH.MAX has a code of its own (R17). -/
inductive Acc where
  | ro | rw | wo | flag | count | countLo | countHi | qmax
  deriving DecidableEq, Repr

/-- One field of a register; the bits no field names are RSV. -/
structure RegField where
  hi : Nat
  lo : Nat
  acc : Acc
  deriving DecidableEq, Repr

/-- One register of the map: its offset in BAR0 and up to two repetitions of it. -/
structure RegRow where
  name : String
  base : Nat
  n1 : Nat
  s1 : Nat
  n2 : Nat
  s2 : Nat
  reset : Nat
  fields : List RegField
  deriving DecidableEq, Repr

/-- The place of a field: the register's BAR0 offset and its bit range. -/
structure Fld where
  off : Nat
  hi : Nat
  lo : Nat
  deriving DecidableEq, Repr

/-! ## Registers and fields, by the names of the register tables -/

/-- GLOBAL_ID (Table 0-2). -/
def GLOBAL_ID : Nat := 0x0
/-- GLOBAL_ID.PART. -/
def GLOBAL_ID_PART : Fld := ⟨GLOBAL_ID, 31, 16⟩
/-- GLOBAL_ID.VARIANT. -/
def GLOBAL_ID_VARIANT : Fld := ⟨GLOBAL_ID, 15, 12⟩
/-- GLOBAL_ID.STEP_MAJOR. -/
def GLOBAL_ID_STEP_MAJOR : Fld := ⟨GLOBAL_ID, 11, 8⟩
/-- GLOBAL_ID.STEP_MINOR. -/
def GLOBAL_ID_STEP_MINOR : Fld := ⟨GLOBAL_ID, 7, 4⟩
/-- GLOBAL_UNMAPPED_COUNT (Table 0-8). -/
def GLOBAL_UNMAPPED_COUNT : Nat := 0x10
/-- GLOBAL_UNMAPPED_COUNT.COUNT. -/
def GLOBAL_UNMAPPED_COUNT_COUNT : Fld := ⟨GLOBAL_UNMAPPED_COUNT, 31, 0⟩
/-- GLOBAL_COORD (Table 1-1). -/
def GLOBAL_COORD : Nat := 0x20
/-- GLOBAL_COORD.VALID. -/
def GLOBAL_COORD_VALID : Fld := ⟨GLOBAL_COORD, 31, 31⟩
/-- GLOBAL_COORD.Z. -/
def GLOBAL_COORD_Z : Fld := ⟨GLOBAL_COORD, 14, 10⟩
/-- GLOBAL_COORD.Y. -/
def GLOBAL_COORD_Y : Fld := ⟨GLOBAL_COORD, 9, 5⟩
/-- GLOBAL_COORD.X. -/
def GLOBAL_COORD_X : Fld := ⟨GLOBAL_COORD, 4, 0⟩
/-- GLOBAL_TORUS_DIM (Table 1-2). -/
def GLOBAL_TORUS_DIM : Nat := 0x24
/-- GLOBAL_TORUS_DIM.VALID. -/
def GLOBAL_TORUS_DIM_VALID : Fld := ⟨GLOBAL_TORUS_DIM, 31, 31⟩
/-- GLOBAL_TORUS_DIM.LEN_Z. -/
def GLOBAL_TORUS_DIM_LEN_Z : Fld := ⟨GLOBAL_TORUS_DIM, 14, 10⟩
/-- GLOBAL_TORUS_DIM.LEN_Y. -/
def GLOBAL_TORUS_DIM_LEN_Y : Fld := ⟨GLOBAL_TORUS_DIM, 9, 5⟩
/-- GLOBAL_TORUS_DIM.LEN_X. -/
def GLOBAL_TORUS_DIM_LEN_X : Fld := ⟨GLOBAL_TORUS_DIM, 4, 0⟩
/-- CAY_FLAGS (Table 3-6). -/
def CAY_FLAGS (i : Nat) : Nat := 0x1000100 + i * 0x10000
/-- CAY_FLAGS.NV. -/
def CAY_FLAGS_NV (i : Nat) : Fld := ⟨CAY_FLAGS i, 3, 3⟩
/-- CAY_FLAGS.NX. -/
def CAY_FLAGS_NX (i : Nat) : Fld := ⟨CAY_FLAGS i, 2, 2⟩
/-- CAY_FLAGS.UF. -/
def CAY_FLAGS_UF (i : Nat) : Fld := ⟨CAY_FLAGS i, 1, 1⟩
/-- CAY_FLAGS.OV. -/
def CAY_FLAGS_OV (i : Nat) : Fld := ⟨CAY_FLAGS i, 0, 0⟩
/-- CAY_NV_LOC0 (Table 3-7). -/
def CAY_NV_LOC0 (i : Nat) : Nat := 0x1000110 + i * 0x10000
/-- CAY_NV_LOC0.VALID. -/
def CAY_NV_LOC0_VALID (i : Nat) : Fld := ⟨CAY_NV_LOC0 i, 31, 31⟩
/-- CAY_NV_LOC0.KIND. -/
def CAY_NV_LOC0_KIND (i : Nat) : Fld := ⟨CAY_NV_LOC0 i, 30, 28⟩
/-- CAY_NV_LOC0.CAUSE. -/
def CAY_NV_LOC0_CAUSE (i : Nat) : Fld := ⟨CAY_NV_LOC0 i, 27, 24⟩
/-- CAY_NV_LOC0.JOB. -/
def CAY_NV_LOC0_JOB (i : Nat) : Fld := ⟨CAY_NV_LOC0 i, 15, 0⟩
/-- CAY_NV_LOC1 (Table 3-8). -/
def CAY_NV_LOC1 (i : Nat) : Nat := 0x1000114 + i * 0x10000
/-- CAY_NV_LOC1.GROUP. -/
def CAY_NV_LOC1_GROUP (i : Nat) : Fld := ⟨CAY_NV_LOC1 i, 25, 16⟩
/-- CAY_NV_LOC1.WHERE. -/
def CAY_NV_LOC1_WHERE (i : Nat) : Fld := ⟨CAY_NV_LOC1 i, 15, 0⟩
/-- CAY_NV_LOC2 (Table 3-9). -/
def CAY_NV_LOC2 (i : Nat) : Nat := 0x1000118 + i * 0x10000
/-- CAY_NV_LOC2.BLOCK. -/
def CAY_NV_LOC2_BLOCK (i : Nat) : Fld := ⟨CAY_NV_LOC2 i, 31, 0⟩
/-- CAY_NV_LOC3 (Table 3-10). -/
def CAY_NV_LOC3 (i : Nat) : Nat := 0x100011C + i * 0x10000
/-- CAY_NV_LOC3.PC. -/
def CAY_NV_LOC3_PC (i : Nat) : Fld := ⟨CAY_NV_LOC3 i, 27, 9⟩
/-- CAY_NV_LOC3.ELEMENT. -/
def CAY_NV_LOC3_ELEMENT (i : Nat) : Fld := ⟨CAY_NV_LOC3 i, 8, 0⟩
/-- FAB_CW_FLAGS (Table 3-12). -/
def FAB_CW_FLAGS (i : Nat) : Nat := 0x870000 + i * 0x20
/-- FAB_CW_FLAGS.NV. -/
def FAB_CW_FLAGS_NV (i : Nat) : Fld := ⟨FAB_CW_FLAGS i, 3, 3⟩
/-- FAB_CW_FLAGS.NX. -/
def FAB_CW_FLAGS_NX (i : Nat) : Fld := ⟨FAB_CW_FLAGS i, 2, 2⟩
/-- FAB_CW_FLAGS.UF. -/
def FAB_CW_FLAGS_UF (i : Nat) : Fld := ⟨FAB_CW_FLAGS i, 1, 1⟩
/-- FAB_CW_FLAGS.OV. -/
def FAB_CW_FLAGS_OV (i : Nat) : Fld := ⟨FAB_CW_FLAGS i, 0, 0⟩
/-- FAB_CW_NV_LOC0 (Table 3-12). -/
def FAB_CW_NV_LOC0 (i : Nat) : Nat := 0x870004 + i * 0x20
/-- FAB_CW_NV_LOC0.VALID. -/
def FAB_CW_NV_LOC0_VALID (i : Nat) : Fld := ⟨FAB_CW_NV_LOC0 i, 31, 31⟩
/-- FAB_CW_NV_LOC0.CAUSE. -/
def FAB_CW_NV_LOC0_CAUSE (i : Nat) : Fld := ⟨FAB_CW_NV_LOC0 i, 27, 24⟩
/-- FAB_CW_NV_LOC0.JOB. -/
def FAB_CW_NV_LOC0_JOB (i : Nat) : Fld := ⟨FAB_CW_NV_LOC0 i, 15, 0⟩
/-- FAB_CW_NV_LOC1 (Table 3-12). -/
def FAB_CW_NV_LOC1 (i : Nat) : Nat := 0x870008 + i * 0x20
/-- FAB_CW_NV_LOC1.GROUP. -/
def FAB_CW_NV_LOC1_GROUP (i : Nat) : Fld := ⟨FAB_CW_NV_LOC1 i, 25, 16⟩
/-- FAB_CW_NV_LOC1.ELEMENT. -/
def FAB_CW_NV_LOC1_ELEMENT (i : Nat) : Fld := ⟨FAB_CW_NV_LOC1 i, 3, 0⟩
/-- CAY_RESIDUE_COUNT (Table 3-15). -/
def CAY_RESIDUE_COUNT (i : Nat) : Nat := 0x1000120 + i * 0x10000
/-- CAY_RESIDUE_COUNT.FAILED. -/
def CAY_RESIDUE_COUNT_FAILED (i : Nat) : Fld := ⟨CAY_RESIDUE_COUNT i, 31, 16⟩
/-- CAY_RESIDUE_COUNT.RETRIED. -/
def CAY_RESIDUE_COUNT_RETRIED (i : Nat) : Fld := ⟨CAY_RESIDUE_COUNT i, 15, 0⟩
/-- CAY_ARRAY_ERR_COUNT (Table 3-15). -/
def CAY_ARRAY_ERR_COUNT (i : Nat) : Nat := 0x1000124 + i * 0x10000
/-- CAY_ARRAY_ERR_COUNT.UNCORRECTED. -/
def CAY_ARRAY_ERR_COUNT_UNCORRECTED (i : Nat) : Fld := ⟨CAY_ARRAY_ERR_COUNT i, 31, 16⟩
/-- CAY_ARRAY_ERR_COUNT.CORRECTED. -/
def CAY_ARRAY_ERR_COUNT_CORRECTED (i : Nat) : Fld := ⟨CAY_ARRAY_ERR_COUNT i, 15, 0⟩
/-- FAB_RED_CAY_MAP (Table 4-13). -/
def FAB_RED_CAY_MAP (i : Nat) : Nat := 0x880000 + i * 0x4
/-- FAB_RED_CAY_MAP.VALID. -/
def FAB_RED_CAY_MAP_VALID (i : Nat) : Fld := ⟨FAB_RED_CAY_MAP i, 31, 31⟩
/-- FAB_RED_CAY_MAP.CAY. -/
def FAB_RED_CAY_MAP_CAY (i : Nat) : Fld := ⟨FAB_RED_CAY_MAP i, 6, 0⟩
/-- FAB_RED_ADMIT_TIMEOUT (Table 4-13). -/
def FAB_RED_ADMIT_TIMEOUT : Nat := 0x880200
/-- FAB_RED_ADMIT_TIMEOUT.TICKS. -/
def FAB_RED_ADMIT_TIMEOUT_TICKS : Fld := ⟨FAB_RED_ADMIT_TIMEOUT, 31, 0⟩
/-- FAB_RED_OPEN (Table 4-13). -/
def FAB_RED_OPEN : Nat := 0x880204
/-- FAB_RED_OPEN.COUNT. -/
def FAB_RED_OPEN_COUNT : Fld := ⟨FAB_RED_OPEN, 13, 0⟩
/-- FAB_RED_STRAY_COUNT (Table 4-13). -/
def FAB_RED_STRAY_COUNT : Nat := 0x880208
/-- FAB_RED_STRAY_COUNT.COUNT. -/
def FAB_RED_STRAY_COUNT_COUNT : Fld := ⟨FAB_RED_STRAY_COUNT, 31, 0⟩
/-- FAB_RED_LATE_COUNT (Table 4-13). -/
def FAB_RED_LATE_COUNT : Nat := 0x88020C
/-- FAB_RED_LATE_COUNT.DROPPED. -/
def FAB_RED_LATE_COUNT_DROPPED : Fld := ⟨FAB_RED_LATE_COUNT, 31, 16⟩
/-- FAB_RED_LATE_COUNT.DEFERRED. -/
def FAB_RED_LATE_COUNT_DEFERRED : Fld := ⟨FAB_RED_LATE_COUNT, 15, 0⟩
/-- FAB_RED_CHECK_COUNT (Table 4-13). -/
def FAB_RED_CHECK_COUNT : Nat := 0x880210
/-- FAB_RED_CHECK_COUNT.FAILED. -/
def FAB_RED_CHECK_COUNT_FAILED : Fld := ⟨FAB_RED_CHECK_COUNT, 31, 0⟩
/-- FAB_RED_EM_RESTART_COUNT (Table 4-13). -/
def FAB_RED_EM_RESTART_COUNT : Nat := 0x880214
/-- FAB_RED_EM_RESTART_COUNT.COUNT. -/
def FAB_RED_EM_RESTART_COUNT_COUNT : Fld := ⟨FAB_RED_EM_RESTART_COUNT, 31, 0⟩
/-- FAB_RED_REFUSE_COUNT (Table 4-13). -/
def FAB_RED_REFUSE_COUNT : Nat := 0x880218
/-- FAB_RED_REFUSE_COUNT.COUNT. -/
def FAB_RED_REFUSE_COUNT_COUNT : Fld := ⟨FAB_RED_REFUSE_COUNT, 31, 0⟩
/-- LAYER_USED (Table 5-13). -/
def LAYER_USED : Nat := 0x1800000
/-- LAYER_USED.COUNT. -/
def LAYER_USED_COUNT : Fld := ⟨LAYER_USED, 12, 0⟩
/-- LAYER_STATE_TIMEOUT (Table 5-13). -/
def LAYER_STATE_TIMEOUT : Nat := 0x1800004
/-- LAYER_STATE_TIMEOUT.TICKS. -/
def LAYER_STATE_TIMEOUT_TICKS : Fld := ⟨LAYER_STATE_TIMEOUT, 31, 0⟩
/-- LAYER_LATE_COUNT (Table 5-13). -/
def LAYER_LATE_COUNT : Nat := 0x1800008
/-- LAYER_LATE_COUNT.COUNT. -/
def LAYER_LATE_COUNT_COUNT : Fld := ⟨LAYER_LATE_COUNT, 31, 0⟩
/-- LAYER_REPLAY_COUNT (Table 5-13). -/
def LAYER_REPLAY_COUNT : Nat := 0x180000C
/-- LAYER_REPLAY_COUNT.COUNT. -/
def LAYER_REPLAY_COUNT_COUNT : Fld := ⟨LAYER_REPLAY_COUNT, 31, 0⟩
/-- LAYER_ABANDON_COUNT (Table 5-13). -/
def LAYER_ABANDON_COUNT : Nat := 0x1800010
/-- LAYER_ABANDON_COUNT.COUNT. -/
def LAYER_ABANDON_COUNT_COUNT : Fld := ⟨LAYER_ABANDON_COUNT, 31, 0⟩
/-- LAYER_INCONSISTENT (Table 5-13). -/
def LAYER_INCONSISTENT : Nat := 0x1800014
/-- LAYER_INCONSISTENT.COUNT. -/
def LAYER_INCONSISTENT_COUNT : Fld := ⟨LAYER_INCONSISTENT, 12, 0⟩
/-- LAYER_JNL_A (Table 5-13). -/
def LAYER_JNL_A (i : Nat) : Nat := 0x1801000 + i * 0x8
/-- LAYER_JNL_A.VALID. -/
def LAYER_JNL_A_VALID (i : Nat) : Fld := ⟨LAYER_JNL_A i, 31, 31⟩
/-- LAYER_JNL_A.PHASE. -/
def LAYER_JNL_A_PHASE (i : Nat) : Fld := ⟨LAYER_JNL_A i, 30, 28⟩
/-- LAYER_JNL_A.CUR. -/
def LAYER_JNL_A_CUR (i : Nat) : Fld := ⟨LAYER_JNL_A i, 27, 27⟩
/-- LAYER_JNL_A.INCONSISTENT. -/
def LAYER_JNL_A_INCONSISTENT (i : Nat) : Fld := ⟨LAYER_JNL_A i, 26, 26⟩
/-- LAYER_JNL_A.LATE. -/
def LAYER_JNL_A_LATE (i : Nat) : Fld := ⟨LAYER_JNL_A i, 25, 25⟩
/-- LAYER_JNL_A.ORTHO_DONE. -/
def LAYER_JNL_A_ORTHO_DONE (i : Nat) : Fld := ⟨LAYER_JNL_A i, 24, 24⟩
/-- LAYER_JNL_A.CONTEXT. -/
def LAYER_JNL_A_CONTEXT (i : Nat) : Fld := ⟨LAYER_JNL_A i, 21, 16⟩
/-- LAYER_JNL_A.LAYER. -/
def LAYER_JNL_A_LAYER (i : Nat) : Fld := ⟨LAYER_JNL_A i, 15, 0⟩
/-- LAYER_JNL_B (Table 5-13). -/
def LAYER_JNL_B (i : Nat) : Nat := 0x1801004 + i * 0x8
/-- LAYER_JNL_B.TIDE. -/
def LAYER_JNL_B_TIDE (i : Nat) : Fld := ⟨LAYER_JNL_B i, 31, 0⟩
/-- FAB_FERRY_BUSY_RETRY (Table 6-10). -/
def FAB_FERRY_BUSY_RETRY : Nat := 0x890000
/-- FAB_FERRY_BUSY_RETRY.TICKS. -/
def FAB_FERRY_BUSY_RETRY_TICKS : Fld := ⟨FAB_FERRY_BUSY_RETRY, 31, 0⟩
/-- FAB_FERRY_SLOTS (Table 6-10). -/
def FAB_FERRY_SLOTS : Nat := 0x890004
/-- FAB_FERRY_SLOTS.DIE_B. -/
def FAB_FERRY_SLOTS_DIE_B : Fld := ⟨FAB_FERRY_SLOTS, 15, 8⟩
/-- FAB_FERRY_SLOTS.DIE_A. -/
def FAB_FERRY_SLOTS_DIE_A : Fld := ⟨FAB_FERRY_SLOTS, 7, 0⟩
/-- FAB_FERRY_BUSY_COUNT (Table 6-10). -/
def FAB_FERRY_BUSY_COUNT : Nat := 0x890008
/-- FAB_FERRY_BUSY_COUNT.COUNT. -/
def FAB_FERRY_BUSY_COUNT_COUNT : Fld := ⟨FAB_FERRY_BUSY_COUNT, 31, 0⟩
/-- FAB_FERRY_ABORT_COUNT (Table 6-10). -/
def FAB_FERRY_ABORT_COUNT : Nat := 0x89000C
/-- FAB_FERRY_ABORT_COUNT.COUNT. -/
def FAB_FERRY_ABORT_COUNT_COUNT : Fld := ⟨FAB_FERRY_ABORT_COUNT, 31, 0⟩
/-- FAB_FERRY_UNDELIVERED_COUNT (Table 6-10). -/
def FAB_FERRY_UNDELIVERED_COUNT : Nat := 0x890010
/-- FAB_FERRY_UNDELIVERED_COUNT.COUNT. -/
def FAB_FERRY_UNDELIVERED_COUNT_COUNT : Fld := ⟨FAB_FERRY_UNDELIVERED_COUNT, 31, 0⟩
/-- FAB_FERRY_RET_LOST_COUNT (Table 6-10). -/
def FAB_FERRY_RET_LOST_COUNT : Nat := 0x890014
/-- FAB_FERRY_RET_LOST_COUNT.COUNT. -/
def FAB_FERRY_RET_LOST_COUNT_COUNT : Fld := ⟨FAB_FERRY_RET_LOST_COUNT, 31, 0⟩
/-- FAB_PERMUTE_FAIL_COUNT (Table 6-10). -/
def FAB_PERMUTE_FAIL_COUNT : Nat := 0x890018
/-- FAB_PERMUTE_FAIL_COUNT.COUNT. -/
def FAB_PERMUTE_FAIL_COUNT_COUNT : Fld := ⟨FAB_PERMUTE_FAIL_COUNT, 31, 0⟩
/-- FAB_PORT_TX_CELLS (Table 7-10). -/
def FAB_PORT_TX_CELLS (i : Nat) (j : Nat) : Nat := 0x800000 + i * 0x1000 + j * 0x8
/-- FAB_PORT_TX_CELLS, high word (R15). -/
def FAB_PORT_TX_CELLS_HIGH (i : Nat) (j : Nat) : Nat := 0x800000 + i * 0x1000 + j * 0x8 + 4
/-- FAB_PORT_RX_CELLS (Table 7-10). -/
def FAB_PORT_RX_CELLS (i : Nat) (j : Nat) : Nat := 0x800040 + i * 0x1000 + j * 0x8
/-- FAB_PORT_RX_CELLS, high word (R15). -/
def FAB_PORT_RX_CELLS_HIGH (i : Nat) (j : Nat) : Nat := 0x800040 + i * 0x1000 + j * 0x8 + 4
/-- FAB_PORT_QDEPTH (Table 7-10). -/
def FAB_PORT_QDEPTH (i : Nat) (j : Nat) : Nat := 0x800080 + i * 0x1000 + j * 0x4
/-- FAB_PORT_QDEPTH.MAX. -/
def FAB_PORT_QDEPTH_MAX (i : Nat) (j : Nat) : Fld := ⟨FAB_PORT_QDEPTH i j, 26, 16⟩
/-- FAB_PORT_QDEPTH.CUR. -/
def FAB_PORT_QDEPTH_CUR (i : Nat) (j : Nat) : Fld := ⟨FAB_PORT_QDEPTH i j, 10, 0⟩
/-- FAB_PORT_STALL (Table 7-10). -/
def FAB_PORT_STALL (i : Nat) (j : Nat) : Nat := 0x8000A0 + i * 0x1000 + j * 0x8
/-- FAB_PORT_STALL, high word (R15). -/
def FAB_PORT_STALL_HIGH (i : Nat) (j : Nat) : Nat := 0x8000A0 + i * 0x1000 + j * 0x8 + 4
/-- FAB_PORT_MARKED (Table 7-10). -/
def FAB_PORT_MARKED (i : Nat) : Nat := 0x8000E0 + i * 0x1000
/-- FAB_PORT_MARKED.COUNT. -/
def FAB_PORT_MARKED_COUNT (i : Nat) : Fld := ⟨FAB_PORT_MARKED i, 31, 0⟩
/-- FAB_PORT_CUTS (Table 7-10). -/
def FAB_PORT_CUTS (i : Nat) : Nat := 0x8000E4 + i * 0x1000
/-- FAB_PORT_CUTS.COUNT. -/
def FAB_PORT_CUTS_COUNT (i : Nat) : Fld := ⟨FAB_PORT_CUTS i, 31, 0⟩
/-- FAB_PORT_AGED (Table 7-10). -/
def FAB_PORT_AGED (i : Nat) : Nat := 0x8000E8 + i * 0x1000
/-- FAB_PORT_AGED.COUNT. -/
def FAB_PORT_AGED_COUNT (i : Nat) : Fld := ⟨FAB_PORT_AGED i, 31, 0⟩
/-- FAB_PORT_HDR_CRC (Table 7-10). -/
def FAB_PORT_HDR_CRC (i : Nat) : Nat := 0x8000EC + i * 0x1000
/-- FAB_PORT_HDR_CRC.COUNT. -/
def FAB_PORT_HDR_CRC_COUNT (i : Nat) : Fld := ⟨FAB_PORT_HDR_CRC i, 31, 0⟩
/-- FAB_PORT_DROP_ROUTE (Table 7-10). -/
def FAB_PORT_DROP_ROUTE (i : Nat) : Nat := 0x8000F0 + i * 0x1000
/-- FAB_PORT_DROP_ROUTE.COUNT. -/
def FAB_PORT_DROP_ROUTE_COUNT (i : Nat) : Fld := ⟨FAB_PORT_DROP_ROUTE i, 31, 0⟩
/-- FAB_PORT_DROP_TYPE (Table 7-10). -/
def FAB_PORT_DROP_TYPE (i : Nat) : Nat := 0x8000F4 + i * 0x1000
/-- FAB_PORT_DROP_TYPE.COUNT. -/
def FAB_PORT_DROP_TYPE_COUNT (i : Nat) : Fld := ⟨FAB_PORT_DROP_TYPE i, 31, 0⟩
/-- FAB_PORT_DROP_JOB (Table 7-10). -/
def FAB_PORT_DROP_JOB (i : Nat) : Nat := 0x8000F8 + i * 0x1000
/-- FAB_PORT_DROP_JOB.COUNT. -/
def FAB_PORT_DROP_JOB_COUNT (i : Nat) : Fld := ⟨FAB_PORT_DROP_JOB i, 31, 0⟩
/-- FAB_PORT_RETRY_RX (Table 7-10). -/
def FAB_PORT_RETRY_RX (i : Nat) : Nat := 0x8000FC + i * 0x1000
/-- FAB_PORT_RETRY_RX.COUNT. -/
def FAB_PORT_RETRY_RX_COUNT (i : Nat) : Fld := ⟨FAB_PORT_RETRY_RX i, 31, 0⟩
/-- FAB_PORT_POISON_RX (Table 7-10). -/
def FAB_PORT_POISON_RX (i : Nat) : Nat := 0x800100 + i * 0x1000
/-- FAB_PORT_POISON_RX.COUNT. -/
def FAB_PORT_POISON_RX_COUNT (i : Nat) : Fld := ⟨FAB_PORT_POISON_RX i, 31, 0⟩
/-- FAB_PORT_STATE (Table 7-10). -/
def FAB_PORT_STATE (i : Nat) : Nat := 0x800104 + i * 0x1000
/-- FAB_PORT_STATE.DATELINE. -/
def FAB_PORT_STATE_DATELINE (i : Nat) : Fld := ⟨FAB_PORT_STATE i, 2, 2⟩
/-- FAB_PORT_STATE.PEER_FENCED. -/
def FAB_PORT_STATE_PEER_FENCED (i : Nat) : Fld := ⟨FAB_PORT_STATE i, 1, 1⟩
/-- FAB_PORT_STATE.UP. -/
def FAB_PORT_STATE_UP (i : Nat) : Fld := ⟨FAB_PORT_STATE i, 0, 0⟩
/-- FAB_VC_WEIGHT_A (Table 7-11). -/
def FAB_VC_WEIGHT_A : Nat := 0x860000
/-- FAB_VC_WEIGHT_A.VC4. -/
def FAB_VC_WEIGHT_A_VC4 : Fld := ⟨FAB_VC_WEIGHT_A, 31, 24⟩
/-- FAB_VC_WEIGHT_A.VC3. -/
def FAB_VC_WEIGHT_A_VC3 : Fld := ⟨FAB_VC_WEIGHT_A, 23, 16⟩
/-- FAB_VC_WEIGHT_A.VC2. -/
def FAB_VC_WEIGHT_A_VC2 : Fld := ⟨FAB_VC_WEIGHT_A, 15, 8⟩
/-- FAB_VC_WEIGHT_A.VC1. -/
def FAB_VC_WEIGHT_A_VC1 : Fld := ⟨FAB_VC_WEIGHT_A, 7, 0⟩
/-- FAB_VC_WEIGHT_B (Table 7-11). -/
def FAB_VC_WEIGHT_B : Nat := 0x860004
/-- FAB_VC_WEIGHT_B.VC6. -/
def FAB_VC_WEIGHT_B_VC6 : Fld := ⟨FAB_VC_WEIGHT_B, 15, 8⟩
/-- FAB_VC_WEIGHT_B.VC5. -/
def FAB_VC_WEIGHT_B_VC5 : Fld := ⟨FAB_VC_WEIGHT_B, 7, 0⟩
/-- FAB_AGE_THRESH (Table 7-11). -/
def FAB_AGE_THRESH : Nat := 0x860008
/-- FAB_AGE_THRESH.TICKS. -/
def FAB_AGE_THRESH_TICKS : Fld := ⟨FAB_AGE_THRESH, 31, 0⟩
/-- FAB_RATE_LIMIT (Table 7-11). -/
def FAB_RATE_LIMIT : Nat := 0x86000C
/-- FAB_RATE_LIMIT.VC7_BURST. -/
def FAB_RATE_LIMIT_VC7_BURST : Fld := ⟨FAB_RATE_LIMIT, 31, 24⟩
/-- FAB_RATE_LIMIT.VC7_COST. -/
def FAB_RATE_LIMIT_VC7_COST : Fld := ⟨FAB_RATE_LIMIT, 23, 16⟩
/-- FAB_RATE_LIMIT.VC0_BURST. -/
def FAB_RATE_LIMIT_VC0_BURST : Fld := ⟨FAB_RATE_LIMIT, 15, 8⟩
/-- FAB_RATE_LIMIT.VC0_COST. -/
def FAB_RATE_LIMIT_VC0_COST : Fld := ⟨FAB_RATE_LIMIT, 7, 0⟩
/-- FAB_ECN_CTRL (Table 7-11). -/
def FAB_ECN_CTRL : Nat := 0x860010
/-- FAB_ECN_CTRL.RMIN. -/
def FAB_ECN_CTRL_RMIN : Fld := ⟨FAB_ECN_CTRL, 25, 16⟩
/-- FAB_ECN_CTRL.ADD. -/
def FAB_ECN_CTRL_ADD : Fld := ⟨FAB_ECN_CTRL, 15, 8⟩
/-- FAB_ECN_CTRL.CUT. -/
def FAB_ECN_CTRL_CUT : Fld := ⟨FAB_ECN_CTRL, 7, 0⟩
/-- FAB_ECN_TIMING (Table 7-11). -/
def FAB_ECN_TIMING : Nat := 0x860014
/-- FAB_ECN_TIMING.CUT_GAP. -/
def FAB_ECN_TIMING_CUT_GAP : Fld := ⟨FAB_ECN_TIMING, 31, 16⟩
/-- FAB_ECN_TIMING.RECOVER. -/
def FAB_ECN_TIMING_RECOVER : Fld := ⟨FAB_ECN_TIMING, 15, 0⟩
/-- FAB_ECN_ECHO (Table 7-11). -/
def FAB_ECN_ECHO : Nat := 0x860018
/-- FAB_ECN_ECHO.GAP. -/
def FAB_ECN_ECHO_GAP : Fld := ⟨FAB_ECN_ECHO, 15, 0⟩
/-- FAB_ECN_ECHO_TX (Table 7-11). -/
def FAB_ECN_ECHO_TX : Nat := 0x86001C
/-- FAB_ECN_ECHO_TX.COUNT. -/
def FAB_ECN_ECHO_TX_COUNT : Fld := ⟨FAB_ECN_ECHO_TX, 31, 0⟩
/-- FAB_ECN_ECHO_LOST (Table 7-11). -/
def FAB_ECN_ECHO_LOST : Nat := 0x860020
/-- FAB_ECN_ECHO_LOST.COUNT. -/
def FAB_ECN_ECHO_LOST_COUNT : Fld := ⟨FAB_ECN_ECHO_LOST, 31, 0⟩
/-- FAB_MGMT_DROP (Table 7-11). -/
def FAB_MGMT_DROP : Nat := 0x860024
/-- FAB_MGMT_DROP.COUNT. -/
def FAB_MGMT_DROP_COUNT : Fld := ⟨FAB_MGMT_DROP, 31, 0⟩
/-- FAB_CREDIT_STATUS (Table 7-11). -/
def FAB_CREDIT_STATUS : Nat := 0x860028
/-- FAB_CREDIT_STATUS.ERR. -/
def FAB_CREDIT_STATUS_ERR : Fld := ⟨FAB_CREDIT_STATUS, 0, 0⟩
/-- FAB_VC_CREDIT (Table 7-11). -/
def FAB_VC_CREDIT (i : Nat) : Nat := 0x860040 + i * 0x4
/-- FAB_VC_CREDIT.THRESH. -/
def FAB_VC_CREDIT_THRESH (i : Nat) : Fld := ⟨FAB_VC_CREDIT i, 31, 22⟩
/-- FAB_VC_CREDIT.SUB1. -/
def FAB_VC_CREDIT_SUB1 (i : Nat) : Fld := ⟨FAB_VC_CREDIT i, 21, 11⟩
/-- FAB_VC_CREDIT.SUB0. -/
def FAB_VC_CREDIT_SUB0 (i : Nat) : Fld := ⟨FAB_VC_CREDIT i, 10, 0⟩
/-- POOL_FREE_A (Table 9-10). -/
def POOL_FREE_A : Nat := 0xC00000
/-- POOL_FREE_A.COUNT. -/
def POOL_FREE_A_COUNT : Fld := ⟨POOL_FREE_A, 19, 0⟩
/-- POOL_FREE_B (Table 9-10). -/
def POOL_FREE_B : Nat := 0xC00004
/-- POOL_FREE_B.COUNT. -/
def POOL_FREE_B_COUNT : Fld := ⟨POOL_FREE_B, 19, 0⟩
/-- POOL_DFREE_COUNT (Table 9-10). -/
def POOL_DFREE_COUNT : Nat := 0xC00008
/-- POOL_DFREE_COUNT.COUNT. -/
def POOL_DFREE_COUNT_COUNT : Fld := ⟨POOL_DFREE_COUNT, 31, 0⟩
/-- POOL_OWNER_ERR_COUNT (Table 9-10). -/
def POOL_OWNER_ERR_COUNT : Nat := 0xC0000C
/-- POOL_OWNER_ERR_COUNT.COUNT. -/
def POOL_OWNER_ERR_COUNT_COUNT : Fld := ⟨POOL_OWNER_ERR_COUNT, 31, 0⟩
/-- POOL_PENDING (Table 9-10). -/
def POOL_PENDING : Nat := 0xC00010
/-- POOL_PENDING.COUNT. -/
def POOL_PENDING_COUNT : Fld := ⟨POOL_PENDING, 20, 0⟩
/-- POOL_QUARANTINE (Table 9-10). -/
def POOL_QUARANTINE : Nat := 0xC00014
/-- POOL_QUARANTINE.COUNT. -/
def POOL_QUARANTINE_COUNT : Fld := ⟨POOL_QUARANTINE, 20, 0⟩
/-- POOL_ECC_COUNT (Table 9-10). -/
def POOL_ECC_COUNT : Nat := 0xC00018
/-- POOL_ECC_COUNT.UNCORRECTED. -/
def POOL_ECC_COUNT_UNCORRECTED : Fld := ⟨POOL_ECC_COUNT, 31, 16⟩
/-- POOL_ECC_COUNT.CORRECTED. -/
def POOL_ECC_COUNT_CORRECTED : Fld := ⟨POOL_ECC_COUNT, 15, 0⟩
/-- POOL_ERR_LOG0 (Table 9-10). -/
def POOL_ERR_LOG0 : Nat := 0xC00020
/-- POOL_ERR_LOG0.VALID. -/
def POOL_ERR_LOG0_VALID : Fld := ⟨POOL_ERR_LOG0, 31, 31⟩
/-- POOL_ERR_LOG0.KIND. -/
def POOL_ERR_LOG0_KIND : Fld := ⟨POOL_ERR_LOG0, 30, 28⟩
/-- POOL_ERR_LOG0.CELL. -/
def POOL_ERR_LOG0_CELL : Fld := ⟨POOL_ERR_LOG0, 19, 0⟩
/-- POOL_ERR_LOG1 (Table 9-10). -/
def POOL_ERR_LOG1 : Nat := 0xC00024
/-- POOL_ERR_LOG1.REQUESTER. -/
def POOL_ERR_LOG1_REQUESTER : Fld := ⟨POOL_ERR_LOG1, 31, 16⟩
/-- POOL_ERR_LOG1.LAST. -/
def POOL_ERR_LOG1_LAST : Fld := ⟨POOL_ERR_LOG1, 15, 0⟩
/-- MEM_SCRUB (Table 9-11). -/
def MEM_SCRUB : Nat := 0x2000000
/-- MEM_SCRUB.HOURS. -/
def MEM_SCRUB_HOURS : Fld := ⟨MEM_SCRUB, 15, 0⟩
/-- MEM_SPACE_SHORT_COUNT (Table 9-11). -/
def MEM_SPACE_SHORT_COUNT : Nat := 0x2000004
/-- MEM_SPACE_SHORT_COUNT.COUNT. -/
def MEM_SPACE_SHORT_COUNT_COUNT : Fld := ⟨MEM_SPACE_SHORT_COUNT, 31, 0⟩
/-- MEM_ECC_HBM (Table 9-11). -/
def MEM_ECC_HBM (i : Nat) : Nat := 0x2000100 + i * 0x4
/-- MEM_ECC_HBM.UNCORRECTED. -/
def MEM_ECC_HBM_UNCORRECTED (i : Nat) : Fld := ⟨MEM_ECC_HBM i, 31, 16⟩
/-- MEM_ECC_HBM.CORRECTED. -/
def MEM_ECC_HBM_CORRECTED (i : Nat) : Fld := ⟨MEM_ECC_HBM i, 15, 0⟩
/-- MEM_ECC_LAGOON (Table 9-11). -/
def MEM_ECC_LAGOON (i : Nat) : Nat := 0x2000200 + i * 0x4
/-- MEM_ECC_LAGOON.UNCORRECTED. -/
def MEM_ECC_LAGOON_UNCORRECTED (i : Nat) : Fld := ⟨MEM_ECC_LAGOON i, 31, 16⟩
/-- MEM_ECC_LAGOON.CORRECTED. -/
def MEM_ECC_LAGOON_CORRECTED (i : Nat) : Fld := ⟨MEM_ECC_LAGOON i, 15, 0⟩
/-- MEM_ERR_LOG0 (Table 9-11). -/
def MEM_ERR_LOG0 : Nat := 0x2000400
/-- MEM_ERR_LOG0.VALID. -/
def MEM_ERR_LOG0_VALID : Fld := ⟨MEM_ERR_LOG0, 31, 31⟩
/-- MEM_ERR_LOG0.SPACE. -/
def MEM_ERR_LOG0_SPACE : Fld := ⟨MEM_ERR_LOG0, 30, 28⟩
/-- MEM_ERR_LOG0.FOUND_BY. -/
def MEM_ERR_LOG0_FOUND_BY : Fld := ⟨MEM_ERR_LOG0, 27, 24⟩
/-- MEM_ERR_LOG1 (Table 9-11). -/
def MEM_ERR_LOG1 : Nat := 0x2000404
/-- MEM_ERR_LOG1.ADDR. -/
def MEM_ERR_LOG1_ADDR : Fld := ⟨MEM_ERR_LOG1, 31, 0⟩
/-- MEM_ERR_LOG2 (Table 9-11). -/
def MEM_ERR_LOG2 : Nat := 0x2000408
/-- MEM_ERR_LOG2.ADDR. -/
def MEM_ERR_LOG2_ADDR : Fld := ⟨MEM_ERR_LOG2, 31, 0⟩
/-- MEM_PREFETCH_A (Table 9-11). -/
def MEM_PREFETCH_A : Nat := 0x2000500
/-- MEM_PREFETCH_A.QUEUED. -/
def MEM_PREFETCH_A_QUEUED : Fld := ⟨MEM_PREFETCH_A, 31, 16⟩
/-- MEM_PREFETCH_A.ACTIVE. -/
def MEM_PREFETCH_A_ACTIVE : Fld := ⟨MEM_PREFETCH_A, 4, 0⟩
/-- MEM_PREFETCH_B (Table 9-11). -/
def MEM_PREFETCH_B : Nat := 0x2000504
/-- MEM_PREFETCH_B.QUEUED. -/
def MEM_PREFETCH_B_QUEUED : Fld := ⟨MEM_PREFETCH_B, 31, 16⟩
/-- MEM_PREFETCH_B.ACTIVE. -/
def MEM_PREFETCH_B_ACTIVE : Fld := ⟨MEM_PREFETCH_B, 4, 0⟩
/-- MEM_CTX_LAGOON_QUOTA (Table 9-11). -/
def MEM_CTX_LAGOON_QUOTA (i : Nat) : Nat := 0x2010000 + i * 0x40
/-- MEM_CTX_LAGOON_QUOTA.MIB. -/
def MEM_CTX_LAGOON_QUOTA_MIB (i : Nat) : Fld := ⟨MEM_CTX_LAGOON_QUOTA i, 14, 0⟩
/-- MEM_CTX_LAGOON_USED (Table 9-11). -/
def MEM_CTX_LAGOON_USED (i : Nat) : Nat := 0x2010004 + i * 0x40
/-- MEM_CTX_LAGOON_USED.UNITS. -/
def MEM_CTX_LAGOON_USED_UNITS (i : Nat) : Fld := ⟨MEM_CTX_LAGOON_USED i, 18, 0⟩
/-- MEM_CTX_HBM_QUOTA (Table 9-11). -/
def MEM_CTX_HBM_QUOTA (i : Nat) : Nat := 0x2010008 + i * 0x40
/-- MEM_CTX_HBM_QUOTA.MIB. -/
def MEM_CTX_HBM_QUOTA_MIB (i : Nat) : Fld := ⟨MEM_CTX_HBM_QUOTA i, 19, 0⟩
/-- MEM_CTX_HBM_USED (Table 9-11). -/
def MEM_CTX_HBM_USED (i : Nat) : Nat := 0x201000C + i * 0x40
/-- MEM_CTX_HBM_USED.UNITS. -/
def MEM_CTX_HBM_USED_UNITS (i : Nat) : Fld := ⟨MEM_CTX_HBM_USED i, 23, 0⟩
/-- MEM_CTX_POOL_QUOTA_A (Table 9-11). -/
def MEM_CTX_POOL_QUOTA_A (i : Nat) : Nat := 0x2010010 + i * 0x40
/-- MEM_CTX_POOL_QUOTA_A.CELLS. -/
def MEM_CTX_POOL_QUOTA_A_CELLS (i : Nat) : Fld := ⟨MEM_CTX_POOL_QUOTA_A i, 19, 0⟩
/-- MEM_CTX_POOL_QUOTA_B (Table 9-11). -/
def MEM_CTX_POOL_QUOTA_B (i : Nat) : Nat := 0x2010014 + i * 0x40
/-- MEM_CTX_POOL_QUOTA_B.CELLS. -/
def MEM_CTX_POOL_QUOTA_B_CELLS (i : Nat) : Fld := ⟨MEM_CTX_POOL_QUOTA_B i, 19, 0⟩
/-- MEM_CTX_POOL_USED_A (Table 9-11). -/
def MEM_CTX_POOL_USED_A (i : Nat) : Nat := 0x2010018 + i * 0x40
/-- MEM_CTX_POOL_USED_A.CELLS. -/
def MEM_CTX_POOL_USED_A_CELLS (i : Nat) : Fld := ⟨MEM_CTX_POOL_USED_A i, 19, 0⟩
/-- MEM_CTX_POOL_USED_B (Table 9-11). -/
def MEM_CTX_POOL_USED_B (i : Nat) : Nat := 0x201001C + i * 0x40
/-- MEM_CTX_POOL_USED_B.CELLS. -/
def MEM_CTX_POOL_USED_B_CELLS (i : Nat) : Fld := ⟨MEM_CTX_POOL_USED_B i, 19, 0⟩
/-- MEM_CTX_HBM_WIN_BASE (Table 9-11). -/
def MEM_CTX_HBM_WIN_BASE (i : Nat) : Nat := 0x2010020 + i * 0x40
/-- MEM_CTX_HBM_WIN_BASE.MIB. -/
def MEM_CTX_HBM_WIN_BASE_MIB (i : Nat) : Fld := ⟨MEM_CTX_HBM_WIN_BASE i, 19, 0⟩
/-- MEM_CTX_HBM_WIN_SIZE (Table 9-11). -/
def MEM_CTX_HBM_WIN_SIZE (i : Nat) : Nat := 0x2010024 + i * 0x40
/-- MEM_CTX_HBM_WIN_SIZE.MIB. -/
def MEM_CTX_HBM_WIN_SIZE_MIB (i : Nat) : Fld := ⟨MEM_CTX_HBM_WIN_SIZE i, 19, 0⟩
/-- MEM_CTX_LAGOON_WIN (Table 9-11). -/
def MEM_CTX_LAGOON_WIN (i : Nat) : Nat := 0x2010028 + i * 0x40
/-- MEM_CTX_LAGOON_WIN.BASE. -/
def MEM_CTX_LAGOON_WIN_BASE (i : Nat) : Fld := ⟨MEM_CTX_LAGOON_WIN i, 30, 16⟩
/-- MEM_CTX_LAGOON_WIN.SIZE. -/
def MEM_CTX_LAGOON_WIN_SIZE (i : Nat) : Fld := ⟨MEM_CTX_LAGOON_WIN i, 14, 0⟩
/-- MEM_CTX_REFUSE_COUNT (Table 9-11). -/
def MEM_CTX_REFUSE_COUNT (i : Nat) : Nat := 0x201002C + i * 0x40
/-- MEM_CTX_REFUSE_COUNT.COUNT. -/
def MEM_CTX_REFUSE_COUNT_COUNT (i : Nat) : Fld := ⟨MEM_CTX_REFUSE_COUNT i, 31, 0⟩
/-- MEM_HOSTWIN_BASE_LO (Table 9-11). -/
def MEM_HOSTWIN_BASE_LO (i : Nat) (j : Nat) : Nat := 0x2020000 + i * 0x80 + j * 0x10
/-- MEM_HOSTWIN_BASE_LO.ADDR. -/
def MEM_HOSTWIN_BASE_LO_ADDR (i : Nat) (j : Nat) : Fld := ⟨MEM_HOSTWIN_BASE_LO i j, 31, 12⟩
/-- MEM_HOSTWIN_BASE_HI (Table 9-11). -/
def MEM_HOSTWIN_BASE_HI (i : Nat) (j : Nat) : Nat := 0x2020004 + i * 0x80 + j * 0x10
/-- MEM_HOSTWIN_BASE_HI.VALID. -/
def MEM_HOSTWIN_BASE_HI_VALID (i : Nat) (j : Nat) : Fld := ⟨MEM_HOSTWIN_BASE_HI i j, 31, 31⟩
/-- MEM_HOSTWIN_BASE_HI.PORT. -/
def MEM_HOSTWIN_BASE_HI_PORT (i : Nat) (j : Nat) : Fld := ⟨MEM_HOSTWIN_BASE_HI i j, 30, 30⟩
/-- MEM_HOSTWIN_BASE_HI.ADDR. -/
def MEM_HOSTWIN_BASE_HI_ADDR (i : Nat) (j : Nat) : Fld := ⟨MEM_HOSTWIN_BASE_HI i j, 29, 0⟩
/-- MEM_HOSTWIN_SIZE (Table 9-11). -/
def MEM_HOSTWIN_SIZE (i : Nat) (j : Nat) : Nat := 0x2020008 + i * 0x80 + j * 0x10
/-- MEM_HOSTWIN_SIZE.PAGES. -/
def MEM_HOSTWIN_SIZE_PAGES (i : Nat) (j : Nat) : Fld := ⟨MEM_HOSTWIN_SIZE i j, 31, 0⟩
/-- MEM_HOSTWIN_CTRL (Table 9-11). -/
def MEM_HOSTWIN_CTRL (i : Nat) (j : Nat) : Nat := 0x202000C + i * 0x80 + j * 0x10
/-- MEM_HOSTWIN_CTRL.WRITE. -/
def MEM_HOSTWIN_CTRL_WRITE (i : Nat) (j : Nat) : Fld := ⟨MEM_HOSTWIN_CTRL i j, 1, 1⟩
/-- MEM_HOSTWIN_CTRL.READ. -/
def MEM_HOSTWIN_CTRL_READ (i : Nat) (j : Nat) : Fld := ⟨MEM_HOSTWIN_CTRL i j, 0, 0⟩
/-- CTX_JOB (Table 10-11). -/
def CTX_JOB (i : Nat) : Nat := 0x300000 + i * 0x100
/-- CTX_JOB.JOB. -/
def CTX_JOB_JOB (i : Nat) : Fld := ⟨CTX_JOB i, 15, 0⟩
/-- CTX_CFG (Table 10-11). -/
def CTX_CFG (i : Nat) : Nat := 0x300004 + i * 0x100
/-- CTX_CFG.VF. -/
def CTX_CFG_VF (i : Nat) : Fld := ⟨CTX_CFG i, 22, 17⟩
/-- CTX_CFG.PORT. -/
def CTX_CFG_PORT (i : Nat) : Fld := ⟨CTX_CFG i, 16, 16⟩
/-- CTX_CFG.PFMT. -/
def CTX_CFG_PFMT (i : Nat) : Fld := ⟨CTX_CFG i, 14, 12⟩
/-- CTX_CFG.MODE. -/
def CTX_CFG_MODE (i : Nat) : Fld := ⟨CTX_CFG i, 8, 8⟩
/-- CTX_CFG.AXES. -/
def CTX_CFG_AXES (i : Nat) : Fld := ⟨CTX_CFG i, 7, 0⟩
/-- CTX_SYNC (Table 10-11). -/
def CTX_SYNC (i : Nat) : Nat := 0x300008 + i * 0x100
/-- CTX_SYNC.BASE. -/
def CTX_SYNC_BASE (i : Nat) : Fld := ⟨CTX_SYNC i, 29, 16⟩
/-- CTX_SYNC.COUNT. -/
def CTX_SYNC_COUNT (i : Nat) : Fld := ⟨CTX_SYNC i, 13, 0⟩
/-- CTX_CACHE (Table 10-11). -/
def CTX_CACHE (i : Nat) : Nat := 0x30000C + i * 0x100
/-- CTX_CACHE.MIB. -/
def CTX_CACHE_MIB (i : Nat) : Fld := ⟨CTX_CACHE i, 19, 0⟩
/-- CTX_STEPREC_LO (Table 10-11). -/
def CTX_STEPREC_LO (i : Nat) : Nat := 0x300010 + i * 0x100
/-- CTX_STEPREC_LO.ADDR. -/
def CTX_STEPREC_LO_ADDR (i : Nat) : Fld := ⟨CTX_STEPREC_LO i, 31, 6⟩
/-- CTX_STEPREC_HI (Table 10-11). -/
def CTX_STEPREC_HI (i : Nat) : Nat := 0x300014 + i * 0x100
/-- CTX_STEPREC_HI.ADDR. -/
def CTX_STEPREC_HI_ADDR (i : Nat) : Fld := ⟨CTX_STEPREC_HI i, 31, 0⟩
/-- CTX_CTRL (Table 10-11). -/
def CTX_CTRL (i : Nat) : Nat := 0x300018 + i * 0x100
/-- CTX_CTRL.CLOSE. -/
def CTX_CTRL_CLOSE (i : Nat) : Fld := ⟨CTX_CTRL i, 1, 1⟩
/-- CTX_CTRL.OPEN. -/
def CTX_CTRL_OPEN (i : Nat) : Fld := ⟨CTX_CTRL i, 0, 0⟩
/-- CTX_STATE (Table 10-11). -/
def CTX_STATE (i : Nat) : Nat := 0x30001C + i * 0x100
/-- CTX_STATE.OPEN_STATUS. -/
def CTX_STATE_OPEN_STATUS (i : Nat) : Fld := ⟨CTX_STATE i, 15, 8⟩
/-- CTX_STATE.STATE. -/
def CTX_STATE_STATE (i : Nat) : Fld := ⟨CTX_STATE i, 1, 0⟩
/-- CTX_TIDE (Table 10-11). -/
def CTX_TIDE (i : Nat) : Nat := 0x300020 + i * 0x100
/-- CTX_TIDE.TIDE. -/
def CTX_TIDE_TIDE (i : Nat) : Fld := ⟨CTX_TIDE i, 31, 0⟩
/-- CTX_EVENT (Table 10-11). -/
def CTX_EVENT (i : Nat) : Nat := 0x300024 + i * 0x100
/-- CTX_EVENT.QUEUE_ERROR. -/
def CTX_EVENT_QUEUE_ERROR (i : Nat) : Fld := ⟨CTX_EVENT i, 2, 2⟩
/-- CTX_EVENT.CAY_FENCED. -/
def CTX_EVENT_CAY_FENCED (i : Nat) : Fld := ⟨CTX_EVENT i, 1, 1⟩
/-- CTX_EVENT.FENCE_CHANGE. -/
def CTX_EVENT_FENCE_CHANGE (i : Nat) : Fld := ⟨CTX_EVENT i, 0, 0⟩
/-- CTX_ACTIVE (Table 10-11). -/
def CTX_ACTIVE (i : Nat) : Nat := 0x300028 + i * 0x100
/-- CTX_ACTIVE.COUNT. -/
def CTX_ACTIVE_COUNT (i : Nat) : Fld := ⟨CTX_ACTIVE i, 13, 0⟩
/-- QUE_RING_LO (Table 10-12). -/
def QUE_RING_LO (i : Nat) : Nat := 0x200000 + i * 0x100
/-- QUE_RING_LO.ADDR. -/
def QUE_RING_LO_ADDR (i : Nat) : Fld := ⟨QUE_RING_LO i, 31, 6⟩
/-- QUE_RING_HI (Table 10-12). -/
def QUE_RING_HI (i : Nat) : Nat := 0x200004 + i * 0x100
/-- QUE_RING_HI.ADDR. -/
def QUE_RING_HI_ADDR (i : Nat) : Fld := ⟨QUE_RING_HI i, 31, 0⟩
/-- QUE_SIZE (Table 10-12). -/
def QUE_SIZE (i : Nat) : Nat := 0x200008 + i * 0x100
/-- QUE_SIZE.LOG2. -/
def QUE_SIZE_LOG2 (i : Nat) : Fld := ⟨QUE_SIZE i, 4, 0⟩
/-- QUE_CTRL (Table 10-12). -/
def QUE_CTRL (i : Nat) : Nat := 0x20000C + i * 0x100
/-- QUE_CTRL.MIRROR. -/
def QUE_CTRL_MIRROR (i : Nat) : Fld := ⟨QUE_CTRL i, 2, 2⟩
/-- QUE_CTRL.COMPAT. -/
def QUE_CTRL_COMPAT (i : Nat) : Fld := ⟨QUE_CTRL i, 1, 1⟩
/-- QUE_CTRL.ENABLE. -/
def QUE_CTRL_ENABLE (i : Nat) : Fld := ⟨QUE_CTRL i, 0, 0⟩
/-- QUE_TAIL (Table 10-12). -/
def QUE_TAIL (i : Nat) : Nat := 0x200010 + i * 0x100
/-- QUE_TAIL.TAIL. -/
def QUE_TAIL_TAIL (i : Nat) : Fld := ⟨QUE_TAIL i, 31, 0⟩
/-- QUE_HEAD (Table 10-12). -/
def QUE_HEAD (i : Nat) : Nat := 0x200014 + i * 0x100
/-- QUE_HEAD.HEAD. -/
def QUE_HEAD_HEAD (i : Nat) : Fld := ⟨QUE_HEAD i, 31, 0⟩
/-- QUE_RETIRE (Table 10-12). -/
def QUE_RETIRE (i : Nat) : Nat := 0x200018 + i * 0x100
/-- QUE_RETIRE.RETIRE. -/
def QUE_RETIRE_RETIRE (i : Nat) : Fld := ⟨QUE_RETIRE i, 31, 0⟩
/-- QUE_DONE (Table 10-12). -/
def QUE_DONE (i : Nat) : Nat := 0x20001C + i * 0x100
/-- QUE_DONE.DONE. -/
def QUE_DONE_DONE (i : Nat) : Fld := ⟨QUE_DONE i, 31, 0⟩
/-- QUE_FREE (Table 10-12). -/
def QUE_FREE (i : Nat) : Nat := 0x200020 + i * 0x100
/-- QUE_FREE.FREE. -/
def QUE_FREE_FREE (i : Nat) : Fld := ⟨QUE_FREE i, 16, 0⟩
/-- QUE_ACTIVE (Table 10-12). -/
def QUE_ACTIVE (i : Nat) : Nat := 0x200024 + i * 0x100
/-- QUE_ACTIVE.COUNT. -/
def QUE_ACTIVE_COUNT (i : Nat) : Fld := ⟨QUE_ACTIVE i, 9, 0⟩
/-- QUE_CPL_LO (Table 10-12). -/
def QUE_CPL_LO (i : Nat) : Nat := 0x200028 + i * 0x100
/-- QUE_CPL_LO.ADDR. -/
def QUE_CPL_LO_ADDR (i : Nat) : Fld := ⟨QUE_CPL_LO i, 31, 4⟩
/-- QUE_CPL_HI (Table 10-12). -/
def QUE_CPL_HI (i : Nat) : Nat := 0x20002C + i * 0x100
/-- QUE_CPL_HI.ADDR. -/
def QUE_CPL_HI_ADDR (i : Nat) : Fld := ⟨QUE_CPL_HI i, 31, 0⟩
/-- QUE_MIRROR_LO (Table 10-12). -/
def QUE_MIRROR_LO (i : Nat) : Nat := 0x200030 + i * 0x100
/-- QUE_MIRROR_LO.ADDR. -/
def QUE_MIRROR_LO_ADDR (i : Nat) : Fld := ⟨QUE_MIRROR_LO i, 31, 6⟩
/-- QUE_MIRROR_HI (Table 10-12). -/
def QUE_MIRROR_HI (i : Nat) : Nat := 0x200034 + i * 0x100
/-- QUE_MIRROR_HI.ADDR. -/
def QUE_MIRROR_HI_ADDR (i : Nat) : Fld := ⟨QUE_MIRROR_HI i, 31, 0⟩
/-- QUE_ERR (Table 10-12). -/
def QUE_ERR (i : Nat) : Nat := 0x200038 + i * 0x100
/-- QUE_ERR.REWIND. -/
def QUE_ERR_REWIND (i : Nat) : Fld := ⟨QUE_ERR i, 4, 4⟩
/-- QUE_ERR.FETCH_FAIL. -/
def QUE_ERR_FETCH_FAIL (i : Nat) : Fld := ⟨QUE_ERR i, 3, 3⟩
/-- QUE_ERR.HOST_DOWN. -/
def QUE_ERR_HOST_DOWN (i : Nat) : Fld := ⟨QUE_ERR i, 2, 2⟩
/-- QUE_ERR.CONFIG. -/
def QUE_ERR_CONFIG (i : Nat) : Fld := ⟨QUE_ERR i, 1, 1⟩
/-- QUE_ERR.OVERRUN. -/
def QUE_ERR_OVERRUN (i : Nat) : Fld := ⟨QUE_ERR i, 0, 0⟩
/-- QUE_COMPAT_WAIT (Table 10-12). -/
def QUE_COMPAT_WAIT (i : Nat) : Nat := 0x20003C + i * 0x100
/-- QUE_COMPAT_WAIT.BLOCKED. -/
def QUE_COMPAT_WAIT_BLOCKED (i : Nat) : Fld := ⟨QUE_COMPAT_WAIT i, 31, 31⟩
/-- QUE_COMPAT_WAIT.ROOM. -/
def QUE_COMPAT_WAIT_ROOM (i : Nat) : Fld := ⟨QUE_COMPAT_WAIT i, 9, 0⟩
/-- QUE_COMPAT_HOLD (Table 10-12). -/
def QUE_COMPAT_HOLD (i : Nat) : Nat := 0x200040 + i * 0x100
/-- QUE_COMPAT_HOLD.TICKS. -/
def QUE_COMPAT_HOLD_TICKS (i : Nat) : Fld := ⟨QUE_COMPAT_HOLD i, 31, 0⟩
/-- SYNC_VALUE_LO (Table 10-13). -/
def SYNC_VALUE_LO (i : Nat) : Nat := 0x400000 + i * 0x20
/-- SYNC_VALUE_LO.VALUE. -/
def SYNC_VALUE_LO_VALUE (i : Nat) : Fld := ⟨SYNC_VALUE_LO i, 31, 0⟩
/-- SYNC_VALUE_HI (Table 10-13). -/
def SYNC_VALUE_HI (i : Nat) : Nat := 0x400004 + i * 0x20
/-- SYNC_VALUE_HI.VALUE. -/
def SYNC_VALUE_HI_VALUE (i : Nat) : Fld := ⟨SYNC_VALUE_HI i, 31, 0⟩
/-- SYNC_STATUS (Table 10-13). -/
def SYNC_STATUS (i : Nat) : Nat := 0x400008 + i * 0x20
/-- SYNC_STATUS.STATUS. -/
def SYNC_STATUS_STATUS (i : Nat) : Fld := ⟨SYNC_STATUS i, 7, 0⟩
/-- SYNC_POST (Table 10-13). -/
def SYNC_POST (i : Nat) : Nat := 0x40000C + i * 0x20
/-- SYNC_POST.ADD. -/
def SYNC_POST_ADD (i : Nat) : Fld := ⟨SYNC_POST i, 31, 0⟩
/-- SYNC_NOTIFY (Table 10-13). -/
def SYNC_NOTIFY (i : Nat) : Nat := 0x400010 + i * 0x20
/-- SYNC_NOTIFY.VECTOR. -/
def SYNC_NOTIFY_VECTOR (i : Nat) : Fld := ⟨SYNC_NOTIFY i, 15, 8⟩
/-- SYNC_NOTIFY.PORT. -/
def SYNC_NOTIFY_PORT (i : Nat) : Fld := ⟨SYNC_NOTIFY i, 5, 2⟩
/-- SYNC_NOTIFY.KIND. -/
def SYNC_NOTIFY_KIND (i : Nat) : Fld := ⟨SYNC_NOTIFY i, 1, 0⟩
/-- SYNC_NADDR_LO (Table 10-13). -/
def SYNC_NADDR_LO (i : Nat) : Nat := 0x400014 + i * 0x20
/-- SYNC_NADDR_LO.ADDR. -/
def SYNC_NADDR_LO_ADDR (i : Nat) : Fld := ⟨SYNC_NADDR_LO i, 31, 4⟩
/-- SYNC_NADDR_HI (Table 10-13). -/
def SYNC_NADDR_HI (i : Nat) : Nat := 0x400018 + i * 0x20
/-- SYNC_NADDR_HI.ADDR. -/
def SYNC_NADDR_HI_ADDR (i : Nat) : Fld := ⟨SYNC_NADDR_HI i, 31, 0⟩
/-- CAY_RUN (Table 11-22). -/
def CAY_RUN (i : Nat) : Nat := 0x1000000 + i * 0x10000
/-- CAY_RUN.STREAMS. -/
def CAY_RUN_STREAMS (i : Nat) : Fld := ⟨CAY_RUN i, 7, 4⟩
/-- CAY_RUN.WORK. -/
def CAY_RUN_WORK (i : Nat) : Fld := ⟨CAY_RUN i, 2, 0⟩
/-- CAY_KLIMIT (Table 11-22). -/
def CAY_KLIMIT (i : Nat) : Nat := 0x1000004 + i * 0x10000
/-- CAY_KLIMIT.COUNT. -/
def CAY_KLIMIT_COUNT (i : Nat) : Fld := ⟨CAY_KLIMIT i, 31, 0⟩
/-- CAY_TRAP0 (Table 11-22). -/
def CAY_TRAP0 (i : Nat) : Nat := 0x1000200 + i * 0x10000
/-- CAY_TRAP0.VALID. -/
def CAY_TRAP0_VALID (i : Nat) : Fld := ⟨CAY_TRAP0 i, 31, 31⟩
/-- CAY_TRAP0.KIND. -/
def CAY_TRAP0_KIND (i : Nat) : Fld := ⟨CAY_TRAP0 i, 30, 28⟩
/-- CAY_TRAP0.CAUSE. -/
def CAY_TRAP0_CAUSE (i : Nat) : Fld := ⟨CAY_TRAP0 i, 23, 16⟩
/-- CAY_TRAP0.JOB. -/
def CAY_TRAP0_JOB (i : Nat) : Fld := ⟨CAY_TRAP0 i, 15, 0⟩
/-- CAY_TRAP1 (Table 11-22). -/
def CAY_TRAP1 (i : Nat) : Nat := 0x1000204 + i * 0x10000
/-- CAY_TRAP1.PC. -/
def CAY_TRAP1_PC (i : Nat) : Fld := ⟨CAY_TRAP1 i, 27, 9⟩
/-- CAY_TRAP1.ARG. -/
def CAY_TRAP1_ARG (i : Nat) : Fld := ⟨CAY_TRAP1 i, 8, 0⟩
/-- CAY_TRAP2 (Table 11-22). -/
def CAY_TRAP2 (i : Nat) : Nat := 0x1000208 + i * 0x10000
/-- CAY_TRAP2.ADDR. -/
def CAY_TRAP2_ADDR (i : Nat) : Fld := ⟨CAY_TRAP2 i, 31, 0⟩
/-- CAY_TRAP3 (Table 11-22). -/
def CAY_TRAP3 (i : Nat) : Nat := 0x100020C + i * 0x10000
/-- CAY_TRAP3.ADDR. -/
def CAY_TRAP3_ADDR (i : Nat) : Fld := ⟨CAY_TRAP3 i, 31, 0⟩
/-- CAY_TRAP_COUNT (Table 11-22). -/
def CAY_TRAP_COUNT (i : Nat) : Nat := 0x1000210 + i * 0x10000
/-- CAY_TRAP_COUNT.COUNT. -/
def CAY_TRAP_COUNT_COUNT (i : Nat) : Fld := ⟨CAY_TRAP_COUNT i, 31, 0⟩
/-- CAY_KL_CTX (Table 11-22). -/
def CAY_KL_CTX (i : Nat) : Nat := 0x1000300 + i * 0x10000
/-- CAY_KL_CTX.FTZ. -/
def CAY_KL_CTX_FTZ (i : Nat) : Fld := ⟨CAY_KL_CTX i, 8, 8⟩
/-- CAY_KL_CTX.CTX. -/
def CAY_KL_CTX_CTX (i : Nat) : Fld := ⟨CAY_KL_CTX i, 5, 0⟩
/-- CAY_KL_IMAGE_LO (Table 11-22). -/
def CAY_KL_IMAGE_LO (i : Nat) : Nat := 0x1000304 + i * 0x10000
/-- CAY_KL_IMAGE_LO.ADDR. -/
def CAY_KL_IMAGE_LO_ADDR (i : Nat) : Fld := ⟨CAY_KL_IMAGE_LO i, 31, 0⟩
/-- CAY_KL_IMAGE_HI (Table 11-22). -/
def CAY_KL_IMAGE_HI (i : Nat) : Nat := 0x1000308 + i * 0x10000
/-- CAY_KL_IMAGE_HI.ADDR. -/
def CAY_KL_IMAGE_HI_ADDR (i : Nat) : Fld := ⟨CAY_KL_IMAGE_HI i, 31, 0⟩
/-- CAY_KL_CONST_LO (Table 11-22). -/
def CAY_KL_CONST_LO (i : Nat) : Nat := 0x100030C + i * 0x10000
/-- CAY_KL_CONST_LO.ADDR. -/
def CAY_KL_CONST_LO_ADDR (i : Nat) : Fld := ⟨CAY_KL_CONST_LO i, 31, 0⟩
/-- CAY_KL_CONST_HI (Table 11-22). -/
def CAY_KL_CONST_HI (i : Nat) : Nat := 0x1000310 + i * 0x10000
/-- CAY_KL_CONST_HI.ADDR. -/
def CAY_KL_CONST_HI_ADDR (i : Nat) : Fld := ⟨CAY_KL_CONST_HI i, 31, 0⟩
/-- CAY_KL_ARG_LO (Table 11-22). -/
def CAY_KL_ARG_LO (i : Nat) (j : Nat) : Nat := 0x1000320 + i * 0x10000 + j * 0x8
/-- CAY_KL_ARG_LO.VALUE. -/
def CAY_KL_ARG_LO_VALUE (i : Nat) (j : Nat) : Fld := ⟨CAY_KL_ARG_LO i j, 31, 0⟩
/-- CAY_KL_ARG_HI (Table 11-22). -/
def CAY_KL_ARG_HI (i : Nat) (j : Nat) : Nat := 0x1000324 + i * 0x10000 + j * 0x8
/-- CAY_KL_ARG_HI.VALUE. -/
def CAY_KL_ARG_HI_VALUE (i : Nat) (j : Nat) : Fld := ⟨CAY_KL_ARG_HI i j, 31, 0⟩
/-- CAY_KL_CTRL (Table 11-22). -/
def CAY_KL_CTRL (i : Nat) : Nat := 0x1000340 + i * 0x10000
/-- CAY_KL_CTRL.ABORT. -/
def CAY_KL_CTRL_ABORT (i : Nat) : Fld := ⟨CAY_KL_CTRL i, 1, 1⟩
/-- CAY_KL_CTRL.START. -/
def CAY_KL_CTRL_START (i : Nat) : Fld := ⟨CAY_KL_CTRL i, 0, 0⟩
/-- CAY_KL_STATE (Table 11-22). -/
def CAY_KL_STATE (i : Nat) : Nat := 0x1000344 + i * 0x10000
/-- CAY_KL_STATE.STATUS. -/
def CAY_KL_STATE_STATUS (i : Nat) : Fld := ⟨CAY_KL_STATE i, 15, 8⟩
/-- CAY_KL_STATE.STATE. -/
def CAY_KL_STATE_STATE (i : Nat) : Fld := ⟨CAY_KL_STATE i, 1, 0⟩
/-- LANE_PORT_CTRL (Table 12-13). -/
def LANE_PORT_CTRL (i : Nat) : Nat := 0x1C00000 + i * 0x1000
/-- LANE_PORT_CTRL.LEVEL_MIN. -/
def LANE_PORT_CTRL_LEVEL_MIN (i : Nat) : Fld := ⟨LANE_PORT_CTRL i, 15, 8⟩
/-- LANE_PORT_CTRL.MAXRATE. -/
def LANE_PORT_CTRL_MAXRATE (i : Nat) : Fld := ⟨LANE_PORT_CTRL i, 2, 1⟩
/-- LANE_PORT_CTRL.ENABLE. -/
def LANE_PORT_CTRL_ENABLE (i : Nat) : Fld := ⟨LANE_PORT_CTRL i, 0, 0⟩
/-- LANE_PORT_STATUS (Table 12-13). -/
def LANE_PORT_STATUS (i : Nat) : Nat := 0x1C00004 + i * 0x1000
/-- LANE_PORT_STATUS.CAUSE. -/
def LANE_PORT_STATUS_CAUSE (i : Nat) : Fld := ⟨LANE_PORT_STATUS i, 23, 20⟩
/-- LANE_PORT_STATUS.LEVEL. -/
def LANE_PORT_STATUS_LEVEL (i : Nat) : Fld := ⟨LANE_PORT_STATUS i, 19, 12⟩
/-- LANE_PORT_STATUS.RATE. -/
def LANE_PORT_STATUS_RATE (i : Nat) : Fld := ⟨LANE_PORT_STATUS i, 11, 10⟩
/-- LANE_PORT_STATUS.DEGRADED. -/
def LANE_PORT_STATUS_DEGRADED (i : Nat) : Fld := ⟨LANE_PORT_STATUS i, 9, 9⟩
/-- LANE_PORT_STATUS.STATE. -/
def LANE_PORT_STATUS_STATE (i : Nat) : Fld := ⟨LANE_PORT_STATUS i, 2, 0⟩
/-- LANE_PEER_SERIAL_LO (Table 12-13). -/
def LANE_PEER_SERIAL_LO (i : Nat) : Nat := 0x1C00008 + i * 0x1000
/-- LANE_PEER_SERIAL_LO.SERIAL. -/
def LANE_PEER_SERIAL_LO_SERIAL (i : Nat) : Fld := ⟨LANE_PEER_SERIAL_LO i, 31, 0⟩
/-- LANE_PEER_SERIAL_HI (Table 12-13). -/
def LANE_PEER_SERIAL_HI (i : Nat) : Nat := 0x1C0000C + i * 0x1000
/-- LANE_PEER_SERIAL_HI.SERIAL. -/
def LANE_PEER_SERIAL_HI_SERIAL (i : Nat) : Fld := ⟨LANE_PEER_SERIAL_HI i, 31, 0⟩
/-- LANE_PEER_INFO (Table 12-13). -/
def LANE_PEER_INFO (i : Nat) : Nat := 0x1C00010 + i * 0x1000
/-- LANE_PEER_INFO.PART. -/
def LANE_PEER_INFO_PART (i : Nat) : Fld := ⟨LANE_PEER_INFO i, 31, 16⟩
/-- LANE_PEER_INFO.LEVEL_MAX. -/
def LANE_PEER_INFO_LEVEL_MAX (i : Nat) : Fld := ⟨LANE_PEER_INFO i, 15, 8⟩
/-- LANE_PEER_INFO.PORT. -/
def LANE_PEER_INFO_PORT (i : Nat) : Fld := ⟨LANE_PEER_INFO i, 2, 0⟩
/-- LANE_RETRY_TIMEOUT (Table 12-13). -/
def LANE_RETRY_TIMEOUT (i : Nat) : Nat := 0x1C00014 + i * 0x1000
/-- LANE_RETRY_TIMEOUT.TICKS. -/
def LANE_RETRY_TIMEOUT_TICKS (i : Nat) : Fld := ⟨LANE_RETRY_TIMEOUT i, 31, 0⟩
/-- LANE_CHECK_FAIL (Table 12-13). -/
def LANE_CHECK_FAIL (i : Nat) : Nat := 0x1C00018 + i * 0x1000
/-- LANE_CHECK_FAIL.COUNT. -/
def LANE_CHECK_FAIL_COUNT (i : Nat) : Fld := ⟨LANE_CHECK_FAIL i, 31, 0⟩
/-- LANE_CELLS_RESENT (Table 12-13). -/
def LANE_CELLS_RESENT (i : Nat) : Nat := 0x1C0001C + i * 0x1000
/-- LANE_CELLS_RESENT.COUNT. -/
def LANE_CELLS_RESENT_COUNT (i : Nat) : Fld := ⟨LANE_CELLS_RESENT i, 31, 0⟩
/-- LANE_NAK_TX (Table 12-13). -/
def LANE_NAK_TX (i : Nat) : Nat := 0x1C00020 + i * 0x1000
/-- LANE_NAK_TX.COUNT. -/
def LANE_NAK_TX_COUNT (i : Nat) : Fld := ⟨LANE_NAK_TX i, 31, 0⟩
/-- LANE_DOWN_COUNT (Table 12-13). -/
def LANE_DOWN_COUNT (i : Nat) : Nat := 0x1C00024 + i * 0x1000
/-- LANE_DOWN_COUNT.COUNT. -/
def LANE_DOWN_COUNT_COUNT (i : Nat) : Fld := ⟨LANE_DOWN_COUNT i, 31, 0⟩
/-- LANE_SYNC_ERR (Table 12-13). -/
def LANE_SYNC_ERR (i : Nat) (j : Nat) : Nat := 0x1C00400 + i * 0x1000 + j * 0x20
/-- LANE_SYNC_ERR.COUNT. -/
def LANE_SYNC_ERR_COUNT (i : Nat) (j : Nat) : Fld := ⟨LANE_SYNC_ERR i j, 31, 0⟩
/-- LANE_RATEMATCH (Table 12-13). -/
def LANE_RATEMATCH (i : Nat) (j : Nat) : Nat := 0x1C00404 + i * 0x1000 + j * 0x20
/-- LANE_RATEMATCH.DELETE. -/
def LANE_RATEMATCH_DELETE (i : Nat) (j : Nat) : Fld := ⟨LANE_RATEMATCH i j, 31, 16⟩
/-- LANE_RATEMATCH.INSERT. -/
def LANE_RATEMATCH_INSERT (i : Nat) (j : Nat) : Fld := ⟨LANE_RATEMATCH i j, 15, 0⟩
/-- LANE_EYE_CTRL (Table 12-13). -/
def LANE_EYE_CTRL (i : Nat) (j : Nat) : Nat := 0x1C00408 + i * 0x1000 + j * 0x20
/-- LANE_EYE_CTRL.LOG2. -/
def LANE_EYE_CTRL_LOG2 (i : Nat) (j : Nat) : Fld := ⟨LANE_EYE_CTRL i j, 29, 24⟩
/-- LANE_EYE_CTRL.VOFF. -/
def LANE_EYE_CTRL_VOFF (i : Nat) (j : Nat) : Fld := ⟨LANE_EYE_CTRL i j, 23, 16⟩
/-- LANE_EYE_CTRL.HOFF. -/
def LANE_EYE_CTRL_HOFF (i : Nat) (j : Nat) : Fld := ⟨LANE_EYE_CTRL i j, 13, 8⟩
/-- LANE_EYE_CTRL.START. -/
def LANE_EYE_CTRL_START (i : Nat) (j : Nat) : Fld := ⟨LANE_EYE_CTRL i j, 0, 0⟩
/-- LANE_EYE_RESULT (Table 12-13). -/
def LANE_EYE_RESULT (i : Nat) (j : Nat) : Nat := 0x1C0040C + i * 0x1000 + j * 0x20
/-- LANE_EYE_RESULT.DONE. -/
def LANE_EYE_RESULT_DONE (i : Nat) (j : Nat) : Fld := ⟨LANE_EYE_RESULT i j, 31, 31⟩
/-- LANE_EYE_RESULT.COUNT. -/
def LANE_EYE_RESULT_COUNT (i : Nat) (j : Nat) : Fld := ⟨LANE_EYE_RESULT i j, 30, 0⟩
/-- ACC_CTRL (Table 12-13). -/
def ACC_CTRL (i : Nat) : Nat := 0x1C10000 + i * 0x100
/-- ACC_CTRL.MAXRATE. -/
def ACC_CTRL_MAXRATE (i : Nat) : Fld := ⟨ACC_CTRL i, 3, 2⟩
/-- ACC_CTRL.AN. -/
def ACC_CTRL_AN (i : Nat) : Fld := ⟨ACC_CTRL i, 1, 1⟩
/-- ACC_CTRL.ENABLE. -/
def ACC_CTRL_ENABLE (i : Nat) : Fld := ⟨ACC_CTRL i, 0, 0⟩
/-- ACC_STATUS (Table 12-13). -/
def ACC_STATUS (i : Nat) : Nat := 0x1C10004 + i * 0x100
/-- ACC_STATUS.RATE. -/
def ACC_STATUS_RATE (i : Nat) : Fld := ⟨ACC_STATUS i, 5, 4⟩
/-- ACC_STATUS.STATE. -/
def ACC_STATUS_STATE (i : Nat) : Fld := ⟨ACC_STATUS i, 1, 0⟩
/-- ACC_DROP_COUNT (Table 12-13). -/
def ACC_DROP_COUNT (i : Nat) : Nat := 0x1C10008 + i * 0x100
/-- ACC_DROP_COUNT.COUNT. -/
def ACC_DROP_COUNT_COUNT (i : Nat) : Fld := ⟨ACC_DROP_COUNT i, 31, 0⟩
/-- ACC_FCS_COUNT (Table 12-13). -/
def ACC_FCS_COUNT (i : Nat) : Nat := 0x1C1000C + i * 0x100
/-- ACC_FCS_COUNT.COUNT. -/
def ACC_FCS_COUNT_COUNT (i : Nat) : Fld := ⟨ACC_FCS_COUNT i, 31, 0⟩
/-- ACC_RESEND_COUNT (Table 12-13). -/
def ACC_RESEND_COUNT (i : Nat) : Nat := 0x1C10010 + i * 0x100
/-- ACC_RESEND_COUNT.COUNT. -/
def ACC_RESEND_COUNT_COUNT (i : Nat) : Fld := ⟨ACC_RESEND_COUNT i, 31, 0⟩
/-- ACC_RTO (Table 12-13). -/
def ACC_RTO (i : Nat) : Nat := 0x1C10014 + i * 0x100
/-- ACC_RTO.TICKS. -/
def ACC_RTO_TICKS (i : Nat) : Fld := ⟨ACC_RTO i, 31, 0⟩
/-- ACC_UDP_PORT (Table 12-13). -/
def ACC_UDP_PORT : Nat := 0x1C11000
/-- ACC_UDP_PORT.PORT. -/
def ACC_UDP_PORT_PORT : Fld := ⟨ACC_UDP_PORT, 15, 0⟩
/-- ACC_MEM_TIMEOUT (Table 12-13). -/
def ACC_MEM_TIMEOUT : Nat := 0x1C11004
/-- ACC_MEM_TIMEOUT.TICKS. -/
def ACC_MEM_TIMEOUT_TICKS : Fld := ⟨ACC_MEM_TIMEOUT, 31, 0⟩
/-- HOSTIF_PORT (Table 12-13). -/
def HOSTIF_PORT (i : Nat) : Nat := 0x100000 + i * 0x4
/-- HOSTIF_PORT.WIDTH. -/
def HOSTIF_PORT_WIDTH (i : Nat) : Fld := ⟨HOSTIF_PORT i, 7, 4⟩
/-- HOSTIF_PORT.GEN. -/
def HOSTIF_PORT_GEN (i : Nat) : Fld := ⟨HOSTIF_PORT i, 3, 1⟩
/-- HOSTIF_PORT.UP. -/
def HOSTIF_PORT_UP (i : Nat) : Fld := ⟨HOSTIF_PORT i, 0, 0⟩
/-- HOSTIF_LOSS_COUNT (Table 12-13). -/
def HOSTIF_LOSS_COUNT (i : Nat) : Nat := 0x100010 + i * 0x4
/-- HOSTIF_LOSS_COUNT.COUNT. -/
def HOSTIF_LOSS_COUNT_COUNT (i : Nat) : Fld := ⟨HOSTIF_LOSS_COUNT i, 31, 0⟩
/-- TEL_REFUSE_COUNT (Table 12-14). -/
def TEL_REFUSE_COUNT (i : Nat) : Nat := 0x3000000 + i * 0x4
/-- TEL_REFUSE_COUNT.LEGACY. -/
def TEL_REFUSE_COUNT_LEGACY (i : Nat) : Fld := ⟨TEL_REFUSE_COUNT i, 31, 24⟩
/-- TEL_REFUSE_COUNT.LEVEL. -/
def TEL_REFUSE_COUNT_LEVEL (i : Nat) : Fld := ⟨TEL_REFUSE_COUNT i, 23, 16⟩
/-- TEL_REFUSE_COUNT.MISWIRE. -/
def TEL_REFUSE_COUNT_MISWIRE (i : Nat) : Fld := ⟨TEL_REFUSE_COUNT i, 15, 8⟩
/-- TEL_REFUSE_COUNT.CREDIT. -/
def TEL_REFUSE_COUNT_CREDIT (i : Nat) : Fld := ⟨TEL_REFUSE_COUNT i, 7, 0⟩
/-- TEL_REFUSE_LOG0 (Table 12-14). -/
def TEL_REFUSE_LOG0 : Nat := 0x3000020
/-- TEL_REFUSE_LOG0.VALID. -/
def TEL_REFUSE_LOG0_VALID : Fld := ⟨TEL_REFUSE_LOG0, 31, 31⟩
/-- TEL_REFUSE_LOG0.PORT. -/
def TEL_REFUSE_LOG0_PORT : Fld := ⟨TEL_REFUSE_LOG0, 26, 24⟩
/-- TEL_REFUSE_LOG0.CAUSE. -/
def TEL_REFUSE_LOG0_CAUSE : Fld := ⟨TEL_REFUSE_LOG0, 23, 20⟩
/-- TEL_REFUSE_LOG0.PART. -/
def TEL_REFUSE_LOG0_PART : Fld := ⟨TEL_REFUSE_LOG0, 15, 0⟩
/-- TEL_REFUSE_LOG1 (Table 12-14). -/
def TEL_REFUSE_LOG1 : Nat := 0x3000024
/-- TEL_REFUSE_LOG1.SERIAL. -/
def TEL_REFUSE_LOG1_SERIAL : Fld := ⟨TEL_REFUSE_LOG1, 31, 0⟩
/-- TEL_REFUSE_LOG2 (Table 12-14). -/
def TEL_REFUSE_LOG2 : Nat := 0x3000028
/-- TEL_REFUSE_LOG2.SERIAL. -/
def TEL_REFUSE_LOG2_SERIAL : Fld := ⟨TEL_REFUSE_LOG2, 31, 0⟩
/-- HEALTH_CTRL (Table 13-11). -/
def HEALTH_CTRL : Nat := 0x2400000
/-- HEALTH_CTRL.THRESH. -/
def HEALTH_CTRL_THRESH : Fld := ⟨HEALTH_CTRL, 31, 16⟩
/-- HEALTH_CTRL.MIN_CAYS. -/
def HEALTH_CTRL_MIN_CAYS : Fld := ⟨HEALTH_CTRL, 15, 8⟩
/-- HEALTH_CTRL.SOFT_EN. -/
def HEALTH_CTRL_SOFT_EN : Fld := ⟨HEALTH_CTRL, 0, 0⟩
/-- HEALTH_BUDGET_WINDOW (Table 13-11). -/
def HEALTH_BUDGET_WINDOW : Nat := 0x2400004
/-- HEALTH_BUDGET_WINDOW.TICKS. -/
def HEALTH_BUDGET_WINDOW_TICKS : Fld := ⟨HEALTH_BUDGET_WINDOW, 31, 0⟩
/-- HEALTH_BUDGET (Table 13-11). -/
def HEALTH_BUDGET : Nat := 0x2400008
/-- HEALTH_BUDGET.USED. -/
def HEALTH_BUDGET_USED : Fld := ⟨HEALTH_BUDGET, 7, 4⟩
/-- HEALTH_BUDGET.MAX. -/
def HEALTH_BUDGET_MAX : Fld := ⟨HEALTH_BUDGET, 3, 0⟩
/-- HEALTH_BEACON (Table 13-11). -/
def HEALTH_BEACON : Nat := 0x240000C
/-- HEALTH_BEACON.INTERVAL. -/
def HEALTH_BEACON_INTERVAL : Fld := ⟨HEALTH_BEACON, 31, 16⟩
/-- HEALTH_BEACON.FENCE_MISS. -/
def HEALTH_BEACON_FENCE_MISS : Fld := ⟨HEALTH_BEACON, 15, 8⟩
/-- HEALTH_BEACON.SUSPECT_MISS. -/
def HEALTH_BEACON_SUSPECT_MISS : Fld := ⟨HEALTH_BEACON, 7, 0⟩
/-- HEALTH_WATCHDOG (Table 13-11). -/
def HEALTH_WATCHDOG : Nat := 0x2400010
/-- HEALTH_WATCHDOG.TICKS. -/
def HEALTH_WATCHDOG_TICKS : Fld := ⟨HEALTH_WATCHDOG, 31, 0⟩
/-- HEALTH_KICK (Table 13-11). -/
def HEALTH_KICK : Nat := 0x2400014
/-- HEALTH_KICK.KICK. -/
def HEALTH_KICK_KICK : Fld := ⟨HEALTH_KICK, 0, 0⟩
/-- HEALTH_LEVEL (Table 13-11). -/
def HEALTH_LEVEL : Nat := 0x2400018
/-- HEALTH_LEVEL.OWN. -/
def HEALTH_LEVEL_OWN : Fld := ⟨HEALTH_LEVEL, 7, 0⟩
/-- HEALTH_SPARES (Table 13-11). -/
def HEALTH_SPARES : Nat := 0x240001C
/-- HEALTH_SPARES.FREE_B. -/
def HEALTH_SPARES_FREE_B : Fld := ⟨HEALTH_SPARES, 5, 4⟩
/-- HEALTH_SPARES.FREE_A. -/
def HEALTH_SPARES_FREE_A : Fld := ⟨HEALTH_SPARES, 1, 0⟩
/-- HEALTH_FENCE_COUNT (Table 13-11). -/
def HEALTH_FENCE_COUNT : Nat := 0x2400020
/-- HEALTH_FENCE_COUNT.SOFT. -/
def HEALTH_FENCE_COUNT_SOFT : Fld := ⟨HEALTH_FENCE_COUNT, 31, 16⟩
/-- HEALTH_FENCE_COUNT.HARD. -/
def HEALTH_FENCE_COUNT_HARD : Fld := ⟨HEALTH_FENCE_COUNT, 15, 0⟩
/-- HEALTH_SOFT_DEFER_COUNT (Table 13-11). -/
def HEALTH_SOFT_DEFER_COUNT : Nat := 0x2400024
/-- HEALTH_SOFT_DEFER_COUNT.COUNT. -/
def HEALTH_SOFT_DEFER_COUNT_COUNT : Fld := ⟨HEALTH_SOFT_DEFER_COUNT, 31, 0⟩
/-- HEALTH_READMIT_FAIL_COUNT (Table 13-11). -/
def HEALTH_READMIT_FAIL_COUNT : Nat := 0x2400028
/-- HEALTH_READMIT_FAIL_COUNT.COUNT. -/
def HEALTH_READMIT_FAIL_COUNT_COUNT : Fld := ⟨HEALTH_READMIT_FAIL_COUNT, 31, 0⟩
/-- HEALTH_VIEW_SUMMARY (Table 13-11). -/
def HEALTH_VIEW_SUMMARY : Nat := 0x240002C
/-- HEALTH_VIEW_SUMMARY.DOWN_LINKS. -/
def HEALTH_VIEW_SUMMARY_DOWN_LINKS : Fld := ⟨HEALTH_VIEW_SUMMARY, 31, 16⟩
/-- HEALTH_VIEW_SUMMARY.FENCED. -/
def HEALTH_VIEW_SUMMARY_FENCED : Fld := ⟨HEALTH_VIEW_SUMMARY, 13, 0⟩
/-- HEALTH_SELF (Table 13-11). -/
def HEALTH_SELF : Nat := 0x2400030
/-- HEALTH_SELF.FENCED. -/
def HEALTH_SELF_FENCED : Fld := ⟨HEALTH_SELF, 31, 31⟩
/-- HEALTH_SELF.CAUSE. -/
def HEALTH_SELF_CAUSE : Fld := ⟨HEALTH_SELF, 27, 24⟩
/-- HEALTH_SELF.EPOCH. -/
def HEALTH_SELF_EPOCH : Fld := ⟨HEALTH_SELF, 15, 0⟩
/-- HEALTH_SELF_FENCE (Table 13-11). -/
def HEALTH_SELF_FENCE : Nat := 0x2400034
/-- HEALTH_SELF_FENCE.MANAGER. -/
def HEALTH_SELF_FENCE_MANAGER : Fld := ⟨HEALTH_SELF_FENCE, 1, 1⟩
/-- HEALTH_SELF_FENCE.SELF. -/
def HEALTH_SELF_FENCE_SELF : Fld := ⟨HEALTH_SELF_FENCE, 0, 0⟩
/-- HEALTH_READMIT (Table 13-11). -/
def HEALTH_READMIT : Nat := 0x2400038
/-- HEALTH_READMIT.REQUEST. -/
def HEALTH_READMIT_REQUEST : Fld := ⟨HEALTH_READMIT, 3, 3⟩
/-- HEALTH_READMIT.PORT. -/
def HEALTH_READMIT_PORT : Fld := ⟨HEALTH_READMIT, 2, 0⟩
/-- HEALTH_FENCE_LOG0 (Table 13-11). -/
def HEALTH_FENCE_LOG0 : Nat := 0x2400040
/-- HEALTH_FENCE_LOG0.VALID. -/
def HEALTH_FENCE_LOG0_VALID : Fld := ⟨HEALTH_FENCE_LOG0, 31, 31⟩
/-- HEALTH_FENCE_LOG0.UNIT. -/
def HEALTH_FENCE_LOG0_UNIT : Fld := ⟨HEALTH_FENCE_LOG0, 30, 28⟩
/-- HEALTH_FENCE_LOG0.KIND. -/
def HEALTH_FENCE_LOG0_KIND : Fld := ⟨HEALTH_FENCE_LOG0, 27, 24⟩
/-- HEALTH_FENCE_LOG0.STATUS. -/
def HEALTH_FENCE_LOG0_STATUS : Fld := ⟨HEALTH_FENCE_LOG0, 23, 16⟩
/-- HEALTH_FENCE_LOG0.SUBJECT. -/
def HEALTH_FENCE_LOG0_SUBJECT : Fld := ⟨HEALTH_FENCE_LOG0, 15, 0⟩
/-- HEALTH_CAY (Table 13-11). -/
def HEALTH_CAY (i : Nat) : Nat := 0x2401000 + i * 0x4
/-- HEALTH_CAY.STATE. -/
def HEALTH_CAY_STATE (i : Nat) : Fld := ⟨HEALTH_CAY i, 31, 29⟩
/-- HEALTH_CAY.SCORE. -/
def HEALTH_CAY_SCORE (i : Nat) : Fld := ⟨HEALTH_CAY i, 15, 0⟩
/-- HEALTH_PORT_SCORE (Table 13-11). -/
def HEALTH_PORT_SCORE (i : Nat) : Nat := 0x2401200 + i * 0x4
/-- HEALTH_PORT_SCORE.SUSPECT. -/
def HEALTH_PORT_SCORE_SUSPECT (i : Nat) : Fld := ⟨HEALTH_PORT_SCORE i, 16, 16⟩
/-- HEALTH_PORT_SCORE.SCORE. -/
def HEALTH_PORT_SCORE_SCORE (i : Nat) : Fld := ⟨HEALTH_PORT_SCORE i, 15, 0⟩
/-- HEALTH_MODULE_SCORE (Table 13-11). -/
def HEALTH_MODULE_SCORE : Nat := 0x2401280
/-- HEALTH_MODULE_SCORE.SCORE. -/
def HEALTH_MODULE_SCORE_SCORE : Fld := ⟨HEALTH_MODULE_SCORE, 15, 0⟩
/-- HEALTH_PORT_OWNER (Table 13-11). -/
def HEALTH_PORT_OWNER (i : Nat) : Nat := 0x2401300 + i * 0x4
/-- HEALTH_PORT_OWNER.VALID. -/
def HEALTH_PORT_OWNER_VALID (i : Nat) : Fld := ⟨HEALTH_PORT_OWNER i, 31, 31⟩
/-- HEALTH_PORT_OWNER.CONTEXT. -/
def HEALTH_PORT_OWNER_CONTEXT (i : Nat) : Fld := ⟨HEALTH_PORT_OWNER i, 29, 24⟩
/-- HEALTH_PORT_OWNER.NEXT_VALID. -/
def HEALTH_PORT_OWNER_NEXT_VALID (i : Nat) : Fld := ⟨HEALTH_PORT_OWNER i, 15, 15⟩
/-- HEALTH_PORT_OWNER.NEXT_CONTEXT. -/
def HEALTH_PORT_OWNER_NEXT_CONTEXT (i : Nat) : Fld := ⟨HEALTH_PORT_OWNER i, 5, 0⟩
/-- HEALTH_VIEW (Table 13-11). -/
def HEALTH_VIEW (i : Nat) : Nat := 0x2410000 + i * 0x4
/-- HEALTH_VIEW.FENCED. -/
def HEALTH_VIEW_FENCED (i : Nat) : Fld := ⟨HEALTH_VIEW i, 31, 31⟩
/-- HEALTH_VIEW.DOWN_Z. -/
def HEALTH_VIEW_DOWN_Z (i : Nat) : Fld := ⟨HEALTH_VIEW i, 30, 30⟩
/-- HEALTH_VIEW.DOWN_Y. -/
def HEALTH_VIEW_DOWN_Y (i : Nat) : Fld := ⟨HEALTH_VIEW i, 29, 29⟩
/-- HEALTH_VIEW.DOWN_X. -/
def HEALTH_VIEW_DOWN_X (i : Nat) : Fld := ⟨HEALTH_VIEW i, 28, 28⟩
/-- HEALTH_VIEW.CAUSE. -/
def HEALTH_VIEW_CAUSE (i : Nat) : Fld := ⟨HEALTH_VIEW i, 27, 24⟩
/-- HEALTH_VIEW.EPOCH. -/
def HEALTH_VIEW_EPOCH (i : Nat) : Fld := ⟨HEALTH_VIEW i, 15, 0⟩
/-- TRUST_STATE (Table 14-8). -/
def TRUST_STATE : Nat := 0x2C00000
/-- TRUST_STATE.CAUSE. -/
def TRUST_STATE_CAUSE : Fld := ⟨TRUST_STATE, 15, 8⟩
/-- TRUST_STATE.OWNER_SET. -/
def TRUST_STATE_OWNER_SET : Fld := ⟨TRUST_STATE, 6, 6⟩
/-- TRUST_STATE.TRIAL. -/
def TRUST_STATE_TRIAL : Fld := ⟨TRUST_STATE, 5, 5⟩
/-- TRUST_STATE.SLOT. -/
def TRUST_STATE_SLOT : Fld := ⟨TRUST_STATE, 4, 4⟩
/-- TRUST_STATE.STATE. -/
def TRUST_STATE_STATE : Fld := ⟨TRUST_STATE, 2, 0⟩
/-- TRUST_SVN (Table 14-8). -/
def TRUST_SVN : Nat := 0x2C00004
/-- TRUST_SVN.SVN. -/
def TRUST_SVN_SVN : Fld := ⟨TRUST_SVN, 31, 0⟩
/-- TRUST_FLOOR (Table 14-8). -/
def TRUST_FLOOR : Nat := 0x2C00008
/-- TRUST_FLOOR.FLOOR. -/
def TRUST_FLOOR_FLOOR : Fld := ⟨TRUST_FLOOR, 31, 0⟩
/-- TRUST_VERSION (Table 14-8). -/
def TRUST_VERSION : Nat := 0x2C0000C
/-- TRUST_VERSION.VERSION. -/
def TRUST_VERSION_VERSION : Fld := ⟨TRUST_VERSION, 31, 0⟩
/-- TRUST_CTRL (Table 14-8). -/
def TRUST_CTRL : Nat := 0x2C00010
/-- TRUST_CTRL.RESET. -/
def TRUST_CTRL_RESET : Fld := ⟨TRUST_CTRL, 1, 1⟩
/-- TRUST_CTRL.CONFIRM. -/
def TRUST_CTRL_CONFIRM : Fld := ⟨TRUST_CTRL, 0, 0⟩
/-- TRUST_UPDATE_ADDR_LO (Table 14-8). -/
def TRUST_UPDATE_ADDR_LO : Nat := 0x2C00014
/-- TRUST_UPDATE_ADDR_LO.ADDR. -/
def TRUST_UPDATE_ADDR_LO_ADDR : Fld := ⟨TRUST_UPDATE_ADDR_LO, 31, 0⟩
/-- TRUST_UPDATE_ADDR_HI (Table 14-8). -/
def TRUST_UPDATE_ADDR_HI : Nat := 0x2C00018
/-- TRUST_UPDATE_ADDR_HI.ADDR. -/
def TRUST_UPDATE_ADDR_HI_ADDR : Fld := ⟨TRUST_UPDATE_ADDR_HI, 31, 0⟩
/-- TRUST_UPDATE_LEN (Table 14-8). -/
def TRUST_UPDATE_LEN : Nat := 0x2C0001C
/-- TRUST_UPDATE_LEN.BYTES. -/
def TRUST_UPDATE_LEN_BYTES : Fld := ⟨TRUST_UPDATE_LEN, 31, 0⟩
/-- TRUST_UPDATE_CTRL (Table 14-8). -/
def TRUST_UPDATE_CTRL : Nat := 0x2C00020
/-- TRUST_UPDATE_CTRL.GO. -/
def TRUST_UPDATE_CTRL_GO : Fld := ⟨TRUST_UPDATE_CTRL, 0, 0⟩
/-- TRUST_UPDATE_STATUS (Table 14-8). -/
def TRUST_UPDATE_STATUS : Nat := 0x2C00024
/-- TRUST_UPDATE_STATUS.RESULT. -/
def TRUST_UPDATE_STATUS_RESULT : Fld := ⟨TRUST_UPDATE_STATUS, 15, 8⟩
/-- TRUST_UPDATE_STATUS.STATE. -/
def TRUST_UPDATE_STATUS_STATE : Fld := ⟨TRUST_UPDATE_STATUS, 1, 0⟩
/-- TRUST_ATTEST_ADDR_LO (Table 14-8). -/
def TRUST_ATTEST_ADDR_LO : Nat := 0x2C00028
/-- TRUST_ATTEST_ADDR_LO.ADDR. -/
def TRUST_ATTEST_ADDR_LO_ADDR : Fld := ⟨TRUST_ATTEST_ADDR_LO, 31, 0⟩
/-- TRUST_ATTEST_ADDR_HI (Table 14-8). -/
def TRUST_ATTEST_ADDR_HI : Nat := 0x2C0002C
/-- TRUST_ATTEST_ADDR_HI.ADDR. -/
def TRUST_ATTEST_ADDR_HI_ADDR : Fld := ⟨TRUST_ATTEST_ADDR_HI, 31, 0⟩
/-- TRUST_ATTEST_CTRL (Table 14-8). -/
def TRUST_ATTEST_CTRL : Nat := 0x2C00030
/-- TRUST_ATTEST_CTRL.GO. -/
def TRUST_ATTEST_CTRL_GO : Fld := ⟨TRUST_ATTEST_CTRL, 0, 0⟩
/-- TRUST_ATTEST_STATUS (Table 14-8). -/
def TRUST_ATTEST_STATUS : Nat := 0x2C00034
/-- TRUST_ATTEST_STATUS.STATE. -/
def TRUST_ATTEST_STATUS_STATE : Fld := ⟨TRUST_ATTEST_STATUS, 1, 0⟩
/-- TRUST_OWNER_ADDR_LO (Table 14-8). -/
def TRUST_OWNER_ADDR_LO : Nat := 0x2C00038
/-- TRUST_OWNER_ADDR_LO.ADDR. -/
def TRUST_OWNER_ADDR_LO_ADDR : Fld := ⟨TRUST_OWNER_ADDR_LO, 31, 0⟩
/-- TRUST_OWNER_ADDR_HI (Table 14-8). -/
def TRUST_OWNER_ADDR_HI : Nat := 0x2C0003C
/-- TRUST_OWNER_ADDR_HI.ADDR. -/
def TRUST_OWNER_ADDR_HI_ADDR : Fld := ⟨TRUST_OWNER_ADDR_HI, 31, 0⟩
/-- TRUST_OWNER_CTRL (Table 14-8). -/
def TRUST_OWNER_CTRL : Nat := 0x2C00040
/-- TRUST_OWNER_CTRL.LEN. -/
def TRUST_OWNER_CTRL_LEN : Fld := ⟨TRUST_OWNER_CTRL, 12, 1⟩
/-- TRUST_OWNER_CTRL.SET. -/
def TRUST_OWNER_CTRL_SET : Fld := ⟨TRUST_OWNER_CTRL, 0, 0⟩
/-- POWER_CAP (Table 15-13). -/
def POWER_CAP : Nat := 0x2800000
/-- POWER_CAP.WATTS. -/
def POWER_CAP_WATTS : Fld := ⟨POWER_CAP, 11, 0⟩
/-- POWER_INPUT (Table 15-13). -/
def POWER_INPUT : Nat := 0x2800004
/-- POWER_INPUT.WATTS. -/
def POWER_INPUT_WATTS : Fld := ⟨POWER_INPUT, 31, 16⟩
/-- POWER_INPUT.VIN. -/
def POWER_INPUT_VIN : Fld := ⟨POWER_INPUT, 15, 0⟩
/-- POWER_VCORE_A (Table 15-13). -/
def POWER_VCORE_A : Nat := 0x2800008
/-- POWER_VCORE_A.TARGET. -/
def POWER_VCORE_A_TARGET : Fld := ⟨POWER_VCORE_A, 29, 20⟩
/-- POWER_VCORE_A.VMIN. -/
def POWER_VCORE_A_VMIN : Fld := ⟨POWER_VCORE_A, 19, 10⟩
/-- POWER_VCORE_A.PRESENT. -/
def POWER_VCORE_A_PRESENT : Fld := ⟨POWER_VCORE_A, 9, 0⟩
/-- POWER_VCORE_B (Table 15-13). -/
def POWER_VCORE_B : Nat := 0x280000C
/-- POWER_VCORE_B.TARGET. -/
def POWER_VCORE_B_TARGET : Fld := ⟨POWER_VCORE_B, 29, 20⟩
/-- POWER_VCORE_B.VMIN. -/
def POWER_VCORE_B_VMIN : Fld := ⟨POWER_VCORE_B, 19, 10⟩
/-- POWER_VCORE_B.PRESENT. -/
def POWER_VCORE_B_PRESENT : Fld := ⟨POWER_VCORE_B, 9, 0⟩
/-- POWER_TEMP (Table 15-13). -/
def POWER_TEMP : Nat := 0x2800010
/-- POWER_TEMP.INLET. -/
def POWER_TEMP_INLET : Fld := ⟨POWER_TEMP, 23, 16⟩
/-- POWER_TEMP.TJ_B. -/
def POWER_TEMP_TJ_B : Fld := ⟨POWER_TEMP, 15, 8⟩
/-- POWER_TEMP.TJ_A. -/
def POWER_TEMP_TJ_A : Fld := ⟨POWER_TEMP, 7, 0⟩
/-- POWER_EVENT (Table 15-13). -/
def POWER_EVENT : Nat := 0x2800014
/-- POWER_EVENT.REF_LOST. -/
def POWER_EVENT_REF_LOST : Fld := ⟨POWER_EVENT, 4, 4⟩
/-- POWER_EVENT.INPUT_LOW. -/
def POWER_EVENT_INPUT_LOW : Fld := ⟨POWER_EVENT, 3, 3⟩
/-- POWER_EVENT.CAP_SATURATED. -/
def POWER_EVENT_CAP_SATURATED : Fld := ⟨POWER_EVENT, 2, 2⟩
/-- POWER_EVENT.THERM_WARN. -/
def POWER_EVENT_THERM_WARN : Fld := ⟨POWER_EVENT, 1, 1⟩
/-- POWER_EVENT.THROTTLE. -/
def POWER_EVENT_THROTTLE : Fld := ⟨POWER_EVENT, 0, 0⟩
/-- POWER_THROTTLE_COUNT (Table 15-13). -/
def POWER_THROTTLE_COUNT : Nat := 0x2800018
/-- POWER_THROTTLE_COUNT.COUNT. -/
def POWER_THROTTLE_COUNT_COUNT : Fld := ⟨POWER_THROTTLE_COUNT, 31, 0⟩
/-- POWER_LAST_SHUTDOWN (Table 15-13). -/
def POWER_LAST_SHUTDOWN : Nat := 0x280001C
/-- POWER_LAST_SHUTDOWN.CAUSE. -/
def POWER_LAST_SHUTDOWN_CAUSE : Fld := ⟨POWER_LAST_SHUTDOWN, 3, 0⟩
/-- POWER_RAIL (Table 15-13). -/
def POWER_RAIL (i : Nat) : Nat := 0x2800100 + i * 0x4
/-- POWER_RAIL.CURRENT. -/
def POWER_RAIL_CURRENT (i : Nat) : Fld := ⟨POWER_RAIL i, 31, 16⟩
/-- POWER_RAIL.VOLTAGE. -/
def POWER_RAIL_VOLTAGE (i : Nat) : Fld := ⟨POWER_RAIL i, 15, 0⟩

/-! ## The rows, block by block (Table 0-6) -/

/-- Rows of the GLOBAL block. -/
def regsGlobal : List RegRow := [
  ⟨"GLOBAL_ID", 0x0, 1, 0x0, 1, 0x0, 0x32000B00, [⟨31, 16, .ro⟩, ⟨15, 12, .ro⟩, ⟨11, 8, .ro⟩, ⟨7, 4, .ro⟩]⟩,
  ⟨"GLOBAL_UNMAPPED_COUNT", 0x10, 1, 0x0, 1, 0x0, 0x0, [⟨31, 0, .count⟩]⟩,
  ⟨"GLOBAL_COORD", 0x20, 1, 0x0, 1, 0x0, 0x0, [⟨31, 31, .rw⟩, ⟨14, 10, .rw⟩, ⟨9, 5, .rw⟩, ⟨4, 0, .rw⟩]⟩,
  ⟨"GLOBAL_TORUS_DIM", 0x24, 1, 0x0, 1, 0x0, 0x0, [⟨31, 31, .rw⟩, ⟨14, 10, .rw⟩, ⟨9, 5, .rw⟩, ⟨4, 0, .rw⟩]⟩]
/-- Rows of the HOSTIF block. -/
def regsHostif : List RegRow := [
  ⟨"HOSTIF_PORT", 0x100000, 2, 0x4, 1, 0x0, 0x0, [⟨7, 4, .ro⟩, ⟨3, 1, .ro⟩, ⟨0, 0, .ro⟩]⟩,
  ⟨"HOSTIF_LOSS_COUNT", 0x100010, 2, 0x4, 1, 0x0, 0x0, [⟨31, 0, .count⟩]⟩]
/-- Rows of the QUEUE block. -/
def regsQueue0 : List RegRow := [
  ⟨"CTX_JOB", 0x300000, 64, 0x100, 1, 0x0, 0x0, [⟨15, 0, .rw⟩]⟩,
  ⟨"CTX_CFG", 0x300004, 64, 0x100, 1, 0x0, 0x1018, [⟨22, 17, .rw⟩, ⟨16, 16, .rw⟩, ⟨14, 12, .rw⟩, ⟨8, 8, .rw⟩, ⟨7, 0, .rw⟩]⟩,
  ⟨"CTX_SYNC", 0x300008, 64, 0x100, 1, 0x0, 0x0, [⟨29, 16, .rw⟩, ⟨13, 0, .rw⟩]⟩,
  ⟨"CTX_CACHE", 0x30000C, 64, 0x100, 1, 0x0, 0x0, [⟨19, 0, .rw⟩]⟩,
  ⟨"CTX_STEPREC_LO", 0x300010, 64, 0x100, 1, 0x0, 0x0, [⟨31, 6, .rw⟩]⟩,
  ⟨"CTX_STEPREC_HI", 0x300014, 64, 0x100, 1, 0x0, 0x0, [⟨31, 0, .rw⟩]⟩,
  ⟨"CTX_CTRL", 0x300018, 64, 0x100, 1, 0x0, 0x0, [⟨1, 1, .wo⟩, ⟨0, 0, .wo⟩]⟩,
  ⟨"CTX_STATE", 0x30001C, 64, 0x100, 1, 0x0, 0x0, [⟨15, 8, .ro⟩, ⟨1, 0, .ro⟩]⟩,
  ⟨"CTX_TIDE", 0x300020, 64, 0x100, 1, 0x0, 0x0, [⟨31, 0, .ro⟩]⟩,
  ⟨"CTX_EVENT", 0x300024, 64, 0x100, 1, 0x0, 0x0, [⟨2, 2, .flag⟩, ⟨1, 1, .flag⟩, ⟨0, 0, .flag⟩]⟩,
  ⟨"CTX_ACTIVE", 0x300028, 64, 0x100, 1, 0x0, 0x0, [⟨13, 0, .ro⟩]⟩,
  ⟨"QUE_RING_LO", 0x200000, 1024, 0x100, 1, 0x0, 0x0, [⟨31, 6, .rw⟩]⟩]
/-- Rows of the QUEUE block. -/
def regsQueue1 : List RegRow := [
  ⟨"QUE_RING_HI", 0x200004, 1024, 0x100, 1, 0x0, 0x0, [⟨31, 0, .rw⟩]⟩,
  ⟨"QUE_SIZE", 0x200008, 1024, 0x100, 1, 0x0, 0x9, [⟨4, 0, .rw⟩]⟩,
  ⟨"QUE_CTRL", 0x20000C, 1024, 0x100, 1, 0x0, 0x0, [⟨2, 2, .rw⟩, ⟨1, 1, .rw⟩, ⟨0, 0, .rw⟩]⟩,
  ⟨"QUE_TAIL", 0x200010, 1024, 0x100, 1, 0x0, 0x0, [⟨31, 0, .rw⟩]⟩,
  ⟨"QUE_HEAD", 0x200014, 1024, 0x100, 1, 0x0, 0x0, [⟨31, 0, .ro⟩]⟩,
  ⟨"QUE_RETIRE", 0x200018, 1024, 0x100, 1, 0x0, 0x0, [⟨31, 0, .ro⟩]⟩,
  ⟨"QUE_DONE", 0x20001C, 1024, 0x100, 1, 0x0, 0x0, [⟨31, 0, .ro⟩]⟩,
  ⟨"QUE_FREE", 0x200020, 1024, 0x100, 1, 0x0, 0x0, [⟨16, 0, .ro⟩]⟩,
  ⟨"QUE_ACTIVE", 0x200024, 1024, 0x100, 1, 0x0, 0x0, [⟨9, 0, .ro⟩]⟩,
  ⟨"QUE_CPL_LO", 0x200028, 1024, 0x100, 1, 0x0, 0x0, [⟨31, 4, .rw⟩]⟩,
  ⟨"QUE_CPL_HI", 0x20002C, 1024, 0x100, 1, 0x0, 0x0, [⟨31, 0, .rw⟩]⟩,
  ⟨"QUE_MIRROR_LO", 0x200030, 1024, 0x100, 1, 0x0, 0x0, [⟨31, 6, .rw⟩]⟩]
/-- Rows of the QUEUE block. -/
def regsQueue2 : List RegRow := [
  ⟨"QUE_MIRROR_HI", 0x200034, 1024, 0x100, 1, 0x0, 0x0, [⟨31, 0, .rw⟩]⟩,
  ⟨"QUE_ERR", 0x200038, 1024, 0x100, 1, 0x0, 0x0, [⟨4, 4, .flag⟩, ⟨3, 3, .flag⟩, ⟨2, 2, .flag⟩, ⟨1, 1, .flag⟩, ⟨0, 0, .flag⟩]⟩,
  ⟨"QUE_COMPAT_WAIT", 0x20003C, 1024, 0x100, 1, 0x0, 0x80000000, [⟨31, 31, .ro⟩, ⟨9, 0, .ro⟩]⟩,
  ⟨"QUE_COMPAT_HOLD", 0x200040, 1024, 0x100, 1, 0x0, 0x1117, [⟨31, 0, .rw⟩]⟩]
/-- All rows of the QUEUE block. -/
def regsQueue : List RegRow := regsQueue0 ++ regsQueue1 ++ regsQueue2
/-- Rows of the SYNC block. -/
def regsSync : List RegRow := [
  ⟨"SYNC_VALUE_LO", 0x400000, 16384, 0x20, 1, 0x0, 0x0, [⟨31, 0, .ro⟩]⟩,
  ⟨"SYNC_VALUE_HI", 0x400004, 16384, 0x20, 1, 0x0, 0x0, [⟨31, 0, .ro⟩]⟩,
  ⟨"SYNC_STATUS", 0x400008, 16384, 0x20, 1, 0x0, 0x0, [⟨7, 0, .ro⟩]⟩,
  ⟨"SYNC_POST", 0x40000C, 16384, 0x20, 1, 0x0, 0x0, [⟨31, 0, .wo⟩]⟩,
  ⟨"SYNC_NOTIFY", 0x400010, 16384, 0x20, 1, 0x0, 0x0, [⟨15, 8, .rw⟩, ⟨5, 2, .rw⟩, ⟨1, 0, .rw⟩]⟩,
  ⟨"SYNC_NADDR_LO", 0x400014, 16384, 0x20, 1, 0x0, 0x0, [⟨31, 4, .rw⟩]⟩,
  ⟨"SYNC_NADDR_HI", 0x400018, 16384, 0x20, 1, 0x0, 0x0, [⟨31, 0, .rw⟩]⟩,
  ⟨"SYNC reserved word", 0x40001C, 16384, 0x20, 1, 0x0, 0x0, []⟩]
/-- Rows of the FABRIC block. -/
def regsFabric0 : List RegRow := [
  ⟨"FAB_CW_FLAGS", 0x870000, 8, 0x20, 1, 0x0, 0x0, [⟨3, 3, .flag⟩, ⟨2, 2, .flag⟩, ⟨1, 1, .flag⟩, ⟨0, 0, .flag⟩]⟩,
  ⟨"FAB_CW_NV_LOC0", 0x870004, 8, 0x20, 1, 0x0, 0x0, [⟨31, 31, .flag⟩, ⟨27, 24, .ro⟩, ⟨15, 0, .ro⟩]⟩,
  ⟨"FAB_CW_NV_LOC1", 0x870008, 8, 0x20, 1, 0x0, 0x0, [⟨25, 16, .ro⟩, ⟨3, 0, .ro⟩]⟩,
  ⟨"FAB_RED_CAY_MAP", 0x880000, 128, 0x4, 1, 0x0, 0x80000000, [⟨31, 31, .ro⟩, ⟨6, 0, .ro⟩]⟩,
  ⟨"FAB_RED_ADMIT_TIMEOUT", 0x880200, 1, 0x0, 1, 0x0, 0x2625A, [⟨31, 0, .rw⟩]⟩,
  ⟨"FAB_RED_OPEN", 0x880204, 1, 0x0, 1, 0x0, 0x0, [⟨13, 0, .ro⟩]⟩,
  ⟨"FAB_RED_STRAY_COUNT", 0x880208, 1, 0x0, 1, 0x0, 0x0, [⟨31, 0, .count⟩]⟩,
  ⟨"FAB_RED_LATE_COUNT", 0x88020C, 1, 0x0, 1, 0x0, 0x0, [⟨31, 16, .count⟩, ⟨15, 0, .count⟩]⟩,
  ⟨"FAB_RED_CHECK_COUNT", 0x880210, 1, 0x0, 1, 0x0, 0x0, [⟨31, 0, .count⟩]⟩,
  ⟨"FAB_RED_EM_RESTART_COUNT", 0x880214, 1, 0x0, 1, 0x0, 0x0, [⟨31, 0, .count⟩]⟩,
  ⟨"FAB_RED_REFUSE_COUNT", 0x880218, 1, 0x0, 1, 0x0, 0x0, [⟨31, 0, .count⟩]⟩,
  ⟨"FAB_FERRY_BUSY_RETRY", 0x890000, 1, 0x0, 1, 0x0, 0x271, [⟨31, 0, .rw⟩]⟩]
/-- Rows of the FABRIC block. -/
def regsFabric1 : List RegRow := [
  ⟨"FAB_FERRY_SLOTS", 0x890004, 1, 0x0, 1, 0x0, 0x0, [⟨15, 8, .ro⟩, ⟨7, 0, .ro⟩]⟩,
  ⟨"FAB_FERRY_BUSY_COUNT", 0x890008, 1, 0x0, 1, 0x0, 0x0, [⟨31, 0, .count⟩]⟩,
  ⟨"FAB_FERRY_ABORT_COUNT", 0x89000C, 1, 0x0, 1, 0x0, 0x0, [⟨31, 0, .count⟩]⟩,
  ⟨"FAB_FERRY_UNDELIVERED_COUNT", 0x890010, 1, 0x0, 1, 0x0, 0x0, [⟨31, 0, .count⟩]⟩,
  ⟨"FAB_FERRY_RET_LOST_COUNT", 0x890014, 1, 0x0, 1, 0x0, 0x0, [⟨31, 0, .count⟩]⟩,
  ⟨"FAB_PERMUTE_FAIL_COUNT", 0x890018, 1, 0x0, 1, 0x0, 0x0, [⟨31, 0, .count⟩]⟩,
  ⟨"FAB_PORT_TX_CELLS", 0x800000, 6, 0x1000, 8, 0x8, 0x0, [⟨31, 0, .countLo⟩]⟩,
  ⟨"FAB_PORT_TX_CELLS_HIGH", 0x800004, 6, 0x1000, 8, 0x8, 0x0, [⟨31, 0, .countHi⟩]⟩,
  ⟨"FAB_PORT_RX_CELLS", 0x800040, 6, 0x1000, 8, 0x8, 0x0, [⟨31, 0, .countLo⟩]⟩,
  ⟨"FAB_PORT_RX_CELLS_HIGH", 0x800044, 6, 0x1000, 8, 0x8, 0x0, [⟨31, 0, .countHi⟩]⟩,
  ⟨"FAB_PORT_QDEPTH", 0x800080, 6, 0x1000, 8, 0x4, 0x0, [⟨26, 16, .qmax⟩, ⟨10, 0, .ro⟩]⟩,
  ⟨"FAB_PORT_STALL", 0x8000A0, 6, 0x1000, 8, 0x8, 0x0, [⟨31, 0, .countLo⟩]⟩]
/-- Rows of the FABRIC block. -/
def regsFabric2 : List RegRow := [
  ⟨"FAB_PORT_STALL_HIGH", 0x8000A4, 6, 0x1000, 8, 0x8, 0x0, [⟨31, 0, .countHi⟩]⟩,
  ⟨"FAB_PORT_MARKED", 0x8000E0, 6, 0x1000, 1, 0x0, 0x0, [⟨31, 0, .count⟩]⟩,
  ⟨"FAB_PORT_CUTS", 0x8000E4, 6, 0x1000, 1, 0x0, 0x0, [⟨31, 0, .count⟩]⟩,
  ⟨"FAB_PORT_AGED", 0x8000E8, 6, 0x1000, 1, 0x0, 0x0, [⟨31, 0, .count⟩]⟩,
  ⟨"FAB_PORT_HDR_CRC", 0x8000EC, 6, 0x1000, 1, 0x0, 0x0, [⟨31, 0, .count⟩]⟩,
  ⟨"FAB_PORT_DROP_ROUTE", 0x8000F0, 6, 0x1000, 1, 0x0, 0x0, [⟨31, 0, .count⟩]⟩,
  ⟨"FAB_PORT_DROP_TYPE", 0x8000F4, 6, 0x1000, 1, 0x0, 0x0, [⟨31, 0, .count⟩]⟩,
  ⟨"FAB_PORT_DROP_JOB", 0x8000F8, 6, 0x1000, 1, 0x0, 0x0, [⟨31, 0, .count⟩]⟩,
  ⟨"FAB_PORT_RETRY_RX", 0x8000FC, 6, 0x1000, 1, 0x0, 0x0, [⟨31, 0, .count⟩]⟩,
  ⟨"FAB_PORT_POISON_RX", 0x800100, 6, 0x1000, 1, 0x0, 0x0, [⟨31, 0, .count⟩]⟩,
  ⟨"FAB_PORT_STATE", 0x800104, 6, 0x1000, 1, 0x0, 0x0, [⟨2, 2, .ro⟩, ⟨1, 1, .ro⟩, ⟨0, 0, .ro⟩]⟩,
  ⟨"FAB_VC_WEIGHT_A", 0x860000, 1, 0x0, 1, 0x0, 0x8181818, [⟨31, 24, .rw⟩, ⟨23, 16, .rw⟩, ⟨15, 8, .rw⟩, ⟨7, 0, .rw⟩]⟩]
/-- Rows of the FABRIC block. -/
def regsFabric3 : List RegRow := [
  ⟨"FAB_VC_WEIGHT_B", 0x860004, 1, 0x0, 1, 0x0, 0xC08, [⟨15, 8, .rw⟩, ⟨7, 0, .rw⟩]⟩,
  ⟨"FAB_AGE_THRESH", 0x860008, 1, 0x0, 1, 0x0, 0x10000, [⟨31, 0, .rw⟩]⟩,
  ⟨"FAB_RATE_LIMIT", 0x86000C, 1, 0x0, 1, 0x0, 0x8642014, [⟨31, 24, .rw⟩, ⟨23, 16, .rw⟩, ⟨15, 8, .rw⟩, ⟨7, 0, .rw⟩]⟩,
  ⟨"FAB_ECN_CTRL", 0x860010, 1, 0x0, 1, 0x0, 0x81040, [⟨25, 16, .rw⟩, ⟨15, 8, .rw⟩, ⟨7, 0, .rw⟩]⟩,
  ⟨"FAB_ECN_TIMING", 0x860014, 1, 0x0, 1, 0x0, 0x200040, [⟨31, 16, .rw⟩, ⟨15, 0, .rw⟩]⟩,
  ⟨"FAB_ECN_ECHO", 0x860018, 1, 0x0, 1, 0x0, 0x10, [⟨15, 0, .rw⟩]⟩,
  ⟨"FAB_ECN_ECHO_TX", 0x86001C, 1, 0x0, 1, 0x0, 0x0, [⟨31, 0, .count⟩]⟩,
  ⟨"FAB_ECN_ECHO_LOST", 0x860020, 1, 0x0, 1, 0x0, 0x0, [⟨31, 0, .count⟩]⟩,
  ⟨"FAB_MGMT_DROP", 0x860024, 1, 0x0, 1, 0x0, 0x0, [⟨31, 0, .count⟩]⟩,
  ⟨"FAB_CREDIT_STATUS", 0x860028, 1, 0x0, 1, 0x0, 0x0, [⟨0, 0, .ro⟩]⟩,
  ⟨"FAB_VC_CREDIT", 0x860040, 8, 0x4, 1, 0x0, 0x0, [⟨31, 22, .rw⟩, ⟨21, 11, .rw⟩, ⟨10, 0, .rw⟩]⟩]
/-- All rows of the FABRIC block. -/
def regsFabric : List RegRow := regsFabric0 ++ regsFabric1 ++ regsFabric2 ++ regsFabric3
/-- Rows of the POOL block. -/
def regsPool : List RegRow := [
  ⟨"POOL_FREE_A", 0xC00000, 1, 0x0, 1, 0x0, 0x6B900, [⟨19, 0, .ro⟩]⟩,
  ⟨"POOL_FREE_B", 0xC00004, 1, 0x0, 1, 0x0, 0x6B900, [⟨19, 0, .ro⟩]⟩,
  ⟨"POOL_DFREE_COUNT", 0xC00008, 1, 0x0, 1, 0x0, 0x0, [⟨31, 0, .count⟩]⟩,
  ⟨"POOL_OWNER_ERR_COUNT", 0xC0000C, 1, 0x0, 1, 0x0, 0x0, [⟨31, 0, .count⟩]⟩,
  ⟨"POOL_PENDING", 0xC00010, 1, 0x0, 1, 0x0, 0x0, [⟨20, 0, .ro⟩]⟩,
  ⟨"POOL_QUARANTINE", 0xC00014, 1, 0x0, 1, 0x0, 0x0, [⟨20, 0, .ro⟩]⟩,
  ⟨"POOL_ECC_COUNT", 0xC00018, 1, 0x0, 1, 0x0, 0x0, [⟨31, 16, .count⟩, ⟨15, 0, .count⟩]⟩,
  ⟨"POOL_ERR_LOG0", 0xC00020, 1, 0x0, 1, 0x0, 0x0, [⟨31, 31, .flag⟩, ⟨30, 28, .ro⟩, ⟨19, 0, .ro⟩]⟩,
  ⟨"POOL_ERR_LOG1", 0xC00024, 1, 0x0, 1, 0x0, 0x0, [⟨31, 16, .ro⟩, ⟨15, 0, .ro⟩]⟩]
/-- Rows of the CAY block. -/
def regsCay0 : List RegRow := [
  ⟨"CAY_FLAGS", 0x1000100, 128, 0x10000, 1, 0x0, 0x0, [⟨3, 3, .flag⟩, ⟨2, 2, .flag⟩, ⟨1, 1, .flag⟩, ⟨0, 0, .flag⟩]⟩,
  ⟨"CAY_NV_LOC0", 0x1000110, 128, 0x10000, 1, 0x0, 0x0, [⟨31, 31, .flag⟩, ⟨30, 28, .ro⟩, ⟨27, 24, .ro⟩, ⟨15, 0, .ro⟩]⟩,
  ⟨"CAY_NV_LOC1", 0x1000114, 128, 0x10000, 1, 0x0, 0x0, [⟨25, 16, .ro⟩, ⟨15, 0, .ro⟩]⟩,
  ⟨"CAY_NV_LOC2", 0x1000118, 128, 0x10000, 1, 0x0, 0x0, [⟨31, 0, .ro⟩]⟩,
  ⟨"CAY_NV_LOC3", 0x100011C, 128, 0x10000, 1, 0x0, 0x0, [⟨27, 9, .ro⟩, ⟨8, 0, .ro⟩]⟩,
  ⟨"CAY_RESIDUE_COUNT", 0x1000120, 128, 0x10000, 1, 0x0, 0x0, [⟨31, 16, .count⟩, ⟨15, 0, .count⟩]⟩,
  ⟨"CAY_ARRAY_ERR_COUNT", 0x1000124, 128, 0x10000, 1, 0x0, 0x0, [⟨31, 16, .count⟩, ⟨15, 0, .count⟩]⟩,
  ⟨"CAY_RUN", 0x1000000, 128, 0x10000, 1, 0x0, 0x0, [⟨7, 4, .ro⟩, ⟨2, 0, .ro⟩]⟩,
  ⟨"CAY_KLIMIT", 0x1000004, 128, 0x10000, 1, 0x0, 0x1000000, [⟨31, 0, .rw⟩]⟩,
  ⟨"CAY_TRAP0", 0x1000200, 128, 0x10000, 1, 0x0, 0x0, [⟨31, 31, .flag⟩, ⟨30, 28, .ro⟩, ⟨23, 16, .ro⟩, ⟨15, 0, .ro⟩]⟩,
  ⟨"CAY_TRAP1", 0x1000204, 128, 0x10000, 1, 0x0, 0x0, [⟨27, 9, .ro⟩, ⟨8, 0, .ro⟩]⟩,
  ⟨"CAY_TRAP2", 0x1000208, 128, 0x10000, 1, 0x0, 0x0, [⟨31, 0, .ro⟩]⟩]
/-- Rows of the CAY block. -/
def regsCay1 : List RegRow := [
  ⟨"CAY_TRAP3", 0x100020C, 128, 0x10000, 1, 0x0, 0x0, [⟨31, 0, .ro⟩]⟩,
  ⟨"CAY_TRAP_COUNT", 0x1000210, 128, 0x10000, 1, 0x0, 0x0, [⟨31, 0, .count⟩]⟩,
  ⟨"CAY_KL_CTX", 0x1000300, 128, 0x10000, 1, 0x0, 0x0, [⟨8, 8, .rw⟩, ⟨5, 0, .rw⟩]⟩,
  ⟨"CAY_KL_IMAGE_LO", 0x1000304, 128, 0x10000, 1, 0x0, 0x0, [⟨31, 0, .rw⟩]⟩,
  ⟨"CAY_KL_IMAGE_HI", 0x1000308, 128, 0x10000, 1, 0x0, 0x0, [⟨31, 0, .rw⟩]⟩,
  ⟨"CAY_KL_CONST_LO", 0x100030C, 128, 0x10000, 1, 0x0, 0x0, [⟨31, 0, .rw⟩]⟩,
  ⟨"CAY_KL_CONST_HI", 0x1000310, 128, 0x10000, 1, 0x0, 0x0, [⟨31, 0, .rw⟩]⟩,
  ⟨"CAY_KL_ARG_LO", 0x1000320, 128, 0x10000, 4, 0x8, 0x0, [⟨31, 0, .rw⟩]⟩,
  ⟨"CAY_KL_ARG_HI", 0x1000324, 128, 0x10000, 4, 0x8, 0x0, [⟨31, 0, .rw⟩]⟩,
  ⟨"CAY_KL_CTRL", 0x1000340, 128, 0x10000, 1, 0x0, 0x0, [⟨1, 1, .wo⟩, ⟨0, 0, .wo⟩]⟩,
  ⟨"CAY_KL_STATE", 0x1000344, 128, 0x10000, 1, 0x0, 0x0, [⟨15, 8, .ro⟩, ⟨1, 0, .ro⟩]⟩]
/-- All rows of the CAY block. -/
def regsCay : List RegRow := regsCay0 ++ regsCay1
/-- Rows of the LAYER block. -/
def regsLayer : List RegRow := [
  ⟨"LAYER_USED", 0x1800000, 1, 0x0, 1, 0x0, 0x0, [⟨12, 0, .ro⟩]⟩,
  ⟨"LAYER_STATE_TIMEOUT", 0x1800004, 1, 0x0, 1, 0x0, 0x17D784, [⟨31, 0, .rw⟩]⟩,
  ⟨"LAYER_LATE_COUNT", 0x1800008, 1, 0x0, 1, 0x0, 0x0, [⟨31, 0, .count⟩]⟩,
  ⟨"LAYER_REPLAY_COUNT", 0x180000C, 1, 0x0, 1, 0x0, 0x0, [⟨31, 0, .count⟩]⟩,
  ⟨"LAYER_ABANDON_COUNT", 0x1800010, 1, 0x0, 1, 0x0, 0x0, [⟨31, 0, .count⟩]⟩,
  ⟨"LAYER_INCONSISTENT", 0x1800014, 1, 0x0, 1, 0x0, 0x0, [⟨12, 0, .ro⟩]⟩,
  ⟨"LAYER_JNL_A", 0x1801000, 4096, 0x8, 1, 0x0, 0x0, [⟨31, 31, .ro⟩, ⟨30, 28, .ro⟩, ⟨27, 27, .ro⟩, ⟨26, 26, .ro⟩, ⟨25, 25, .ro⟩, ⟨24, 24, .ro⟩, ⟨21, 16, .ro⟩, ⟨15, 0, .ro⟩]⟩,
  ⟨"LAYER_JNL_B", 0x1801004, 4096, 0x8, 1, 0x0, 0x0, [⟨31, 0, .ro⟩]⟩]
/-- Rows of the LANE block. -/
def regsLane0 : List RegRow := [
  ⟨"LANE_PORT_CTRL", 0x1C00000, 6, 0x1000, 1, 0x0, 0x204, [⟨15, 8, .rw⟩, ⟨2, 1, .rw⟩, ⟨0, 0, .rw⟩]⟩,
  ⟨"LANE_PORT_STATUS", 0x1C00004, 6, 0x1000, 1, 0x0, 0x0, [⟨23, 20, .ro⟩, ⟨19, 12, .ro⟩, ⟨11, 10, .ro⟩, ⟨9, 9, .ro⟩, ⟨2, 0, .ro⟩]⟩,
  ⟨"LANE_PEER_SERIAL_LO", 0x1C00008, 6, 0x1000, 1, 0x0, 0x0, [⟨31, 0, .ro⟩]⟩,
  ⟨"LANE_PEER_SERIAL_HI", 0x1C0000C, 6, 0x1000, 1, 0x0, 0x0, [⟨31, 0, .ro⟩]⟩,
  ⟨"LANE_PEER_INFO", 0x1C00010, 6, 0x1000, 1, 0x0, 0x0, [⟨31, 16, .ro⟩, ⟨15, 8, .ro⟩, ⟨2, 0, .ro⟩]⟩,
  ⟨"LANE_RETRY_TIMEOUT", 0x1C00014, 6, 0x1000, 1, 0x0, 0x40, [⟨31, 0, .rw⟩]⟩,
  ⟨"LANE_CHECK_FAIL", 0x1C00018, 6, 0x1000, 1, 0x0, 0x0, [⟨31, 0, .count⟩]⟩,
  ⟨"LANE_CELLS_RESENT", 0x1C0001C, 6, 0x1000, 1, 0x0, 0x0, [⟨31, 0, .count⟩]⟩,
  ⟨"LANE_NAK_TX", 0x1C00020, 6, 0x1000, 1, 0x0, 0x0, [⟨31, 0, .count⟩]⟩,
  ⟨"LANE_DOWN_COUNT", 0x1C00024, 6, 0x1000, 1, 0x0, 0x0, [⟨31, 0, .count⟩]⟩,
  ⟨"LANE_SYNC_ERR", 0x1C00400, 6, 0x1000, 24, 0x20, 0x0, [⟨31, 0, .count⟩]⟩,
  ⟨"LANE_RATEMATCH", 0x1C00404, 6, 0x1000, 24, 0x20, 0x0, [⟨31, 16, .count⟩, ⟨15, 0, .count⟩]⟩]
/-- Rows of the LANE block. -/
def regsLane1 : List RegRow := [
  ⟨"LANE_EYE_CTRL", 0x1C00408, 6, 0x1000, 24, 0x20, 0x1E000000, [⟨29, 24, .rw⟩, ⟨23, 16, .rw⟩, ⟨13, 8, .rw⟩, ⟨0, 0, .wo⟩]⟩,
  ⟨"LANE_EYE_RESULT", 0x1C0040C, 6, 0x1000, 24, 0x20, 0x0, [⟨31, 31, .ro⟩, ⟨30, 0, .ro⟩]⟩,
  ⟨"ACC_CTRL", 0x1C10000, 16, 0x100, 1, 0x0, 0x2, [⟨3, 2, .rw⟩, ⟨1, 1, .rw⟩, ⟨0, 0, .rw⟩]⟩,
  ⟨"ACC_STATUS", 0x1C10004, 16, 0x100, 1, 0x0, 0x0, [⟨5, 4, .ro⟩, ⟨1, 0, .ro⟩]⟩,
  ⟨"ACC_DROP_COUNT", 0x1C10008, 16, 0x100, 1, 0x0, 0x0, [⟨31, 0, .count⟩]⟩,
  ⟨"ACC_FCS_COUNT", 0x1C1000C, 16, 0x100, 1, 0x0, 0x0, [⟨31, 0, .count⟩]⟩,
  ⟨"ACC_RESEND_COUNT", 0x1C10010, 16, 0x100, 1, 0x0, 0x0, [⟨31, 0, .count⟩]⟩,
  ⟨"ACC_RTO", 0x1C10014, 16, 0x100, 1, 0x0, 0x271, [⟨31, 0, .rw⟩]⟩,
  ⟨"ACC_UDP_PORT", 0x1C11000, 1, 0x0, 1, 0x0, 0xC1A0, [⟨15, 0, .rw⟩]⟩,
  ⟨"ACC_MEM_TIMEOUT", 0x1C11004, 1, 0x0, 1, 0x0, 0x2625A, [⟨31, 0, .rw⟩]⟩]
/-- All rows of the LANE block. -/
def regsLane : List RegRow := regsLane0 ++ regsLane1
/-- Rows of the MEMCTL block. -/
def regsMemctl0 : List RegRow := [
  ⟨"MEM_SCRUB", 0x2000000, 1, 0x0, 1, 0x0, 0x18, [⟨15, 0, .rw⟩]⟩,
  ⟨"MEM_SPACE_SHORT_COUNT", 0x2000004, 1, 0x0, 1, 0x0, 0x0, [⟨31, 0, .count⟩]⟩,
  ⟨"MEM_ECC_HBM", 0x2000100, 8, 0x4, 1, 0x0, 0x0, [⟨31, 16, .count⟩, ⟨15, 0, .count⟩]⟩,
  ⟨"MEM_ECC_LAGOON", 0x2000200, 128, 0x4, 1, 0x0, 0x0, [⟨31, 16, .count⟩, ⟨15, 0, .count⟩]⟩,
  ⟨"MEM_ERR_LOG0", 0x2000400, 1, 0x0, 1, 0x0, 0x0, [⟨31, 31, .flag⟩, ⟨30, 28, .ro⟩, ⟨27, 24, .ro⟩]⟩,
  ⟨"MEM_ERR_LOG1", 0x2000404, 1, 0x0, 1, 0x0, 0x0, [⟨31, 0, .ro⟩]⟩,
  ⟨"MEM_ERR_LOG2", 0x2000408, 1, 0x0, 1, 0x0, 0x0, [⟨31, 0, .ro⟩]⟩,
  ⟨"MEM_PREFETCH_A", 0x2000500, 1, 0x0, 1, 0x0, 0x0, [⟨31, 16, .ro⟩, ⟨4, 0, .ro⟩]⟩,
  ⟨"MEM_PREFETCH_B", 0x2000504, 1, 0x0, 1, 0x0, 0x0, [⟨31, 16, .ro⟩, ⟨4, 0, .ro⟩]⟩,
  ⟨"MEM_CTX_LAGOON_QUOTA", 0x2010000, 64, 0x40, 1, 0x0, 0x0, [⟨14, 0, .rw⟩]⟩,
  ⟨"MEM_CTX_LAGOON_USED", 0x2010004, 64, 0x40, 1, 0x0, 0x0, [⟨18, 0, .ro⟩]⟩,
  ⟨"MEM_CTX_HBM_QUOTA", 0x2010008, 64, 0x40, 1, 0x0, 0x0, [⟨19, 0, .rw⟩]⟩]
/-- Rows of the MEMCTL block. -/
def regsMemctl1 : List RegRow := [
  ⟨"MEM_CTX_HBM_USED", 0x201000C, 64, 0x40, 1, 0x0, 0x0, [⟨23, 0, .ro⟩]⟩,
  ⟨"MEM_CTX_POOL_QUOTA_A", 0x2010010, 64, 0x40, 1, 0x0, 0x0, [⟨19, 0, .rw⟩]⟩,
  ⟨"MEM_CTX_POOL_QUOTA_B", 0x2010014, 64, 0x40, 1, 0x0, 0x0, [⟨19, 0, .rw⟩]⟩,
  ⟨"MEM_CTX_POOL_USED_A", 0x2010018, 64, 0x40, 1, 0x0, 0x0, [⟨19, 0, .ro⟩]⟩,
  ⟨"MEM_CTX_POOL_USED_B", 0x201001C, 64, 0x40, 1, 0x0, 0x0, [⟨19, 0, .ro⟩]⟩,
  ⟨"MEM_CTX_HBM_WIN_BASE", 0x2010020, 64, 0x40, 1, 0x0, 0x0, [⟨19, 0, .rw⟩]⟩,
  ⟨"MEM_CTX_HBM_WIN_SIZE", 0x2010024, 64, 0x40, 1, 0x0, 0x0, [⟨19, 0, .rw⟩]⟩,
  ⟨"MEM_CTX_LAGOON_WIN", 0x2010028, 64, 0x40, 1, 0x0, 0x0, [⟨30, 16, .rw⟩, ⟨14, 0, .rw⟩]⟩,
  ⟨"MEM_CTX_REFUSE_COUNT", 0x201002C, 64, 0x40, 1, 0x0, 0x0, [⟨31, 0, .count⟩]⟩,
  ⟨"MEM_HOSTWIN_BASE_LO", 0x2020000, 64, 0x80, 8, 0x10, 0x0, [⟨31, 12, .rw⟩]⟩,
  ⟨"MEM_HOSTWIN_BASE_HI", 0x2020004, 64, 0x80, 8, 0x10, 0x0, [⟨31, 31, .rw⟩, ⟨30, 30, .rw⟩, ⟨29, 0, .rw⟩]⟩,
  ⟨"MEM_HOSTWIN_SIZE", 0x2020008, 64, 0x80, 8, 0x10, 0x0, [⟨31, 0, .rw⟩]⟩]
/-- Rows of the MEMCTL block. -/
def regsMemctl2 : List RegRow := [
  ⟨"MEM_HOSTWIN_CTRL", 0x202000C, 64, 0x80, 8, 0x10, 0x0, [⟨1, 1, .rw⟩, ⟨0, 0, .rw⟩]⟩]
/-- All rows of the MEMCTL block. -/
def regsMemctl : List RegRow := regsMemctl0 ++ regsMemctl1 ++ regsMemctl2
/-- Rows of the HEALTH block. -/
def regsHealth0 : List RegRow := [
  ⟨"HEALTH_CTRL", 0x2400000, 1, 0x0, 1, 0x0, 0x20003001, [⟨31, 16, .rw⟩, ⟨15, 8, .rw⟩, ⟨0, 0, .rw⟩]⟩,
  ⟨"HEALTH_BUDGET_WINDOW", 0x2400004, 1, 0x0, 1, 0x0, 0x5D21DBA0, [⟨31, 0, .rw⟩]⟩,
  ⟨"HEALTH_BUDGET", 0x2400008, 1, 0x0, 1, 0x0, 0x2, [⟨7, 4, .ro⟩, ⟨3, 0, .rw⟩]⟩,
  ⟨"HEALTH_BEACON", 0x240000C, 1, 0x0, 1, 0x0, 0x80000804, [⟨31, 16, .rw⟩, ⟨15, 8, .rw⟩, ⟨7, 0, .rw⟩]⟩,
  ⟨"HEALTH_WATCHDOG", 0x2400010, 1, 0x0, 1, 0x0, 0x4000, [⟨31, 0, .rw⟩]⟩,
  ⟨"HEALTH_KICK", 0x2400014, 1, 0x0, 1, 0x0, 0x0, [⟨0, 0, .wo⟩]⟩,
  ⟨"HEALTH_LEVEL", 0x2400018, 1, 0x0, 1, 0x0, 0x3, [⟨7, 0, .rw⟩]⟩,
  ⟨"HEALTH_SPARES", 0x240001C, 1, 0x0, 1, 0x0, 0x22, [⟨5, 4, .ro⟩, ⟨1, 0, .ro⟩]⟩,
  ⟨"HEALTH_FENCE_COUNT", 0x2400020, 1, 0x0, 1, 0x0, 0x0, [⟨31, 16, .count⟩, ⟨15, 0, .count⟩]⟩,
  ⟨"HEALTH_SOFT_DEFER_COUNT", 0x2400024, 1, 0x0, 1, 0x0, 0x0, [⟨31, 0, .count⟩]⟩,
  ⟨"HEALTH_READMIT_FAIL_COUNT", 0x2400028, 1, 0x0, 1, 0x0, 0x0, [⟨31, 0, .count⟩]⟩,
  ⟨"HEALTH_VIEW_SUMMARY", 0x240002C, 1, 0x0, 1, 0x0, 0x0, [⟨31, 16, .ro⟩, ⟨13, 0, .ro⟩]⟩]
/-- Rows of the HEALTH block. -/
def regsHealth1 : List RegRow := [
  ⟨"HEALTH_SELF", 0x2400030, 1, 0x0, 1, 0x0, 0x0, [⟨31, 31, .ro⟩, ⟨27, 24, .ro⟩, ⟨15, 0, .ro⟩]⟩,
  ⟨"HEALTH_SELF_FENCE", 0x2400034, 1, 0x0, 1, 0x0, 0x0, [⟨1, 1, .wo⟩, ⟨0, 0, .wo⟩]⟩,
  ⟨"HEALTH_READMIT", 0x2400038, 1, 0x0, 1, 0x0, 0x0, [⟨3, 3, .rw⟩, ⟨2, 0, .rw⟩]⟩,
  ⟨"HEALTH_FENCE_LOG0", 0x2400040, 1, 0x0, 1, 0x0, 0x0, [⟨31, 31, .flag⟩, ⟨30, 28, .ro⟩, ⟨27, 24, .ro⟩, ⟨23, 16, .ro⟩, ⟨15, 0, .ro⟩]⟩,
  ⟨"HEALTH_CAY", 0x2401000, 128, 0x4, 1, 0x0, 0x0, [⟨31, 29, .ro⟩, ⟨15, 0, .ro⟩]⟩,
  ⟨"HEALTH_PORT_SCORE", 0x2401200, 22, 0x4, 1, 0x0, 0x0, [⟨16, 16, .ro⟩, ⟨15, 0, .ro⟩]⟩,
  ⟨"HEALTH_MODULE_SCORE", 0x2401280, 1, 0x0, 1, 0x0, 0x0, [⟨15, 0, .ro⟩]⟩,
  ⟨"HEALTH_PORT_OWNER", 0x2401300, 16, 0x4, 1, 0x0, 0x0, [⟨31, 31, .ro⟩, ⟨29, 24, .ro⟩, ⟨15, 15, .rw⟩, ⟨5, 0, .rw⟩]⟩,
  ⟨"HEALTH_VIEW", 0x2410000, 32768, 0x4, 1, 0x0, 0x0, [⟨31, 31, .ro⟩, ⟨30, 30, .ro⟩, ⟨29, 29, .ro⟩, ⟨28, 28, .ro⟩, ⟨27, 24, .ro⟩, ⟨15, 0, .ro⟩]⟩]
/-- All rows of the HEALTH block. -/
def regsHealth : List RegRow := regsHealth0 ++ regsHealth1
/-- Rows of the POWER block. -/
def regsPower : List RegRow := [
  ⟨"POWER_CAP", 0x2800000, 1, 0x0, 1, 0x0, 0x640, [⟨11, 0, .rw⟩]⟩,
  ⟨"POWER_INPUT", 0x2800004, 1, 0x0, 1, 0x0, 0x0, [⟨31, 16, .ro⟩, ⟨15, 0, .ro⟩]⟩,
  ⟨"POWER_VCORE_A", 0x2800008, 1, 0x0, 1, 0x0, 0x0, [⟨29, 20, .rw⟩, ⟨19, 10, .ro⟩, ⟨9, 0, .ro⟩]⟩,
  ⟨"POWER_VCORE_B", 0x280000C, 1, 0x0, 1, 0x0, 0x0, [⟨29, 20, .rw⟩, ⟨19, 10, .ro⟩, ⟨9, 0, .ro⟩]⟩,
  ⟨"POWER_TEMP", 0x2800010, 1, 0x0, 1, 0x0, 0x0, [⟨23, 16, .ro⟩, ⟨15, 8, .ro⟩, ⟨7, 0, .ro⟩]⟩,
  ⟨"POWER_EVENT", 0x2800014, 1, 0x0, 1, 0x0, 0x0, [⟨4, 4, .flag⟩, ⟨3, 3, .flag⟩, ⟨2, 2, .flag⟩, ⟨1, 1, .flag⟩, ⟨0, 0, .flag⟩]⟩,
  ⟨"POWER_THROTTLE_COUNT", 0x2800018, 1, 0x0, 1, 0x0, 0x0, [⟨31, 0, .count⟩]⟩,
  ⟨"POWER_LAST_SHUTDOWN", 0x280001C, 1, 0x0, 1, 0x0, 0x0, [⟨3, 0, .ro⟩]⟩,
  ⟨"POWER_RAIL", 0x2800100, 13, 0x4, 1, 0x0, 0x0, [⟨31, 16, .ro⟩, ⟨15, 0, .ro⟩]⟩]
/-- Rows of the TRUST block. -/
def regsTrust0 : List RegRow := [
  ⟨"TRUST_STATE", 0x2C00000, 1, 0x0, 1, 0x0, 0x0, [⟨15, 8, .ro⟩, ⟨6, 6, .ro⟩, ⟨5, 5, .ro⟩, ⟨4, 4, .ro⟩, ⟨2, 0, .ro⟩]⟩,
  ⟨"TRUST_SVN", 0x2C00004, 1, 0x0, 1, 0x0, 0x0, [⟨31, 0, .ro⟩]⟩,
  ⟨"TRUST_FLOOR", 0x2C00008, 1, 0x0, 1, 0x0, 0x0, [⟨31, 0, .ro⟩]⟩,
  ⟨"TRUST_VERSION", 0x2C0000C, 1, 0x0, 1, 0x0, 0x0, [⟨31, 0, .ro⟩]⟩,
  ⟨"TRUST_CTRL", 0x2C00010, 1, 0x0, 1, 0x0, 0x0, [⟨1, 1, .wo⟩, ⟨0, 0, .wo⟩]⟩,
  ⟨"TRUST_UPDATE_ADDR_LO", 0x2C00014, 1, 0x0, 1, 0x0, 0x0, [⟨31, 0, .rw⟩]⟩,
  ⟨"TRUST_UPDATE_ADDR_HI", 0x2C00018, 1, 0x0, 1, 0x0, 0x0, [⟨31, 0, .rw⟩]⟩,
  ⟨"TRUST_UPDATE_LEN", 0x2C0001C, 1, 0x0, 1, 0x0, 0x0, [⟨31, 0, .rw⟩]⟩,
  ⟨"TRUST_UPDATE_CTRL", 0x2C00020, 1, 0x0, 1, 0x0, 0x0, [⟨0, 0, .wo⟩]⟩,
  ⟨"TRUST_UPDATE_STATUS", 0x2C00024, 1, 0x0, 1, 0x0, 0x0, [⟨15, 8, .ro⟩, ⟨1, 0, .ro⟩]⟩,
  ⟨"TRUST_ATTEST_ADDR_LO", 0x2C00028, 1, 0x0, 1, 0x0, 0x0, [⟨31, 0, .rw⟩]⟩,
  ⟨"TRUST_ATTEST_ADDR_HI", 0x2C0002C, 1, 0x0, 1, 0x0, 0x0, [⟨31, 0, .rw⟩]⟩]
/-- Rows of the TRUST block. -/
def regsTrust1 : List RegRow := [
  ⟨"TRUST_ATTEST_CTRL", 0x2C00030, 1, 0x0, 1, 0x0, 0x0, [⟨0, 0, .wo⟩]⟩,
  ⟨"TRUST_ATTEST_STATUS", 0x2C00034, 1, 0x0, 1, 0x0, 0x0, [⟨1, 0, .ro⟩]⟩,
  ⟨"TRUST_OWNER_ADDR_LO", 0x2C00038, 1, 0x0, 1, 0x0, 0x0, [⟨31, 0, .rw⟩]⟩,
  ⟨"TRUST_OWNER_ADDR_HI", 0x2C0003C, 1, 0x0, 1, 0x0, 0x0, [⟨31, 0, .rw⟩]⟩,
  ⟨"TRUST_OWNER_CTRL", 0x2C00040, 1, 0x0, 1, 0x0, 0x0, [⟨12, 1, .rw⟩, ⟨0, 0, .wo⟩]⟩]
/-- All rows of the TRUST block. -/
def regsTrust : List RegRow := regsTrust0 ++ regsTrust1
/-- Rows of the TELEMETRY block. -/
def regsTelemetry : List RegRow := [
  ⟨"TEL_REFUSE_COUNT", 0x3000000, 6, 0x4, 1, 0x0, 0x0, [⟨31, 24, .count⟩, ⟨23, 16, .count⟩, ⟨15, 8, .count⟩, ⟨7, 0, .count⟩]⟩,
  ⟨"TEL_REFUSE_LOG0", 0x3000020, 1, 0x0, 1, 0x0, 0x0, [⟨31, 31, .flag⟩, ⟨26, 24, .ro⟩, ⟨23, 20, .ro⟩, ⟨15, 0, .ro⟩]⟩,
  ⟨"TEL_REFUSE_LOG1", 0x3000024, 1, 0x0, 1, 0x0, 0x0, [⟨31, 0, .ro⟩]⟩,
  ⟨"TEL_REFUSE_LOG2", 0x3000028, 1, 0x0, 1, 0x0, 0x0, [⟨31, 0, .ro⟩]⟩]

/-- The rows of the block an offset lies in (R13, Table 0-6). -/
def regBlock (off : Nat) : List RegRow :=
  if off < 0x100000 then regsGlobal
  else if off < 0x200000 then regsHostif
  else if off < 0x400000 then regsQueue
  else if off < 0x800000 then regsSync
  else if off < 0xC00000 then regsFabric
  else if off < 0x1000000 then regsPool
  else if off < 0x1800000 then regsCay
  else if off < 0x1C00000 then regsLayer
  else if off < 0x2000000 then regsLane
  else if off < 0x2400000 then regsMemctl
  else if off < 0x2800000 then regsHealth
  else if off < 0x2C00000 then regsPower
  else if off < 0x3000000 then regsTrust
  else if off < 0x4000000 then regsTelemetry
  else []

/-- The repetition of a row an offset names, if it names one. -/
def rowIndex (r : RegRow) (off : Nat) : Option (Nat × Nat) :=
  if off < r.base then none
  else
    let d := off - r.base
    let i := if r.s1 = 0 then 0 else d / r.s1
    let d := d - i * r.s1
    let j := if r.s2 = 0 then 0 else d / r.s2
    if i < r.n1 ∧ j < r.n2 ∧ d = j * r.s2 then some (i, j) else none

/-- The register at an offset, with its indices; none where no block defines one (R18). -/
def regAt (off : Nat) : Option (RegRow × Nat × Nat) :=
  (regBlock off).findSome? (fun r => (rowIndex r off).map (fun p => (r, p.1, p.2)))

/-- Reset values of FAB_VC_CREDIT_n (Table 7-12). -/
def vcCreditReset : List Nat :=
  [0x00020040, 0x20080100, 0x02008010, 0x20080100, 0x0C030060, 0x0C030060, 0x1C0700E0, 0x00008010]

/-- The reset value of the register at an offset: its table's, where that is not a strap, a record or an index.
DESIGN CHOICE (log 13). -/
def regReset (off : Nat) : Word :=
  match regAt off with
  | none => 0
  | some (r, i, _) =>
    if r.base = FAB_RED_CAY_MAP 0 then BitVec.ofNat 32 (0x80000000 + i)
    else if r.base = FAB_VC_CREDIT 0 then BitVec.ofNat 32 (vcCreditReset.getD i 0)
    else BitVec.ofNat 32 r.reset

end Sys2Proof.Machine
end

