-- ==== Sys2Proof/Machine/Types.lean ====
section
/-! DEFINITION. The parts of the state, unit by unit: what each table, queue, buffer and engine of the module holds. -/

namespace Sys2Proof.Machine

/-! ## Fabric (chapter 7) -/

/-- Where a waiting cell waits: the ingress of a torus port, the injection queue of a context or of a job without one,
or a list of R229 (admission refusals, BUSY answers) of a die. -/
inductive CellSrc where
  | ingress (p : Nat)
  | inject (c : Nat)
  | module
  | refusal (d : Nat)
  | busy (d : Nat)
  deriving DecidableEq, Repr

/-- A cell in a queue: its ingress sub-channel (`2 v + s`), the egress it goes to (22 is ejection), the tick it became the head
of its queue, the pool cell of a retained send copy (R253), whether its wait has passed the aging threshold (R225), whether
a credit is owed for it (not when its link session has ended, nor when it failed its link check while it was forwarded), 
whether it has left its ingress for a place in a bridge class of the other die (R217), and the cell set aside at reset in
which it stands (R214, R217). -/
structure QCell where
  cell : Cell
  src : CellSrc
  sub : Nat
  egress : Nat
  since : Tick
  pool : Option Nat := none
  aged : Bool := false
  owed : Bool := true
  bridged : Bool := false
  place : Option Nat := none
  deriving DecidableEq, Repr

/-- A rate limiter (R228): its key (context or 64, VC), RATE, counter, tick of the last cut. DEDUCED (log 107). -/
structure Limiter where
  ctx : Nat
  vc : Nat
  rate : Nat
  counter : Nat
  cutAt : Option Tick
  deriving DecidableEq, Repr

/-- The arbiter of one egress: VC0 and VC7 counters (R222), deficits of VC1 to VC6 and the VC to visit next (R223),
jobs served in the present round of VC1 to VC3 (R224), the candidate after which the round robin of VC4 to VC6 goes
on, twelfths of a block time of each VC's stall, the limiters that differ from their reset. DEDUCED (log 107). -/
structure EgressSt where
  c0 : Nat := 0
  c7 : Nat := 0
  deficit : List Nat := [0, 0, 0, 0, 0, 0]
  visit : Nat := 0
  served : List (List Nat) := [[], [], []]
  rr : List Nat := [0, 0, 0]
  stall : List Nat := List.replicate 8 0
  limiters : List Limiter := []
  deriving DecidableEq, Repr

/-- An entry of the echo table (R227). -/
structure EchoEntry where
  src : Coord
  job : BitVec 16
  vc : Nat
  count : Nat
  last : Tick
  deriving DecidableEq, Repr

/-- A control unit of the link (Table 12-2): each carries the index expected next. DESIGN CHOICE (log 115). -/
inductive CtlUnit where
  | idle (ack : Nat)
  | nak (ack : Nat) (idx : Nat)
  | train (ack : Nat) (t : TrainBody)
  | step (ack : Nat) (rate : Nat)
  | down (ack : Nat) (cause : Nat)
  deriving DecidableEq, Repr

/-- The phases of a torus port's bring-up (R347, Table 12-6): lock at 10.3125 Gb/s, the TRAIN exchange, a step to the
next rate, its qualification, the exchange of credits. -/
inductive Phase where
  | off | lock | train | step | qualify | credits | up
  deriving DecidableEq, Repr

/-- One torus port: credits held from the peer (16 sub-channels), credits to return, the tick of the last CREDIT cell;
the link: transmit and expected receive index, the retry store oldest first, cells to be sent again, whether it discards
cells after a failed one, the index of a NAK that waits for a unit slot, resends without progress, units since the last ACK
and the tick of the first of them; the bring-up: phase and its first tick, the rate the port runs at and the one it steps
to, the peer's TRAIN, the rate of its STEP, whether the own STEP has gone out, whether the present step is already a repeat
(R348), and whether the present qualification has met an error. -/
structure TorusSt where
  credits : List Nat := List.replicate 16 0
  returns : List Nat := List.replicate 16 0
  lastCredit : Tick := 0
  txIdx : Nat := 0
  rxIdx : Nat := 0
  store : List (Nat × Cell) := []
  resend : List (Nat × Cell) := []
  lastAck : Tick := 0
  discarding : Bool := false
  nakDue : Option Nat := none
  resends : Nat := 0
  sinceUnit : Nat := 0
  unitAt : Tick := 0
  phase : Phase := .off
  phaseAt : Tick := 0
  linkRate : Nat := 0
  nextRate : Nat := 0
  trainRx : Option TrainBody := none
  stepRx : Option Nat := none
  stepTx : Bool := false
  repeatDone : Bool := false
  qualBad : Bool := false
  deriving DecidableEq, Repr

/-! ## Fencing (chapter 13) -/

/-- A fence record (Table 13-1). -/
structure FenceRec where
  subject : Nat
  epoch : Nat
  bits : Nat
  cause : Nat
  origin : Nat
  deriving DecidableEq, Repr

/-- A re-admission exchange of a verifier (R385, R386, R421): nonce, message ID, the tick of the CHALLENGE, how often it
has been sent and when last. -/
structure Exchange where
  nonce : List Byte
  tag : Nat
  start : Tick
  sends : Nat
  lastSend : Tick
  deriving DecidableEq, Repr

/-- Beacons of a torus port: COUNT of the next one, the tick of the next scheduled one (R376), the tick from which the
present interval without a beacon counts and the misses so far (R378), records and the sync that wait for a kick (R377),
the run of scheduled beacons with READMIT and the tick of its last, the exchange it has led to (R385). -/
structure BeaconSt where
  count : Nat := 0
  nextAt : Tick := 0
  heard : Tick := 0
  misses : Nat := 0
  waiting : List FenceRec := []
  syncDue : Bool := false
  run : Nat := 0
  runAt : Tick := 0
  exchange : Option Exchange := none
  deriving DecidableEq, Repr

/-! ## Access ports (chapter 12) -/

/-- What a frame of the encapsulation carries (Tables 12-9, 12-10). A MEM_WRITE remembers the COPY it belongs to.
DESIGN CHOICE (log 115). -/
inductive AccBody where
  | cells (xs : List Cell)
  | memWrite (addr : Nat) (tag : Nat) (data : List Byte) (cmd : Option (Nat × Nat))
  | memRead (addr : Nat) (len : Nat) (tag : Nat)
  | pace
  deriving DecidableEq, Repr

/-- An outstanding MEM_READ: its TAG, its COPY, the place of its bytes in the COPY and their number, the tick it left. -/
structure AccRead where
  tag : Nat
  cmd : Nat × Nat
  off : Nat
  len : Nat
  sent : Option Tick := none
  deriving DecidableEq, Repr

/-- One access port: frame numbers of both directions, frames kept until acknowledged, timeouts without progress, the
tick the acknowledgement clock runs from, units sent and the peer's last CREDIT, units received, the tick by which an
acknowledgement is due, the accelerator's addresses and chassis, memory frames waiting, reads outstanding. -/
structure AccSt where
  txSeq : Nat := 0
  rxSeq : Nat := 0
  kept : List (Nat × AccBody) := []
  timeouts : Nat := 0
  lastAck : Tick := 0
  txUnits : Nat := 0
  peerCredit : Nat := 0
  rxUnits : Nat := 0
  ackDue : Option Tick := none
  peer : Option PeerAddr := none
  chassis : List Byte := []
  mem : List AccBody := []
  reads : List AccRead := []
  nextTag : Nat := 0
  deriving DecidableEq, Repr

/-- A running COPY that reads or writes accelerator memory (R285, R360): its command and context, the access ports of
source and destination, the addresses, bytes asked for, bytes issued for writing, bytes whose last stage is still to
come, bytes read that wait to be written. -/
structure CopyRun where
  cmd : Nat × Nat
  ctx : Nat
  srcAcc : Option Nat
  dstAcc : Option Nat
  src : Nat
  dst : Nat
  bytes : Nat
  asked : Nat := 0
  wrote : Nat := 0
  left : Nat
  buf : Table (List Byte) := []
  deriving DecidableEq, Repr

/-- The configuration of a PCIe function (R362, Table 12-11): the virtual functions enabled, of the physical one; MSI-X
Enable, Function Mask, the vectors that are not masked, those pending behind a mask; D3hot; the codes of the payload and
read request limits; 10-bit tags; ECRC generation and checking; the range of the completion timeout, none for the default of
10 ms. Defaults as PCIe has them after a reset. PRESUMED (log 128). -/
structure PcieFn where
  vfs : Nat := 0
  msixOn : Bool := false
  fnMask : Bool := false
  unmasked : List Nat := []
  waiting : List Nat := []
  d3hot : Bool := false
  payload : Nat := 0
  request : Nat := 2
  tenBit : Bool := false
  ecrcGen : Bool := false
  ecrcCheck : Bool := false
  timeout : Option Nat := none
  deriving DecidableEq, Repr

/-! ## Boot, identity, management, power (chapters 14, 15) -/

/-- The replay-protected area (Table 14-3), and the flash's own count of its writes (R407). -/
structure Rpa where
  active : Nat := 0
  trial : Bool := false
  attempts : Nat := 0
  revoked : Nat := 0
  floor : Nat := 0
  boots : Nat := 0
  ownerSet : Bool := false
  ownerDigest : List Byte := List.replicate 64 0
  writes : Nat := 0
  deriving DecidableEq, Repr

/-- What the boot has found: the tick of reset release, the record's bytes, the running image's header; and inside the trust
engine the identity private key and the HMAC key of the replay-protected area (R412, R413). -/
structure BootSt where
  released : Bool := false
  at_ : Tick := 0
  record : List Byte := []
  header : List Byte := []
  identity : List Byte := []
  rpaKey : List Byte := []
  deriving DecidableEq, Repr

/-- Whom a signature of the trust engine is for (R413): the host's attestation, a CHALLENGE of another module by a port
and requester (R421), a management session. A requester is a coordinate, or 32,768 plus the port of a link-local one. -/
inductive SignFor where
  | host (addr : Nat)
  | peer (p : Nat) (req : Nat) (tag : Nat)
  | session (m : Nat)
  deriving DecidableEq, Repr

/-- A management message being assembled from MGMT cells (R421): the port, SRC, TAG, whether its cells are link-local, the
tick of the first cell, the payloads by index, the number of cells once LAST has come. -/
structure Assembly where
  port : Nat
  src : Nat
  tag : Nat
  near : Bool
  first : Tick
  parts : Table (List Byte) := []
  total : Option Nat := none
  deriving DecidableEq, Repr

/-- Where the module stands in its power sequence (R429, R430): without input, disabled or shut down, starting, running. -/
inductive PowerPhase where
  | unpowered | off | starting | running
  deriving DecidableEq, Repr

/-- The converter controller and the power loop (R428 to R435): the phase, the straps sampled at the start, a latched
shutdown, the last shutdown cause, the limit V_L of each die in mV, the cap in force in W, a fast step in the present
period of the loop and the tick at which that period began, the input below 54 V, the reference lost, the pins PG_OUT and THERM_WARN_N, a
sensor at 100 °C or more by the last THERM_WARN_N. DESIGN CHOICE (log 15). DESIGN CHOICE (log 16). -/
structure PowerSt where
  phase : PowerPhase := .running
  straps : Straps := ⟨false, 1, false⟩
  latched : Bool := false
  last : Nat := 0
  vl : List Nat := [900, 900]
  cap : Nat := 1600
  fast : Bool := false
  loopAt : Tick := 0
  low54 : Bool := false
  refLost : Bool := false
  pgOut : Bool := false
  thermWarn : Bool := false
  hotSensor : Bool := false
  deriving DecidableEq, Repr

/-! ## Buffer pool and reservations (chapter 9) -/

/-- A pool cell's descriptor (Table 9-2), with the unit it was allocated for, which is the model's own. -/
structure PoolDesc where
  pending : Bool := false
  charged : Bool := false
  ctx : Nat := 0
  last : OwnerId := 0
  count : Nat := 0
  state : Bool := false
  endc : Bool := true
  next : Nat := 0
  quarantined : Bool := false
  use : OwnerId := 0
  deriving DecidableEq, Repr

/-- What a reservation of Lagoon or HBM space is for. -/
inductive AllocFor where
  | bucket (b : Nat)
  | staging (l : Nat) (tag : Nat)
  | spill (l : Nat) (tag : Nat)
  | home (g : Nat) (num : Nat)
  | residue (g : Nat) (num : Nat)
  | scratch (l : Nat)
  | retained (label : Nat) (region : Bool) (tide : Nat) (n : Nat)
  | steprec
  | cache
  | window
  deriving DecidableEq, Repr

/-- A reservation: its space, first address and length (multiples of 64 KiB), the context charged, its use. -/
structure Alloc where
  base : Nat
  len : Nat
  ctx : Nat
  use : AllocFor
  deriving DecidableEq, Repr

/-- What a prefetch engine moves (R264). -/
inductive MoveKind where
  | emWriteback (c : Nat) (g : Nat) (num : Nat)
  | layerWriteback (l : Nat)
  | emPrefetch (b : Nat)
  | layerPrefetch (l : Nat)
  deriving DecidableEq, Repr

/-- A queued or running move of a die's prefetch engines. -/
structure Move where
  kind : MoveKind
  die : Nat
  active : Bool
  deriving DecidableEq, Repr

/-! ## Commands, queues and sync objects (chapter 10) -/

/-- A fetched command: its bytes, where it stands, and the statuses with which its waits were satisfied (the header
wait first, then COND0 to COND2). -/
structure CmdSt where
  bytes : List Byte
  started : Bool := false
  ran : Bool := false
  waits : List (Option Nat) := []
  status : Option Nat := none
  detail : Nat := 0
  deriving DecidableEq, Repr

/-- A completion record that waits for its host port (R281): the virtual function that owes it, its address and bytes,
whether an interrupt follows it. -/
structure WaitRec where
  fn : Nat
  addr : Nat
  data : List Byte
  irq : Bool
  deriving DecidableEq, Repr

/-- A queue: fetched commands not yet completed by index, completed indices not yet retired, the number of the present
fetch run (a new one begins at every enable, disable and close), mirror state, the held reads of QUE_COMPAT_WAIT, records
waiting for the host port (R281). -/
structure QueueSt where
  cmds : Table CmdSt := []
  done : List Nat := []
  run : Nat := 0
  mirrorDue : Bool := false
  seq : Nat := 0
  held : List (Requester × Tick) := []
  waiting : List WaitRec := []
  deriving DecidableEq, Repr

/-! ## Reduction (chapter 4) -/

/-- An installed group descriptor (R94): the context and the 128 bytes. -/
structure Group where
  ctx : Nat
  desc : List Byte
  deriving DecidableEq, Repr

/-- What a held upstream ADMIT carried (Table 4-5), and whether it has been answered with a GRANT. -/
structure AdmitInfo where
  digest : Nat
  level : Nat
  disagree : Bool
  refuse : Bool
  cause : Nat
  answered : Bool := false
  deriving DecidableEq, Repr

/-- A stream that a bucket receives, from an access port or an arm: the ADMIT of its module, whether RELEASE was sent
and a RESEND is owed, DATA cells consumed, whether a sequence field disagreed, the checksum of the values received, the
ingress entries to K, whether the TRAILER has come and what it carried, the values in groups of 16, and whether the
contribution is included (not yet known, yes, no), a port's ingress residues as they stood before it, and whether a fence
has lost values of a port's contribution that has not yet ended (R127). -/
structure BStream where
  adm : Option AdmitInfo := none
  released : Bool := false
  resend : Bool := false
  got : Nat := 0
  seqBad : Bool := false
  check : Nat := 0
  kin : Nat := 0
  ended : Bool := false
  sum : Nat := 0
  corr : Nat := 0
  incl : Nat := 0
  excl : Nat := 0
  bad : Bool := false
  groups : List (List Wide) := []
  included : Option Bool := none
  res0 : List (BitVec 32) := []
  lost : Bool := false
  deriving DecidableEq, Repr

/-- A verdict of admission. -/
inductive Verdict where
  | admitted
  | refused (cause : Nat)
  deriving DecidableEq, Repr

/-- Stages of a member's work on a bucket: forming the local partial, folding the sequence chain, folding the data
chain, finished (the stream sent, or the bucket staged). -/
inductive BStage where
  | ports | seq | data | sent
  deriving DecidableEq, Repr

/-- A retained send cell (R253): its pool cell, its egress, and the cell. -/
structure Kept where
  pool : Nat
  egress : Nat
  cell : Cell
  deriving DecidableEq, Repr

/-- An entry of the bucket table. `cw` marks the exchange of a Causeway group (R139). Until BUCKET_OPEN names it an
entry has no context. -/
structure Bucket where
  job : BitVec 16
  tag : Nat
  created : Tick
  cw : Bool := false
  ctx : Option Nat := none
  group : Nat := 0
  n : Nat := 0
  first : Nat := 0
  digest : Nat := 0
  openCmd : Option (Nat × Nat) := none
  reduceCmd : Option (Nat × Nat) := none
  cause : Option Nat := none
  reserved : Bool := false
  emReady : Bool := false
  sentAdmit : Bool := false
  verdict : Option Verdict := none
  level : Nat := 0
  t0 : Tick := 0
  cay : Nat := 0
  ports : Table BStream := []
  arms : Table BStream := []
  stage : BStage := .ports
  partials : List W32 := []
  outs : List W32 := []
  wides : List Lanes := []
  em : List (BitVec 32) := []
  deferred : List (Nat × List Wide) := []
  kFold : Nat := 0
  kSend : Nat := 0
  go : Bool := false
  poolLeft : Nat := 0
  sentCells : Nat := 0
  skip : Nat := 0
  trailerSent : Bool := false
  kept : List Kept := []
  doneElems : Nat := 0
  posts : Nat := 0
  excluded : Nat := 0
  exclAll : Nat := 0
  ownerDigest : Option Nat := none
  codes : List Nat := []
  outcome : Option Nat := none
  deriving DecidableEq, Repr

/-- The HBM home of a bucket number's error or deferral memory (R118), whether its write-back is outstanding, and whether
a spilled bucket has used its values but waits for the conversion that zeroes them (R153, R174), with the late values that
have come meanwhile. -/
structure EmHome where
  ctx : Nat
  group : Nat
  num : Nat
  vals : List (BitVec 32)
  busy : Bool := false
  held : Bool := false
  late : List (Nat × List Wide) := []
  deriving DecidableEq, Repr

/-- One Causeway operation at this member (R140, R141). -/
structure CwOp where
  n : Nat
  cmd : Option (Nat × Nat) := none
  ports : Table (List Byte) := []
  arms : Table (List Byte) := []
  sent : Bool := false
  nv : Bool := false
  deriving DecidableEq, Repr

/-- A KIND 0x02 entry's Causeway slot: slot number, whether admission is done, the next operation number, waiting
commands, the operation in the slot, contributions that arrived for it before it began. -/
structure CwSlot where
  slot : Nat
  admitted : Bool := false
  next : Nat := 0
  queue : List (Nat × Nat) := []
  op : Option CwOp := none
  deriving DecidableEq, Repr

/-- A contribution excluded as late whose cells may still come (R132 to R135): from an access port or an arm's port. -/
structure LateRec where
  job : BitVec 16
  tag : Nat
  ctx : Nat
  group : Nat
  arm : Bool
  port : Nat
  cay : Nat
  n : Nat
  first : Nat
  got : Nat
  closed : Bool := false
  counted : Bool := false
  deriving DecidableEq, Repr

/-! ## The owner's layers (chapter 5) -/

/-- A bucket staged or spilled at the owner: its tag, its range in the layer, its Cay, the staging address, the spill
address while it is spilled, whether its spill has been converted. -/
structure StagedB where
  tag : Nat
  first : Nat
  n : Nat
  cay : Nat
  addr : Nat
  spill : Option Nat := none
  deriving DecidableEq, Repr

/-- A store that the update engine holds (R158). -/
structure HeldStore where
  addr : Nat
  data : List Byte
  deriving DecidableEq, Repr

/-- A task of the present pass that has begun: its number, its Cay, the runs called so far, the stores held, whether
its last store is made, whether it is a rerun. -/
structure TaskSt where
  t : Nat
  cay : Nat
  run : Nat := 0
  stores : List HeldStore := []
  done : Bool := false
  rerun : Bool := false
  deriving DecidableEq, Repr

/-- A running update: the snapshot of the program (R161), the pass, the tasks begun. -/
structure UpdateSt where
  image : List Byte
  const : List Byte
  pass : Nat := 1
  lead : Nat := 0
  tasks : List TaskSt := []
  nv : Bool := false
  deriving DecidableEq, Repr

/-- An entry of the layer table (R145): the context, the descriptor, the buckets staged in the Tide, the progress of
the state's prefetch; of its write-back (R176) the parts by host address, cache address and length, and whether they have
gone out since the host port last returned; the running update, and how the layer stands in the Tide. -/
structure Layer where
  ctx : Nat
  desc : List Byte
  staged : List StagedB := []
  present : Bool := true
  fetching : Bool := false
  backing : Bool := false
  backs : List (Nat × Nat × Nat) := []
  backSent : Bool := false
  cache : Option (Nat × Nat) := none
  completeAt : Option Tick := none
  upd : Option UpdateSt := none
  halted : Option Nat := none
  posted : Bool := false
  deferLost : Bool := false
  bad : Nat := 0
  done1 : Nat := 0
  done2 : Nat := 0
  replays : Nat := 0
  scratch : Option (Nat × Nat) := none
  deriving DecidableEq, Repr

/-- An update program slot (R161). -/
structure ProgSlot where
  ctx : Nat
  image : List Byte
  const : List Byte
  deriving DecidableEq, Repr

/-- A layer's entry of a step record (Table 5-11) but for LAYER and NV_COUNT. -/
structure LayerEntry where
  status : Nat := 0
  flags : Nat := 0
  replays : Nat := 0
  wnorm : List Byte := List.replicate 16 0
  gnorm : List Byte := List.replicate 16 0
  dnorm : List Byte := List.replicate 16 0
  deriving DecidableEq, Repr

/-- The step record of a context's present Tide (R177 to R179): events, counts, NV counts and entries by layer index. -/
structure StepRec where
  events : List (List Byte) := []
  lost : Nat := 0
  deferred : Nat := 0
  dropped : Nat := 0
  restarts : Nat := 0
  nv : Table Nat := []
  layers : Table LayerEntry := []
  deriving DecidableEq, Repr

/-! ## Parameter traffic (chapter 6) -/

/-- What OPEN carries of a stream (Table 6-5). -/
structure StreamHead where
  depth : Nat
  entries : Nat
  fmt : Nat
  split : Bool
  region : Bool
  label : Nat
  tide : Nat
  first : Nat
  count : Nat
  span : Nat
  cells : Nat
  deriving DecidableEq, Repr

/-- Where a stream's cells come from: a parent module over a torus port, a layer's weights, a region of memory, a
retained copy. -/
inductive FerrySrc where
  | parent (coord : Nat) (port : Nat)
  | layer (l : Nat)
  | region (base : Nat)
  | copy
  deriving DecidableEq, Repr

/-- How a child of a stream stands: its OPEN sent, refused with BUSY at a tick, accepted, finished, failed (R190). -/
inductive ChildState where
  | opening
  | busy (t : Tick)
  | accepted
  | finished
  | failed
  deriving DecidableEq, Repr

/-- A direct child: its coordinate, its entry's index in the list, the size of its subtree with itself, how it stands,
the RETIRED it reported, the data cells queued to it, whether its plan cells are sent. -/
structure FerryChild where
  coord : Nat
  idx : Nat
  size : Nat
  state : ChildState
  window : Nat := 0
  sent : Nat := 0
  planSent : Bool := false
  deriving DecidableEq, Repr

/-- A data cell in a stream's window: its index, the cell, its pool cell. -/
structure WinCell where
  idx : Nat
  cell : Cell
  pool : Option Nat
  deriving DecidableEq, Repr

/-- A stream at this module. Keys 0 to 255 are the stream slots (128 × die + slot, R189), higher keys the module's own
FERRY_SENDs and deliveries from retained copies. `order` counts the streams in the order they began. The list of entries begins with the module's own; of a sender, with one
that holds OWN_PORTS. `noSpare` says that a hard fence without a spare interrupted the conversion of its weights (R390). -/
structure Ferry where
  key : Nat
  ctx : Nat
  job : BitVec 16
  tag : Nat
  src : FerrySrc
  head : StreamHead
  order : Nat := 0
  plan : List (Nat × Nat × Nat) := []
  children : List FerryChild := []
  window : List WinCell := []
  got : Nat := 0
  retired : Nat := 0
  reported : Nat := 0
  unserved : List (Nat × Nat) := []
  cmd : Option (Nat × Nat) := none
  planAddr : Nat := 0
  nv : Bool := false
  noSpare : Bool := false
  deriving DecidableEq, Repr

/-- A queued OPEN (R188): the die and port it came by, the parent, the stream. -/
structure OpenReq where
  die : Nat
  port : Nat
  parent : Nat
  job : BitVec 16
  tag : Nat
  head : StreamHead
  deriving DecidableEq, Repr

/-- A GATHER that waits (R192): its command, what it names, the stream it is bound to, its posts so far. -/
structure Gather where
  cmd : Nat × Nat
  ctx : Nat
  label : Nat
  region : Bool
  tide : Nat
  obj : Option Nat
  chunk : Nat
  bound : Option Nat := none
  posts : Nat := 0
  deriving DecidableEq, Repr

/-- The record of a finished stream (R192), with its place in the order in which streams began. -/
structure FinRec where
  order : Nat
  ctx : Nat
  label : Nat
  region : Bool
  tide : Nat
  cells : Nat
  deriving DecidableEq, Repr

/-- A retained copy (R193 to R196): its command, its parts in the Lagoon, the stream being recorded, what was
recorded. `n` tells copies of the same names apart. -/
structure RetCopy where
  ctx : Nat
  label : Nat
  region : Bool
  tide : Nat
  keep : Nat
  size : Nat
  cmd : Option (Nat × Nat)
  parts : List (Nat × Nat)
  stream : Option Nat := none
  head : Option StreamHead := none
  tag : Nat := 0
  ports : Nat := 0
  got : Nat := 0
  whole : Bool := false
  n : Nat := 0
  deriving DecidableEq, Repr

/-- A member of a permute (Table 6-8), and how its exchange stands. -/
structure PermPeer where
  coord : Nat
  sends : List Nat
  recvs : List Nat
  ready : Bool := false
  gotCells : Nat := 0
  ended : Bool := false
  failed : Bool := false
  complete : Option Nat := none
  deriving DecidableEq, Repr

/-- A running PERMUTE (R197, R198). -/
structure Perm where
  cmd : Nat × Nat
  ctx : Nat
  job : BitVec 16
  tag : Nat
  width : Nat
  srcBase : Nat
  dstBase : Nat
  staging : Nat
  peers : List PermPeer
  completeSent : Bool := false
  deriving DecidableEq, Repr

/-! ## Cays as Milar processors (chapter 11) -/

/-- What the next operation of a Cay meets (R92, R93): a residue mismatch that is right on repeat, or wrong again; a
corrected error of a datapath array, or one that cannot be corrected. -/
inductive Upset where
  | repeated | failed | corrected | uncorrected
  deriving DecidableEq, Repr

/-- A tile accumulator: its format, 1,024 lanes under one exponent (R73, R319). -/
structure Tile where
  fmt : LogFmt
  lanes : Lanes
  deriving DecidableEq, Repr

/-- A stream of a call (R320 to R323): active until its rows have moved, its fault (cause and address) until an
instruction that waits takes it, the ranges it reads and writes, the rows still to be moved in order (source, destination,
bytes), the status that stops the call once they have moved (R328), whether it is an xpref, and the rows that this one has
read into the Cay's stream buffer (R321): source and bytes. -/
structure StreamSt where
  active : Bool := false
  fault : Option (Nat × Nat) := none
  reads : List (Nat × Nat) := []
  writes : List (Nat × Nat) := []
  rows : List (Nat × Nat × Nat) := []
  stop : Option Nat := none
  prefetch : Bool := false
  buffer : List (Nat × List Byte) := []
  deriving DecidableEq, Repr

/-- A program call (R301): its context and job; of an update entry the layer entry, task, group, the pass, its blocks,
the moments' element size and the entry pointers of Table 5-5. -/
structure MCall where
  ctx : Nat
  job : Nat
  kernel : Bool
  codeLen : Nat
  layer : Nat := 0
  where_ : Nat := 0
  group : Nat := 0
  task : Nat := 0
  apply : Bool := false
  blocks : Nat := 0
  mbytes : Nat := 0
  g1 : Nat := 0
  g2 : Nat := 0
  g3 : Nat := 0
  g4 : Nat := 0
  g5 : Nat := 0
  g8 : Nat := 0
  g11 : Nat := 0
  deriving DecidableEq, Repr

/-- A Cay's program state (Table 11-1), its call, the instructions the call has executed, the position tags of R325, its
streams, whether its instructions raised NV, the tick it last finished something, a queued kernel's image and constant
page (R330), and the context of the Cay's last user kernel (R425). DESIGN CHOICE (log 14). -/
structure Milar where
  g : List (BitVec 64) := List.replicate 32 0
  p : List Bool := true :: List.replicate 7 false
  v : List (BitVec 2048) := List.replicate 32 0
  a : List (List Lanes) := List.replicate 4 (List.replicate 4 (clearLanes 16 floorW96))
  t : List Tile := List.replicate 8 ⟨.l16, clearLanes 1024 (floorTile .l16)⟩
  kc : BitVec 64 := 0
  pc : Nat := 0
  tags : List (Option Nat) := List.replicate 32 none
  call : Option MCall := none
  count : Nat := 0
  streams : List StreamSt := List.replicate 4 {}
  nv : Bool := false
  since : Tick := 0
  queued : Option (List Byte × List Byte) := none
  lastCtx : Option Nat := none
  deriving DecidableEq, Repr

end Sys2Proof.Machine
end

