-- ==== Sys2Proof/Machine/State.lean ====
section
/-! DEFINITION. The state of the module: plain data, every register, table, queue, buffer, memory and pin the spec gives
it, the queue of waiting commands, and the machine right after reset. -/

namespace Sys2Proof.Machine

/-- What leaves the module at its boundary (Table 0-3), newest first in the state's `out`. A request on a host port names the
port and the function whose requester ID it carries (R258, R363), 0 the physical function.
DESIGN CHOICE (log 12). -/
inductive Out where
  | cell (e : Nat) (x : Cell) (retry : Bool)
  | control (p : Nat) (u : CtlUnit)
  | idleRow (p : Nat)
  | hostRead (h : Nat) (fn : Nat) (a : Nat) (n : Nat)
  | hostWrite (h : Nat) (fn : Nat) (a : Nat) (d : List Byte)
  | msix (h : Nat) (fn : Nat) (vec : Nat)
  | readData (r : Requester) (ws : List Word)
  | frame (a : Nat) (seq ack credit : Nat) (b : AccBody)
  | neighbourAdvert (a : Nat) (target : BitVec 128)
  | echoReply (a : Nat) (body : List Byte)
  | lldp (a : Nat)
  | reportPeer (p : Nat) (serial : BitVec 64) (port level : Nat)
  | reportAccess (a : Nat) (mac : Option (BitVec 48)) (chassis : List Byte)
  | reportHost (h : Nat) (width gen : Nat)
  | reportView (r : FenceRec)
  | reportEpoch (c : Nat)
  | configReply (h : Nat) (fn : Nat) (retry : Bool)
  | mgmtReply (m : Nat) (message : List Byte)
  | session (m : Nat) (accepted : Bool)
  | certVerify (m : Nat) (certs : List (List Byte)) (signature : List Byte)
  | areaWrite (content : List Byte) (mac : List Byte)
  deriving DecidableEq, Repr

/-- Reasons the machine stops with a fault: none. Every behaviour the spec leaves without a value goes on with a free
value, and an event that cannot occur in a state leaves the state as it is. DEDUCED (log 6). -/
inductive Fault where
  deriving DecidableEq, Repr

/-- Reasons a command is refused. DEDUCED (log 6). -/
inductive Refusal where
  /-- No meaning is written for the command of this mnemonic (safe). -/
  | notModelled (mnemonic : String)
  deriving DecidableEq, Repr

/-- The state of the module. -/
structure State where
  /-- Commands waiting, first in first out. -/
  pending : List Instr := []
  /-- Ticks of the 156.25 MHz reference counted since reset (R9). -/
  now : Tick := 0
  /-- The model's own counter of free values drawn. -/
  free : Nat := 0
  /-- What has left the module, newest first. -/
  out : List Out := []
  /-- BAR0 registers (R14), by offset, rising; an unlisted register reads its reset value. -/
  regs : Table Word := []
  /-- Shadows of high words (R15), by requester and offset of the low word. -/
  shadows : List (Requester × Nat × Word) := []
  /-- Memory by module address (Table 9-7), and the flash from 2^64 on (Table 14-2), addresses rising; what an unlisted
  byte reads as is `memDefault`. -/
  mem : List Host.Cell := []
  /-- 64-byte blocks marked poisoned (R268). -/
  poison : List Nat := []
  /-- Reservations of Lagoon and HBM space (R261). -/
  allocs : List Alloc := []
  /-- Ranges that left a context and are being written to zero (R425): base, length. -/
  zeroing : List (Nat × Nat) := []
  /-- Moves of the prefetch engines, oldest first (R264). -/
  moves : List Move := []
  /-- Pool descriptors that differ from a free one's (R247), by cell address. -/
  descs : Table PoolDesc := []
  /-- Free lists of the two dies, next first (R250), and the first cell never allocated of each. -/
  freeList : List (List Nat) := [[], []]
  freshCell : List Nat := [0, 0]
  /-- Cells waiting in ingress and injection queues, oldest first (R218, R224). -/
  cells : List QCell := []
  torus : Table TorusSt := []
  egress : Table EgressSt := []
  echo : List (List EchoEntry) := [[], []]
  lastRecover : Tick := 0
  /-- Queues of commands, by 16 × context + queue (R276). -/
  queues : Table QueueSt := []
  /-- Sync objects whose notification is due (R293). -/
  notify : List Nat := []
  /-- Bus Master Enable bits set, by host port and function (0 is the PF, n is VF n) (R363). -/
  bme : List (Nat × Nat) := []
  /-- Configurations of PCIe functions that differ from their defaults (R362), by 64 × host port + function. -/
  pcie : Table PcieFn := []
  /-- Open management sessions (R422). -/
  sessions : List Nat := []
  groups : Table Group := []
  buckets : Table Bucket := []
  homes : List EmHome := []
  causeway : Table CwSlot := []
  lates : List LateRec := []
  /-- Ingress residues (R52): by context, group entry, number of the bucket, port. -/
  residues : List (Nat × Nat × Nat × Nat × List (BitVec 32)) := []
  layers : Table Layer := []
  slots : Table ProgSlot := []
  /-- Step records of the contexts' present Tides. -/
  steps : Table StepRec := []
  /-- Streams of the Ferry at this module, in the order they began (R188). -/
  ferries : List Ferry := []
  /-- Queued OPENs, oldest first (R188). -/
  opens : List OpenReq := []
  /-- Streams that have begun since reset, for the order of R192. -/
  begun : Nat := 0
  gathers : List Gather := []
  finished : List FinRec := []
  copies : List RetCopy := []
  permutes : List Perm := []
  /-- READYs that came before their PERMUTE: job, tag, member. -/
  readies : List (BitVec 16 × Nat × Nat) := []
  /-- The Cays' program state, by number; an unlisted one has run nothing. -/
  cays : Table Milar := []
  /-- The tick of the last fold step of each Cay (Table 13-6). -/
  folds : Table Tick := []
  /-- Upsets that the next operations of Cays will meet (R92, R93), by Cay number. -/
  upsets : Table Upset := []
  /-- Last kick of the watchdog, and whether a period has passed without one (R377). -/
  kickAt : Tick := 0
  wdStopped : Bool := false
  /-- Beacons of the torus ports. -/
  beacons : Table BeaconSt := []
  /-- ORIGIN of the record each entry of the fence view was last changed by. -/
  origins : Table Nat := []
  /-- Modules re-admitted in the Tide in progress of a context (R386): context, coordinate. -/
  barred : List (Nat × Nat) := []
  /-- Ticks of soft fences, newest first (R394), and of the last decay of the scores (R393). -/
  softAt : List Tick := []
  decayAt : Tick := 0
  /-- Access ports. -/
  access : Table AccSt := []
  /-- Running COPYs over access ports. -/
  copying : List CopyRun := []
  /-- Eye measurements running: port, lane (R351). -/
  eyes : List (Nat × Nat) := []
  /-- Messages being assembled, and the responder's last report for each requester (as in `SignFor`) and message ID
  (R421). -/
  assemblies : List Assembly := []
  reports : List (Nat × Nat × List Byte) := []
  /-- Reports that wait for the trust engine's signature, in order (R413). -/
  signs : List (SignFor × List Byte) := []
  /-- Sessions that have asked to release the owner (R423). -/
  releases : List Nat := []
  /-- Replies of management sessions that wait behind a report not yet signed, in request order (R423): the session, and
  the reply's KIND and body, none for that report. -/
  replies : List (Nat × Option (Nat × List Byte)) := []
  /-- Image bytes carried by IMAGE messages: session, offset, data. -/
  image : List (Nat × Nat × List Byte) := []
  /-- The replay-protected area of the flash (R407). -/
  rpa : Rpa := {}
  boot : BootSt := {}
  power : PowerSt := {}
  deriving DecidableEq, Repr

/-- The machine right after reset: every register at the value of its table (TARGET and PRESENT of POWER_VCORE at the
0.80 V of the strap that the model takes for fitted), no command fetched, nothing in any queue, table or buffer, no byte of
memory written. DESIGN CHOICE (log 15). DESIGN CHOICE (log 16). DESIGN CHOICE (log 17). -/
def State.reset : State :=
  { regs := [(0x2800008, 0x32000320), (0x280000C, 0x32000320)] }

end Sys2Proof.Machine
end

