-- ==== Sys2Proof/Machine/Ops.lean ====
section
/-! DEFINITION. The named operations over the state that every unit shares: tables, registers and counters, memory,
outputs, the module's place in the torus, contexts and their windows, status ranks. -/

namespace Sys2Proof.Machine

/-- What a command's meaning answers. -/
abbrev Res := Host.Outcome State Fault Refusal

/-! ## Tables -/

/-- The entry of a table at a key. -/
def tget {α : Type} : Table α → Nat → Option α
  | [], _ => none
  | (j, v) :: t, k => if j = k then some v else tget t k

/-- The table with a key set, keys rising. -/
def tput {α : Type} : Table α → Nat → α → Table α
  | [], k, v => [(k, v)]
  | (j, w) :: t, k, v =>
    if k < j then (k, v) :: (j, w) :: t
    else if j = k then (k, v) :: t
    else (j, w) :: tput t k v

/-- The table without a key. -/
def tdel {α : Type} (t : Table α) (k : Nat) : Table α := t.filter (fun p => p.1 != k)

/-- The table with an entry changed, where there is one. -/
def tmod {α : Type} (t : Table α) (k : Nat) (f : α → α) : Table α :=
  match tget t k with
  | some v => tput t k (f v)
  | none => t

/-- A list with its `n`-th member changed. -/
def lmod {α : Type} : List α → Nat → (α → α) → List α
  | [], _, _ => []
  | a :: t, 0, f => f a :: t
  | a :: t, n + 1, f => a :: lmod t n f

/-! ## Registers (R13 to R17) -/

/-- The stored word at an offset. DESIGN CHOICE (log 13). -/
def rd (s : State) (off : Nat) : Word := (tget s.regs off).getD (regReset off)

/-- The state with the word at an offset set; a word equal to its reset value is not listed. DESIGN CHOICE (log 13). -/
def wr (s : State) (off : Nat) (w : Word) : State :=
  if w = regReset off then { s with regs := tdel s.regs off }
  else { s with regs := tput s.regs off w }

/-- A word with bits `[hi:lo]` replaced. -/
def putBits (w : Word) (hi lo v : Nat) : Word :=
  let k := 2 ^ (hi + 1 - lo)
  BitVec.ofNat 32 (w.toNat - bits w.toNat hi lo * 2 ^ lo + (v % k) * 2 ^ lo)

/-- The value of a field. -/
def getF (s : State) (f : Fld) : Nat := bits (rd s f.off).toNat f.hi f.lo

/-- Whether a one-bit field reads 1. -/
def flag (s : State) (f : Fld) : Bool := getF s f == 1

/-- The state with a field set. -/
def setF (s : State) (f : Fld) (v : Nat) : State := wr s f.off (putBits (rd s f.off) f.hi f.lo v)

/-- The largest value of a field. -/
def fldMax (f : Fld) : Nat := 2 ^ (f.hi + 1 - f.lo) - 1

/-- A counter field stops at its largest value (R17). -/
def bump (s : State) (f : Fld) (k : Nat) : State := setF s f (min (fldMax f) (getF s f + k))

/-- A 64-bit counter held as a register pair (R15), by the offset of its low word. -/
def rd64 (s : State) (off : Nat) : Nat := (rd s off).toNat + (rd s (off + 4)).toNat * 2 ^ 32

/-- The state with a register pair set. -/
def wr64 (s : State) (off v : Nat) : State :=
  wr (wr s off (BitVec.ofNat 32 v)) (off + 4) (BitVec.ofNat 32 (v / 2 ^ 32))

/-- A 64-bit counter's count of `k` events. -/
def bump64 (s : State) (off k : Nat) : State := wr64 s off (min (2 ^ 64 - 1) (rd64 s off + k))

/-! ## Outputs -/

/-- The state with something sent at the boundary. DESIGN CHOICE (log 12). DESIGN CHOICE (log 115). -/
def emit (s : State) (o : Out) : State := { s with out := o :: s.out }

/-! ## Status ranks (Table 4-12, R137) -/

/-- The rank of a completion code; rank 1 is the highest. -/
def rank (c : Nat) : Nat :=
  if c = 0x12 ∨ c = 0x13 ∨ c = 0x14 then 1
  else if c = 0x30 then 2
  else if c = 0x10 ∨ c = 0x11 then 3
  else if c = 0x40 ∨ c = 0x41 then 4
  else if c = 0x22 ∨ c = 0x21 then 5
  else if c = 0x20 then 6
  else if c = 0x31 ∨ c = 0x32 then 7
  else if c = 0x60 then 8
  else if c = 0x50 then 9
  else if c = 0x01 ∨ c = 0x02 then 10
  else 11

/-- The code that ranks higher; between two of one rank the higher value (R137). -/
def worse (a b : Nat) : Nat :=
  if rank a < rank b then a else if rank b < rank a then b else max a b

/-- The highest-ranking of a list of codes, OK for none. -/
def worst (l : List Nat) : Nat := l.foldl worse 0

/-- A status that makes a dependent command fail: it ranks above RETRY (R292). -/
def failing (c : Nat) : Bool := rank c ≤ 7

/-! ## The module's place in the torus (R20 to R23, R209, R210) -/

/-- Position on an axis (0 X, 1 Y, 2 Z) of a coordinate code (R21). -/
def axisPos (c : Nat) (ax : Nat) : Nat := bits c (5 * ax + 4) (5 * ax)

/-- A coordinate code of three positions. -/
def mkCoord (x y z : Nat) : Nat := x + 32 * y + 1024 * z

/-- The axis lengths are assigned. -/
def dimValid (s : State) : Bool := flag s GLOBAL_TORUS_DIM_VALID
/-- The coordinate is assigned. -/
def coordValid (s : State) : Bool := flag s GLOBAL_COORD_VALID
/-- Length of an axis. -/
def axisLen (s : State) (ax : Nat) : Nat := bits (rd s GLOBAL_TORUS_DIM).toNat (5 * ax + 4) (5 * ax)
/-- The module's own coordinate code. -/
def ownCoord (s : State) : Nat := bits (rd s GLOBAL_COORD).toNat 14 0
/-- A coordinate names a module when each position is below its axis length (R21). -/
def coordOk (s : State) (c : Nat) : Bool :=
  (List.range 3).all (fun ax => axisPos c ax < axisLen s ax)

/-- A coordinate with one position replaced. -/
def withPos (c ax v : Nat) : Nat := c - axisPos c ax * 2 ^ (5 * ax) + v * 2 ^ (5 * ax)

/-- The neighbour of a coordinate one step along an axis, `+` or `−`, cyclically. -/
def stepOn (s : State) (c ax : Nat) (plus : Bool) : Nat :=
  let l := max 1 (axisLen s ax)
  withPos c ax ((axisPos c ax + (if plus then 1 else l - 1)) % l)

/-- The axis of a torus port (R230). -/
def portAxis (p : Nat) : Nat := p / 2
/-- The `+` ports are the even ones (R230). -/
def portPlus (p : Nat) : Bool := p % 2 == 0
/-- The port of an axis and direction. -/
def portOf (ax : Nat) (plus : Bool) : Nat := 2 * ax + (if plus then 0 else 1)
/-- The coordinate a torus port's link leads to. -/
def peerCoord (s : State) (p : Nat) : Nat := stepOn s (ownCoord s) (portAxis p) (portPlus p)

/-- The die of a torus port: ±X and +Z on die A, ±Y and −Z on die B (R217). -/
def portDie (p : Nat) : Nat := if p = 0 ∨ p = 1 ∨ p = 4 then 0 else 1
/-- The die of an egress: access ports 0 to 7 on die A, 8 to 15 on die B. -/
def egressDie (e : Nat) : Nat := if e < 6 then portDie e else if e < 14 then 0 else 1

/-- The axis a route corrects first, in the order X, Y, Z. -/
def routeAxis (cur dest : Nat) : Option Nat :=
  (List.range 3).find? (fun ax => axisPos cur ax != axisPos dest ax)

/-- R210's next hop: the port and the dateline bit, or none for ejection. `inAxis` is the axis the cell arrived on. -/
def nextHop (s : State) (cur dest : Nat) (dl : Bool) (inAxis : Option Nat) : Option (Nat × Bool) :=
  match routeAxis cur dest with
  | none => none
  | some ax =>
    let l := max 1 (axisLen s ax)
    let dp := (axisPos dest ax + l - axisPos cur ax) % l
    let plus : Bool := dp ≤ l - dp
    let dl := if inAxis = some ax then dl else false
    let wrap := if plus then axisPos cur ax + 1 == l else axisPos cur ax == 0
    some (portOf ax plus, dl || wrap)

/-! ## The fence view's bits that routing and groups read (R370) -/

/-- The fabric holds a coordinate as fenced. DESIGN CHOICE (log 26). -/
def fenced (s : State) (c : Nat) : Bool := flag s (HEALTH_VIEW_FENCED c)
/-- A torus port is up with credits exchanged. -/
def portUp (s : State) (p : Nat) : Bool := flag s (FAB_PORT_STATE_UP p)

/-! ## Contexts (R273 to R275, R30) -/

/-- CTX_STATE.STATE: 0 CLOSED, 1 OPEN, 2 CLOSING. DESIGN CHOICE (log 26). -/
def ctxState (s : State) (c : Nat) : Nat := getF s (CTX_STATE_STATE c)
/-- The context is OPEN. -/
def ctxIsOpen (s : State) (c : Nat) : Bool := ctxState s c == 1
/-- The context is OPEN or CLOSING. -/
def ctxLive (s : State) (c : Nat) : Bool := ctxState s c != 0
/-- The context's job ID. -/
def ctxJob (s : State) (c : Nat) : Nat := getF s (CTX_JOB_JOB c)
/-- The context's Tide (R32). -/
def ctxTide (s : State) (c : Nat) : Nat := (rd s (CTX_TIDE c)).toNat
/-- The arithmetic mode: true is IEEE (R61). -/
def ctxIeee (s : State) (c : Nat) : Bool := flag s (CTX_CFG_MODE c)
/-- The context that holds a job on this module (R30). -/
def jobCtx (s : State) (job : Nat) : Option Nat :=
  (List.range 64).find? (fun c => ctxLive s c && ctxJob s c == job)
/-- The context a virtual function serves (R363, R364), while it is OPEN or CLOSING. -/
def vfCtx (s : State) (h n : Nat) : Option Nat :=
  (List.range 64).find? (fun c => ctxLive s c && getF s (CTX_CFG_PORT c) == h && getF s (CTX_CFG_VF c) == n)
/-- A sync object lies in the context's range while the range is in force (R288). -/
def inSyncRange (s : State) (c o : Nat) : Bool :=
  let b := getF s (CTX_SYNC_BASE c)
  ctxLive s c && decide (b ≤ o) && decide (o < b + getF s (CTX_SYNC_COUNT c))
/-- The context whose range holds an object. -/
def objCtx (s : State) (o : Nat) : Option Nat := (List.range 64).find? (fun c => inSyncRange s c o)
/-- The ports that a context holds (R29, R396). -/
def holdsPort (s : State) (c a : Nat) : Bool :=
  decide (a < 16) && flag s (HEALTH_PORT_OWNER_VALID a) && getF s (HEALTH_PORT_OWNER_CONTEXT a) == c

/-! ## Host ports (R362, R363) -/

/-- The configuration of a function of a host port (R362). -/
def pcieAt (s : State) (h fn : Nat) : PcieFn := (tget s.pcie (64 * h + fn)).getD {}
/-- The state with a function's configuration changed. -/
def withPcie (s : State) (h fn : Nat) (f : PcieFn → PcieFn) : State :=
  { s with pcie := tput s.pcie (64 * h + fn) (f (pcieAt s h fn)) }
/-- The module may issue memory requests for a function of a host port: link up, the PF's Bus Master Enable set and the
function's own too, and neither of the two in D3hot. PRESUMED (log 128). -/
def hostUp (s : State) (h fn : Nat) : Bool :=
  flag s (HOSTIF_PORT_UP h) && s.bme.contains (h, 0) && s.bme.contains (h, fn) && !(pcieAt s h 0).d3hot && !(pcieAt s h fn).d3hot
/-- The host port of a context's function. -/
def ctxHost (s : State) (c : Nat) : Nat := getF s (CTX_CFG_PORT c)
/-- The virtual function of a context. -/
def ctxVf (s : State) (c : Nat) : Nat := getF s (CTX_CFG_VF c)
/-- The context's host port has returned for it (R366). -/
def ctxHostUp (s : State) (c : Nat) : Bool := hostUp s (ctxHost s c) (ctxVf s c)
/-- An MSI-X message of a function; sent only while the function may issue requests and MSI-X is enabled. A masked vector
is pending until its mask is cleared. PRESUMED (log 128). -/
def msix (s : State) (h fn vec : Nat) : State :=
  let p := pcieAt s h fn
  if !hostUp s h fn || !p.msixOn then s
  else if p.fnMask || !p.unmasked.contains vec then
    withPcie s h fn (fun p => { p with waiting := if p.waiting.contains vec then p.waiting else p.waiting ++ [vec] })
  else emit s (.msix h fn vec)
/-- An MSI-X message of a context's function (R365). -/
def ctxMsix (s : State) (c vec : Nat) : State := msix s (ctxHost s c) (ctxVf s c) vec
/-- An MSI-X message of the physical functions of both ports (R365). -/
def pfMsix (s : State) (vec : Nat) : State := msix (msix s 0 0 vec) 1 0 vec

/-! ## Memory (R254 to R258) -/

/-- The spaces of Table 9-7. -/
inductive Space where
  | cay | lagoon | hbm | host
  deriving DecidableEq, Repr

/-- First address of the Lagoon. -/
def lagoonBase : Nat := 0x400000000
/-- First address of HBM. -/
def hbmBase : Nat := 0x10000000000
/-- First host-tier address. -/
def hostBase : Nat := 0x8000000000000000

/-- The space an address lies in; none where it is unmapped (R256). -/
def spaceOf (a : Nat) : Option Space :=
  if a < 0x10000000 then some .cay
  else if lagoonBase ≤ a ∧ a < 0x800000000 then some .lagoon
  else if hbmBase ≤ a ∧ a < 0x1A000000000 then some .hbm
  else if hostBase ≤ a ∧ a < 2 ^ 64 then some .host
  else none

/-- First byte of the on-module flash (R407) in the memory list; no module address names it.
PRESUMED (log 9). DESIGN CHOICE (log 10). -/
def flashBase : Nat := 0x10000000000000000

/-- What a byte that is not listed reads as: zero in the module's own memories (R408 writes them all to zero); host
memory has none, it belongs to the host; flash that nothing has programmed reads as erased, 0xFF.
DESIGN CHOICE (log 7). DEDUCED (log 8). PRESUMED (log 9). -/
def memDefault (a : Nat) : Option Byte := if a < hostBase then some 0 else if a < flashBase then none else some 0xFF

/-- The listed byte at an address. -/
def cellGet : List Host.Cell → Nat → Option Byte
  | [], _ => none
  | (j, v) :: t, k => if j = k then some v else cellGet t k

/-- The bytes of a run that differ from what an unlisted byte reads as, in rising order of address. -/
def freshCells : Nat → List Byte → List Host.Cell
  | _, [] => []
  | a, b :: bs => if memDefault a = some b then freshCells (a + 1) bs else (a, b) :: freshCells (a + 1) bs

/-- Consecutive bytes written: addresses rising, no entry equal to what an unlisted address reads as. -/
def cellsPut (m : List Host.Cell) (a : Nat) (bs : List Byte) : List Host.Cell :=
  m.filter (fun x => decide (x.1 < a)) ++ freshCells a bs ++ m.filter (fun x => decide (a + bs.length ≤ x.1))

/-- The canonical form: addresses strictly rising, and no entry equal to what an unlisted address reads as. -/
def memWf : List Host.Cell → Bool
  | [] => true
  | [(a, v)] => decide (memDefault a ≠ some v)
  | (a, v) :: (b, w) :: t => decide (memDefault a ≠ some v) && decide (a < b) && memWf ((b, w) :: t)

/-- One byte as the model reads it at read number `r`. DESIGN CHOICE (log 7). -/
def byteAt (m : List Host.Cell) (r : Nat) (a : Nat) : Byte :=
  match cellGet m a with
  | some v => v
  | none => (memDefault a).getD (Config.hostByte r a)

/-- `n` bytes from an address. -/
def bytesAt (m : List Host.Cell) (r : Nat) (a n : Nat) : List Byte :=
  (List.range n).map (fun i => byteAt m r (a + i))

/-- The state with bytes written, without any check; a write of a whole block clears its poison mark (R268). -/
def poke (s : State) (a : Nat) (bs : List Byte) : State :=
  { s with
    mem := cellsPut s.mem a bs
    poison := s.poison.filter (fun k => !(decide (a ≤ 64 * k) && decide (64 * k + 64 ≤ a + bs.length))) }

/-- The Cay that owns a Lagoon or Cay store address. -/
def addrCay (a : Nat) : Nat := if a < lagoonBase then a / 0x200000 else (a - lagoonBase) / 0x8000000

/-- A numbered Cay is in service: on its own or on a spare (HEALTH_CAY_n.STATE). -/
def cayUp (s : State) (n : Nat) : Bool := decide (getF s (HEALTH_CAY_STATE n) ≤ 1)

/-- The function whose requester ID an access to the host tier carries (R258, R363): the context's, or the physical one. -/
def reqFn (s : State) (c : Option Nat) : Nat := match c with | some c => ctxVf s c | none => 0
/-- The port that a host-tier address goes out on (R258). -/
def hostPort (a : Nat) : Nat := bits a 62 62
/-- A range of bytes cut where a multiple of a limit lies in it; the first number is the most parts there can be. -/
def parts : Nat → Nat → Nat → Nat → List (Nat × Nat)
  | 0, _, _, _ => []
  | f + 1, lim, a, n =>
    if n = 0 then []
    else
      let k := min n (lim - a % lim)
      (a, k) :: parts f lim (a + k) (n - k)

/-- Read requests of a function, none above the Max Read Request Size of its port (R362). PRESUMED (log 128). -/
def hostAsk (s : State) (h fn a n : Nat) : State :=
  (parts n (128 * 2 ^ (pcieAt s h 0).request) a n).foldl (fun s x => emit s (.hostRead h fn x.1 x.2)) s

/-- Write requests of a function, none above the Max Payload Size of its port (R362). PRESUMED (log 128). -/
def hostSend (s : State) (h fn a : Nat) (bs : List Byte) : State :=
  (parts bs.length (128 * 2 ^ (pcieAt s h 0).payload) a bs.length).foldl
    (fun s x => emit s (.hostWrite h fn x.1 ((bs.drop (x.1 - a)).take x.2))) s

/-- A read request to the host, where the address is the host's. -/
def askHost (s : State) (c : Option Nat) (a n : Nat) : State :=
  if a < hostBase then s else hostAsk s (hostPort a) (reqFn s c) a n

/-- Why an access to a mapped range fails, none where it does not: a Lagoon slice out of service (R255), a host port
that is down for the context (R258), a poisoned block (R268). -/
def accessFault (s : State) (c : Option Nat) (a n : Nat) (write : Bool) : Option Nat :=
  match spaceOf a with
  | some .host =>
    if hostUp s (hostPort a) (reqFn s c) then none else some 0x60
  | some sp =>
    let slices := (List.range (addrCay (a + (n - 1)) + 1 - addrCay a)).map (fun i => addrCay a + i)
    let codes := (if (sp = .lagoon || sp = .cay) && slices.any (fun k => !cayUp s k) then [0x31] else []) ++
      (if !write && s.poison.any (fun k => decide (64 * k < a + n) && decide (a < 64 * k + 64)) then [0x22] else [])
    if codes.isEmpty then none else some (worst codes)
  | none => some 0x13

/-- A read of `n` bytes for a context: the bytes, or the status with which the owning work completes. A read of the host
tier draws a free value (the host's own bytes). -/
def memRead (s : State) (c : Option Nat) (a n : Nat) : State × Except Nat (List Byte) :=
  match accessFault s c a n false with
  | some e => (s, .error e)
  | none => (askHost { s with free := s.free + 1 } c a n, .ok (bytesAt s.mem s.free a n))

/-- A write for a context: the state, and the status where it fails. A host-tier write leaves on the host port. -/
def memWrite (s : State) (c : Option Nat) (a : Nat) (bs : List Byte) : State × Option Nat :=
  match accessFault s c a bs.length true with
  | some e => (s, some e)
  | none => (if a < hostBase then poke s a bs else hostSend (poke s a bs) (hostPort a) (reqFn s c) a bs, none)

/-! ## Windows (R259, R260) -/

/-- One MiB. -/
def MiB : Nat := 0x100000

/-- The context's HBM window: first address and length. -/
def hbmWin (s : State) (c : Nat) : Nat × Nat :=
  (hbmBase + getF s (MEM_CTX_HBM_WIN_BASE_MIB c) * MiB, getF s (MEM_CTX_HBM_WIN_SIZE_MIB c) * MiB)
/-- The context's Lagoon window. -/
def lagoonWin (s : State) (c : Nat) : Nat × Nat :=
  (lagoonBase + getF s (MEM_CTX_LAGOON_WIN_BASE c) * MiB, getF s (MEM_CTX_LAGOON_WIN_SIZE c) * MiB)
/-- Host window k of a context: first module address, length, valid, read, write (Table 9-11). -/
def hostWin (s : State) (c k : Nat) : Nat × Nat × Bool × Bool × Bool :=
  let lo := getF s (MEM_HOSTWIN_BASE_LO_ADDR c k) * 4096
  let hi := getF s (MEM_HOSTWIN_BASE_HI_ADDR c k) * 2 ^ 32
  (hostBase + getF s (MEM_HOSTWIN_BASE_HI_PORT c k) * 2 ^ 62 + hi + lo,
   getF s (MEM_HOSTWIN_SIZE_PAGES c k) * 4096, flag s (MEM_HOSTWIN_BASE_HI_VALID c k),
   flag s (MEM_HOSTWIN_CTRL_READ c k), flag s (MEM_HOSTWIN_CTRL_WRITE c k))

/-- A range lies inside another. -/
def within (a n : Nat) (w : Nat × Nat) : Bool := decide (w.1 ≤ a) && decide (a + n ≤ w.1 + w.2) && decide (0 < w.2)
/-- Two ranges share a byte. -/
def overlap (a n b m : Nat) : Bool := decide (a < b + m) && decide (b < a + n) && decide (0 < n) && decide (0 < m)

/-- A range of `n` bytes lies inside one host window of the context with the access needed. -/
def inHostWin (s : State) (c a n : Nat) (write : Bool) : Bool :=
  (List.range 8).any (fun k =>
    let w := hostWin s c k
    w.2.2.1 && within a n (w.1, w.2.1) && (if write then w.2.2.2.2 else w.2.2.2.1))

/-- A range lies inside one of the context's windows with the access needed (R259). -/
def inWindows (s : State) (c a n : Nat) (write : Bool) : Bool :=
  within a n (hbmWin s c) || within a n (lagoonWin s c) || inHostWin s c a n write

/-! ## Health scores (R393, Table 13-6) -/

/-- Weight added to a Cay's score; a fenced Cay's score stays. -/
def scoreCay (s : State) (n w : Nat) : State := if cayUp s n then bump s (HEALTH_CAY_SCORE n) w else s
/-- Weight added to a port's score: 0 to 5 torus, 6 to 21 access. -/
def scorePort (s : State) (p w : Nat) : State := bump s (HEALTH_PORT_SCORE_SCORE p) w
/-- Weight added to the module's score. -/
def scoreModule (s : State) (w : Nat) : State := bump s HEALTH_MODULE_SCORE_SCORE w

/-! ## Cays as processors -/

/-- A Cay's program state. DESIGN CHOICE (log 14). -/
def cayAt (s : State) (n : Nat) : Milar := (tget s.cays n).getD {}
/-- The state with a Cay's program state set. -/
def putCay (s : State) (n : Nat) (m : Milar) : State := { s with cays := tput s.cays n m }
/-- A Cay runs no call. -/
def cayIdle (s : State) (n : Nat) : Bool := (cayAt s n).call.isNone
/-- First byte of a Cay's store. -/
def cayStore (n : Nat) : Nat := n * 0x200000
/-- A Cay's running call is a user kernel. -/
def runsKernel (m : Milar) : Bool := match m.call with | some c => c.kernel | none => false
/-- A kernel, queued or running, that ends: CAY_KL_STATE shows DONE with its status (R331). An update call stays. -/
def endKernel (s : State) (n st : Nat) : State :=
  let m := cayAt s n
  let s := putCay s n (if runsKernel m then { m with call := none, queued := none, streams := List.replicate 4 {} }
    else { m with queued := none })
  setF (setF s (CAY_KL_STATE_STATE n) 3) (CAY_KL_STATE_STATUS n) st

/-! ## Who reaches a register (R19, R364, R408, R409, R423) -/

/-- What an access meets: the register, nothing (R18), or no decoding at all. -/
inductive Reach where
  | yes | unmapped | absent
  deriving DecidableEq, Repr

/-- The physical offsets a virtual function reaches (Table 12-12). -/
def vfReaches (s : State) (h n off : Nat) : Bool :=
  decide (off < 4) ||
  match vfCtx s h n with
  | none => false
  | some c =>
    (decide (CTX_JOB c ≤ off) && decide (off < CTX_JOB c + 0x100)) ||
    (decide (QUE_RING_LO (16 * c) ≤ off) && decide (off < QUE_RING_LO (16 * c) + 0x1000)) ||
    (decide (0x400000 ≤ off) && decide (off < 0x480000) && inSyncRange s c ((off - 0x400000) / 0x20))

/-- Whether a requester's access to a BAR0 offset is decoded. Before the boot state is final a host's access is not; in
RECOVERY and FAILED only the GLOBAL and TRUST blocks are (R409).
DEDUCED (log 19). DEDUCED (log 23). DEDUCED (log 34). -/
def reach (s : State) (r : Requester) (off : Nat) : Reach :=
  let st := getF s TRUST_STATE_STATE
  let block : Bool := decide (off < 0x100000) || (decide (0x2C00000 ≤ off) && decide (off < 0x3000000))
  let byState : Reach := if st < 3 then .absent else if st = 3 ∨ block then .yes else .unmapped
  match r with
  | .pf _ => byState
  | .vf h n =>
    if byState = .yes then (if vfReaches s h.val (n.val + 1) off then .yes else .unmapped) else byState
  | .mgmt m => if s.sessions.contains m then .yes else .absent
  | .core _ => if s.boot.released then .yes else .absent

/-- A register access: its effect where the register is reached, the count of R18 where nothing is. -/
def access (s : State) (r : Requester) (off : Nat) (f : State → State) : Res :=
  match reach s r off with
  | .yes => .next (f s)
  | .unmapped => .next (bump s GLOBAL_UNMAPPED_COUNT_COUNT 1)
  | .absent => .next s

/-- The requester is a virtual function. -/
def isVf : Requester → Bool
  | .vf _ _ => true
  | _ => false

/-! ## Cell bytes (R203, R204) -/

/-- Bytes 0x00 to 0x0D of a cell's header. -/
def headerBytes (x : Cell) : List Byte :=
  let b := fun (v : Bool) (k : Nat) => if v then 2 ^ k else 0
  natLe 2 (x.dest.toNat + b x.dateline 15) ++ natLe 2 x.src.toNat ++
    natLe 1 (x.type.toNat + b x.mark 4 + b x.echo 5 + b x.last 6 + b x.retry 7) ++ natLe 1 x.vc.toNat ++
    natLe 2 x.job.toNat ++ natLe 2 x.tag.toNat ++ natLe 2 x.seq.toNat ++ natLe 2 x.scale.toNat

/-- The CRC field of a cell (R204). -/
def crcField (x : Cell) : BitVec 16 := x.crc.getD (crc16 (headerBytes x))

/-- The 80 bytes of a cell (R202). -/
def cellBytes (x : Cell) : List Byte := headerBytes x ++ natLe 2 (crcField x).toNat ++ slice (x.payload ++ zeros 64) 0 64

/-- The payload of a cell, 64 bytes, short lists filled with zero. -/
def payloadOf (x : Cell) : List Byte := slice (x.payload ++ zeros 64) 0 64

end Sys2Proof.Machine
end

