-- ==== Sys2Proof/Machine/Flags.lean ====
section
/-! DEFINITION. Sticky flags and the NV locators of the Cays and of the Causeway combiners (R83 to R87). -/

namespace Sys2Proof.Machine

/-- The state with a one-bit flag set where an event calls for it. -/
def stick (s : State) (f : Fld) (b : Bool) : State := if b then setF s f 1 else s

/-- The flags of a Cay collect an event's (R83). DEDUCED (log 43). -/
def cayFlags (s : State) (n : Nat) (f : Flags) : State :=
  stick (stick (stick (stick s (CAY_FLAGS_OV n) f.ov) (CAY_FLAGS_UF n) f.uf) (CAY_FLAGS_NX n) f.nx)
    (CAY_FLAGS_NV n) f.nv

/-- Where an invalid operation happened (Tables 3-7 to 3-10). -/
structure NvPlace where
  kind : Nat
  job : Nat
  group : Nat
  place : Nat
  block : Nat
  pc : Nat
  element : Nat
  deriving DecidableEq, Repr

/-- An NV event of a Cay: the flag, and the locator where it is not frozen (R85). DESIGN CHOICE (log 124). -/
def cayNv (s : State) (n cause : Nat) (w : NvPlace) : State :=
  let s := setF s (CAY_FLAGS_NV n) 1
  if flag s (CAY_NV_LOC0_VALID n) then s
  else
    let s := wr s (CAY_NV_LOC0 n) (BitVec.ofNat 32 (2 ^ 31 + w.kind * 2 ^ 28 + cause * 2 ^ 24 + w.job % 65536))
    let s := wr s (CAY_NV_LOC1 n) (BitVec.ofNat 32 (w.group % 1024 * 65536 + w.place % 65536))
    let s := wr s (CAY_NV_LOC2 n) (BitVec.ofNat 32 w.block)
    wr s (CAY_NV_LOC3 n) (BitVec.ofNat 32 (w.pc % 2 ^ 19 * 512 + w.element % 512))

/-- The flags of a Causeway combiner collect an event's (R87). -/
def cwFlags (s : State) (n : Nat) (f : Flags) : State :=
  stick (stick (stick (stick s (FAB_CW_FLAGS_OV n) f.ov) (FAB_CW_FLAGS_UF n) f.uf) (FAB_CW_FLAGS_NX n) f.nx)
    (FAB_CW_FLAGS_NV n) f.nv

/-- An NV event of a combiner: its locator captures the lowest element of the earliest combine (R87). -/
def cwNv (s : State) (n cause job group element : Nat) : State :=
  let s := setF s (FAB_CW_FLAGS_NV n) 1
  if flag s (FAB_CW_NV_LOC0_VALID n) then s
  else
    let s := wr s (FAB_CW_NV_LOC0 n) (BitVec.ofNat 32 (2 ^ 31 + cause * 2 ^ 24 + job % 65536))
    wr s (FAB_CW_NV_LOC1 n) (BitVec.ofNat 32 (group % 1024 * 65536 + element % 16))

end Sys2Proof.Machine
end

