-- ==== Sys2Proof/Machine/Sync.lean ====
section
/-! DEFINITION. Sync objects: posts, waits and notifications (R288 to R293), and the commands a queue holds. -/

namespace Sys2Proof.Machine

/-- The key of a queue: 16 × context + queue number. -/
def qkey (c q : Nat) : Nat := 16 * c + q
/-- A queue's state. -/
def queueAt (s : State) (k : Nat) : QueueSt := (tget s.queues k).getD {}
/-- The state with a queue changed. -/
def withQueue (s : State) (k : Nat) (f : QueueSt → QueueSt) : State :=
  { s with queues := tput s.queues k (f (queueAt s k)) }
/-- A fetched command that has not completed. -/
def cmdAt (s : State) (k i : Nat) : Option CmdSt := tget (queueAt s k).cmds i
/-- The state with a command changed. -/
def withCmd (s : State) (k i : Nat) (f : CmdSt → CmdSt) : State :=
  withQueue s k (fun q => { q with cmds := tmod q.cmds i f })
/-- A running command's status is known: it completes by COMMAND_COMPLETE. -/
def endCmd (s : State) (k i st : Nat) : State :=
  withCmd s k i (fun m => if m.status.isSome then m else { m with status := some st })
/-- As `endCmd`, with the DETAIL of Table 10-6. -/
def endCmdWith (s : State) (k i st d : Nat) : State :=
  withCmd s k i (fun m => if m.status.isSome then m else { m with status := some st, detail := d })
/-- End every command of a list. -/
def endAll (s : State) (ks : List (Nat × Nat)) (st : Nat) : State := ks.foldl (fun t p => endCmd t p.1 p.2 st) s

/-! ## The command's bytes (Table 10-3) -/

/-- OPCODE. -/
def cOp (b : List Byte) : Nat := fieldAt b 0 1
/-- FLAGS. -/
def cFlags (b : List Byte) : Nat := fieldAt b 1 1
/-- FLAGS.BARRIER. -/
def cBarrier (b : List Byte) : Bool := bit (cFlags b) 0
/-- FLAGS.IRQ. -/
def cIrq (b : List Byte) : Bool := bit (cFlags b) 1
/-- FLAGS.WAIT. -/
def cWait (b : List Byte) : Bool := bit (cFlags b) 2
/-- FLAGS.POST. -/
def cPost (b : List Byte) : Bool := bit (cFlags b) 3
/-- WAIT_SIG's object. -/
def cWaitSig (b : List Byte) : Nat := bits (fieldAt b 2 2) 13 0
/-- POST_SIG's object. -/
def cPostSig (b : List Byte) : Nat := bits (fieldAt b 4 2) 13 0
/-- COOKIE. -/
def cCookie (b : List Byte) : Nat := fieldAt b 6 2
/-- WAIT_VALUE. -/
def cWaitValue (b : List Byte) : Nat := fieldAt b 8 8

/-- A 16-bit object reference with VALID in bit 15. -/
def sigRef (v : Nat) : Option Nat := if bit v 15 then some (bits v 13 0) else none

/-- The waits of a command: its header wait and, of a SIGNAL_WAIT, COND0 to COND2 (Table 10-5). -/
def cWaits (b : List Byte) : List (Option (Nat × Nat)) :=
  (if cWait b then some (cWaitSig b, cWaitValue b) else none) ::
  (if cOp b = 0x0B then
    [0x10, 0x20, 0x30].map (fun o => (sigRef (fieldAt b o 2)).map (fun x => (x, fieldAt b (o + 8) 8)))
   else [])

/-- The sync objects a command names (R284). -/
def cObjects (b : List Byte) : List Nat :=
  (cWaits b).filterMap (fun w => w.map (fun p => p.1)) ++
  (if cPost b then [cPostSig b] else []) ++
  (if cOp b = 0x02 ∨ cOp b = 0x03 then (sigRef (fieldAt b 0x14 2)).toList else []) ++
  (if cOp b = 0x0C then [bits (fieldAt b 0x10 2) 13 0] else [])

/-! ## Objects (R288) -/

/-- An object's counter. DESIGN CHOICE (log 26). -/
def syncValue (s : State) (o : Nat) : Nat := rd64 s (SYNC_VALUE_LO o)
/-- An object's STATUS. -/
def syncStatus (s : State) (o : Nat) : Nat := getF s (SYNC_STATUS_STATUS o)

/-- A wait that holds now takes the object's present STATUS; a satisfied wait stays so (R291). -/
def latch (s : State) (w : Option (Nat × Nat)) (old : Option Nat) : Option Nat :=
  match old, w with
  | some x, _ => some x
  | none, none => none
  | none, some (o, v) => if v ≤ syncValue s o then some (syncStatus s o) else none

/-- Every wait of a command checked (R291): from its fetch on, but those of a SIGNAL_WAIT, which are its completion
conditions, from its start on (R283, R286). DEDUCED (log 31). -/
def latchCmd (s : State) (m : CmdSt) : CmdSt :=
  let ws := cWaits m.bytes
  if cOp m.bytes == 0x0B && !m.started then m
  else { m with waits := (ws.zipIdx).map (fun p => latch s p.1 (m.waits.getD p.2 none)) }

/-- Every wait of every fetched command checked. DEDUCED (log 31). -/
def latchAll (s : State) : State :=
  { s with queues := s.queues.map (fun p => (p.1, { p.2 with cmds := p.2.cmds.map (fun q => (q.1, latchCmd s q.2)) })) }

/-- The kinds of a post (R289). -/
inductive PostKind where
  | add | set
  deriving DecidableEq, Repr

/-- One post to an object: its counter, its STATUS, the waits it satisfies, the notification it calls for. An object in
the range of no live context takes no post. -/
def post (s : State) (o : Nat) (k : PostKind) (v st : Nat) : State :=
  match objCtx s o with
  | none => s
  | some _ =>
    let n := match k with
      | .add => (syncValue s o + v) % 2 ^ 64
      | .set => v % 2 ^ 64
    let s := setF (wr64 s (SYNC_VALUE_LO o) n) (SYNC_STATUS_STATUS o) st
    let s := latchAll s
    if getF s (SYNC_NOTIFY_KIND o) = 0 ∨ s.notify.contains o then s else { s with notify := s.notify ++ [o] }

/-- A post of a handshake. -/
structure Post where
  obj : Nat
  kind : PostKind
  value : Nat
  status : Nat
  deriving DecidableEq, Repr

/-- What the posts of one handshake leave in an object (R289): the largest SET first, the ADDs summed, the highest-ranking
status. -/
def postObject (ps : List Post) (s : State) (o : Nat) : State :=
  match objCtx s o with
  | none => s
  | some _ =>
    let mine := ps.filter (fun p => p.obj == o)
    let sets := mine.filter (fun p => p.kind == .set)
    let base := if sets.isEmpty then syncValue s o else (sets.map (fun p => p.value % 2 ^ 64)).foldl max 0
    let sum := ((mine.filter (fun p => p.kind == .add)).map (fun p => p.value)).foldl (· + ·) 0
    let s := setF (wr64 s (SYNC_VALUE_LO o) ((base + sum) % 2 ^ 64)) (SYNC_STATUS_STATUS o) (worst (mine.map (fun p => p.status)))
    if getF s (SYNC_NOTIFY_KIND o) = 0 ∨ s.notify.contains o then s else { s with notify := s.notify ++ [o] }

/-- The posts of one handshake (R289); the waits are checked at its end (R291). -/
def postAll (s : State) (ps : List Post) : State := latchAll ((ps.map (fun p => p.obj)).eraseDups.foldl (postObject ps) s)

/-- The 16 bytes of a notification (R293). -/
def notifyBytes (s : State) (o : Nat) : List Byte :=
  natLe 8 (syncValue s o) ++ natLe 1 (syncStatus s o) ++ zeros 7

/-- The notification address. -/
def notifyAddr (s : State) (o : Nat) : Nat :=
  getF s (SYNC_NADDR_LO_ADDR o) * 16 + getF s (SYNC_NADDR_HI_ADDR o) * 2 ^ 32

/-- SYNC_POST (R289): a host write adds its value with status OK. -/
def execSyncPost (r : Requester) (o : SyncObj) (v : Word) (s : State) : Res :=
  access s r (SYNC_POST o.val) (fun s => post s o.val .add v.toNat 0)

/-- SIGNAL_WAIT (R286): complete when the header wait and every valid condition are satisfied, with the highest-ranking
of their statuses. DEDUCED (log 31). -/
def execSignalWait (c : Ctx) (q : QNum) (i : Word) (s : State) : Res :=
  let k := qkey c.val q.val
  match cmdAt s k i.toNat with
  | some m =>
    let m := latchCmd s m
    if m.started && m.status.isNone && cOp m.bytes == 0x0B &&
        ((cWaits m.bytes).zip m.waits).all (fun p => p.1.isNone || p.2.isSome) then
      .next (endCmd (withCmd s k i.toNat (fun x => { latchCmd s x with ran := true })) k i.toNat
        (worst (m.waits.filterMap id)))
    else .next s
  | none => .next s

/-- A started command of an opcode that has not run yet is run once: its bytes go to the meaning. -/
def runCmd (s : State) (c : Ctx) (q : QNum) (i : Word) (op : Nat) (f : State → Nat → List Byte → State) : Res :=
  let k := qkey c.val q.val
  match cmdAt s k i.toNat with
  | some m =>
    if m.started && !m.ran && m.status.isNone && cOp m.bytes == op then
      .next (f (withCmd s k i.toNat (fun x => { x with ran := true })) k m.bytes)
    else .next s
  | none => .next s

/-- SIGNAL_POST (R286): the post is made when the command starts, with the status the command names; the command then
completes. A STATUS that is no code of Table 10-8 is refused. -/
def execSignalPost (c : Ctx) (q : QNum) (i : Word) (s : State) : Res :=
  runCmd s c q i 0x0C (fun s k b =>
    let op := fieldAt b 0x12 1
    let st := fieldAt b 0x13 1
    if op ≤ 1 ∧ (st = 0 ∨ rank st < 11) then
      endCmd (post s (bits (fieldAt b 0x10 2) 13 0) (if op = 0 then .add else .set) (fieldAt b 0x18 8) st) k i.toNat 0
    else endCmd s k i.toNat 0x13)

end Sys2Proof.Machine
end

