-- ==== Sys2Proof/Machine/Queues.lean ====
section
/-! DEFINITION. Command queues: doorbell, fetch, start, completion, mirror, compatibility mode, enable and disable
(R276 to R287, R298, R299). -/

namespace Sys2Proof.Machine

/-- ENTRIES of a queue (R276). -/
def queEntries (s : State) (k : Nat) : Nat := 2 ^ getF s (QUE_SIZE_LOG2 k)
/-- TAIL, HEAD, RETIRE, DONE (R277). -/
def queTail (s : State) (k : Nat) : Nat := (rd s (QUE_TAIL k)).toNat
/-- HEAD. -/
def queHead (s : State) (k : Nat) : Nat := (rd s (QUE_HEAD k)).toNat
/-- RETIRE. -/
def queRetire (s : State) (k : Nat) : Nat := (rd s (QUE_RETIRE k)).toNat
/-- Difference of two 32-bit indices. -/
def idxSub (a b : Nat) : Nat := (a + 2 ^ 32 - b % 2 ^ 32) % 2 ^ 32
/-- The depth TAIL − RETIRE. -/
def queDepth (s : State) (k : Nat) : Nat := idxSub (queTail s k) (queRetire s k)
/-- FREE: ENTRIES less the depth (R277); a disabled queue never enabled reads 0. -/
def queFree (s : State) (k : Nat) : Nat :=
  if (queueAt s k).run = 0 then 0 else queEntries s k - queDepth s k
/-- QUE_ACTIVE.COUNT: fetched and not completed. -/
def queActive (s : State) (k : Nat) : Nat := (queueAt s k).cmds.length
/-- CTX_ACTIVE.COUNT. -/
def ctxActive (s : State) (c : Nat) : Nat :=
  ((List.range 16).map (fun q => queActive s (qkey c q))).foldl (· + ·) 0
/-- QUE_CTRL.ENABLE. -/
def queOn (s : State) (k : Nat) : Bool := flag s (QUE_CTRL_ENABLE k)
/-- QUE_CTRL.COMPAT. -/
def queCompat (s : State) (k : Nat) : Bool := flag s (QUE_CTRL_COMPAT k)

/-- A 64-bit address of the queue's LO and HI registers. -/
def queAddr (s : State) (lo hi : Nat) (mask : Nat) : Nat :=
  (rd s lo).toNat / mask * mask + (rd s hi).toNat * 2 ^ 32
/-- The command ring. -/
def queRing (s : State) (k : Nat) : Nat := queAddr s (QUE_RING_LO k) (QUE_RING_HI k) 64
/-- The completion ring. -/
def queCpl (s : State) (k : Nat) : Nat := queAddr s (QUE_CPL_LO k) (QUE_CPL_HI k) 16
/-- The mirror record. -/
def queMirror (s : State) (k : Nat) : Nat := queAddr s (QUE_MIRROR_LO k) (QUE_MIRROR_HI k) 64

/-- A QUE_ERR bit is set: CTX_EVENT.QUEUE_ERROR and MSI-X vector 16 follow. -/
def queError (s : State) (k : Nat) (f : Fld) : State :=
  ctxMsix (setF (setF s f 1) (CTX_EVENT_QUEUE_ERROR (k / 16)) 1) (k / 16) 16

/-- An index moved: with MIRROR 1 the mirror is due (R280). -/
def moved (s : State) (k : Nat) : State :=
  withQueue s k (fun q => { q with mirrorDue := q.mirrorDue || flag s (QUE_CTRL_MIRROR k) })

/-- The bytes of the mirror record (Table 10-2). -/
def mirrorBytes (s : State) (k : Nat) (seq : Nat) : List Byte :=
  natLe 4 (queHead s k) ++ natLe 4 (queRetire s k) ++ natLe 4 (rd s (QUE_DONE k)).toNat ++
    natLe 4 (queFree s k) ++ natLe 4 (ctxTide s (k / 16)) ++ natLe 4 seq ++ natLe 2 (queActive s k) ++ zeros 38

/-- A write of QUE_TAIL (R278): TAIL moves forward over free slots; a write that would move it back over posted commands
sets REWIND, one beyond the free slots OVERRUN. -/
def doorbell (s : State) (k : Nat) (v : Word) : State :=
  if !queOn s k then s
  else
    let d := queDepth s k
    let fwd := idxSub v.toNat (queTail s k)
    let back := idxSub (queTail s k) v.toNat
    if fwd = 0 then s
    else if fwd ≤ queEntries s k - d then wr s (QUE_TAIL k) v
    else if back ≤ d then queError s k (QUE_ERR_REWIND k)
    else queError s k (QUE_ERR_OVERRUN k)

/-- DOORBELL (R278): a write of QUE_TAIL. -/
def execDoorbell (r : Requester) (c : Ctx) (q : QNum) (v : Word) (s : State) : Res :=
  access s r (QUE_TAIL (qkey c.val q.val)) (fun s => doorbell s (qkey c.val q.val) v)

/-- Command slots a die holds for its queues (R279). -/
def dieSlots : Nat := 16384

/-- The slots in use or guaranteed to the queues of a die, but for one queue. -/
def slotsOthers (s : State) (k : Nat) : Nat :=
  let die := fun j : Nat => (j % 16) / 8
  (s.queues.map (fun p =>
    if p.1 = k ∨ die p.1 ≠ die k then 0
    else max p.2.cmds.length (if queOn s p.1 then 8 else 0))).foldl (· + ·) 0

/-- The commands a fetch takes at most: posted, within the read of 8, the queue's limit and the die's slots (R279). -/
def fetchRoom (s : State) (k : Nat) : Nat :=
  let a := queActive s k
  let lim := if queCompat s k then 512 else 256
  let dieLeft := dieSlots - slotsOthers s k - a
  min (min 8 (idxSub (queTail s k) (queHead s k))) (min (lim - a) (max dieLeft (8 - a)))

/-- The address of a command's slot in the command ring (R277). -/
def ringSlot (s : State) (k i : Nat) : Nat := queRing s k + 64 * (i % queEntries s k)

/-- The host reads of the next `n` commands, from the slot of HEAD on: one, or two where they pass the end of the ring
(R277, R279, R363). DESIGN CHOICE (log 145). -/
def readSlots (s : State) (k n : Nat) : State :=
  let m := min n (queEntries s k - queHead s k % queEntries s k)
  let s := if m = 0 then s else askHost s (some (k / 16)) (ringSlot s k (queHead s k)) (64 * m)
  if m < n then askHost s (some (k / 16)) (queRing s k) (64 * (n - m)) else s

/-- The 64-byte commands of a read. -/
def splitCmds : Nat → List Byte → List (List Byte)
  | 0, _ => []
  | n + 1, bs => if bs.length < 64 then [] else bs.take 64 :: splitCmds n (bs.drop 64)

/-- One command enters its slot: a command that names an object outside the context's range completes at once with
BAD_DESCRIPTOR, whatever its waits (R284). -/
def takeCmd (s : State) (k : Nat) (b : List Byte) : State :=
  let i := queHead s k
  let ok := (cObjects b).all (inSyncRange s (k / 16))
  let m : CmdSt := { bytes := b, status := (if ok then none else some 0x13), detail := (if cOp b = 7 then 0xFFFF else 0) }
  let s := withQueue s k (fun q => { q with cmds := tput q.cmds i (latchCmd s m) })
  wr s (QUE_HEAD k) (BitVec.ofNat 32 (i + 1))

/-- COMMAND_FETCH (R279, R281): the return of a host read of the queue's fetch run `gen`. A read of an earlier run is
discarded (R275, R276); an error response sets FETCH_FAIL. DESIGN CHOICE (log 145). -/
def execCommandFetch (c : Ctx) (q : QNum) (gen : Nat) (data : Option (List Byte)) (s : State) : Res :=
  let k := qkey c.val q.val
  if queOn s k && ctxIsOpen s c.val && gen == (queueAt s k).run && ctxHostUp s c.val &&
      !flag s (QUE_ERR_FETCH_FAIL k) then
    match data with
    | none => .next (queError (readSlots s k (fetchRoom s k)) k (QUE_ERR_FETCH_FAIL k))
    | some bs =>
      let bs := (splitCmds 8 bs).take (fetchRoom s k)
      if bs.isEmpty then .next s
      else .next (moved (bs.foldl (fun t b => takeCmd t k b) (readSlots s k bs.length)) k)
  else .next s

/-- The payload bytes that Table 10-5 lists for an opcode, as ranges of the command; every other byte is zero (R285). -/
def usedBytes (op : Nat) : Option (List (Nat × Nat)) :=
  if op = 0x01 then some [(0x10, 32)]
  else if op = 0x02 then some [(0x10, 6), (0x18, 4)]
  else if op = 0x03 then some [(0x10, 6), (0x18, 8)]
  else if op = 0x04 then some [(0x10, 6), (0x18, 24)]
  else if op = 0x05 then some [(0x10, 10)]
  else if op = 0x06 then some [(0x10, 2), (0x18, 8)]
  else if op = 0x07 then some [(0x10, 2), (0x18, 16)]
  else if op = 0x08 then some [(0x10, 1), (0x18, 16)]
  else if op = 0x09 then some [(0x10, 8), (0x18, 8)]
  else if op = 0x0A then some [(0x10, 3), (0x14, 4)]
  else if op = 0x0B then some [(0x10, 2), (0x18, 8), (0x20, 2), (0x28, 8), (0x30, 2), (0x38, 8)]
  else if op = 0x0C then some [(0x10, 4), (0x18, 8)]
  else if op = 0x0D then some [(0x10, 2), (0x18, 8)]
  else if op = 0x0E then some []
  else if op = 0x0F then some [(0x10, 2), (0x18, 24)]
  else none

/-- Whether a command breaks the header's form (R282) or has a nonzero byte no field of its opcode holds (R284). -/
def headerBad (b : List Byte) : Bool :=
  match usedBytes (cOp b) with
  | none => true
  | some us =>
    bits (cFlags b) 7 4 != 0 || bits (fieldAt b 2 2) 15 14 != 0 || bits (fieldAt b 4 2) 15 14 != 0 ||
    (!cWait b && cWaitValue b != 0) ||
    (List.range 48).any (fun j => fieldAt b (0x10 + j) 1 != 0 &&
      !(us.any (fun u => decide (u.1 ≤ 0x10 + j) && decide (0x10 + j < u.1 + u.2))))

/-- The opcode-specific reserved bits and enumerations of Table 10-5 that need no state. -/
def payloadBad (b : List Byte) : Bool :=
  let op := cOp b
  let sigBad := fun o => bit (fieldAt b o 2) 14
  if op = 0x02 then decide (1024 ≤ fieldAt b 0x10 2) || sigBad 0x14
  else if op = 0x03 then decide (2 < fieldAt b 0x12 1) || decide (1 < fieldAt b 0x13 1) || sigBad 0x14 ||
    fieldAt b 0x1C 4 == 0
  else if op = 0x04 then decide (1 < fieldAt b 0x10 1) || decide (0x2000 ≤ fieldAt b 0x12 2)
  else if op = 0x05 then decide (0x2000 ≤ fieldAt b 0x18 2)
  else if op = 0x06 ∨ op = 0x07 ∨ op = 0x0D then decide (1024 ≤ fieldAt b 0x10 2)
  else if op = 0x08 then decide (64 ≤ fieldAt b 0x10 1)
  else if op = 0x09 then decide (1 < fieldAt b 0x12 1) || decide (7 < fieldAt b 0x13 1)
  else if op = 0x0A then decide (1 < fieldAt b 0x12 1)
  else if op = 0x0B then sigBad 0x10 || sigBad 0x20 || sigBad 0x30
  else if op = 0x0C then decide (0x4000 ≤ fieldAt b 0x10 2) || decide (1 < fieldAt b 0x12 1)
  else false

/-- Every earlier command of the queue has completed. -/
def earlierDone (s : State) (k i : Nat) : Bool := queRetire s k == i

/-- Another STEP_CLOSE of the context is active (R286). -/
def stepCloseActive (s : State) (c k i : Nat) : Bool :=
  (List.range 16).any (fun q => (queueAt s (qkey c q)).cmds.any (fun p =>
    cOp p.2.bytes == 0x0E && p.2.started && !(qkey c q == k && p.1 == i)))

/-- COMMAND_START (R283, R292, R298): the start of a fetched command once its BARRIER and wait hold; a wait satisfied
with a failing status completes it with DEP_FAILED, a malformed command with BAD_DESCRIPTOR. -/
def execCommandStart (c : Ctx) (q : QNum) (i : Word) (s : State) : Res :=
  let k := qkey c.val q.val
  match cmdAt s k i.toNat with
  | none => .next s
  | some m =>
    let b := m.bytes
    let barrier := cBarrier b || queCompat s k
    let op := cOp b
    if m.started || m.status.isSome || (barrier && !earlierDone s k i.toNat) then .next s
    else if op = 0x0E ∧ stepCloseActive s c.val k i.toNat then .next s
    else
      let w := (latchCmd s m).waits.getD 0 none
      if op ≠ 0x0B ∧ cWait b ∧ w.isNone then .next s
      else if op ≠ 0x0B ∧ cWait b ∧ failing (w.getD 0) then .next (endCmd s k i.toNat 0x14)
      else if headerBad b || payloadBad b then .next (endCmd s k i.toNat 0x13)
      else .next (withCmd s k i.toNat (fun x => latchCmd s { x with started := true }))

/-- The completion record (Table 10-6). -/
def recordBytes (i st : Nat) (m : CmdSt) : List Byte :=
  natLe 4 i ++ natLe 1 (cOp m.bytes) ++ natLe 1 st ++ natLe 2 (cCookie m.bytes) ++ natLe 8 m.detail

/-- RETIRE moves past every completed command in index order. -/
def retire : Nat → Nat → List Nat → Nat × List Nat
  | 0, r, d => (r, d)
  | n + 1, r, d => if d.contains r then retire n ((r + 1) % 2 ^ 32) (d.filter (· != r)) else (r, d)

/-- A read of QUE_COMPAT_WAIT returns: BLOCKED in bit 31, ROOM. -/
def compatReturn (s : State) (k : Nat) (r : Requester) (blocked : Bool) : State :=
  emit s (.readData r [BitVec.ofNat 32 (if blocked then 0x80000000 else min 512 (queFree s k))])

/-- Held reads return, in the order in which they came. -/
def returnHeld (s : State) (k : Nat) (rs : List (Requester × Tick)) (blocked : Bool) : State :=
  rs.foldl (fun s r => compatReturn s k r.1 blocked) (withQueue s k (fun q => { q with held := q.held.filter (fun r => !rs.contains r) }))

/-- Held reads return once FREE is 1 or more (R299). -/
def releaseHeld (s : State) (k : Nat) : State :=
  let rs := (queueAt s k).held
  if rs.isEmpty ∨ queFree s k = 0 then s else returnHeld s k rs false

/-- The record, then the interrupt (R287); both wait while the ring's port is down (R281). -/
def writeRecord (s : State) (k i st : Nat) (m : CmdSt) : State :=
  let a := queCpl s k + 16 * (i % queEntries s k)
  let bs := recordBytes i st m
  if ctxHostUp s (k / 16) then
    let s := (memWrite s (some (k / 16)) a bs).1
    if cIrq m.bytes then ctxMsix s (k / 16) (k % 16) else s
  else withQueue s k (fun q => { q with waiting := q.waiting ++ [⟨ctxVf s (k / 16), a, bs, cIrq m.bytes⟩] })

/-- The Tide of a context advances (R296): its layers have not yet ended the new one, and modules re-admitted in the old one
may join (R386). DEDUCED (log 91). DESIGN CHOICE (log 120). -/
def advanceTide (s : State) (c : Nat) : State :=
  { wr s (CTX_TIDE c) (rd s (CTX_TIDE c) + 1) with
    barred := s.barred.filter (fun x => x.1 != c)
    lates := s.lates.map (fun r => if r.ctx = c then { r with closed := true } else r)
    layers := s.layers.map (fun p => (p.1, if p.2.ctx = c then { p.2 with posted := false } else p.2)) }

/-- COMMAND_COMPLETE (R287, R296): the post, the completion record, the interrupt, the indices. A STEP_CLOSE that ran
advances the Tide in this handshake; a REDUCE that ran frees its admitted entry (R107). DEDUCED (log 91). -/
def execCommandComplete (c : Ctx) (q : QNum) (i : Word) (s : State) : Res :=
  let k := qkey c.val q.val
  match cmdAt s k i.toNat with
  | none => .next s
  | some m =>
    match m.status with
    | none => .next s
    | some st =>
      let s := withQueue s k (fun q => { q with cmds := tdel q.cmds i.toNat })
      let s := if cOp m.bytes = 0x0E ∧ m.ran then advanceTide s c.val else s
      let s := if cOp m.bytes = 0x02 ∧ m.ran then
          { s with buckets := s.buckets.filter (fun p => p.2.reduceCmd != some (k, i.toNat)) } else s
      let s := if cPost m.bytes && inSyncRange s c.val (cPostSig m.bytes) then
          post s (cPostSig m.bytes) .add 1 st else s
      let s := writeRecord s k i.toNat st m
      let r := retire 65537 (queRetire s k) (i.toNat :: (queueAt s k).done)
      let s := withQueue s k (fun q => { q with done := r.2 })
      let s := wr s (QUE_RETIRE k) (BitVec.ofNat 32 r.1)
      let s := wr s (QUE_DONE k) (rd s (QUE_DONE k) + 1)
      .next (releaseHeld (moved s k) k)

/-- MIRROR_WRITE (R280): the mirror record with the indices as they stand, SEQ one higher. Not written in compatibility
mode (R298), nor while the port is down (R281). -/
def execMirrorWrite (c : Ctx) (q : QNum) (s : State) : Res :=
  let k := qkey c.val q.val
  let qs := queueAt s k
  if qs.mirrorDue && flag s (QUE_CTRL_MIRROR k) && !queCompat s k && ctxHostUp s c.val then
    let s := withQueue s k (fun q => { q with mirrorDue := false, seq := q.seq + 1 })
    .next (memWrite s (some c.val) (queMirror s k) (mirrorBytes s k (qs.seq + 1))).1
  else .next s

/-- A read of QUE_COMPAT_WAIT (R299). DEDUCED (log 24). -/
def compatRead (s : State) (k : Nat) (r : Requester) : State :=
  if !queOn s k then compatReturn s k r true
  else if 0 < queFree s k then compatReturn s k r false
  else withQueue s k (fun q => { q with held := q.held ++ [(r, s.now)] })

/-- COMPAT_BLOCKING_DOORBELL (R299): a read of QUE_COMPAT_WAIT, held while FREE is 0; while the queue is not enabled it
returns BLOCKED at once. A queue that is not in compatibility mode answers in the same way. -/
def execCompatBlockingDoorbell (r : Requester) (c : Ctx) (q : QNum) (s : State) : Res :=
  access s r (QUE_COMPAT_WAIT (qkey c.val q.val)) (fun s => compatRead s (qkey c.val q.val) r)

/-- COMPAT_HOLD_EXPIRY (R299): the hold of reads has lasted QUE_COMPAT_HOLD ticks. -/
def execCompatHoldExpiry (c : Ctx) (q : QNum) (s : State) : Res :=
  let k := qkey c.val q.val
  let rs := (queueAt s k).held.filter (fun r => decide (r.2 + (rd s (QUE_COMPAT_HOLD k)).toNat ≤ s.now))
  if rs.isEmpty then .next s else .next (returnHeld s k rs true)

/-- A ring or record of `n` bytes lies inside a window on the port of the context's function (R276). -/
def ringOk (s : State) (k a n : Nat) (write : Bool) : Bool :=
  decide (hostBase ≤ a) && bits a 62 62 == ctxHost s (k / 16) && inHostWin s (k / 16) a n write

/-- The mirror record lies inside such a window with WRITE. -/
def mirrorOk (s : State) (k : Nat) : Bool := ringOk s k (queMirror s k) 64 true

/-- The conditions of an enable (R276). -/
def enableOk (s : State) (k : Nat) : Bool :=
  let l := getF s (QUE_SIZE_LOG2 k)
  ctxIsOpen s (k / 16) && (if queCompat s k then l == 9 else decide (6 ≤ l) && decide (l ≤ 16)) &&
  ringOk s k (queRing s k) (64 * 2 ^ l) false && ringOk s k (queCpl s k) (16 * 2 ^ l) true &&
  (!flag s (QUE_CTRL_MIRROR k) || mirrorOk s k) && queActive s k == 0

/-- A successful enable: a new fetch run, the indices at 0, SEQ restarted; with MIRROR 1 the mirror is due where an index
has changed (R280). Reads held from before find free slots (R299). -/
def enableQueue (s : State) (k : Nat) : State :=
  let changed : Bool := [QUE_HEAD k, QUE_RETIRE k, QUE_DONE k].any (fun o => rd s o != 0)
  let s := setF s (QUE_CTRL_ENABLE k) 1
  let s := [QUE_TAIL k, QUE_HEAD k, QUE_RETIRE k, QUE_DONE k].foldl (fun t o => wr t o 0) s
  releaseHeld (withQueue s k (fun q => { q with
    run := q.run + 1, seq := 0, done := [], mirrorDue := flag s (QUE_CTRL_MIRROR k) && (q.mirrorDue || changed) })) k

/-- Fetching stops: outstanding reads of the run are discarded. -/
def stopFetch (s : State) (k : Nat) : State :=
  if (queueAt s k).run = 0 then s else withQueue s k (fun q => { q with run := q.run + 1 })

/-- A write of QUE_CTRL (R276): COMPAT is dropped while ENABLE is 1 or commands remain; MIRROR set while enabled needs
its record in a window; ENABLE 1 checks and enables; ENABLE 0 stops fetching. -/
def writeQueCtrl (s : State) (k : Nat) (v : Word) : State :=
  let on := queOn s k
  let s := if on || queActive s k != 0 then s else setF s (QUE_CTRL_COMPAT k) (bits v.toNat 1 1)
  let s :=
    if on && v.getLsbD 2 && !flag s (QUE_CTRL_MIRROR k) then
      if mirrorOk s k then setF s (QUE_CTRL_MIRROR k) 1 else queError s k (QUE_ERR_CONFIG k)
    else setF s (QUE_CTRL_MIRROR k) (bits v.toNat 2 2)
  if !on && v.getLsbD 0 then
    if enableOk s k then enableQueue s k else queError s k (QUE_ERR_CONFIG k)
  else if on && !v.getLsbD 0 then stopFetch (setF s (QUE_CTRL_ENABLE k) 0) k
  else s

/-- QUEUE_ENABLE (R276): a write of QUE_CTRL with ENABLE 1. -/
def execQueueEnable (r : Requester) (c : Ctx) (q : QNum) (v : Word) (s : State) : Res :=
  if v.getLsbD 0 then access s r (QUE_CTRL (qkey c.val q.val)) (fun s => writeQueCtrl s (qkey c.val q.val) v)
  else .next s

/-- QUEUE_DISABLE (R276): a write of QUE_CTRL with ENABLE 0. -/
def execQueueDisable (r : Requester) (c : Ctx) (q : QNum) (v : Word) (s : State) : Res :=
  if !v.getLsbD 0 then access s r (QUE_CTRL (qkey c.val q.val)) (fun s => writeQueCtrl s (qkey c.val q.val) v)
  else .next s

/-- MIRROR_ENABLE (R276): a write of QUE_CTRL with MIRROR 1. -/
def execMirrorEnable (r : Requester) (c : Ctx) (q : QNum) (v : Word) (s : State) : Res :=
  if v.getLsbD 2 then access s r (QUE_CTRL (qkey c.val q.val)) (fun s => writeQueCtrl s (qkey c.val q.val) v)
  else .next s

end Sys2Proof.Machine
end

