-- ==== Sys2Proof/Machine/Reserve.lean ====
section
/-! DEFINITION. Reservations and quotas of the Lagoon, HBM and the pool (R259 to R263), ranges being zeroed (R425), and
the prefetch engines (R264, R265). -/

namespace Sys2Proof.Machine

/-- The unit of a charge: 64 KiB (R261). -/
def chargeUnit : Nat := 65536
/-- Charges of a number of bytes, rounded up (R261). -/
def unitsOf (n : Nat) : Nat := (n + (chargeUnit - 1)) / chargeUnit

/-- The USED and QUOTA registers of a tier: Lagoon or HBM. -/
def usedFld (hbm : Bool) (c : Nat) : Fld := if hbm then MEM_CTX_HBM_USED_UNITS c else MEM_CTX_LAGOON_USED_UNITS c
/-- The quota of a tier, in charge units. -/
def quotaUnits (s : State) (hbm : Bool) (c : Nat) : Nat :=
  16 * (if hbm then getF s (MEM_CTX_HBM_QUOTA_MIB c) else getF s (MEM_CTX_LAGOON_QUOTA_MIB c))

/-- Whether a charge fits the quota. -/
def fitsQuota (s : State) (hbm : Bool) (c units : Nat) : Bool :=
  decide (getF s (usedFld hbm c) + units ≤ quotaUnits s hbm c)

/-- The ranges no reservation may take: windows of live contexts, reservations, ranges being zeroed. -/
def obstacles (s : State) : List (Nat × Nat) :=
  s.allocs.map (fun a => (a.base, a.len)) ++ s.zeroing ++
  ((List.range 64).filter (ctxLive s)).flatMap (fun c => [hbmWin s c, lagoonWin s c])

/-- The lowest place for `n` bytes in a range, if there is one. -/
def place (s : State) (lo len n : Nat) : Option Nat :=
  let obs := obstacles s
  let cands := (lo :: obs.map (fun o => o.1 + o.2)).filter (fun a =>
    decide (lo ≤ a) && decide (a + n ≤ lo + len) && !(obs.any (fun o => overlap a n o.1 o.2)))
  cands.foldl (fun b a => match b with | none => some a | some x => some (min x a)) none

/-- Where a reservation goes: a Lagoon slice, anywhere in the Lagoon, HBM. -/
inductive Tier where
  | slice (n : Nat)
  | lagoon
  | hbm
  deriving DecidableEq, Repr

/-- The range of a tier. -/
def tierRange : Tier → Nat × Nat
  | .slice n => (lagoonBase + n * 0x8000000, 0x8000000)
  | .lagoon => (lagoonBase, 0x400000000)
  | .hbm => (hbmBase, 0xA000000000)

/-- The tier is HBM. -/
def tierHbm : Tier → Bool
  | .hbm => true
  | _ => false

/-- A reservation of `n` bytes (R261, R262): refused with QUOTA and counted, or for want of space with NO_ADMISSION and
counted; otherwise charged and placed. DESIGN CHOICE (log 56). -/
def reserve (s : State) (c : Nat) (t : Tier) (n : Nat) (use : AllocFor) : State × Option Nat :=
  let u := unitsOf n
  let hbm := tierHbm t
  if u = 0 then (s, none)
  else if !fitsQuota s hbm c u then (bump s (MEM_CTX_REFUSE_COUNT_COUNT c) 1, some 0x40)
  else
    let r := tierRange t
    let free : Bool := match t with | .slice k => cayUp s k | _ => true
    match if free then place s r.1 r.2 (u * chargeUnit) else none with
    | none => (bump s MEM_SPACE_SHORT_COUNT_COUNT 1, some 0x41)
    | some a =>
      let s := setF s (usedFld hbm c) (getF s (usedFld hbm c) + u)
      ({ s with allocs := s.allocs ++ [⟨a, u * chargeUnit, c, use⟩] }, none)

/-- The reservation held for a use by a context. -/
def allocOf (s : State) (c : Nat) (use : AllocFor) : Option Alloc :=
  s.allocs.find? (fun a => a.ctx == c && a.use == use)

/-- One reservation returned: its charge, and its range to be zeroed (R425). -/
def releaseOne (s : State) (a : Alloc) : State :=
  let f := usedFld (decide (hbmBase ≤ a.base)) a.ctx
  let s := setF s f (getF s f - a.len / chargeUnit)
  { s with zeroing := s.zeroing ++ [(a.base, a.len)] }

/-- Every reservation of a kind returned. -/
def releaseAllocs (s : State) (p : Alloc → Bool) : State :=
  let out := s.allocs.filter p
  let s := { s with allocs := s.allocs.filter (fun a => !p a) }
  out.foldl releaseOne s

/-- Memory with a range as written to zero. -/
def wipe (s : State) (a n : Nat) : State :=
  { s with
    mem := s.mem.filter (fun x => !(decide (a ≤ x.1) && decide (x.1 < a + n)))
    poison := s.poison.filter (fun k => !(decide (a ≤ 64 * k) && decide (64 * k + 64 ≤ a + n))) }

/-- RANGE_ZEROED (R425): a range that left a context is zero, and free. -/
def execRangeZeroed (base : Nat) (s : State) : Res :=
  match s.zeroing.find? (fun z => z.1 == base) with
  | none => .next s
  | some z => .next (wipe { s with zeroing := s.zeroing.filter (fun y => y != z) } z.1 z.2)

/-! ## Pool quotas (R261) -/

/-- USED of the pool on a die. -/
def poolUsed (d c : Nat) : Fld := if d = 0 then MEM_CTX_POOL_USED_A_CELLS c else MEM_CTX_POOL_USED_B_CELLS c
/-- QUOTA of the pool on a die. -/
def poolQuota (d c : Nat) : Fld := if d = 0 then MEM_CTX_POOL_QUOTA_A_CELLS c else MEM_CTX_POOL_QUOTA_B_CELLS c
/-- Cells of a die's shared part neither reserved nor allocated. -/
def poolFreeF (d : Nat) : Fld := if d = 0 then POOL_FREE_A_COUNT else POOL_FREE_B_COUNT

/-- A reservation of pool cells for a context (R246, R261, R262). -/
def poolReserve (s : State) (c d n : Nat) : State × Option Nat :=
  if getF s (poolQuota d c) < getF s (poolUsed d c) + n then (bump s (MEM_CTX_REFUSE_COUNT_COUNT c) 1, some 0x40)
  else if getF s (poolFreeF d) < n then (bump s MEM_SPACE_SHORT_COUNT_COUNT 1, some 0x41)
  else
    let s := setF s (poolUsed d c) (getF s (poolUsed d c) + n)
    (setF s (poolFreeF d) (getF s (poolFreeF d) - n), none)

/-- Reserved cells returned to the quota and to the die's shared part. -/
def poolReturn (s : State) (c d n : Nat) : State :=
  let s := setF s (poolUsed d c) (getF s (poolUsed d c) - n)
  setF s (poolFreeF d) (getF s (poolFreeF d) + n)

/-! ## Prefetch engines (R264, R265) -/

/-- The stack of an HBM offset (R257). -/
def hbmStack (off : Nat) : Nat := bits off 14 12

/-- The die of the stack of an HBM address (R254): of a range over both, of its first byte. DESIGN CHOICE (log 146). -/
def hbmDie (a : Nat) : Nat := if hbmStack (a - hbmBase) < 4 then 0 else 1

/-- Engines of a die. -/
def moveEngines : Nat := 16

/-- The class of a move: write-backs before prefetches, error memories before layer state. -/
def moveClass : MoveKind → Nat
  | .emWriteback _ _ _ => 0
  | .layerWriteback _ => 1
  | .emPrefetch _ => 2
  | .layerPrefetch _ => 3

/-- A prefetch of an error memory waits until the write-back of the same home has completed. -/
def moveReady (s : State) (m : Move) : Bool :=
  match m.kind with
  | .emPrefetch b =>
    match tget s.buckets b with
    | some e => !(s.homes.any (fun h => some h.ctx == e.ctx && h.group == e.group && h.num == e.tag % 8192 && h.busy))
    | none => true
  | _ => true

/-- The next queued move of a die in the order of R264. -/
def nextMove (s : State) (d : Nat) : Option Move :=
  (List.range 4).findSome? (fun k => s.moves.find? (fun m =>
    !m.active && m.die == d && moveClass m.kind == k && moveReady s m))

/-- Idle engines of a die take queued moves. -/
def fillEngines : Nat → State → Nat → State
  | 0, s, _ => s
  | n + 1, s, d =>
    if (s.moves.filter (fun m => m.active && m.die == d)).length < moveEngines then
      match nextMove s d with
      | some m => fillEngines n { s with moves := s.moves.map (fun x => if x = m then { x with active := true } else x) } d
      | none => s
    else s

/-- Both dies' engines take queued moves. -/
def runEngines (s : State) : State := fillEngines 16 (fillEngines 16 s 0) 1

/-- A move is queued on the die that holds its destination. -/
def addMove (s : State) (k : MoveKind) (d : Nat) : State := runEngines { s with moves := s.moves ++ [⟨k, d, false⟩] }

/-- A move is running. -/
def moveRuns (s : State) (k : MoveKind) : Bool := s.moves.any (fun m => m.kind == k && m.active)

/-- A move has ended or is withdrawn. -/
def endMove (s : State) (k : MoveKind) : State := runEngines { s with moves := s.moves.filter (fun m => m.kind != k) }

end Sys2Proof.Machine
end

