-- ==== Sys2Proof/Machine/Contexts.lean ====
section
/-! DEFINITION. Job contexts: open and close (R273 to R275, R260, R261). -/

namespace Sys2Proof.Machine

/-- Bytes of a context's step records in HBM (R177, R261). -/
def stepRecBytes : Nat := 2621440
/-- Bytes of one step record (R177, R274). -/
def stepRecSize : Nat := 327680

/-- The axis of a cut in an AXES code: 0 data, 1 sequence, 2 model (Table 4-1). -/
def cutAxis (axes k : Nat) : Nat := bits axes (2 * k + 1) (2 * k)

/-- The axes are three distinct ones and none is the unused code (R24, R274). -/
def axesOk (axes : Nat) : Bool :=
  let a := cutAxis axes 0; let b := cutAxis axes 1; let c := cutAxis axes 2
  decide (a < 3) && decide (b < 3) && decide (c < 3) && a != b && b != c && a != c

/-- The step record address of a context. -/
def stepRecAddr (s : State) (c : Nat) : Nat :=
  getF s (CTX_STEPREC_LO_ADDR c) * 64 + (rd s (CTX_STEPREC_HI c)).toNat * 2 ^ 32

/-- Other contexts that are OPEN or CLOSING. -/
def otherLive (s : State) (c : Nat) : List Nat := (List.range 64).filter (fun d => d != c && ctxLive s d)

/-- The conditions of ILLEGAL_STATE (Table 10-1). -/
def openIllegal (s : State) (c : Nat) : Bool :=
  ctxState s c != 0 || (otherLive s c).any (fun d => ctxJob s d == ctxJob s c)

/-- The conditions of BAD_DESCRIPTOR (Table 10-1). A window of size 0 is none; one over a reservation of the module is
refused too, since no context can name those (R259). DESIGN CHOICE (log 134). -/
def openBad (s : State) (c : Nat) : Bool :=
  let axes := getF s (CTX_CFG_AXES c)
  let hw := hbmWin s c
  let lw := lagoonWin s c
  let sb := getF s (CTX_SYNC_BASE c)
  let sn := getF s (CTX_SYNC_COUNT c)
  ctxJob s c == 0 || !axesOk axes || decide (6 < getF s (CTX_CFG_PFMT c)) ||
  (hw.2 != 0 && decide (hbmBase + 0xA000000000 < hw.1 + hw.2)) ||
  (lw.2 != 0 && decide (lagoonBase + 0x400000000 < lw.1 + lw.2)) ||
  s.allocs.any (fun a => overlap hw.1 hw.2 a.base a.len || overlap lw.1 lw.2 a.base a.len) ||
  (List.range 8).any (fun k => let w := hostWin s c k
    w.2.2.1 && decide (hostBase + (getF s (MEM_HOSTWIN_BASE_HI_PORT c k) + 1) * 2 ^ 62 < w.1 + w.2.1)) ||
  (otherLive s c).any (fun d =>
    overlap hw.1 hw.2 (hbmWin s d).1 (hbmWin s d).2 || overlap lw.1 lw.2 (lagoonWin s d).1 (lagoonWin s d).2 ||
    overlap sb sn (getF s (CTX_SYNC_BASE d)) (getF s (CTX_SYNC_COUNT d)) ||
    (ctxHost s d == ctxHost s c && ctxVf s d == ctxVf s c)) ||
  decide (16384 < sb + sn) || ctxVf s c == 0 || decide (32 < ctxVf s c) ||
  !inHostWin s c (stepRecAddr s c) stepRecSize true

/-- The HBM charges of an open: window, step records, host-tier cache (R261). -/
def openHbmUnits (s : State) (c : Nat) : Nat :=
  unitsOf (hbmWin s c).2 + unitsOf stepRecBytes + unitsOf (getF s (CTX_CACHE_MIB c) * MiB)

/-- The conditions of QUOTA (Table 10-1). -/
def openQuota (s : State) (c : Nat) : Bool :=
  decide (quotaUnits s true c < openHbmUnits s c) || decide (quotaUnits s false c < unitsOf (lagoonWin s c).2)

/-- The first code of Table 10-1 that applies, 0 for none. -/
def openStatus (s : State) (c : Nat) : Nat :=
  if openIllegal s c then 0x12 else if openBad s c then 0x13 else if openQuota s c then 0x40 else 0

/-- Every object of the context's range reads value 0 with status 0x00 (R274). -/
def clearObjects (s : State) (c : Nat) : State :=
  (List.range (getF s (CTX_SYNC_COUNT c))).foldl (fun s k =>
    let o := getF s (CTX_SYNC_BASE c) + k
    setF (wr64 s (SYNC_VALUE_LO o) 0) (SYNC_STATUS_STATUS o) 0) s

/-- A range that waits to be zero and that a window takes is written to zero first (R425). -/
def wipeUnder (s : State) (w : Nat × Nat) : State :=
  let zs := s.zeroing.filter (fun z => overlap z.1 z.2 w.1 w.2)
  zs.foldl (fun s z => wipe { s with zeroing := s.zeroing.filter (fun y => y != z) } z.1 z.2) s

/-- An open whose conditions hold (R274): STATE OPEN, the Tide 0, the objects cleared, the charges of R261 made. Where HBM
has no free space for the step records or the cache the open fails with QUOTA and is counted (R262). -/
def openCtx (old : State) (c : Nat) : State × Nat :=
  let s := wipeUnder (wipeUnder old (hbmWin old c)) (lagoonWin old c)
  let s := setF s (MEM_CTX_LAGOON_USED_UNITS c) (unitsOf (lagoonWin s c).2)
  let s := setF s (MEM_CTX_HBM_USED_UNITS c) (unitsOf (hbmWin s c).2)
  let s := setF s (CTX_STATE_STATE c) 1
  let r := reserve s c .hbm stepRecBytes .steprec
  let t := reserve r.1 c .hbm (getF s (CTX_CACHE_MIB c) * MiB) .cache
  if r.2.isSome || t.2.isSome then (bump old MEM_SPACE_SHORT_COUNT_COUNT 1, 0x40)
  else (clearObjects (wr t.1 (CTX_TIDE c) 0) c, 0)

/-- A write of CTX_CTRL with OPEN 1 and CLOSE 0 (R274). A refusal for the quota is counted (R262). A virtual function's
write has no effect (R300). -/
def ctxOpenWrite (s : State) (r : Requester) (c : Nat) (v : Word) : State :=
  if isVf r || !v.getLsbD 0 || v.getLsbD 1 then s
  else
    let st := openStatus s c
    let r := if st = 0 then openCtx s c else (if st = 0x40 then bump s (MEM_CTX_REFUSE_COUNT_COUNT c) 1 else s, st)
    setF r.1 (CTX_STATE_OPEN_STATUS c) r.2

/-- CTX_OPEN (R274, R300). DEDUCED (log 27). -/
def execCtxOpen (r : Requester) (c : Ctx) (v : Word) (s : State) : Res :=
  access s r (CTX_CTRL c.val) (fun s => ctxOpenWrite s r c.val v)

/-- Every fetched command of a queue that has not started completes with ILLEGAL_STATE (R275). -/
def failUnstarted (s : State) (k : Nat) : State :=
  withQueue s k (fun q => { q with cmds := q.cmds.map (fun p =>
    (p.1, if p.2.started || p.2.status.isSome then p.2 else { p.2 with status := some 0x12 })) })

/-- The kernels that are QUEUED for a context end with ILLEGAL_STATE (R331). -/
def failQueued (s : State) (c : Nat) : State :=
  (List.range 128).foldl (fun s n =>
    if getF s (CAY_KL_STATE_STATE n) = 1 ∧ getF s (CAY_KL_CTX_CTX n) = c then endKernel s n 0x12 else s) s

/-- A write of CTX_CTRL with CLOSE 1 and OPEN 0 (R275): STATE becomes CLOSING, fetching stops, commands that have not
started fail, QUEUED kernels end. -/
def ctxCloseWrite (s : State) (r : Requester) (c : Nat) (v : Word) : State :=
  if isVf r || !v.getLsbD 1 || v.getLsbD 0 || !ctxIsOpen s c then s
  else
    let s := failQueued (setF s (CTX_STATE_STATE c) 2) c
    (List.range 16).foldl (fun s q => failUnstarted (stopFetch s (qkey c q)) (qkey c q)) s

/-- CTX_CLOSE (R275). -/
def execCtxClose (r : Requester) (c : Ctx) (v : Word) (s : State) : Res :=
  access s r (CTX_CTRL c.val) (fun s => ctxCloseWrite s r c.val v)

end Sys2Proof.Machine
end

