-- ==== Sys2Proof/Machine/Pool.lean ====
section
/-! DEFINITION. The buffer pool: descriptors, allocation, share, drop, free, chains, rejects (R245 to R252). -/

namespace Sys2Proof.Machine

/-- Cells of a die (R245). -/
def poolCells : Nat := 524288
/-- The die of a cell address. -/
def cellDie (a : Nat) : Nat := a / poolCells
/-- Where a cell's 80 bytes lie in its die's cell memory (R245). -/
def cellOffset (a : Nat) : Nat := a % poolCells * 80
/-- Cells of a die that its free list hands out: the others are those of its torus ports and bridge classes.
DESIGN CHOICE (log 133). -/
def drawnCells : Nat := 516608
/-- The lowest cell in service, of `n` from `base` on, in which no waiting cell stands. -/
def freePlace (s : State) (base n : Nat) : Option Nat :=
  let used := s.cells.filterMap (fun q => q.place) ++ (s.descs.filter (fun d => d.2.quarantined)).map (fun d => d.1)
  ((List.range (min n (used.length + 1))).find? (fun i => !used.contains (base + i))).map (base + ·)
/-- The cell that stands in a pool cell: one that waits, one a retention record keeps, one in a window. -/
def poolCellOf (s : State) (a : Nat) : Option Cell :=
  ((s.cells.find? (fun q => q.pool == some a || q.place == some a)).map (fun q => q.cell)).or
    (((s.buckets.flatMap (fun p => p.2.kept)).find? (fun k => k.pool == a)).map (fun k => k.cell) |>.or
      (((s.ferries.flatMap (fun f => f.window)).find? (fun w => w.pool == some a)).map (fun w => w.cell)))
/-- The 80 bytes of the cell memory at `cellOffset a` of the cell's die, none while no cell of the module stands there. -/
def cellMemory (s : State) (a : Nat) : Option (List Byte) := (poolCellOf s a).map cellBytes

/-! ## Owners (Table 9-3) and the uses set aside (Table 9-1) -/

/-- An owner ID: the class and the index (R248). -/
def ownerId (cls idx : Nat) : OwnerId := BitVec.ofNat 16 (cls * 8192 + idx % 8192)
/-- The owner of an ingress buffer: 0 to 5 torus ports, 6 to 21 access ports, 22 and 23 H0 and H1, 24 to 26 bridge classes. -/
def ownIngress (i : Nat) : OwnerId := ownerId 1 i
/-- The owner of a die's management buffer. -/
def ownMgmt (d : Nat) : OwnerId := ownerId 5 d
/-- The owner of a Harbourmaster core of a die. -/
def ownCore (d k : Nat) : OwnerId := ownerId 7 (8 * d + k)
/-- The buffer whose set-aside cell holds a waiting cell that stands in no cell of the shared part: the bridge class of
its route once it has crossed, else its port's ingress. DESIGN CHOICE (log 133). -/
def queueOwner (q : QCell) : Option OwnerId :=
  match q.src with
  | .ingress p =>
    some (ownIngress (if q.bridged then (if q.egress = 22 then 26 else if q.egress = 4 ∨ q.egress = 5 then 25 else 24) else p))
  | .refusal d => some (ownMgmt d)
  | .busy d => some (ownMgmt d)
  | _ => none

/-- The cells that a die sets aside for the use an owner names (Table 9-1): none where the owner has none on that die.
The Harbourmaster's cores share theirs. DESIGN CHOICE (log 133). -/
def setAside (d : Nat) (u : OwnerId) : Nat :=
  let i := u.toNat % 8192
  match u.toNat / 8192 with
  | 1 =>
    if i < 6 then (if portDie i = d then 2048 else 0)
    else if i < 22 then (if egressDie i = d then 1024 else 0)
    else if i < 24 then (if i - 22 = d then 1024 else 0)
    else if i < 27 then 512 else 0
  | 3 => if i / 128 = d then 512 else 0
  | 5 => if i = d then 256 else 0
  | 7 => if i / 8 = d then 1024 else 0
  | _ => 0

/-- Two owners draw on one set-aside use. -/
def sameUse (u v : OwnerId) : Bool := u == v || (u.toNat / 8192 == 7 && u.toNat / 8 == v.toNat / 8)
/-- A cell's descriptor. -/
def descAt (s : State) (a : Nat) : PoolDesc := (tget s.descs a).getD {}
/-- The state with a descriptor set; a free cell's is not listed. -/
def setDesc (s : State) (a : Nat) (d : PoolDesc) : State :=
  if d = {} then { s with descs := tdel s.descs a } else { s with descs := tput s.descs a d }

/-- The kinds of POOL_ERR_LOG0 (Table 9-10). -/
inductive PoolErr where
  | doubleFree | owner | overDrop
  deriving DecidableEq, Repr

/-- KIND codes. -/
def poolErrCode : PoolErr → Nat
  | .doubleFree => 1
  | .owner => 2
  | .overDrop => 3

/-- The first event is captured; later ones leave the log as it is until VALID is cleared (R251). -/
def poolLog (s : State) (kind cell req last : Nat) : State :=
  if flag s POOL_ERR_LOG0_VALID then s
  else
    let s := setF (setF (setF s POOL_ERR_LOG0_VALID 1) POOL_ERR_LOG0_KIND kind) POOL_ERR_LOG0_CELL cell
    setF (setF s POOL_ERR_LOG1_REQUESTER req) POOL_ERR_LOG1_LAST last

/-- A reject (R251): counted, the first captured, scored; the descriptor is unchanged. -/
def poolReject (s : State) (e : PoolErr) (a : Nat) (q : OwnerId) : State :=
  let s := match e with
    | .doubleFree => bump s POOL_DFREE_COUNT_COUNT 1
    | _ => bump s POOL_OWNER_ERR_COUNT_COUNT 1
  scoreModule (poolLog s (poolErrCode e) a q.toNat (descAt s a).last.toNat) 64

/-- The first cell from an index on that is not quarantined. -/
def freshFrom : Nat → State → Nat → Nat → Nat
  | 0, _, _, f => f
  | n + 1, s, d, f => if (descAt s (d * poolCells + f)).quarantined then freshFrom n s d (f + 1) else f

/-- The next cell of a die's free list: the last one pushed, else one never allocated. A quarantined cell is never
allocated (R269). DEDUCED (log 106). -/
def takeFree (s : State) (d : Nat) : Option (Nat × State) :=
  match s.freeList.getD d [] with
  | a :: _ => some (a, { s with freeList := lmod s.freeList d (fun l => l.drop 1) })
  | [] =>
    let f := freshFrom (s.descs.length + 1) s d (s.freshCell.getD d 0)
    if f < drawnCells then some (d * poolCells + f, { s with freshCell := lmod s.freshCell d (fun _ => f + 1) }) else none

/-- A die's allocated cells of a set-aside use, whoever owns them now. DEDUCED (log 106). -/
def cellsHeld (s : State) (d : Nat) (u : OwnerId) : Nat :=
  (s.descs.filter (fun p => cellDie p.1 == d && p.2.state && !p.2.charged && sameUse u p.2.use)).length

/-- The set-aside use still has a cell (R246, R249). DESIGN CHOICE (log 133). -/
def useLeft (s : State) (d : Nat) (u : OwnerId) : Bool := decide (cellsHeld s d u < setAside d u)

/-- The cell after a free one on its die's free list: those released, then those never allocated. DEDUCED (log 106). -/
def freeNext (s : State) (a : Nat) : Nat :=
  let d := cellDie a
  let fresh := fun f => d * poolCells + freshFrom (s.descs.length + 1) s d f
  match (s.freeList.getD d []).dropWhile (fun b => b != a) with
  | _ :: b :: _ => b
  | [_] => fresh (s.freshCell.getD d 0)
  | [] => fresh (a % poolCells + 1)

/-- The 64-bit word of a cell's descriptor (Table 9-2). The last cell of the free list has END 1. DEDUCED (log 106). -/
def descWord (s : State) (a : Nat) : BitVec 64 :=
  let d := descAt s a
  let next := if d.state then d.next else freeNext s a
  let last : Bool := if d.state then d.endc else next / poolCells != cellDie a
  let bit := fun (b : Bool) (k : Nat) => if b then 2 ^ k else 0
  BitVec.ofNat 64 (bit d.pending 51 + bit d.charged 50 + d.ctx % 64 * 2 ^ 44 + d.last.toNat * 2 ^ 28 + d.count % 32 * 2 ^ 23 +
    bit d.state 22 + bit last 21 + next % 2 ^ 20)

/-- Allocation (R249): STATE 1, COUNT 1, LAST the allocating unit, PENDING 0; CHARGED when it is drawn from a context's
reservation. DEDUCED (log 106). -/
def poolAlloc (s : State) (d : Nat) (u : OwnerId) (charge : Option Nat) : Option (Nat × State) :=
  (takeFree s d).map (fun p =>
    (p.1, setDesc p.2 p.1 { state := true, count := 1, last := u, use := u, charged := charge.isSome, ctx := charge.getD 0 }))

/-- R250's release: the cell goes to the free list of its die, a charged one back to its context's quota. -/
def poolRelease (s : State) (a : Nat) : State :=
  let d := descAt s a
  let s := if d.pending then setF s POOL_PENDING_COUNT (getF s POOL_PENDING_COUNT - 1) else s
  let s := setDesc s a {}
  let s := { s with freeList := lmod s.freeList (cellDie a) (fun l => a :: l) }
  if d.charged then poolReturn s d.ctx (cellDie a) 1 else s

/-- R250's share. -/
def poolShare (s : State) (a : Nat) (q : OwnerId) (k : Nat) (l : OwnerId) : State :=
  let d := descAt s a
  if d.quarantined then s
  else if !d.state then poolReject s .doubleFree a q
  else if q ≠ d.last ∨ 31 < d.count + k then poolReject s .owner a q
  else setDesc s a { d with count := d.count + k, last := l }

/-- R250's drop. -/
def poolDrop (s : State) (a : Nat) (q : OwnerId) : State :=
  let d := descAt s a
  if d.quarantined then s
  else if !d.state then poolReject s .doubleFree a q
  else if q = d.last ∨ d.count = 1 then poolReject s .overDrop a q
  else
    let s := setDesc s a { d with count := d.count - 1 }
    if d.pending && d.count - 1 == 1 then poolRelease s a else s

/-- R250's free: the state, and whether it was rejected. -/
def poolFree (s : State) (a : Nat) (q : OwnerId) : State × Bool :=
  let d := descAt s a
  if d.quarantined then (s, true)
  else if !d.state then (poolReject s .doubleFree a q, true)
  else if q ≠ d.last then (poolReject s .owner a q, true)
  else if d.count = 1 then (poolRelease s a, false)
  else if d.pending then (s, false)
  else (setF (setDesc s a { d with pending := true }) POOL_PENDING_COUNT (getF s POOL_PENDING_COUNT + 1), false)

/-- R250's free_chain: NEXT and END are read before each free; a reject or END stops the walk. -/
def poolFreeChain : Nat → State → Nat → OwnerId → State
  | 0, s, _, _ => s
  | n + 1, s, a, q =>
    let d := descAt s a
    let r := poolFree s a q
    if r.2 || d.endc then r.1 else poolFreeChain n r.1 d.next q

/-- A unit appends a cell to its chain (R249): the previous cell's NEXT is written and its END cleared. -/
def poolLink (s : State) (prev a : Nat) : State :=
  let d := descAt s prev
  if d.state then setDesc s prev { d with next := a, endc := false } else s

/-- POOL_SHARE (R250). -/
def execPoolShare (a : CellAddr) (u : OwnerId) (k : Nat) (l : OwnerId) (s : State) : Res :=
  .next (poolShare s a.toNat u k l)

/-- POOL_DROP (R250). -/
def execPoolDrop (a : CellAddr) (u : OwnerId) (s : State) : Res := .next (poolDrop s a.toNat u)

/-- POOL_FREE (R250): of one cell, or of the cell and every one after it in its chain. -/
def execPoolFree (a : CellAddr) (u : OwnerId) (chain : Bool) (s : State) : Res :=
  if chain then .next (poolFreeChain (2 * poolCells) s a.toNat u) else .next (poolFree s a.toNat u).1

end Sys2Proof.Machine
end

