-- ==== Sys2Proof/Machine/Fabric.lean ====
section
/-! DEFINITION. The torus fabric (chapter 7): who the fabric holds as fenced (R373), ingress of a cell (R207 to R213),
queues, injection, the egress arbiter (R221 to R225), credits, congestion (R226 to R228). -/

namespace Sys2Proof.Machine

/-! ## Cells by type (Table 7-3) -/

/-- Codes of Table 7-3. -/
def tDATA_G8 : Nat := 0x0
/-- DATA_W32. -/
def tDATA_W32 : Nat := 0x1
/-- DATA_S1. -/
def tDATA_S1 : Nat := 0x2
/-- DATA_PARAM. -/
def tDATA_PARAM : Nat := 0x3
/-- TRAILER. -/
def tTRAILER : Nat := 0x4
/-- ADMIT. -/
def tADMIT : Nat := 0x5
/-- GRANT. -/
def tGRANT : Nat := 0x6
/-- CAUSEWAY. -/
def tCAUSEWAY : Nat := 0x7
/-- REQ. -/
def tREQ : Nat := 0x8
/-- RSP. -/
def tRSP : Nat := 0x9
/-- CREDIT. -/
def tCREDIT : Nat := 0xA
/-- BEACON. -/
def tBEACON : Nat := 0xB
/-- MGMT. -/
def tMGMT : Nat := 0xC
/-- PERMUTE. -/
def tPERMUTE : Nat := 0xD

/-- The VCs a type may use on a torus port (Table 7-3); an RSP uses VC0 only for an ECHO. -/
def torusVcOk (x : Cell) : Bool :=
  let t := x.type.toNat
  let v := x.vc.toNat
  if t = tDATA_W32 ∨ t = tDATA_S1 ∨ t = tTRAILER then v == 1 || v == 3
  else if t = tDATA_PARAM ∨ t = tPERMUTE then v == 6
  else if t = tADMIT ∨ t = tGRANT ∨ t = tCAUSEWAY ∨ t = tBEACON then v == 0
  else if t = tREQ then v == 4
  else if t = tRSP then (if x.echo then v == 0 else v == 5)
  else if t = tCREDIT then true
  else if t = tMGMT then v == 7
  else false

/-! ## Fenced views (R370, R373) -/

/-- The entry and axis that own the link of a torus port (R370). -/
def linkOwner (s : State) (p : Nat) : Nat := if portPlus p then ownCoord s else peerCoord s p
/-- The DOWN bit of an axis in an entry. -/
def downFld (c ax : Nat) : Fld :=
  if ax = 0 then HEALTH_VIEW_DOWN_X c else if ax = 1 then HEALTH_VIEW_DOWN_Y c else HEALTH_VIEW_DOWN_Z c
/-- The link from a coordinate along an axis is held DOWN. -/
def linkDown (s : State) (c ax : Nat) (plus : Bool) : Bool :=
  flag s (downFld (if plus then c else stepOn s c ax false) ax)
/-- The peer of a torus port is fenced or the port's link is DOWN (R373). -/
def peerFenced (s : State) (p : Nat) : Bool :=
  coordValid s && (fenced s (peerCoord s p) || linkDown s (ownCoord s) (portAxis p) (portPlus p))
/-- The module holds itself fenced (R380). -/
def selfFenced (s : State) : Bool := coordValid s && fenced s (ownCoord s)

/-- The route from a coordinate to another crosses a DOWN link or a fenced module. -/
def routeFenced (s : State) : Nat → Nat → Nat → Bool
  | 0, _, _ => false
  | n + 1, cur, dest =>
    match nextHop s cur dest false none with
    | none => false
    | some (p, _) =>
      let nxt := stepOn s cur (portAxis p) (portPlus p)
      linkDown s cur (portAxis p) (portPlus p) || fenced s nxt || routeFenced s n nxt dest

/-- A remote destination is held as fenced (R373): fenced itself, or reached over a DOWN link or a fenced module. -/
def remoteFenced (s : State) (dest : Nat) : Bool := fenced s dest || routeFenced s 75 (ownCoord s) dest

/-! ## Ports and queues -/

/-- A torus port's state. -/
def torusAt (s : State) (p : Nat) : TorusSt := (tget s.torus p).getD {}
/-- The state with a torus port changed. -/
def withTorus (s : State) (p : Nat) (f : TorusSt → TorusSt) : State :=
  { s with torus := tput s.torus p (f (torusAt s p)) }
/-- An egress's arbiter. -/
def egressAt (s : State) (e : Nat) : EgressSt := (tget s.egress e).getD {}
/-- The state with an egress's arbiter changed. -/
def withEgress (s : State) (e : Nat) (f : EgressSt → EgressSt) : State :=
  { s with egress := tput s.egress e (f (egressAt s e)) }

/-- The sub-channel of a cell: `2 v + s` (Table 7-6). -/
def subOf (x : Cell) : Nat := 2 * x.vc.toNat + x.dateline.toNat

/-- Two waiting cells wait in one queue (R218, R224). -/
def sameQueue (a b : QCell) : Bool :=
  a.src == b.src && a.egress == b.egress && a.cell.vc == b.cell.vc && a.sub == b.sub

/-- The heads of the queues of an egress, oldest queue first. -/
def headsOf (e : Nat) : List QCell → List QCell → List QCell
  | acc, [] => acc.reverse
  | acc, q :: t =>
    if q.egress == e && !(acc.any (fun a => sameQueue a q)) then headsOf e (q :: acc) t else headsOf e acc t

/-- The heads at an egress. -/
def heads (s : State) (e : Nat) : List QCell := headsOf e [] s.cells

/-- A waiting cell leaves its queue; the next of that queue becomes its head now (R225). -/
def unqueue (now : Tick) (q : QCell) : List QCell → List QCell
  | [] => []
  | a :: t =>
    if a = q then
      match t.findIdx? (sameQueue q) with
      | some i => lmod t i (fun b => { b with since := now })
      | none => t
    else a :: unqueue now q t

/-- The cells that stay when others are taken out of their queues: one that has become the head of its queue waits from now
on (R225). -/
def keepCells (now : Tick) (f : QCell → Bool) (l : List QCell) : List QCell :=
  let rest := l.filter f
  rest.map (fun q =>
    if rest.find? (sameQueue q) = some q ∧ l.find? (sameQueue q) ≠ some q then { q with since := now } else q)

/-- A cell joins the queue of its egress. -/
def enqueue (s : State) (q : QCell) : State := { s with cells := s.cells ++ [{ q with since := s.now }] }

/-- The owner ID of an egress (Table 9-3). -/
def ownEgress (e : Nat) : OwnerId := BitVec.ofNat 16 (0x4000 + e)

/-- The egress drops its reference to a retained cell (R253). -/
def dropRef (s : State) (q : QCell) : State :=
  match q.pool with
  | some a => poolDrop s a (ownEgress q.egress)
  | none => s

/-- A port takes no cell: it is down or the fabric holds its peer as fenced. -/
def portBlocked (s : State) (e : Nat) : Bool := decide (e < 6) && (!portUp s e || peerFenced s e)

/-- While the axis lengths or the coordinate are not assigned the torus ports carry only discovery and management traffic:
CREDIT, BEACON and MGMT cells (R22, R350). -/
def assignedFor (s : State) (e : Nat) (x : Cell) : Bool :=
  decide (6 ≤ e) || (coordValid s && dimValid s) || x.type.toNat == tCREDIT || x.type.toNat == tBEACON || x.type.toNat == tMGMT

/-- A cell of the module's own goes to the queue of a torus egress; a blocked port discards it (R253), and so does every port
while the module has no place in a torus, but for what R22 lets it carry. Link-local management cells pass to a fenced peer,
as re-admission needs (R385, R421). DEDUCED (log 110). -/
def injectAt (s : State) (src : CellSrc) (e : Nat) (dl : Bool) (pool : Option Nat) (x : Cell) : State :=
  let q : QCell := { cell := { x with dateline := dl, mark := false, retry := false }, src := src, sub := 0, egress := e,
                     since := s.now, pool := pool }
  let pass := x.dest = 0x7FFF ∧ decide (e < 6) ∧ portUp s e
  if (portBlocked s e ∧ ¬pass) ∨ assignedFor s e x = false then dropRef s q else enqueue s q

/-- The injection queue of a job's cells (R224, R228). -/
def jobSrc (s : State) (job : Nat) : CellSrc :=
  match jobCtx s job with
  | some c => .inject c
  | none => .module

/-- A cell to a neighbouring module goes out on the port that leads to it. -/
def sendPort (s : State) (p : Nat) (x : Cell) : State :=
  let wrap := if portPlus p then axisPos (ownCoord s) (portAxis p) + 1 == axisLen s (portAxis p)
    else axisPos (ownCoord s) (portAxis p) == 0
  injectAt s (jobSrc s x.job.toNat) p wrap none
    { x with dest := BitVec.ofNat 15 (peerCoord s p), src := BitVec.ofNat 15 (ownCoord s) }

/-- A cell to a destination goes out on the port R209 chooses; to the module itself it goes nowhere. -/
def sendTo (s : State) (src : CellSrc) (dest : Nat) (x : Cell) : State :=
  match nextHop s (ownCoord s) dest false none with
  | none => s
  | some (p, dl) =>
    injectAt s src p dl none { x with dest := BitVec.ofNat 15 dest, src := BitVec.ofNat 15 (ownCoord s) }

/-- A cell to a destination, in its job's injection queue. -/
def sendJob (s : State) (dest : Nat) (x : Cell) : State := sendTo s (jobSrc s x.job.toNat) dest x

/-- An access port is up. -/
def accUp (s : State) (a : Nat) : Bool := getF s (ACC_STATUS_STATE a) == 3

/-- A cell joins an access egress's queue; a port that is not up discards it. DEDUCED (log 94). -/
def toAcc (s : State) (q : QCell) : State := if accUp s (q.egress - 6) then enqueue s q else dropRef s q

/-- A cell to the accelerator on an access port: DEST and SRC carry the module's coordinate (R356).
DEDUCED (log 96). -/
def sendAcc (s : State) (a : Nat) (x : Cell) : State :=
  toAcc s { cell := { x with dest := BitVec.ofNat 15 (ownCoord s), src := BitVec.ofNat 15 (ownCoord s) }, src := jobSrc s x.job.toNat, sub := 0,
            egress := 6 + a, since := s.now }

/-- Cells waiting for an egress are discarded, and their references dropped. -/
def purgeEgress (s : State) (e : Nat) (f : QCell → Bool) : State :=
  let out := s.cells.filter (fun q => q.egress == e && f q)
  out.foldl dropRef { s with cells := keepCells s.now (fun q => !(q.egress == e && f q)) s.cells }

/-! ## Ingress -/

/-- Cells of an ingress sub-channel that wait (R226); a cell that has crossed to the other die has left it.
DESIGN CHOICE (log 84). -/
def occupancy (s : State) (p sub : Nat) : Nat :=
  (s.cells.filter (fun q => q.src == .ingress p && q.sub == sub && !q.bridged)).length

/-- Ingress occupancy of a VC, both sub-channels (Table 7-10). -/
def vcDepth (s : State) (p v : Nat) : Nat := occupancy s p (2 * v) + occupancy s p (2 * v + 1)

/-- FAB_PORT_QDEPTH_v.MAX follows the largest ingress occupancy (R17). -/
def noteDepth (s : State) (p v d : Nat) : State :=
  if getF s (FAB_PORT_QDEPTH_MAX p v) < d then setF s (FAB_PORT_QDEPTH_MAX p v) d else s

/-- A credit of a sub-channel is to be returned (R215). -/
def giveCredit (s : State) (p sub : Nat) : State :=
  withTorus s p (fun t => { t with returns := lmod t.returns sub (· + 1) })

/-- The ECN threshold of a VC. -/
def ecnThresh (s : State) (v : Nat) : Nat := getF s (FAB_VC_CREDIT_THRESH v)

/-- The ECHO cell of an entry (R227, Table 7-8). -/
def echoCell (e : EchoEntry) (count : Nat) : Cell :=
  { type := BitVec.ofNat 4 tRSP, echo := true, vc := 0, job := e.job
    payload := natLe 1 0xA0 ++ natLe 1 e.vc ++ natLe 2 (min 65535 count) ++ zeros 60 }

/-- An ECHO is sent to the source of the marked cells. DEDUCED (log 108). -/
def sendEcho (s : State) (e : EchoEntry) (count : Nat) : State :=
  if coordValid s then bump (sendJob s e.src.toNat (echoCell e count)) FAB_ECN_ECHO_TX_COUNT 1 else s

/-- A marked cell is ejected (R227). -/
def echoMarked (s : State) (d : Nat) (x : Cell) : State :=
  let tab := s.echo.getD d []
  let here := fun e : EchoEntry => e.src == x.src && e.job == x.job && e.vc == x.vc.toNat
  if tab.any here then
    { s with echo := lmod s.echo d (fun l => l.map (fun e => if here e then { e with count := e.count + 1 } else e)) }
  else if tab.length < 64 then
    let e : EchoEntry := ⟨x.src, x.job, x.vc.toNat, 0, s.now⟩
    sendEcho { s with echo := lmod s.echo d (fun l => l ++ [e]) } e 1
  else bump s FAB_ECN_ECHO_LOST_COUNT 1

/-- The egress checks the sub-channel's occupancy at the grant of a cell of VC1 to VC6 (R226). -/
def marks (s : State) (p : Nat) (x : Cell) (occ : Nat) : Bool :=
  decide (p < 6) && decide (1 ≤ x.vc.toNat) && decide (x.vc.toNat ≤ 6) && decide (ecnThresh s x.vc.toNat ≤ occ)

/-- A cell leaves its ingress sub-channel at ejection: marked if that is full enough (one that has crossed the bridge has
left it), its mark echoed, its credit returned where one is owed. -/
def ejectedFrom (s : State) (p sub : Nat) (owed bridged : Bool) (x : Cell) : State :=
  let m := marks s p x (occupancy s p sub + (if bridged then 0 else 1))
  let s := if m then bump s (FAB_PORT_MARKED_COUNT p) 1 else s
  let s := if m || x.mark then
      (if 1 ≤ x.vc.toNat ∧ x.vc.toNat ≤ 6 then echoMarked s (portDie p) x else s) else s
  if owed && !bridged then giveCredit s p sub else s

/-- As `ejectedFrom`, of a cell that has just arrived. -/
def ejected (s : State) (p : Nat) (x : Cell) : State := ejectedFrom s p (subOf x) true false x

/-- What becomes of an arriving cell. -/
inductive Arrival where
  | gone (s : State)
  | here (s : State)
  | onward (s : State) (e : Nat) (dl : Bool)

/-- A discarded cell's credit returns at once. -/
def discard (s : State) (p : Nat) (x : Cell) (f : Fld) : State := giveCredit (bump s f 1) p (subOf x)

/-- The unit that carries a cell is the one the link expects next (R340); without a number it is, but that while cells are
discarded after a failed one only a resent cell can be (R341). DEDUCED (log 109). -/
def unitExpected (t : TorusSt) (x : Cell) : Bool :=
  match x.idx with
  | some i => i.toNat == t.rxIdx
  | none => !t.discarding || x.retry

/-- The unit that the link expects is taken, and ends a run of discards (R340, R341).
DESIGN CHOICE (log 4). DEDUCED (log 109). -/
def linkTakes (s : State) (p : Nat) (x : Cell) : Option State :=
  let t := torusAt s p
  if !portUp s p then none
  else if !unitExpected t x then none
  else some (withTorus s p (fun t =>
    { t with discarding := false, rxIdx := (t.rxIdx + 1) % 65536, sinceUnit := t.sinceUnit + 1,
             unitAt := if t.sinceUnit = 0 then s.now else t.unitAt }))

/-- The CRC field agrees with the CRC-16 of header bytes 0x00 to 0x0D (R204). -/
def headerGood (x : Cell) : Bool := crcField x == crc16 (headerBytes x)

/-! ## Queues of the ingress ports and the die bridge (R217, R218) -/

/-- The class of bridge cells that leads to an egress: its die's X or Y ports, its Z port, or ejection (R217). -/
def bridgeClass (e : Nat) : Nat := if e < 4 then 0 else if e < 6 then 1 else 2

/-- The die of the unit that consumes a cell: the Cay of its bucket, the slot of its stream; else the port's own die. -/
def ejectDie (s : State) (p : Nat) (x : Cell) : Nat :=
  if x.vc = 1 ∨ x.vc = 3 then
    match s.buckets.find? (fun b => !b.2.cw && b.2.job == x.job && b.2.tag == x.tag.toNat) with
    | some b => b.2.cay / 64
    | none => portDie p
  else if 4 ≤ x.vc.toNat ∧ x.vc.toNat ≤ 6 then
    match s.ferries.find? (fun f => decide (f.key < 256) && f.job == x.job && f.tag == x.tag.toNat) with
    | some f => f.key / 128
    | none => portDie p
  else portDie p

/-- A cell that goes from a torus port to a port or a unit of the other die crosses the bridge. -/
def crosses (s : State) (q : QCell) : Bool :=
  match q.src with
  | .ingress p => portDie p != (if q.egress < 6 then portDie q.egress else ejectDie s p q.cell)
  | _ => false

/-- The die whose bridge cells a cell that crosses takes. -/
def bridgeDie (q : QCell) : Nat :=
  match q.src with
  | .ingress p => 1 - portDie p
  | _ => 0

/-- Cells that hold places of a bridge class and sub-channel (R217). DESIGN CHOICE (log 84). -/
def bridgeFill (s : State) (q : QCell) : Nat :=
  (s.cells.filter (fun b => b.bridged && bridgeDie b == bridgeDie q && bridgeClass b.egress == bridgeClass q.egress &&
    b.sub == q.sub)).length

/-- A place in the bridge cells of a die. DESIGN CHOICE (log 133). -/
def bridgePlace (s : State) (d : Nat) : Option Nat := freePlace s (d * poolCells + drawnCells + 6144) 1536
/-- A place in a torus port's ingress cells, of its die's three ports. DESIGN CHOICE (log 133). -/
def ingressPlace (s : State) (p : Nat) : Option Nat :=
  freePlace s (portDie p * poolCells + drawnCells + 2048 * (if p < 4 then p % 2 else 2)) 2048

/-- A cell crosses the bridge if it is the first of its queue that has not yet and its class has one of its 32 places of the
sub-channel free; its ingress credit then returns (R215, R217). DESIGN CHOICE (log 84). -/
def crossBridge (s : State) (q : QCell) : State :=
  if crosses s q && !q.bridged && decide (bridgeFill s q < 32) then
    match s.cells.findIdx? (fun b => sameQueue b q && !b.bridged) with
    | some i =>
      if s.cells[i]? = some q then
        let a := bridgePlace s (bridgeDie q)
        let s := { s with cells := lmod s.cells i (fun b => { b with bridged := true, place := a }) }
        match q.src with
        | .ingress p => if q.owed then giveCredit s p q.sub else s
        | _ => s
      else s
    | none => s
  else s

/-- The cells that can cross do so, oldest first. DESIGN CHOICE (log 84). -/
def bridgeGo (s : State) : State := s.cells.foldl crossBridge s

/-- A cell joins its ingress sub-channel's queue for an egress, 22 for ejection (R218), and crosses the bridge if it can.
DESIGN CHOICE (log 84). DEDUCED (log 106). -/
def holdCell (s : State) (p : Nat) (x : Cell) (e : Nat) (dl : Bool) : State :=
  bridgeGo (enqueue s { cell := { x with dateline := dl, retry := false, crc := none, idx := none }, src := .ingress p, sub := subOf x,
                        egress := e, since := s.now, place := ingressPlace s p })

/-! ## Failed units (R219, R220, R336, R341) -/

/-- What has been sent on of a cell that then fails its link check ends with the poisoned tail (R219, R335): it waits like
any cell for its egress, but no credit is owed for it. DEDUCED (log 76). -/
def cutThrough (s : State) (p : Nat) (x : Cell) : State :=
  if torusVcOk x && x.type.toNat != tBEACON && x.type.toNat != tCREDIT && coordValid s && coordOk s x.dest.toNat then
    match nextHop s (ownCoord s) x.dest.toNat x.dateline (some (portAxis p)) with
    | some (e, dl) =>
      if portBlocked s e then s
      else
        let v := x.vc.toNat
        bridgeGo (enqueue (noteDepth s p v (vcDepth s p v + 1)) {
          cell := { x with dateline := dl, retry := false, crc := none, idx := none, poison := true }
          src := .ingress p, sub := subOf x, egress := e, since := s.now, owed := false, place := ingressPlace s p })
    | none => s
  else s

/-- A cell unit fails (R220, R336, R341): counted; the one the link expects is asked for again by a NAK at the next unit
slot, and every cell is discarded until it arrives. Another is discarded as it is. DEDUCED (log 76). -/
def cellFails (s : State) (p idx : Nat) (header : Bool) (through : Option Cell) : State :=
  let s := bump s (LANE_CHECK_FAIL_COUNT p) 1
  let s := if header then bump s (FAB_PORT_HDR_CRC_COUNT p) 1 else s
  if idx ≠ (torusAt s p).rxIdx then s
  else
    let s := withTorus s p (fun t => { t with discarding := true, nakDue := some idx })
    match through with
    | some x => if header then s else cutThrough s p x
    | none => s

/-- Arrival of a good or poisoned cell at a torus port: link index, header CRC, counters, and the checks of R207, R208, R212,
R213 and R219. A CREDIT cell spends no credit, so none returns for it. -/
def arrive (s : State) (p : Nat) (x : Cell) : Arrival :=
  match linkTakes s p x with
  | none => .gone s
  | some t =>
    if !headerGood x then .gone (cellFails s p (torusAt s p).rxIdx true none) else
    let s := if x.retry then bump t (FAB_PORT_RETRY_RX_COUNT p) 1 else t
    let ty := x.type.toNat
    if ty = tCREDIT then (if x.poison then .gone (bump s (FAB_PORT_POISON_RX_COUNT p) 1) else .here s)
    else
      let v := x.vc.toNat
      let s := bump64 s (FAB_PORT_RX_CELLS p v) 1
      if x.poison then .gone (discard s p x (FAB_PORT_POISON_RX_COUNT p)) else
      let s := noteDepth s p v (vcDepth s p v + 1)
      if !torusVcOk x then .gone (discard s p x (FAB_PORT_DROP_TYPE_COUNT p))
      else if ty = tBEACON ∨ (ty = tMGMT ∧ x.dest = 0x7FFF) then .here s
      else if !(coordValid s && coordOk s x.dest.toNat) then .gone (discard s p x (FAB_PORT_DROP_ROUTE_COUNT p))
      else
        match nextHop s (ownCoord s) x.dest.toNat x.dateline (some (portAxis p)) with
        | some (e, dl) =>
          if portBlocked s e then .gone (discard s p x (FAB_PORT_DROP_ROUTE_COUNT p)) else .onward s e dl
        | none =>
          if ty ≠ tMGMT ∧ (jobCtx s x.job.toNat).isNone then .gone (discard s p x (FAB_PORT_DROP_JOB_COUNT p))
          else .here s

/-- CELL_FORWARD (R209, R212): a cell for another module joins the queue of its next hop, or is discarded. -/
def execCellForward (p : TorusPort) (x : Cell) (s : State) : Res :=
  match arrive s p.val x with
  | .gone s => .next s
  | .onward s e dl => .next (holdCell s p.val x e dl)
  | .here s => .next (giveCredit s p.val (subOf x))

/-- The ejection queue of an ingress. -/
def ejectQ : Nat := 22

/-- A cell of the same ingress sub-channel already waits at ejection (R211, R218). -/
def behindAtEject (s : State) (p : Nat) (x : Cell) : Bool :=
  s.cells.any (fun q => q.egress == ejectQ && q.src == .ingress p && q.sub == subOf x)

/-- Arrival of a cell that this module consumes by `f`, or that waits at ejection where `f` cannot take it yet (R229), or
behind cells of its sub-channel that wait there (R211, R218); a cell for another module goes on.
DEDUCED (log 109). -/
def receive (s : State) (p : Nat) (x : Cell) (f : State → Option State) : Res :=
  match arrive s p x with
  | .gone s => .next s
  | .onward s e dl => .next (holdCell s p x e dl)
  | .here s =>
    if behindAtEject s p x then .next (holdCell s p x ejectQ x.dateline)
    else
      match f s with
      | some t => .next (ejected t p x)
      | none => .next (holdCell s p x ejectQ x.dateline)

/-! ## Credits -/

/-- A CREDIT cell is due (R216). -/
def creditIsDue (s : State) (p : Nat) : Bool :=
  let t := torusAt s p
  t.returns.any (fun n => decide (8 ≤ n)) || (t.returns.any (fun n => decide (0 < n)) && decide (t.lastCredit < s.now))

/-- The source coordinate a link-local cell carries (R208). -/
def localSrc (s : State) : Coord := if coordValid s then BitVec.ofNat 15 (ownCoord s) else 0

/-- A cell unit leaves a torus port: numbered, copied into the retry store, sent (R340, R342). -/
def sendUnit (s : State) (p : Nat) (x : Cell) : State :=
  let t := torusAt s p
  let s := withTorus s p (fun t => { t with
    txIdx := (t.txIdx + 1) % 65536
    store := t.store ++ [(t.txIdx, x)]
    lastAck := if t.store.isEmpty then s.now else t.lastAck })
  let _ := t
  emit s (.cell p x false)

/-- The retry store has room (R342). -/
def storeRoom (s : State) (p : Nat) : Bool := decide ((torusAt s p).store.length < 512)

/-- The CREDIT cell of the pending returns leaves (R216, Table 7-6). -/
def sendCredit (s : State) (p : Nat) : State :=
  let t := torusAt s p
  let x : Cell := { dest := 0x7FFF, src := localSrc s, type := BitVec.ofNat 4 tCREDIT
                    payload := t.returns.flatMap (natLe 2) ++ zeros 32 }
  sendUnit (withTorus s p (fun t => { t with returns := List.replicate 16 0, lastCredit := s.now })) p x

/-- CREDIT (R215): the counts return credits of the sub-channels. -/
def execCreditCell (p : TorusPort) (x : Cell) (s : State) : Res :=
  if x.type.toNat ≠ tCREDIT then .next s
  else
    match arrive s p.val x with
    | .here s => .next (withTorus s p.val (fun t => { t with
        credits := (t.credits.zipIdx).map (fun c => c.1 + fieldAt (payloadOf x) (2 * c.2) 2) }))
    | .gone s => .next s
    | .onward s _ _ => .next s

/-! ## Injection limiters (R228) -/

/-- The limiter's key of a cell that waits at a torus egress: a context, or 64 for a job without one; none for cells passing
through. -/
def limKey (s : State) (q : QCell) : Option Nat :=
  if 6 ≤ q.egress then none else
  match q.src with
  | .inject c => some c
  | .ingress _ => none
  | .module | .refusal _ | .busy _ => some ((jobCtx s q.cell.job.toNat).getD 64)

/-- A limiter of an egress; an unlisted one is at RATE 1,024 with its counter full. DEDUCED (log 107). -/
def limiterAt (s : State) (e c v : Nat) : Limiter :=
  ((egressAt s e).limiters.find? (fun l => l.ctx == c && l.vc == v)).getD ⟨c, v, 1024, 2048, none⟩

/-- The state with a limiter set; one at its reset values is not listed. -/
def setLimiter (s : State) (e : Nat) (l : Limiter) : State :=
  withEgress s e (fun g =>
    let rest := g.limiters.filter (fun x => !(x.ctx == l.ctx && x.vc == l.vc))
    { g with limiters := if l.rate = 1024 ∧ l.counter = 2048 ∧ l.cutAt.isNone then rest else rest ++ [l] })

/-- A waiting cell's limiter lets it go: VC1 to VC6 of the module's own cells need a counter of 1,024. -/
def limOk (s : State) (q : QCell) : Bool :=
  let v := q.cell.vc.toNat
  match limKey s q with
  | some c => v == 0 || v == 7 || decide (1024 ≤ (limiterAt s q.egress c v).counter)
  | none => true

/-- RATE after a cut: less ⌈RATE × CUT / 256⌉, to no less than RMIN. -/
def cutRate (rate cut rmin : Nat) : Nat := max rmin (rate - (rate * cut + 255) / 256)

/-- What an ECHO does (R228): the limiter of the job, the VC and the egress toward the echo's source is cut, unless it was
cut less than CUT_GAP ticks ago. -/
def echoTaken (s : State) (_p : Nat) (x : Cell) : State :=
  match nextHop s (ownCoord s) x.src.toNat false none with
  | none => s
  | some (e, _) =>
    let l := limiterAt s e ((jobCtx s x.job.toNat).getD 64) (fieldAt (payloadOf x) 1 1)
    let skip := match l.cutAt with | some t => decide (s.now < t + getF s FAB_ECN_TIMING_CUT_GAP) | none => false
    if skip then s
    else bump (setLimiter s e { l with
        rate := cutRate l.rate (getF s FAB_ECN_CTRL_CUT) (getF s FAB_ECN_CTRL_RMIN), cutAt := some s.now })
      (FAB_PORT_CUTS_COUNT e) 1

/-- ECHO (R228). -/
def execEcnEcho (p : TorusPort) (x : Cell) (s : State) : Res :=
  if x.type.toNat ≠ tRSP ∨ !x.echo then .next s else receive s p.val x (fun s => some (echoTaken s p.val x))

/-- LIMITER_RECOVER (R228): every RECOVER ticks each RATE gains ADD, up to 1,024. -/
def execLimiterRecover (s : State) : Res :=
  if s.lastRecover + getF s FAB_ECN_TIMING_RECOVER ≤ s.now then
    let add := getF s FAB_ECN_CTRL_ADD
    .next { s with
      lastRecover := s.now
      egress := s.egress.map (fun p => (p.1, { p.2 with
        limiters := p.2.limiters.map (fun l => { l with rate := min 1024 (l.rate + add) }) })) }
  else .next s

/-- ECHO_GAP (R227): GAP ticks after an entry's last ECHO a new one carries its count, or the entry is freed. -/
def execEchoGap (d : Die) (src : Coord) (job : BitVec 16) (vc : BitVec 3) (s : State) : Res :=
  let here := fun e : EchoEntry => e.src == src && e.job == job && e.vc == vc.toNat
  match (s.echo.getD d.val []).find? here with
  | none => .next s
  | some e =>
    if s.now < e.last + getF s FAB_ECN_ECHO_GAP then .next s
    else if e.count = 0 then .next { s with echo := lmod s.echo d.val (fun l => l.filter (fun y => !here y)) }
    else .next (sendEcho { s with echo := lmod s.echo d.val (fun l => l.map (fun y =>
        if here y then { y with count := 0, last := s.now } else y)) } e e.count)

/-! ## The egress arbiter (R221 to R225) -/

/-- COST and BURST of VC0 or VC7. -/
def rateCost (s : State) (v7 : Bool) : Nat :=
  if v7 then getF s FAB_RATE_LIMIT_VC7_COST else getF s FAB_RATE_LIMIT_VC0_COST
/-- BURST of VC0 or VC7. -/
def rateBurst (s : State) (v7 : Bool) : Nat :=
  if v7 then getF s FAB_RATE_LIMIT_VC7_BURST else getF s FAB_RATE_LIMIT_VC0_BURST

/-- What a slot adds: 1 to each of the VC0 and VC7 counters (R222), RATE to each limiter's (R228). -/
def slotGains (s : State) (e : Nat) : State :=
  let g0 := rateCost s false * rateBurst s false
  let g7 := rateCost s true * rateBurst s true
  withEgress s e (fun g => { g with
    c0 := min g0 (g.c0 + 1), c7 := min g7 (g.c7 + 1)
    limiters := (g.limiters.map (fun l => { l with counter := min 2048 (l.counter + l.rate) })).filter
      (fun l => !(l.rate == 1024 && l.counter == 2048 && l.cutAt.isNone)) })

/-- The egress holds a credit for a waiting cell (R215); an access egress counts its credit by frames (R359). -/
def hasCredit (s : State) (q : QCell) : Bool :=
  decide (6 ≤ q.egress) || decide (0 < (torusAt s q.egress).credits.getD (subOf q.cell) 0)

/-- The rate limit of VC0 and VC7 lets a cell go on a torus egress (R222); a frame takes the cells then queued (R357).
DEDUCED (log 118). -/
def rateOk (s : State) (q : QCell) : Bool :=
  let v := q.cell.vc.toNat
  let g := egressAt s q.egress
  if 6 ≤ q.egress then true
  else if v = 0 then decide (rateCost s false ≤ g.c0) else if v = 7 then decide (rateCost s true ≤ g.c7) else true

/-- A head may be granted: it is on its egress's die, there is a credit, its limiter allows it, the module has a place in a
torus or R22 lets the cell pass, and, while the module holds itself fenced, no VC1 to VC6 on a torus port (R380). -/
def grantable (s : State) (q : QCell) : Bool :=
  (!crosses s q || q.bridged) && hasCredit s q && limOk s q && assignedFor s q.egress q.cell && (!selfFenced s || decide (6 ≤ q.egress) || q.cell.vc == 0 || q.cell.vc == 7)

/-- A head is aged (R225). -/
def isAged (s : State) (q : QCell) : Bool :=
  let t := (rd s FAB_AGE_THRESH).toNat
  t != 0 && (q.aged || decide (q.since + t ≤ s.now))

/-- The place of a candidate in ties and in round robin: ingress ports 0 to 5 first, then injection (R224). -/
def srcOrder (q : QCell) : Nat :=
  match q.src with
  | .ingress p => 2 * p + q.sub % 2
  | .inject c => 12 + c
  | .module => 76
  | .refusal d => 77 + d
  | .busy d => 79 + d

/-- The head that has waited longest; ties to the lower place. DEDUCED (log 108). -/
def oldest (qs : List QCell) : Option QCell :=
  qs.foldl (fun b q => match b with
    | none => some q
    | some a => if q.since < a.since ∨ (q.since = a.since ∧ srcOrder q < srcOrder a) then some q else some a) none

/-- Within VC1 to VC3: jobs by deficit round robin with a quantum of one cell (R224). DEDUCED (log 108). -/
def pickJob (served : List Nat) (qs : List QCell) : Option (QCell × List Nat) :=
  match oldest (qs.filter (fun q => !served.contains q.cell.job.toNat)) with
  | some q => some (q, q.cell.job.toNat :: served)
  | none => (oldest qs).map (fun q => (q, [q.cell.job.toNat]))

/-- Within VC4 to VC6: plain round robin over the candidates (R224). -/
def pickRound (last : Nat) (qs : List QCell) : Option QCell :=
  let key := fun q => (srcOrder q + 1000 - last) % 1000
  qs.foldl (fun b q => match b with
    | none => some q
    | some a => if key q < key a then some q else some a) none

/-- Weight of VC1 to VC6. -/
def vcWeight (s : State) (v : Nat) : Nat :=
  if v ≤ 4 then bits (rd s FAB_VC_WEIGHT_A).toNat (8 * v - 1) (8 * v - 8)
  else bits (rd s FAB_VC_WEIGHT_B).toNat (8 * (v - 4) - 1) (8 * (v - 4) - 8)

/-- One pass of visits over VC1 to VC6 from the pointer (0 stands for VC1): the VC granted, the deficits after. -/
def visitPass (el : Nat → Bool) : Nat → Nat → List Nat → Option Nat × List Nat
  | 0, _, d => (none, d)
  | n + 1, v, d =>
    if !el v then visitPass el n ((v + 1) % 6) (lmod d v (fun _ => 0))
    else if 1 ≤ d.getD v 0 then (some v, lmod d v (· - 1))
    else visitPass el n ((v + 1) % 6) d

/-- R223's choice of a VC: the present round, else a new one, else a VC of weight 0; and the arbiter's state after the visits,
also when no VC is granted. -/
def pickVc (s : State) (e : Nat) (el : Nat → Bool) : Option Nat × EgressSt :=
  let g := egressAt s e
  match visitPass el 6 g.visit g.deficit with
  | (some v, d) => (some v, { g with deficit := d, visit := (v + 1) % 6 })
  | (none, d) =>
    let d := (d.zipIdx).map (fun p => if el p.2 then p.1 + vcWeight s (p.2 + 1) else p.1)
    match visitPass el 6 g.visit d with
    | (some v, d) => (some v, { g with deficit := d, visit := (v + 1) % 6 })
    | (none, d) =>
      match ((List.range 6).map (fun i => (g.visit + i) % 6)).find? el with
      | some v => (some v, { g with deficit := d, visit := (v + 1) % 6 })
      | none => (none, { g with deficit := d })

/-- A granted cell leaves its queue: MARK, the ingress credit, limiter and rate counters, the pool reference. -/
def takeGrant (s : State) (q : QCell) : State × Cell :=
  let v := q.cell.vc.toNat
  let m := match q.src with
    | .ingress p => marks s p q.cell (occupancy s p q.sub)
    | _ => false
  let s := if m then bump s (FAB_PORT_MARKED_COUNT q.egress) 1 else s
  let s := { s with cells := unqueue s.now q s.cells }
  let s := match q.src with
    | .ingress p => if q.owed && !q.bridged then giveCredit s p q.sub else s
    | _ => s
  let s := match limKey s q with
    | some c =>
      if v = 0 ∨ v = 7 then s
      else let l := limiterAt s q.egress c v; setLimiter s q.egress { l with counter := l.counter - 1024 }
    | none => s
  let s := withEgress s q.egress (fun g =>
    { g with c0 := if v = 0 then g.c0 - rateCost s false else g.c0
             c7 := if v = 7 then g.c7 - rateCost s true else g.c7 })
  (dropRef s q, { q.cell with mark := q.cell.mark || m })

/-- A grant at a torus egress: a credit is spent, the cell is counted and sent. -/
def grantTorus (s : State) (q : QCell) : State :=
  let r := takeGrant s q
  let s := withTorus r.1 q.egress (fun t => { t with credits := lmod t.credits (subOf q.cell) (· - 1) })
  sendUnit (bump64 s (FAB_PORT_TX_CELLS q.egress q.cell.vc.toNat) 1) q.egress r.2

/-- Stalls of a slot: each VC with a cell for this egress and no credit gains 5/12 of a block time.
DEDUCED (log 108). -/
def countStalls (s : State) (e : Nat) : State :=
  (List.range 8).foldl (fun s v =>
    let qs := (heads s e).filter (fun q => q.cell.vc.toNat == v)
    if qs.isEmpty || qs.any (hasCredit s) then s
    else
      let n := (egressAt s e).stall.getD v 0 + 5
      let s := withEgress s e (fun g => { g with stall := lmod g.stall v (fun _ => n % 12) })
      if 12 ≤ n then bump64 s (FAB_PORT_STALL e v) 1 else s) s

/-- The choice of R221 after the CREDIT cell (the cell and whether aging won it), and the arbiter's state after it. -/
def chooseGrant (s : State) (e : Nat) : Option (QCell × Bool) × EgressSt :=
  let hs := (heads s e).filter (grantable s)
  let g := egressAt s e
  match oldest (hs.filter (fun q => isAged s q && rateOk s q)) with
  | some q => (some (q, true), g)
  | none =>
    match oldest (hs.filter (fun q => q.cell.vc == 0 && rateOk s q)) with
    | some q => (some (q, false), g)
    | none =>
      match oldest (hs.filter (fun q => q.cell.vc == 7 && rateOk s q)) with
      | some q => (some (q, false), g)
      | none =>
        let ofVc := fun v => hs.filter (fun q => q.cell.vc.toNat == v + 1)
        match pickVc s e (fun v => decide (v < 6) && !(ofVc v).isEmpty) with
        | (none, g) => (none, g)
        | (some v, g) =>
          if v < 3 then
            match pickJob (g.served.getD v []) (ofVc v) with
            | some r => (some (r.1, false), { g with served := lmod g.served v (fun _ => r.2) })
            | none => (none, g)
          else
            match pickRound (g.rr.getD (v - 3) 0) (ofVc v) with
            | some q => (some (q, false), { g with rr := lmod g.rr (v - 3) (fun _ => srcOrder q + 1) })
            | none => (none, g)

/-! ## Control units of a port that is up (R340, R341, R344) -/

/-- An acknowledgement is due (R340). -/
def ackDue (s : State) (t : TorusSt) : Bool :=
  decide (128 ≤ t.sinceUnit) || (decide (0 < t.sinceUnit) && decide (t.unitAt + 1 ≤ s.now))

/-- A control unit waits for the port's next unit slot (R344). -/
def controlDue (s : State) (p : Nat) : Bool := (torusAt s p).nakDue.isSome || ackDue s (torusAt s p)

/-- A control unit leaves in a unit slot: a NAK that waits, else the acknowledgement. Both carry ACK. -/
def sendControl (s : State) (p : Nat) : State :=
  let t := torusAt s p
  match t.nakDue with
  | some i =>
    bump (emit (withTorus s p (fun t => { t with nakDue := none, sinceUnit := 0 })) (.control p (.nak t.rxIdx i))) (LANE_NAK_TX_COUNT p) 1
  | none => emit (withTorus s p (fun t => { t with sinceUnit := 0 })) (.control p (.idle t.rxIdx))

/-- One slot of a torus egress (R221, R340 to R344): a due control unit first, then resent cells, then a due CREDIT cell, then
the arbiter; no new cell while the retry store is full. Resent cells leave while the coordinates are withdrawn too.
DEDUCED (log 32). -/
def torusSlot (s : State) (e : Nat) : State :=
  let s := countStalls (slotGains s e) e
  if controlDue s e then sendControl s e
  else
    match (torusAt s e).resend with
    | (_, x) :: rest =>
      emit (bump (scorePort (withTorus s e (fun t => { t with resend := rest })) e 1) (LANE_CELLS_RESENT_COUNT e) 1)
        (.cell e { x with retry := true } true)
    | [] =>
      if !storeRoom s e then s
      else if creditIsDue s e then sendCredit s e
      else
        let c := chooseGrant s e
        let s := withEgress s e (fun _ => c.2)
        match c.1 with
        | none => s
        | some (q, aged) => bridgeGo (grantTorus (if aged then bump s (FAB_PORT_AGED_COUNT e) 1 else s) q)

/-- CREDIT_DUE (R216, R221, R344): the port's next cell slot, in which a due control unit or a resent cell goes first. -/
def execCreditDue (p : TorusPort) (s : State) : Res :=
  if portUp s p.val && creditIsDue s p.val then .next (torusSlot s p.val) else .next s

/-- CELL_AGED (R225): heads of an egress that have waited FAB_AGE_THRESH ticks are aged; a threshold of 0 turns aging
off. -/
def execCellAged (e : EgressPort) (s : State) : Res :=
  let hs := (heads s e.val).filter (isAged s)
  .next { s with cells := s.cells.map (fun q => if hs.contains q then { q with aged := true } else q) }

end Sys2Proof.Machine
end

