-- ==== Sys2Proof/Machine/Groups.lean ====
section
/-! DEFINITION. Group descriptors: their fields, the chains, arms and roots they set (R94 to R98), the members the
fabric holds as fenced (R373), the digest (R96) and the checks of an install (R95, R401). -/

namespace Sys2Proof.Machine

/-! ## Fields of Table 4-1 -/

/-- A group's descriptor bytes, empty where the entry holds none. -/
def groupDesc (s : State) (g : Nat) : List Byte := match tget s.groups g with | some x => x.desc | none => []
/-- The context that holds the entry. -/
def groupCtx (s : State) (g : Nat) : Option Nat := (tget s.groups g).map (fun x => x.ctx)
/-- LAYER. -/
def gLayer (d : List Byte) : Nat := fieldAt d 2 2
/-- KIND. -/
def gKind (d : List Byte) : Nat := fieldAt d 4 1
/-- LEVEL_MIN. -/
def gLevelMin (d : List Byte) : Nat := fieldAt d 5 1
/-- The axis of a cut: 0 data, 1 sequence, 2 model. -/
def gAxis (d : List Byte) (k : Nat) : Nat := cutAxis (fieldAt d 6 1) k
/-- Local cut: 0 none, 1 data, 2 model, 3 sequence. -/
def gCut (d : List Byte) : Nat := bits (fieldAt d 6 1) 7 6
/-- The ingress form is BF16. -/
def gBf16 (d : List Byte) : Bool := bits (fieldAt d 7 1) 1 0 == 1
/-- The transport is S1. -/
def gS1 (d : List Byte) : Bool := bits (fieldAt d 7 1) 3 2 == 1
/-- The late policy is DEFER. -/
def gDefer (d : List Byte) : Bool := bit (fieldAt d 7 1) 4
/-- First position of a run. -/
def gStart (d : List Byte) (k : Nat) : Nat := fieldAt d (8 + 3 * k) 1
/-- Length of a run. -/
def gLen (d : List Byte) (k : Nat) : Nat := fieldAt d (9 + 3 * k) 1
/-- Root of a chain, as an offset. -/
def gRoot (d : List Byte) (k : Nat) : Nat := fieldAt d (10 + 3 * k) 1
/-- CW_OP. -/
def gCwOp (d : List Byte) : Nat := fieldAt d 0x11 1
/-- CW_FORMAT. -/
def gCwFormat (d : List Byte) : Nat := fieldAt d 0x12 1
/-- CW_COUNT. -/
def gCwCount (d : List Byte) : Nat := fieldAt d 0x13 1
/-- DEADLINE. -/
def gDeadline (d : List Byte) : Nat := fieldAt d 0x14 4
/-- HOP_ALLOW. -/
def gHopAllow (d : List Byte) : Nat := fieldAt d 0x18 2
/-- The access ports of PORTS, ascending. -/
def gPorts (d : List Byte) : List Nat := (List.range 16).filter (fun p => bit (fieldAt d 0x40 2) p)

/-! ## Chains, arms and roots (R97) -/

/-- The offset of a coordinate in a run. -/
def offsetIn (s : State) (d : List Byte) (k c : Nat) : Nat :=
  let a := max 1 (axisLen s (gAxis d k))
  (axisPos c (gAxis d k) + a - gStart d k % a) % a
/-- The coordinate lies inside a run. -/
def inRun (s : State) (d : List Byte) (k c : Nat) : Bool := decide (offsetIn s d k c < gLen d k)
/-- A chain is cyclic when its run covers the whole axis. -/
def isCyclic (s : State) (d : List Byte) (k : Nat) : Bool := gLen d k == axisLen s (gAxis d k)
/-- Members of the lower arm. -/
def lowerLen (s : State) (d : List Byte) (k : Nat) : Nat :=
  if isCyclic s d k then gLen d k / 2 else gRoot d k
/-- Members of the upper arm. -/
def upperLen (s : State) (d : List Byte) (k : Nat) : Nat :=
  if isCyclic s d k then (gLen d k - 1) / 2 else gLen d k - 1 - gRoot d k

/-- Where a member stands in a chain. -/
inductive Side where
  | root
  | lower (dist : Nat)
  | upper (dist : Nat)
  deriving DecidableEq, Repr

/-- The place of an offset in a chain. -/
def sideOf (s : State) (d : List Byte) (k off : Nat) : Side :=
  let l := max 1 (gLen d k)
  let r := gRoot d k
  if off = r then .root
  else if isCyclic s d k then
    let before := (r + l - off) % l
    if before ≤ lowerLen s d k then .lower before else .upper ((off + l - r) % l)
  else if off < r then .lower (r - off) else .upper (off - r)

/-- Ports of a chain that lead upstream, lower arm first. -/
def chainUps (s : State) (d : List Byte) (k : Nat) (x : Side) : List Nat :=
  let lo := portOf (gAxis d k) false
  let hi := portOf (gAxis d k) true
  match x with
  | .root => (if 0 < lowerLen s d k then [lo] else []) ++ (if 0 < upperLen s d k then [hi] else [])
  | .lower n => if n < lowerLen s d k then [lo] else []
  | .upper n => if n < upperLen s d k then [hi] else []

/-- The port of a chain that leads downstream; none at its root. -/
def chainDown (d : List Byte) (k : Nat) : Side → Option Nat
  | .root => none
  | .lower _ => some (portOf (gAxis d k) true)
  | .upper _ => some (portOf (gAxis d k) false)

/-- The module's place in a chain. -/
def mySide (s : State) (d : List Byte) (k : Nat) : Side := sideOf s d k (offsetIn s d k (ownCoord s))
/-- The side is the root. -/
def isRoot : Side → Bool
  | .root => true
  | _ => false

/-- The chains a coordinate takes part in, in the order of the folds: model, sequence, data. -/
def chainsOf (s : State) (d : List Byte) (c : Nat) : List Nat :=
  let r := fun k => isRoot (sideOf s d k (offsetIn s d k c))
  [2] ++ (if r 2 then [1] else []) ++ (if r 2 && r 1 then [0] else [])

/-- Upstream ports of the module in a group. -/
def groupUps (s : State) (d : List Byte) : List Nat :=
  (chainsOf s d (ownCoord s)).flatMap (fun k => chainUps s d k (mySide s d k))
/-- The downstream port; none at the owner (the root of every chain). -/
def groupDown (s : State) (d : List Byte) : Option Nat :=
  (chainsOf s d (ownCoord s)).findSome? (fun k => chainDown d k (mySide s d k))
/-- The module is the root of the data chain: the owner of a gradient group. -/
def isOwner (s : State) (d : List Byte) : Bool := (groupDown s d).isNone
/-- The module is the root of the sequence chain. -/
def isSeqRoot (s : State) (d : List Byte) : Bool := isRoot (mySide s d 1)
/-- The module's coordinate lies inside every run, and every run fits its axis (R95, R109). -/
def runsFit (s : State) (d : List Byte) : Bool :=
  (List.range 3).all (fun k =>
    decide (gLen d k ≤ axisLen s (gAxis d k)) && decide (gStart d k < axisLen s (gAxis d k)) &&
    inRun s d k (ownCoord s))

/-- The chain a torus port belongs to at this module. -/
def portChain (d : List Byte) (p : Nat) : Option Nat := [2, 1, 0].find? (fun k => gAxis d k == portAxis p)

/-- R131's h: links to the farthest contributor that reaches this member through a port's arm. -/
def armHops (s : State) (d : List Byte) (p : Nat) : Nat :=
  match portChain d p with
  | none => 0
  | some k =>
    let len := if portPlus p then upperLen s d k else lowerLen s d k
    let dist := match mySide s d k with | .root => 0 | .lower n => n | .upper n => n
    (len - dist) + (if k = 0 then max (lowerLen s d 1) (upperLen s d 1) else 0)

/-! ## Members held as fenced (R373) -/

/-- The coordinate of a member by its offsets. -/
def memberCoord (s : State) (d : List Byte) (od os om : Nat) : Nat :=
  let at_ := fun (c k o : Nat) => withPos c (gAxis d k) ((gStart d k + o) % max 1 (axisLen s (gAxis d k)))
  at_ (at_ (at_ (ownCoord s) 0 od) 1 os) 2 om

/-- A member is held as fenced for the group: fenced, or a link to one of its chain neighbours is DOWN. -/
def memberFenced (s : State) (d : List Byte) (c : Nat) : Bool :=
  fenced s c ||
  (chainsOf s d c).any (fun k =>
    let x := sideOf s d k (offsetIn s d k c)
    (chainUps s d k x ++ (chainDown d k x).toList).any (fun p => linkDown s c (portAxis p) (portPlus p)))

/-- The members of a group, in the order of Table 10-7. -/
def members (s : State) (d : List Byte) : List Nat :=
  (List.range (gLen d 2)).flatMap (fun m => (List.range (gLen d 1)).flatMap (fun q =>
    (List.range (gLen d 0)).map (fun o => memberCoord s d o q m)))

/-- Some member is held as fenced. -/
def anyFenced (s : State) (d : List Byte) : Bool := (members s d).any (memberFenced s d)

/-- An upstream or downstream neighbour is held as fenced (R106). -/
def neighbourFenced (s : State) (d : List Byte) : Bool :=
  (groupUps s d ++ (groupDown s d).toList).any (fun p => peerFenced s p || memberFenced s d (peerCoord s p))

/-! ## Digest (R96) and install (R95, R401) -/

/-- The digest of a bucket: the first 8 bytes of SHA-512 over the job-wide part and bytes 0x04 to 0x0B of the bucket
descriptor. -/
def bucketDigest (d b : List Byte) : Nat := leNat ((sha512 (slice d 0 64 ++ slice b 4 8)).take 8)

/-- A reserved byte of the descriptor is nonzero. -/
def gReserved (d : List Byte) : Bool :=
  (slice d 0x1A 38).any (· != 0) || (slice d 0x42 62).any (· != 0) || bits (fieldAt d 7 1) 7 5 != 0

/-- CW_OP, CW_FORMAT or CW_COUNT lies outside Table 4-1. -/
def gCwBad (d : List Byte) : Bool :=
  let lim := if gCwFormat d = 0 then 8 else if gCwFormat d = 1 then 16 else 64
  decide (5 < gCwOp d) || decide (2 < gCwFormat d) || gCwCount d == 0 || decide (lim < gCwCount d)

/-- A context is the next holder of an access port (R396). DEDUCED (log 96). -/
def nextHolder (s : State) (c a : Nat) : Bool :=
  decide (a < 16) && flag s (HEALTH_PORT_OWNER_NEXT_VALID a) && getF s (HEALTH_PORT_OWNER_NEXT_CONTEXT a) == c

/-- The refusals of R95 and R401 with BAD_DESCRIPTOR that need no axis length. DEDUCED (log 96). -/
def groupBad (s : State) (c : Nat) (d : List Byte) : Bool :=
  let k := gKind d
  fieldAt d 0 2 != ctxJob s c || fieldAt d 6 1 != getF s (CTX_CFG_AXES c) ||
  (k != 1 && k != 2) || gReserved d ||
  (List.range 3).any (fun j => gLen d j == 0 || decide (gLen d j ≤ gRoot d j) || gAxis d j == 3) ||
  (k == 1 && (gLen d 2 != 1 || gDeadline d == 0 || gLayer d == 0xFFFF ||
    gCwOp d != 0 || gCwFormat d != 0 || gCwCount d != 0)) ||
  (k == 2 && (gCwBad d || gLayer d != 0xFFFF || gDeadline d != 0)) ||
  decide (1 < bits (fieldAt d 7 1) 1 0) || decide (1 < bits (fieldAt d 7 1) 3 2) ||
  (gPorts d).any (fun p => !holdsPort s c p && !nextHolder s c p) || (gCut d == 0 && decide (1 < (gPorts d).length)) ||
  gLevelMin d < 2 || decide (3 < gLevelMin d) || (k == 1 && (gS1 d || gDefer d) && decide (gLevelMin d < 3))

/-- The axis lengths and the module's place let runs be checked (R22, R95). -/
def placed (s : State) : Bool := dimValid s && coordValid s

/-- Buckets of the table that name a group entry. -/
def groupBusy (s : State) (g : Nat) : Bool := s.buckets.any (fun p => p.2.ctx.isSome && p.2.group == g)

/-- The Causeway slots in use. -/
def cwSlots : Nat := 64

end Sys2Proof.Machine
end

