-- ==== Sys2Proof/Machine/Layers.lean ====
section
/-! DEFINITION. The owner's layers: descriptors and state areas (R145 to R151), the journal (R168), staging of reduced
elements (R153), the step record's entries and events (R177 to R179), the end of a layer's Tide (R155, R171, R172),
LAYER_BIND and UPDATE_PROGRAM_LOAD, the state in the host tier (R173 to R176). -/

namespace Sys2Proof.Machine

/-! ## Fields of Table 5-1 -/

/-- LAYER. -/
def ldLayer (d : List Byte) : Nat := fieldAt d 2 2
/-- GROUP. -/
def ldGroup (d : List Byte) : Nat := bits (fieldAt d 4 2) 9 0
/-- SIGNAL. -/
def ldSignal (d : List Byte) : Nat := bits (fieldAt d 6 2) 13 0
/-- ELEMENTS. -/
def ldE (d : List Byte) : Nat := fieldAt d 8 4
/-- FLAGS. -/
def ldFlags (d : List Byte) : Nat := fieldAt d 0x0C 1
/-- FLAGS.MOMENTUM. -/
def ldMomentum (d : List Byte) : Bool := bit (ldFlags d) 0
/-- FLAGS.MFMT: FP32 moments. -/
def ldFp32 (d : List Byte) : Bool := bit (ldFlags d) 1
/-- FLAGS.FTZ. -/
def ldFtz (d : List Byte) : Bool := bit (ldFlags d) 2
/-- FLAGS.TIER: the state lies in the host tier. -/
def ldHostTier (d : List Byte) : Bool := bit (ldFlags d) 3
/-- FLAGS.MASK. -/
def ldMasked (d : List Byte) : Bool := bit (ldFlags d) 4
/-- FLAGS.MASK_GRAIN: one bit per 32 elements. -/
def ldGrain (d : List Byte) : Bool := bit (ldFlags d) 5
/-- SECTIONS. -/
def ldSections (d : List Byte) : Nat := fieldAt d 0x0D 1
/-- PROGRAM. -/
def ldProgram (d : List Byte) : Nat := fieldAt d 0x0E 1
/-- STATE. -/
def ldState (d : List Byte) : Nat := fieldAt d 0x10 8
/-- HOST. -/
def ldHost (d : List Byte) : Nat := fieldAt d 0x18 8
/-- MASK. -/
def ldMask (d : List Byte) : Nat := fieldAt d 0x20 8

/-- A section of a layer (R146). -/
structure Sec where
  off : Nat
  len : Nat
  cols : Nat
  matrix : Bool
  deriving DecidableEq, Repr

/-- Rows of a section. -/
def secRows (x : Sec) : Nat := x.len / max 1 x.cols

/-- First element of a section entry. -/
def secOff (d : List Byte) (k : Nat) : Nat := bits (fieldAt d (0x28 + 8 * k) 4) 29 0

/-- The sections of a layer. -/
def sections (d : List Byte) : List Sec :=
  (List.range (ldSections d)).map (fun k =>
    let e := if k + 1 < ldSections d then secOff d (k + 1) else ldE d
    ⟨secOff d k, e - secOff d k, fieldAt d (0x2C + 8 * k) 4, bit (fieldAt d (0x28 + 8 * k) 4) 30⟩)

/-- Σ of R148: rows and columns of all sections. -/
def statCount (d : List Byte) : Nat := ((sections d).map (fun x => secRows x + x.cols)).foldl (· + ·) 0

/-- Place of a section's first row among the statistics. -/
def statBase (d : List Byte) (k : Nat) : Nat :=
  (((sections d).take k).map (fun x => secRows x + x.cols)).foldl (· + ·) 0

/-- The section an element lies in: its number and entry. -/
def sectionAt (d : List Byte) (e : Nat) : Option (Nat × Sec) :=
  ((sections d).zipIdx).findSome? (fun p =>
    if p.1.off ≤ e ∧ e < p.1.off + p.1.len then some (p.2, p.1) else none)

/-! ## The state area (R148, Table 5-3) -/

/-- The next 4 KiB boundary. -/
def page (n : Nat) : Nat := (n + 4095) / 4096 * 4096
/-- Tasks of the layer. -/
def tasks (d : List Byte) : Nat := (ldE d + 4095) / 4096
/-- Bytes of one done bitmap. -/
def bitmapBytes (d : List Byte) : Nat := (tasks d + 7) / 8
/-- Bytes of a moment. -/
def momentBytes (d : List Byte) : Nat := if ldMomentum d then (if ldFp32 d then 4 else 2) else 0
/-- Address of a pass's bitmap. DEDUCED (log 35). -/
def bitmapAddr (d : List Byte) (pass : Nat) : Nat := ldState d + 4096 + (pass - 1) * bitmapBytes d
/-- Offset of the accumulators. DEDUCED (log 35). -/
def accOff (d : List Byte) : Nat := page (4096 + 2 * bitmapBytes d)
/-- Address of accumulator `i` (rows and columns in the order of Table 5-3). -/
def accAddr (d : List Byte) (i : Nat) : Nat := ldState d + accOff d + 48 * i
/-- End of the accumulators, counted from STATE. -/
def accEnd (d : List Byte) : Nat := accOff d + 48 * statCount d
/-- Offset of moment buffer k (0 or 1) counted from W. DEDUCED (log 35). -/
def momentOff (d : List Byte) (k : Nat) : Nat :=
  let m0 := page (4 * ldE d)
  if k = 0 then m0 else page (m0 + momentBytes d * ldE d)
/-- Offset of statistics buffer k counted from W. DEDUCED (log 35). -/
def statOff (d : List Byte) (k : Nat) : Nat :=
  let s0 := page (momentOff d 1 + momentBytes d * ldE d)
  if k = 0 then s0 else page (s0 + 4 * statCount d)
/-- Bytes of the parts from W onward. -/
def stateBytes (d : List Byte) : Nat := statOff d 1 + 4 * statCount d
/-- Bytes of the mask area. -/
def maskBytes (d : List Byte) : Nat := if ldGrain d then ((ldE d + 31) / 32 + 7) / 8 else (ldE d + 7) / 8

/-- The ranges that hold a layer's state and mask (R150). -/
def stateRanges (d : List Byte) : List (Nat × Nat) :=
  (if ldHostTier d then [(ldState d, accEnd d), (ldHost d, stateBytes d)]
   else [(ldState d, page (accEnd d) + stateBytes d)]) ++
  (if ldMasked d then [(ldMask d, maskBytes d)] else [])

/-- Address of the layer's W part as the engine reads it: in HBM at STATE; of a host-tier layer in the cache while that
holds the present state or the one being written back, else at HOST. DEDUCED (log 35). DESIGN CHOICE (log 127). -/
def weightBase (x : Layer) : Nat :=
  if ldHostTier x.desc then
    (match x.cache with
     | some c => if x.present || x.backing then c.1 else ldHost x.desc
     | none => ldHost x.desc)
  else ldState x.desc + page (accEnd x.desc)

/-! ## The layer table and the journal (R145, R168) -/

/-- The state with a layer's entry changed. -/
def withLayer (s : State) (l : Nat) (f : Layer → Layer) : State := { s with layers := tmod s.layers l f }
/-- The entry that holds a context's layer of an index. -/
def layerOf (s : State) (c layer : Nat) : Option (Nat × Layer) :=
  s.layers.find? (fun p => p.2.ctx == c && ldLayer p.2.desc == layer)
/-- PHASE: 0 COMMITTED, 1 STAGED, 2 MOMENTS_WRITTEN, 3 WEIGHTS_WRITTEN. DESIGN CHOICE (log 26). -/
def jPhase (s : State) (l : Nat) : Nat := getF s (LAYER_JNL_A_PHASE l)
/-- TIDE. -/
def jTide (s : State) (l : Nat) : Nat := (rd s (LAYER_JNL_B l)).toNat
/-- CUR. -/
def jCur (s : State) (l : Nat) : Nat := getF s (LAYER_JNL_A_CUR l)
/-- INCONSISTENT. -/
def jBroken (s : State) (l : Nat) : Bool := flag s (LAYER_JNL_A_INCONSISTENT l)
/-- The journal is COMMITTED and not marked INCONSISTENT. -/
def jCommitted (s : State) (l : Nat) : Bool := jPhase s l == 0 && !jBroken s l

/-- The journal record (Table 5-7). -/
def jnlBytes (s : State) (l : Nat) (x : Layer) : List Byte :=
  let b := fun (f : Fld) (k : Nat) => getF s f * 2 ^ k
  natLe 2 (ldLayer x.desc) ++ natLe 1 (jPhase s l) ++
    natLe 1 (b (LAYER_JNL_A_CUR l) 0 + b (LAYER_JNL_A_ORTHO_DONE l) 1 + b (LAYER_JNL_A_INCONSISTENT l) 2 +
      b (LAYER_JNL_A_LATE l) 3) ++
    natLe 4 (jTide s l) ++ natLe 4 (tasks x.desc) ++ natLe 4 x.done1 ++ natLe 4 x.done2 ++
    natLe 2 x.replays ++ zeros 42

/-- The journal record is written to HBM as it stands (R168). -/
def putJournal (s : State) (l : Nat) : State :=
  match tget s.layers l with
  | some x => poke s (ldState x.desc) (jnlBytes s l x)
  | none => s

/-- The journal moves to a phase and Tide (R168, R169). -/
def moveJournal (s : State) (l phase tide : Nat) : State :=
  putJournal (wr (setF s (LAYER_JNL_A_PHASE l) phase) (LAYER_JNL_B l) (BitVec.ofNat 32 tide)) l

/-- A layer entry that a command may not write over (R150): its journal is not COMMITTED and not INCONSISTENT, or it has
a staged or spilled bucket. -/
def layerBusy (s : State) (l : Nat) (x : Layer) : Bool :=
  (jPhase s l != 0 && !jBroken s l) || !x.staged.isEmpty
/-- A write of `n` bytes would go into a layer's state or mask area that R150 protects. -/
def stateProtected (s : State) (a n : Nat) : Bool :=
  s.layers.any (fun p => layerBusy s p.1 p.2 && (stateRanges p.2.desc).any (fun r => overlap a n r.1 r.2))

/-! ## Exact accumulators (R153) -/

/-- A 384-bit two's-complement integer in memory. -/
def accRead (s : State) (a : Nat) : Int :=
  let v := leNat (bytesAt s.mem 0 a 48)
  if v < 2 ^ 383 then v else (v : Int) - 2 ^ 384
/-- An exact addition to an accumulator, in units of 2^−192. -/
def accAdd (s : State) (a : Nat) (x : Int) : State :=
  poke s a (natLe 48 ((accRead s a + x).emod (2 ^ 384)).toNat)
/-- A dyadic value in units of 2^−192. -/
def toUnits (x : Dy) : Int := dyAt x (-192)
/-- The exact square of the L16 value of an FP32 code: the conversion's flags, and the square where it is valid.
DEDUCED (log 46). -/
def squareOf (c : Nat) : Option Dy × Flags :=
  let r := floatToLog .fp32 .l16 c
  (logSquare .l16 r.1, r.2)

/-! ## The step record of the present Tide (R177 to R179) -/

/-- A context's step record. -/
def stepRec (s : State) (c : Nat) : StepRec := (tget s.steps c).getD {}
/-- The state with a step record changed. -/
def withStep (s : State) (c : Nat) (f : StepRec → StepRec) : State :=
  { s with steps := tput s.steps c (f (stepRec s c)) }
/-- Event entries a record holds. -/
def maxEvents : Nat := 16380
/-- An event entry (Table 5-12). -/
def addEvent (s : State) (c kind source tag upstream group layer : Nat) : State :=
  let e := natLe 1 kind ++ natLe 1 source ++ natLe 2 tag ++ natLe 2 (ownCoord s) ++ natLe 2 upstream ++
    natLe 2 group ++ natLe 2 layer ++ zeros 4
  withStep s c (fun r => if r.events.length < maxEvents then { r with events := r.events ++ [e] }
    else { r with lost := r.lost + 1 })
/-- NV events of a layer in the Tide (R88). -/
def countNv (s : State) (c layer n : Nat) : State :=
  if n = 0 then s
  else withStep s c (fun r => { r with nv := tput r.nv layer (min 0xFFFFFFFF ((tget r.nv layer).getD 0 + n)) })
/-- One staged element, number `i` of the bucket of tag `tag` and `e` of the layer, joins the statistics: row and column
accumulators, or the invalid-element count. An infinity, which L16 cannot hold, raises NV at its place in the bucket.
DEDUCED (log 46). DESIGN CHOICE (log 124). -/
def stageElement (s : State) (l : Nat) (x : Layer) (cay tag i e c : Nat) : State :=
  let r := squareOf c
  let s := if r.2.nv then
      countNv (cayNv s cay r.2.cause ⟨1, ctxJob s x.ctx, ldGroup x.desc, tag, i / 16, 0, i % 16⟩) x.ctx (ldLayer x.desc) 1
    else cayFlags s cay r.2
  match r.1, sectionAt x.desc e with
  | some q, some (k, sec) =>
    let i := e - sec.off
    let s := accAdd s (accAddr x.desc (statBase x.desc k + i / max 1 sec.cols)) (toUnits q)
    accAdd s (accAddr x.desc (statBase x.desc k + secRows sec + i % max 1 sec.cols)) (toUnits q)
  | none, _ =>
    let s := withLayer s l (fun y => { y with bad := min 0xFFFFFFFF (y.bad + 1) })
    match tget s.layers l with
    | some y => poke s (ldState x.desc + 0xA0) (natLe 4 y.bad)
    | none => s
  | some _, none => s

/-- What stops the statistics of a layer: an accumulator that cannot be read (R268). -/
def accFault (s : State) (x : Layer) : Option Nat :=
  if statCount x.desc = 0 then none else accessFault s (some x.ctx) (accAddr x.desc 0) (48 * statCount x.desc) false

/-- FP32 values written into staging, each joining the statistics (R153). -/
def stageValues (s : State) (l cay addr tag first : Nat) (cs : List Nat) : State :=
  (cs.zipIdx).foldl (fun s p =>
    match tget s.layers l with
    | some x => stageElement s l x cay tag p.2 (first + p.2) p.1
    | none => s) (poke s addr (cs.flatMap (natLe 4)))

/-- The layer entry of a step record changed. -/
def withEntry (s : State) (c layer : Nat) (f : LayerEntry → LayerEntry) : State :=
  withStep s c (fun r => { r with layers := tput r.layers layer (f ((tget r.layers layer).getD {})) })

/-- A norm as one W96 lane (R160): 12-byte lane, 2-byte exponent, 2 bytes zero. -/
def normBytes (x : Int) : List Byte :=
  if x ≤ 0 then zeros 16
  else
    let e : Int := (Nat.log2 x.toNat : Int) - 192 - 93
    let q := roundEvenInt ⟨x, -192 - e⟩
    natLe 12 q.toNat ++ natLe 2 (BitVec.ofInt 16 e).toNat ++ zeros 2

/-- ‖g‖²: the sum of every row accumulator (R160). -/
def gradNorm (s : State) (d : List Byte) : Int :=
  (((sections d).zipIdx).map (fun p =>
    ((List.range (secRows p.1)).map (fun i => accRead s (accAddr d (statBase d p.2 + i)))).foldl (· + ·) 0)).foldl (· + ·) 0

/-! ## Error and deferral memories in HBM (R118, R133) -/

/-- Deferred values added to an FP32 memory from an index on; an invalid element adds nothing. -/
def deferInto (em : List (BitVec 32)) (i : Nat) (xs : List Wide) : List (BitVec 32) × Flags :=
  (xs.zipIdx).foldl (fun a p => match p.1 with
    | none => a
    | some x =>
      if i + p.2 < a.1.length then
        let r := fp32Sat (dyAdd (fp32Dy (a.1.getD (i + p.2) 0)) x)
        (lmod a.1 (i + p.2) (fun _ => r.1), orFlags a.2 r.2)
      else a) (em, noFlags)

/-- The HBM home of a bucket number's memory. -/
def homeOf (s : State) (c g num : Nat) : Option EmHome :=
  s.homes.find? (fun h => h.ctx == c && h.group == g && h.num == num)
/-- The state with a home changed. -/
def withHome (s : State) (c g num : Nat) (f : EmHome → EmHome) : State :=
  { s with homes := s.homes.map (fun h => if h.ctx == c && h.group == g && h.num == num then f h else h) }

/-- A bucket number's home no longer waits for a conversion: the late values kept apart join its memory, which was zeroed
before where the conversion has come (R153). -/
def settleHome (s : State) (x : Layer) (b : StagedB) (zero : Bool) : State :=
  let g := ldGroup x.desc
  match homeOf s x.ctx g (b.tag % 8192) with
  | some h =>
    if !h.held then s
    else
      let u := h.late.foldl (fun a p => let r := deferInto a.1 p.1 p.2; (r.1, orFlags a.2 r.2))
        (if zero then h.vals.map (fun _ => 0) else h.vals, noFlags)
      cayFlags (withHome s x.ctx g (b.tag % 8192) (fun h => { h with vals := u.1, held := false, late := [] })) b.cay u.2
  | none => s

/-! ## The end of a layer's Tide -/

/-- Reservations of named buckets of a layer are returned: staging and spill. -/
def releaseStaging (s : State) (l : Nat) (tags : List Nat) : State :=
  releaseAllocs s (fun a => match a.use with
    | .staging k t => k == l && tags.contains t
    | .spill k t => k == l && tags.contains t
    | _ => false)
/-- Every staged or spilled bucket of a layer is released. -/
def dropStaged (s : State) (l : Nat) : State :=
  match tget s.layers l with
  | some x =>
    let s := x.staged.foldl (fun s b => if b.spill.isSome then settleHome s x b false else s) s
    withLayer (releaseStaging s l (x.staged.map (fun b => b.tag))) l (fun y => { y with staged := [] })
  | none => s
/-- Accumulators, bitmaps and the counts beside the journal record are zeroed (Table 5-8). DEDUCED (log 39). -/
def clearScratchpad (s : State) (l : Nat) : State :=
  match tget s.layers l with
  | some x =>
    let s := wipe s (ldState x.desc + 0x40) (4096 - 0x40)
    let s := wipe s (bitmapAddr x.desc 1) (2 * bitmapBytes x.desc)
    let s := wipe s (ldState x.desc + accOff x.desc) (48 * statCount x.desc)
    let s := setF (setF s (LAYER_JNL_A_LATE l) 0) (LAYER_JNL_A_ORTHO_DONE l) 0
    withLayer s l (fun y => { y with bad := 0, done1 := 0, done2 := 0, replays := 0 })
  | none => s

/-- The layer's step-record entry is written; the post of its commit signal follows (R172). -/
def recordTide (s : State) (l st : Nat) (f : LayerEntry → LayerEntry) : State :=
  match tget s.layers l with
  | none => s
  | some x =>
    let b := fun (v : Bool) (k : Nat) => if v then 2 ^ k else 0
    let fl := b true 0 + b (flag s (LAYER_JNL_A_LATE l)) 2 + b (decide (0 < x.replays)) 3 +
      b ((sections x.desc).any (fun k => k.matrix)) 4 + b (jBroken s l) 5 + b x.deferLost 6
    let s := withEntry s x.ctx (ldLayer x.desc) (fun e => f { e with status := st, flags := fl, replays := x.replays })
    withLayer s l (fun y => { y with posted := true, upd := none })

/-- The layer's step-record entry is written, and then its commit signal is posted by 1 (R172). -/
def endTide (s : State) (l st : Nat) (f : LayerEntry → LayerEntry) : State :=
  match tget s.layers l with
  | none => s
  | some x => post (recordTide s l st f) (ldSignal x.desc) .add 1 st

/-- The context's function may reach the host port that an address's bit 62 selects (R258). -/
def hostReach (s : State) (c a : Nat) : Bool := hostUp s (bits a 62 62) (ctxVf s c)

/-- The write-back of a committed host-tier layer goes to the host (R176) once an engine has it and the port is up; a part
that cannot be read is not written (R268). DEDUCED (log 123). -/
def sendBack (s : State) (l : Nat) : State :=
  match tget s.layers l with
  | none => s
  | some x =>
    if x.backing && !x.backSent && moveRuns s (.layerWriteback l) && x.backs.all (fun r => hostReach s x.ctx r.1) then
      x.backs.foldl (fun s r =>
        match memRead s (some x.ctx) r.2.1 r.2.2 with
        | (s, .ok bs) => (memWrite s (some x.ctx) r.1 bs).1
        | (s, .error _) => s) (withLayer s l (fun y => { y with backSent := true }))
    else s

/-- Layer write-backs that engines have taken go out. -/
def sendBacks (s : State) : State := s.layers.foldl (fun s p => sendBack s p.1) s

/-- A move has ended or is withdrawn, and the engines take the next. -/
def nextMoves (s : State) (k : MoveKind) : State := sendBacks (endMove s k)

/-- The cache space of a host-tier layer is free, but for the state that its write-back still sends (R176).
DEDUCED (log 39). -/
def dropCache (s : State) (l : Nat) : State :=
  nextMoves (withLayer s l (fun y => { y with
    cache := if y.backing then y.cache else none, present := !ldHostTier y.desc, fetching := false })) (.layerPrefetch l)

/-- An abandoned layer (R155): not updated; staging released, accumulators and bitmaps zeroed, the journal COMMITTED
with the present Tide, the outcome in the step record; the post of its commit signal follows. DEDUCED (log 39). -/
def leaveLayer (s : State) (l st : Nat) : State :=
  match tget s.layers l with
  | none => s
  | some x =>
    let tide := ctxTide s x.ctx
    let s := dropStaged s l
    let s := recordTide s l (worse st (x.halted.getD 0)) id
    let s := bump (clearScratchpad s l) LAYER_ABANDON_COUNT_COUNT 1
    let s := withLayer s l (fun y => { y with halted := none, completeAt := none, deferLost := false, upd := none })
    dropCache (moveJournal s l 0 tide) l

/-- A layer is abandoned and its commit signal posted (R155, R172). DEDUCED (log 39). -/
def abandon (s : State) (l st : Nat) : State :=
  match tget s.layers l with
  | none => s
  | some x => post (leaveLayer s l st) (ldSignal x.desc) .add 1 (worse st (x.halted.getD 0))

/-- A stopped update with weights already written (Table 5-8): INCONSISTENT. DEDUCED (log 40). DEDUCED (log 142). -/
def breakLayer (s : State) (l st : Nat) : State :=
  let s := dropStaged s l
  let s := setF s (LAYER_JNL_A_INCONSISTENT l) 1
  let s := bump (endTide s l st id) LAYER_ABANDON_COUNT_COUNT 1
  let s := withLayer s l (fun y => { y with halted := none, completeAt := none, deferLost := false })
  dropCache (putJournal s l) l

/-- Admitted buckets of a layer that have not ended at this module. -/
def layerInFlight (s : State) (c layer : Nat) : Bool :=
  s.buckets.any (fun p => p.2.ctx == some c && p.2.verdict == some .admitted && p.2.outcome.isNone &&
    gLayer (groupDesc s p.2.group) == layer)

/-- A layer one of whose buckets ended with CHECKSUM, FENCED_CAY or FENCED_MEMBER (R155): its staging is released now,
and it is abandoned when no admitted bucket of it is left. The deferral values zeroed for what was staged are lost. -/
def haltLayer (s : State) (l st : Nat) : State :=
  match tget s.layers l with
  | none => s
  | some x =>
    if x.posted then s
    else
      let lost := gDefer (groupDesc s (ldGroup x.desc)) && x.staged.any (fun b => b.spill.isNone)
      let s := withLayer (dropStaged s l) l (fun y =>
        { y with halted := some (worse st (y.halted.getD 0)), deferLost := y.deferLost || lost, completeAt := none })
      if layerInFlight s x.ctx (ldLayer x.desc) then s else abandon s l st

/-- An update that stops (R171, Table 5-8). -/
def stopUpdate (s : State) (l st : Nat) : State :=
  match tget s.layers l with
  | none => s
  | some x =>
    if jPhase s l = 1 ∨ (jPhase s l = 2 ∧ x.done2 = 0) then abandon s l st
    else if jPhase s l = 2 ∧ !jBroken s l then breakLayer s l st
    else s

/-- Elements of a layer staged or spilled in the Tide. -/
def stagedCount (x : Layer) : Nat := (x.staged.map (fun b => b.n)).foldl (· + ·) 0
/-- The layer is complete (R154). -/
def layerComplete (x : Layer) : Bool := stagedCount x == ldE x.desc && x.halted.isNone

/-- The owner accepts buckets of a layer: no INCONSISTENT mark (R171), not stopped for the Tide (R155), the Tide of the
layer not yet ended. DEDUCED (log 39). -/
def layerAccepts (s : State) (l : Nat) (x : Layer) : Bool := !jBroken s l && x.halted.isNone && !x.posted

/-! ## State in the host tier (R173 to R176) -/

/-- The cache spaces in use within a context's cache. -/
def cacheUsed (s : State) (c : Nat) : List (Nat × Nat) :=
  s.layers.filterMap (fun p => if p.2.ctx = c then p.2.cache else none)

/-- The lowest free place of `n` bytes in a context's cache. -/
def cachePlace (s : State) (c n : Nat) : Option Nat :=
  match allocOf s c .cache with
  | none => none
  | some a =>
    let obs := cacheUsed s c
    let cands := (a.base :: obs.map (fun o => page (o.1 + o.2))).filter (fun x =>
      decide (x + n ≤ a.base + a.len) && !(obs.any (fun o => overlap x n o.1 o.2)))
    cands.foldl (fun b x => match b with | none => some x | some y => some (min x y)) none

/-- A prefetch that waits takes cache room and is queued, unless a write-back of the layer is outstanding. -/
def tryFetch (s : State) (l : Nat) : State :=
  match tget s.layers l with
  | none => s
  | some x =>
    if !x.fetching || x.backing || x.cache.isSome then s
    else
      match cachePlace s x.ctx (stateBytes x.desc) with
      | none => s
      | some a => addMove (withLayer s l (fun y => { y with cache := some (a, stateBytes y.desc) })) (.layerPrefetch l) (hbmDie a)

/-- The first BUCKET_OPEN of a host-tier layer in a Tide asks for its state (R173). -/
def askState (s : State) (l : Nat) : State :=
  match tget s.layers l with
  | none => s
  | some x =>
    if !ldHostTier x.desc || x.present || x.fetching then s
    else tryFetch (withLayer s l (fun y => { y with fetching := true })) l

/-- W, M_CUR and S_CUR of a layer, as ranges counted from W. -/
def currentParts (s : State) (l : Nat) (d : List Byte) : List (Nat × Nat) :=
  [(0, 4 * ldE d), (momentOff d (jCur s l), momentBytes d * ldE d), (statOff d (jCur s l), 4 * statCount d)]

/-- After COMMITTED a present host-tier state is written back, by the engines of the die whose host port the state's
address names (R176, R264). -/
def startBack (s : State) (l : Nat) : State :=
  match tget s.layers l with
  | none => s
  | some x =>
    match x.cache with
    | some (a, _) =>
      if !ldHostTier x.desc then s
      else
        let parts := (currentParts s l x.desc).map (fun r => (ldHost x.desc + r.1, a + r.1, r.2))
        sendBacks (addMove (withLayer s l (fun y => { y with
          backing := true, backSent := false, backs := parts, present := false, fetching := false }))
          (.layerWriteback l) (bits (ldHost x.desc) 62 62))
    | none => s

/-- Every waiting prefetch of a context's layers tries for cache room. -/
def retryFetches (s : State) (c : Nat) : State :=
  s.layers.foldl (fun s p => if p.2.ctx = c then tryFetch s p.1 else s) s

/-- LAYER_WRITEBACK_DONE (R176): the host acknowledges the write-back, and the cache space is free.
DESIGN CHOICE (log 4). -/
def execLayerWritebackDone (l : LayerNum) (s : State) : Res :=
  match tget s.layers l.val with
  | none => .next s
  | some x =>
    if x.backing && x.backSent && x.backs.all (fun r => hostReach s x.ctx r.1) && moveRuns s (.layerWriteback l.val) then
      let s := withLayer s l.val (fun y => { y with backing := false, backSent := false, backs := [], cache := none })
      .next (retryFetches (nextMoves s (.layerWriteback l.val)) x.ctx)
    else .next s

/-- The lead Cay: the one that entry GROUP mod 128 of the map names (R151). -/
def leadCay (s : State) (d : List Byte) : Nat := getF s (FAB_RED_CAY_MAP_CAY (ldGroup d % 128))

/-- FP32 codes of a W96 group in memory (R58), each converted under R62 in the job's mode. -/
def groupLanes (bs : List Byte) : List Wide :=
  (List.range 16).map (fun i =>
    let q := fieldAt bs (12 * i) 12
    if q = 2 ^ 95 then none
    else some ⟨toSigned 96 q, toSigned 16 (fieldAt bs 192 2)⟩)

/-- A spilled bucket is converted into its staging, and R153 applies (R174): its deferral memory is zeroed there. A Cay out
of service converts when its spare is in service; a spill that cannot be read stops the layer (R268). -/
def convertSpill (s : State) (l : Nat) (b : StagedB) : State :=
  match b.spill, tget s.layers l with
  | some a, some x =>
    if !x.present || !cayUp s b.cay || !(x.staged.any (fun z => z == b)) then s
    else if (accessFault s (some x.ctx) a (208 * ((b.n + 15) / 16)) false).isSome || (accFault s x).isSome then haltLayer s l 0x22
    else
      let ieee := ctxIeee s x.ctx
      let cs := (List.range ((b.n + 15) / 16)).flatMap (fun g =>
        (groupLanes (bytesAt s.mem 0 (a + 208 * g) 208)).map (wideToFloat .fp32 ieee))
      let s := cs.foldl (fun s r => cayFlags s b.cay r.2) s
      let s := stageValues s l b.cay b.addr b.tag b.first ((cs.take b.n).map (fun r => r.1))
      let s := releaseAllocs (settleHome s x b true) (fun y => y.use == AllocFor.spill l b.tag)
      withLayer s l (fun y => { y with staged := y.staged.map (fun z => if z.tag = b.tag then { z with spill := none } else z) })
  | _, _ => s

/-- Every spilled bucket of a layer whose state is present is converted. -/
def convertSpills (s : State) (l : Nat) : State :=
  match tget s.layers l with
  | some x => x.staged.foldl (fun s b => convertSpill s l b) s
  | none => s

/-- NV events of values that enter through the host tier (R48): each invalid code of a part, by its index.
DEDUCED (log 41). -/
def enterNv (s : State) (l : Nat) (x : Layer) (invalid : Nat → Bool) (per : Nat) (cs : List Nat) : State :=
  let bad := (cs.zipIdx).filter (fun p => invalid p.1)
  let lead := leadCay s x.desc
  let s := bad.foldl (fun s p => cayNv s lead 7 ⟨2, ctxJob s x.ctx, ldGroup x.desc, ldLayer x.desc, p.2 / per, 0, p.2 % per⟩) s
  let _ := l
  countNv s x.ctx (ldLayer x.desc) bad.length

/-- An FP32 code is a NaN. -/
def fp32Bad (c : Nat) : Bool := isNan (floatDecode .fp32 c)
/-- An L16 code is NaR. -/
def l16Bad (c : Nat) : Bool := logDecode .l16 c == .nar

/-- The codes of `w` bytes each in a byte string. -/
def codesOf (w n : Nat) (bs : List Byte) : List Nat := (List.range n).map (fun i => fieldAt bs (w * i) w)

/-- LAYER_STATE_PRESENT (R173, R174): the prefetch has completed; spilled buckets are converted into staging. -/
def layerStatePresent (l : LayerNum) (s : State) : Res :=
  match tget s.layers l.val with
  | none => .next s
  | some x =>
    match x.cache with
    | none => .next s
    | some (a, _) =>
      if !moveRuns s (.layerPrefetch l.val) || !hostReach s x.ctx (ldHost x.desc) then .next s
      else
        let d := x.desc
        let get := fun (s : State) (r : Nat × Nat) => (memRead s (some x.ctx) (ldHost d + r.1) r.2)
        let s := (currentParts s l.val d).foldl (fun s r =>
          match get s r with
          | (s, .ok bs) => poke s (a + r.1) bs
          | (s, .error _) => s) s
        let at_ := fun (s : State) (o w n : Nat) => codesOf w n (bytesAt s.mem 0 (a + o) (w * n))
        let s := enterNv s l.val x fp32Bad 16 (at_ s 0 4 (ldE d))
        let s := if momentBytes d = 0 then s
          else enterNv s l.val x (if ldFp32 d then fp32Bad else l16Bad) (64 / momentBytes d)
            (at_ s (momentOff d (jCur s l.val)) (momentBytes d) (ldE d))
        let s := enterNv s l.val x fp32Bad 16 (at_ s (statOff d (jCur s l.val)) 4 (statCount d))
        let s := nextMoves (withLayer s l.val (fun y => { y with present := true, fetching := false })) (.layerPrefetch l.val)
        .next (convertSpills s l.val)

/-- LAYER_STATE_TIMEOUT (R175): a complete layer whose state is still absent is abandoned with RETRY.
DESIGN CHOICE (log 3). -/
def execLayerStateTimeout (l : LayerNum) (s : State) : Res :=
  match tget s.layers l.val with
  | none => .next s
  | some x =>
    match x.completeAt with
    | none => .next s
    | some t =>
      if layerComplete x && !x.present && decide (t + (rd s LAYER_STATE_TIMEOUT).toNat ≤ s.now) && !x.posted then
        .next (abandon s l.val 0x60)
      else .next s

/-! ## LAYER_BIND (R95, R145 to R151) -/

/-- The sections break R146 or Table 5-2. DEDUCED (log 36). -/
def sectionsBad (d : List Byte) : Bool :=
  let xs := sections d
  ldSections d == 0 || decide (11 < ldSections d) ||
  (match xs with | x :: _ => x.off != 0 | [] => true) ||
  (List.range (ldSections d)).any (fun k => bit (fieldAt d (0x28 + 8 * k) 4) 31 ||
    (decide (k + 1 < ldSections d) && decide (secOff d (k + 1) ≤ secOff d k))) ||
  xs.any (fun x => x.len == 0 || x.off % 128 != 0 || x.cols % 128 != 0 || x.len % 128 != 0 ||
    decide (x.cols < 128) || decide (2 ^ 30 < x.cols) || x.len % max 1 x.cols != 0 ||
    decide (ldE d < x.off + x.len) || (x.matrix && decide (16384 < min (secRows x) x.cols))) ||
  (slice d (0x28 + 8 * ldSections d) (88 - 8 * ldSections d)).any (· != 0)

/-- The refusals of R147 with BAD_DESCRIPTOR; `gs` is the group table as the command leaves it. DEDUCED (log 36). -/
def layerBad (s : State) (c : Nat) (gs : Table Group) (d : List Byte) : Bool :=
  fieldAt d 0 2 != ctxJob s c ||
  (match tget gs (ldGroup d) with
   | some g => g.ctx != c || gKind g.desc != 1 || gLayer g.desc != ldLayer d
   | none => true) ||
  decide (ldE d < 128) || decide (2 ^ 30 < ldE d) || sectionsBad d ||
  bits (ldFlags d) 7 6 != 0 || fieldAt d 0x0F 1 != 0 || bits (fieldAt d 4 2) 15 10 != 0 ||
  bits (fieldAt d 6 2) 15 14 != 0 || decide (63 < ldProgram d) ||
  (match tget s.slots (ldProgram d) with | some p => p.ctx != c | none => true) ||
  !inSyncRange s c (ldSignal d) ||
  (if ldHostTier d then !inHostWin s c (ldHost d) (stateBytes d) true || !inHostWin s c (ldHost d) (stateBytes d) false
   else ldHost d != 0) ||
  (if ldMasked d then !within (ldMask d) (maskBytes d) (hbmWin s c) else ldMask d != 0) ||
  !within (ldState d) (if ldHostTier d then accEnd d else page (accEnd d) + stateBytes d) (hbmWin s c)

/-- Bytes of Lagoon scratch of R151. -/
def scratchBytes (d : List Byte) : Nat :=
  4 * statCount d + (((sections d).filter (fun x => x.matrix)).map (fun x =>
    6 * secRows x * x.cols + 10 * (min (secRows x) x.cols) ^ 2)).foldl (· + ·) 0

/-- Layer entries in all, and of one context. -/
def maxLayers : Nat := 4096
/-- A context owns at most 1,024 entries (R145). -/
def maxCtxLayers : Nat := 1024

/-- The lowest entry number that a table does not hold. DESIGN CHOICE (log 37). -/
def freeKey {α : Type} (t : Table α) : Nat → Nat → Option Nat
  | 0, _ => none
  | n + 1, k => if (tget t k).isNone then some k else freeKey t n (k + 1)

/-- The scratch of a layer is reserved on its lead Cay's slice (R151). -/
def takeScratch (s : State) (l : Nat) : State × Option Nat :=
  match tget s.layers l with
  | none => (s, none)
  | some x =>
    let r := reserve s x.ctx (.slice (leadCay s x.desc)) (scratchBytes x.desc) (.scratch l)
    (withLayer r.1 l (fun y => { y with scratch := (allocOf r.1 x.ctx (.scratch l)).map (fun a => (a.base, a.len)) }), r.2)

/-- The journal part, bitmaps and accumulators zeroed; COMMITTED, CUR 0, TIDE one below the context's (R149). -/
def resetJournal (s : State) (l : Nat) (x : Layer) : State :=
  let s := wipe s (ldState x.desc) 4096
  let s := clearScratchpad s l
  let s := wr s (LAYER_JNL_A l) (BitVec.ofNat 32 (2 ^ 31 + x.ctx * 65536 + ldLayer x.desc))
  moveJournal s l 0 ((ctxTide s x.ctx + 2 ^ 32 - 1) % 2 ^ 32)

/-- The entry a layer descriptor takes: the one of this layer, else the lowest free one. DESIGN CHOICE (log 37). -/
def layerEntry (s : State) (c : Nat) (d : List Byte) : Option Nat :=
  match layerOf s c (ldLayer d) with
  | some p => some p.1
  | none =>
    if (s.layers.filter (fun p => p.2.ctx == c)).length < maxCtxLayers then freeKey s.layers maxLayers 0 else none

/-- A layer descriptor is installed in its entry, whose write-back goes on; the answer is the code of a scratch that finds
no room. DESIGN CHOICE (log 37). -/
def installLayer (s : State) (c l : Nat) (d : List Byte) : State × Option Nat :=
  let s := if (tget s.layers l).isSome then dropCache (releaseAllocs s (fun a => a.use == AllocFor.scratch l)) l else s
  let x : Layer := { ctx := c, desc := d, present := !ldHostTier d }
  let x : Layer := match tget s.layers l with
    | some y => { x with backing := y.backing, backs := y.backs, backSent := y.backSent, cache := y.cache }
    | none => x
  let r := takeScratch { s with layers := tput s.layers l x } l
  match r.2 with
  | some e => (r.1, some e)
  | none => (resetJournal r.1 l x, none)

/-- A refused reservation is counted (R262). -/
def countShort (s : State) (c e : Nat) : State :=
  if e = 0x40 then bump s (MEM_CTX_REFUSE_COUNT_COUNT c) 1 else bump s MEM_SPACE_SHORT_COUNT_COUNT 1

/-- The error, deferral and residue memories of an entry's buckets end when it is replaced (R261). -/
def dropGroupMem (s : State) (g : Nat) : State :=
  let s := releaseAllocs s (fun a => match a.use with
    | .home k _ => k == g
    | .residue k _ => k == g
    | _ => false)
  { s with homes := s.homes.filter (fun h => h.group != g), residues := s.residues.filter (fun r => r.2.1 != g) }

/-- The Causeway commands of an entry end with ILLEGAL_STATE where its slot goes. DEDUCED (log 38). -/
def endSlot (s : State) (g : Nat) : State :=
  match tget s.causeway g with
  | some w => ((w.op.bind (fun o => o.cmd)).toList ++ w.queue).foldl (fun s r => endCmd s r.1 r.2 0x12) s
  | none => s

/-- A group descriptor is installed; one of KIND 0x02 takes a Causeway slot for the life of the entry (R138). -/
def installGroup (s : State) (c g : Nat) (d : List Byte) : Option State :=
  let s := dropGroupMem (endSlot s g) g
  let s := { s with causeway := tdel s.causeway g, groups := tput s.groups g ⟨c, d⟩ }
  if gKind d = 2 then
    let used := s.causeway.map (fun p => p.2.slot)
    ((List.range cwSlots).find? (fun k => !used.contains k)).map (fun k =>
      { s with causeway := tput s.causeway g { slot := k } })
  else some s

/-- What stops the install of a layer descriptor at an address, highest-ranking code first: the descriptor where
nothing does (R147, R150). -/
def readLayer (s : State) (c : Nat) (gs : Table Group) (la : Nat) : State × Except Nat (List Byte) :=
  if !inWindows s c la 128 false then (s, .error 0x13)
  else
    match memRead s (some c) la 128 with
    | (s, .error e) => (s, .error e)
    | (s, .ok x) =>
      let busy := match layerOf s c (ldLayer x) with | some p => layerBusy s p.1 p.2 | none => false
      if layerBad s c gs x then (s, .error 0x13)
      else if busy || stateProtected s (ldState x) (accEnd x) then (s, .error 0x12)
      else (s, .ok x)

/-- The entry's state forbids the install (R95): it holds another context's descriptor, or one with a bucket in the
bucket table, or the runs cannot be checked. DEDUCED (log 38). -/
def bindIllegal (s : State) (c g : Nat) : Bool :=
  !placed s || (match groupCtx s g with | some x => x != c | none => false) || groupBusy s g

/-- A checked LAYER_BIND installs its group descriptor and, on the owner, its layer descriptor `x`.
DEDUCED (log 38). -/
def bindInstall (s : State) (k i c g : Nat) (d : List Byte) (x : Option (List Byte)) : State :=
  match installGroup s c g d with
  | none => endCmd s k i 0x40
  | some t =>
    match x with
    | none => endCmdWith t k i 0 0xFFFF
    | some x =>
      match layerEntry t c x with
      | none => endCmd s k i 0x40
      | some l =>
        match installLayer t c l x with
        | (_, some e) => endCmd (countShort s c e) k i 0x40
        | (t, none) => endCmdWith t k i 0 l

/-- LAYER_BIND in its order: what the group descriptor breaks, what the entry's state forbids, then the layer; the
highest-ranking code that applies stops it (R297). -/
def layerBind (s : State) (k i c : Nat) (b : List Byte) : State :=
  let g := bits (fieldAt b 0x10 2) 9 0
  let ga := fieldAt b 0x18 8
  if !inWindows s c ga 128 false then endCmd s k i 0x13
  else
    match memRead s (some c) ga 128 with
    | (s, .error e) => endCmd s k i (if bindIllegal s c g then worse e 0x12 else e)
    | (s, .ok d) =>
      if groupBad s c d || (placed s && !runsFit s d) then endCmd s k i 0x13
      else if placed s && gKind d == 1 && isOwner s d then
        match readLayer s c (tput s.groups g ⟨c, d⟩) (fieldAt b 0x20 8) with
        | (s, .error e) => endCmd s k i (if bindIllegal s c g then worse e 0x12 else e)
        | (s, .ok x) => if bindIllegal s c g then endCmd s k i 0x12 else bindInstall s k i c g d (some x)
      else if bindIllegal s c g then endCmd s k i 0x12
      else bindInstall s k i c g d none

/-- LAYER_BIND (R95, R145 to R151). -/
def execLayerBind (c : Ctx) (q : QNum) (i : Word) (s : State) : Res :=
  runCmd s c q i 0x07 (fun s k b => layerBind s k i.toNat c.val b)

/-! ## UPDATE_PROGRAM_LOAD (R161) -/

/-- An image's first three words break R161, or a range they call for lies outside the windows. -/
def imageBad (s : State) (c ia : Nat) (h : List Byte) : Bool :=
  let len := fieldAt h 8 4
  decide (len < 3) || decide (4096 < len) || (List.range 2).any (fun k =>
    decide (fieldAt h (4 * k) 4 < 3) || decide (len ≤ fieldAt h (4 * k) 4)) ||
  (len != 3 && !inWindows s c (ia + 12) (4 * len - 12) false)

/-- UPDATE_PROGRAM_LOAD (R161): words 0 to 2, the rest of the image, the constant page, each in a window of its own; of the
codes that apply the highest-ranking one stops it (R297). -/
def programLoad (s : State) (k i c : Nat) (b : List Byte) : State :=
  let slot := fieldAt b 0x10 1
  let ia := fieldAt b 0x18 8
  let ca := fieldAt b 0x20 8
  let foreign := match tget s.slots slot with | some p => p.ctx != c | none => false
  let early := worst ((if foreign then [0x12] else []) ++ (if inWindows s c ca 4096 false then [] else [0x13]))
  if !inWindows s c ia 12 false then endCmd s k i 0x13
  else
    match memRead s (some c) ia 12 with
    | (s, .error e) => endCmd s k i (worst (e :: early :: (accessFault s (some c) ca 4096 false).toList))
    | (s, .ok h) =>
      if imageBad s c ia h then endCmd s k i 0x13
      else if early ≠ 0 then endCmd s k i early
      else
        let r := memRead s (some c) (ia + 12) (4 * fieldAt h 8 4 - 12)
        let p := memRead r.1 (some c) ca 4096
        match r.2, p.2 with
        | .ok rest, .ok page => endCmd { p.1 with slots := tput p.1.slots slot ⟨c, h ++ rest, page⟩ } k i 0
        | .ok _, .error e => endCmd p.1 k i e
        | .error e, .ok _ => endCmd p.1 k i e
        | .error e, .error f => endCmd p.1 k i (worse e f)

/-- UPDATE_PROGRAM_LOAD (R161). -/
def execUpdateProgramLoad (c : Ctx) (q : QNum) (i : Word) (s : State) : Res :=
  runCmd s c q i 0x08 (fun s k b => programLoad s k i.toNat c.val b)

end Sys2Proof.Machine
end

