-- ==== Sys2Proof/Machine/Reduce.lean ====
section
/-! DEFINITION. In-network reduction of an admitted bucket at one member: the streams it receives, the local partial
(R110), the folds of the chains (R111, R112), the stream it sends (R116, R117) with its correction term (R121) and TRAILER
(R122), the owner's staging and check (R124), late contributions (R130 to R135), and the bucket's end (R125, R129). -/

namespace Sys2Proof.Machine

/-! ## Entries of the bucket table -/

/-- The entry of a number. -/
def bucketAt (s : State) (b : Nat) : Option Bucket := tget s.buckets b
/-- The state with an entry changed. -/
def withBucket (s : State) (b : Nat) (f : Bucket → Bucket) : State := { s with buckets := tmod s.buckets b f }
/-- The entry of a job's bucket tag, or of its Causeway exchange. -/
def findBucket (s : State) (job : BitVec 16) (tag : Nat) (cw : Bool) : Option (Nat × Bucket) :=
  s.buckets.find? (fun p => p.2.job == job && p.2.tag == tag && p.2.cw == cw)
/-- The bucket's group descriptor. -/
def bDesc (s : State) (e : Bucket) : List Byte := groupDesc s e.group
/-- The bucket number: the low 13 bits of its tag (R33). -/
def bNumber (e : Bucket) : Nat := e.tag % 8192
/-- Groups of 16 elements of a bucket. -/
def bGroups (e : Bucket) : Nat := (e.n + 15) / 16
/-- The bucket is admitted and has not ended here. -/
def bLive (e : Bucket) : Bool := e.verdict == some .admitted && e.outcome.isNone && !e.cw
/-- The bucket's work can go on: its Cay is in service and its reservations are held there (R127). -/
def bReady (s : State) (e : Bucket) : Bool := cayUp s e.cay && e.reserved
/-- The bucket's context. -/
def bCtx (e : Bucket) : Nat := e.ctx.getD 0
/-- The error or deferral memory that a member of a group needs (Table 4-4). -/
def needsEm (s : State) (d : List Byte) : Bool := if isOwner s d then gDefer d else gS1 d || gDefer d
/-- A port's place and length in the bucket (R100). -/
def portRange (d : List Byte) (n a : Nat) : Nat × Nat :=
  if gCut d = 2 then
    let k := (gPorts d).findIdx (· == a)
    let m := max 1 (gPorts d).length
    (k * n / m, (k + 1) * n / m - k * n / m)
  else (0, n)
/-- The owner's layer of a bucket. -/
def bLayer (s : State) (e : Bucket) : Option (Nat × Layer) := layerOf s (bCtx e) (gLayer (bDesc s e))

/-! ## Grants (R105) -/

/-- KIND codes of Table 4-7. -/
inductive GrantKind where
  | admitted | refused | release | done | resend
  deriving DecidableEq, Repr

/-- The code of a kind. -/
def grantCode : GrantKind → Nat
  | .admitted => 1 | .refused => 2 | .release => 3 | .done => 4 | .resend => 5

/-- A GRANT cell (Table 4-6). -/
def grantCell (job : BitVec 16) (tag : Nat) (k : GrantKind) (status level digest : Nat) : Cell :=
  { type := BitVec.ofNat 4 tGRANT, vc := 0, job := job, tag := BitVec.ofNat 16 tag
    payload := natLe 1 (grantCode k) ++ natLe 1 status ++ natLe 1 level ++ zeros 5 ++ natLe 8 digest ++ zeros 48 }
/-- A GRANT to a neighbouring module. -/
def grantPort (s : State) (e : Bucket) (p : Nat) (k : GrantKind) (status : Nat) : State :=
  sendPort s p (grantCell e.job e.tag k status 0 0)
/-- A GRANT to an accelerator. -/
def grantAcc (s : State) (e : Bucket) (a : Nat) (k : GrantKind) (status : Nat) : State :=
  sendAcc s a (grantCell e.job e.tag k status 0 0)

/-! ## Combines with their correction entries (R121, Table 4-8) -/

/-- Sixteen zero values. -/
def zeroGroup : List Wide := List.replicate 16 (some dyZero)

/-- Values padded to a group of 16, elements at or past the end of the bucket as zero (R38). -/
def padGroup (n i : Nat) (xs : List Wide) : List Wide :=
  (List.range 16).map (fun k => if i + k < n then xs.getD k (some dyZero) else some dyZero)

/-- A combine: the lanes, the entry to K (what it dropped, and valid values that became invalid), the flags.
DEDUCED (log 47). -/
def combineK (acc : Lanes) (xs : List Wide) (i : Nat) : Lanes × Nat × Flags :=
  let c := combine 96 acc xs
  let gone := (List.zip (lanesValues acc) xs).map (fun p => match p.1, p.2 with
    | some a, none => a
    | none, some x => x
    | _, _ => dyZero)
  (c.lanes, ckAdd (ckSumDy i c.dropped) (ckSumDy i gone), c.flags)

/-- Combines in order into a cleared slot. -/
def foldGroups (xss : List (List Wide)) (i : Nat) : Lanes × Nat × Flags :=
  xss.foldl (fun a xs => let r := combineK a.1 xs i; (r.1, ckAdd a.2.1 r.2.1, orFlags a.2.2 r.2.2))
    (clearLanes 16 floorW96, 0, noFlags)

/-- The W32 form of values, its entry to K, its flags (R55, Table 2-8). -/
def w32K (xs : List Wide) (i : Nat) : W32 × Nat × Flags :=
  let r := toW32 xs
  (r.block, ckSumDy i r.lost, r.flags)

/-! ## Late values (R133) -/

/-- Deferred values of a bucket: into its error or deferral memory once the stream has left or the bucket is staged,
kept apart until then, into the HBM home once the bucket has ended here. DEDUCED (log 44). -/
def deferValues (s : State) (r : LateRec) (i : Nat) (xs : List Wide) : State :=
  match s.buckets.find? (fun p => p.2.job == r.job && p.2.tag == r.tag && p.2.ctx == some r.ctx && p.2.outcome.isNone && !p.2.cw) with
  | some (b, e) =>
    if e.stage = .sent then
      let u := deferInto e.em i xs
      cayFlags (withBucket s b (fun e => { e with em := u.1 })) e.cay u.2
    else withBucket s b (fun e => { e with deferred := e.deferred ++ [(i, xs)] })
  | none =>
    match homeOf s r.ctx r.group (r.tag % 8192) with
    | some h =>
      if h.held then withHome s r.ctx r.group (r.tag % 8192) (fun h => { h with late := h.late ++ [(i, xs)] })
      else
        let u := deferInto h.vals i xs
        cayFlags (withHome s r.ctx r.group (r.tag % 8192) (fun h => { h with vals := u.1 })) r.cay u.2
    | none => s

/-- The deferred values of the step enter the memory after the stream has used its old values. DEDUCED (log 44). -/
def flushDeferred (s : State) (b : Nat) : State :=
  match bucketAt s b with
  | none => s
  | some e =>
    let u := e.deferred.foldl (fun a p => let r := deferInto a.1 p.1 p.2; (r.1, orFlags a.2 r.2)) (e.em, noFlags)
    cayFlags (withBucket s b (fun e => { e with em := u.1, deferred := [] })) e.cay u.2

/-! ## The end of a bucket at this module -/

/-- Unused pool cells of a bucket's reservation return to the quota, on the die of its egress. -/
def returnPool (s : State) (b : Nat) : State :=
  match bucketAt s b with
  | some e =>
    match groupDown s (bDesc s e) with
    | some p => withBucket (poolReturn s (bCtx e) (portDie p) e.poolLeft) b (fun e => { e with poolLeft := 0 })
    | none => s
  | none => s

/-- The bucket of a context whose reservation on a die still has a cell: the first in the table. DEDUCED (log 106). -/
def reservingBucket (s : State) (d c : Nat) : Option Nat :=
  (s.buckets.find? (fun p => p.2.ctx == some c && decide (0 < p.2.poolLeft) &&
    (match groupDown s (groupDesc s p.2.group) with | some e => portDie e == d | none => false))).map (fun p => p.1)

/-- What an allocation draws on: the reservation of a bucket of the context, which then has one cell less, or the set-aside
use; none where neither has a cell left. DEDUCED (log 106). -/
def drawOn (s : State) (d : Nat) (u : OwnerId) (charge : Option Nat) : Option State :=
  match charge with
  | some c =>
    (reservingBucket s d c).map (fun b =>
      { s with buckets := s.buckets.map (fun p => if p.1 = b then (p.1, { p.2 with poolLeft := p.2.poolLeft - 1 }) else p) })
  | none => if useLeft s d u then some s else none

/-- POOL_ALLOCATE (R249): against a reservation of a context or from a set-aside use, which has counted the cell; there is
no allocation beyond it. -/
def execPoolAllocate (d : Die) (u : OwnerId) (charge : Option Ctx) (s : State) : Res :=
  match (drawOn s d.val u (charge.map (fun c => c.val))).bind (fun s => poolAlloc s d.val u (charge.map (fun c => c.val))) with
  | some p => .next p.2
  | none => .next s

/-- The reservations of a bucket that end with it (R101): not its staging, and not a spill in use. -/
def releaseBucket (s : State) (b : Nat) : State :=
  match bucketAt s b with
  | none => s
  | some e =>
    let spilled := match bLayer s e with
      | some (_, x) => x.staged.any (fun y => y.tag == e.tag && y.spill.isSome)
      | none => false
    let l := (bLayer s e).map (fun p => p.1)
    let s := nextMoves s (.emPrefetch b)
    let s := releaseAllocs s (fun a => match a.use with
      | .bucket k => k == b
      | .spill k t => some k == l && t == e.tag && !spilled
      | _ => false)
    withBucket (returnPool s b) b (fun e => { e with reserved := false })

/-- The address of a bucket number's home. -/
def homeAddr (s : State) (c g num : Nat) : Nat := match allocOf s c (.home g num) with | some a => a.base | none => hbmBase

/-- The error or deferral memory is written back to its home (R118). -/
def writeBack (s : State) (b : Nat) : State :=
  match bucketAt s b with
  | some e =>
    if needsEm s (bDesc s e) && e.emReady && (homeOf s (bCtx e) e.group (bNumber e)).isSome then
      sendBacks (addMove (withHome s (bCtx e) e.group (bNumber e) (fun h => { h with vals := e.em, busy := true }))
        (.emWriteback (bCtx e) e.group (bNumber e)) (hbmDie (homeAddr s (bCtx e) e.group (bNumber e))))
    else s
  | none => s

/-- Retained copies are freed by their retention record (R253). -/
def freeKept (s : State) (b : Nat) : State :=
  match bucketAt s b with
  | some e =>
    match e.kept with
    | [] => s
    | k :: _ => withBucket (poolFreeChain (e.kept.length + 1) s k.pool (BitVec.ofNat 16 (0x8000 + b))) b
        (fun e => { e with kept := [] })
  | none => s

/-- Streams a bucket takes in: ports and arms included. -/
def incStreams (e : Bucket) : List BStream :=
  ((e.ports ++ e.arms).map (fun p => p.2)).filter (fun x => x.included == some true)
/-- The sum of a stream's field over the included inputs. -/
def incSum (e : Bucket) (f : BStream → Nat) : Nat := ((incStreams e).map f).foldl (· + ·) 0
/-- K of the stream the member forms (R121). -/
def bucketK (e : Bucket) : Nat :=
  ckAdd (ckAdd e.kFold e.kSend) (ckAdd (incSum e (fun x => x.corr % ckP)) (incSum e (fun x => x.kin)))
/-- SUM of the stream (R123). -/
def bucketSum (e : Bucket) : Nat := incSum e (fun x => x.sum % ckP) % ckP
/-- EXCLUDED: the contributions excluded here and in every input (R122, R134). -/
def bucketExcl (e : Bucket) : Nat := e.excluded + incSum e (fun x => x.excl)
/-- A checksum failed at or upstream of this member. -/
def bucketBad (e : Bucket) : Bool := (incStreams e).any (fun x => x.bad)

/-- REDUCE's chunk posts up to the elements now in their final state (R294). -/
def chunkPosts : Nat → State → Nat → State
  | 0, s, _ => s
  | f + 1, s, b =>
    match bucketAt s b with
    | none => s
    | some e =>
      match e.reduceCmd.bind (fun r => cmdAt s r.1 r.2) with
      | none => s
      | some m =>
        match sigRef (fieldAt m.bytes 0x14 2) with
        | none => s
        | some o =>
          let c := fieldAt m.bytes 0x18 4
          let upto := (e.posts + 1) * c
          if c = 0 then s
          else if upto < e.n ∧ upto ≤ e.doneElems then
            chunkPosts f (post (withBucket s b (fun e => { e with posts := e.posts + 1 })) o .add 1 0) b
          else if e.n ≤ upto ∧ e.n ≤ e.doneElems ∧ e.posts < e.n then
            post (withBucket s b (fun e => { e with posts := e.n })) o .add 1 0
          else s

/-- Elements in the member's final state grow, and chunks are posted. -/
def elemsDone (s : State) (b n : Nat) : State :=
  chunkPosts (n + 2) (withBucket s b (fun e => { e with doneElems := max e.doneElems (min n e.n) })) b

/-- REDUCE of an ended bucket takes its completion code (R136) and DETAIL (Table 10-6). DEDUCED (log 50). -/
def endReduce (s : State) (b : Nat) : State :=
  match bucketAt s b with
  | some e =>
    match e.reduceCmd, e.outcome with
    | some r, some st =>
      endCmdWith s r.1 r.2 (worst (st :: (if bucketBad e then [0x20] else []) ++ e.codes))
        (incSum e (fun x => x.incl) % 65536 + e.excluded % 65536 * 65536)
    | _, _ => s
  | none => s

/-- An abandoned layer waits for its last admitted bucket (R155). -/
def settleLayer (s : State) (c layer : Nat) : State :=
  match layerOf s c layer with
  | some (l, x) =>
    match x.halted with
    | some st => if layerInFlight s c layer then s else abandon s l st
    | none => s
  | none => s

/-- A bucket ends at this module with a code: copies freed, memories written back, reservations released, and at the
owner, for any code but OK, its staging discarded and its layer stopped for the Tide. -/
def endBucket (s : State) (b st : Nat) : State :=
  match bucketAt s b with
  | none => s
  | some e =>
    let s := flushDeferred s b
    let s := writeBack s b
    let s := freeKept s b
    let s := withBucket s b (fun e => { e with outcome := some st, stage := .sent })
    let s := releaseBucket s b
    let s := match bLayer s e with
      | some (l, x) =>
        if isOwner s (bDesc s e) then
          if st = 0 then (if x.halted.isSome then releaseStaging s l [e.tag] else s)
          else haltLayer (releaseStaging s l [e.tag]) l st
        else s
      | none => s
    settleLayer (endReduce s b) (bCtx e) (gLayer (bDesc s e))

/-- A member of the group is fenced (R129). -/
def fenceBucket (s : State) (b : Nat) : State :=
  match bucketAt s b with
  | some e => if bLive e then endBucket s b 0x30 else s
  | none => s

/-! ## Exclusion (R130 to R135) -/

/-- The step-record event and counts of a contribution excluded as late. -/
def recordLate (s : State) (c : Nat) (d : List Byte) (arm : Bool) (port tag group : Nat) : State :=
  let df := gDefer d
  let s := bump s (if df then FAB_RED_LATE_COUNT_DEFERRED else FAB_RED_LATE_COUNT_DROPPED) 1
  let s := withStep s c (fun r => if df then { r with deferred := r.deferred + 1 } else { r with dropped := r.dropped + 1 })
  addEvent s c (if df then 2 else 1) (if arm then 0x10 else port) tag (if arm then peerCoord s port else 0xFFFF)
    group (gLayer d)

/-- DONE for an excluded stream at its TRAILER (R132, R133). DEDUCED (log 45). -/
def lateDone (s : State) (r : LateRec) : State :=
  let x := grantCell r.job r.tag .done 0 0 0
  if r.arm then sendPort s r.port x else sendAcc s r.port x

/-- A contribution is excluded: recorded, its values so far deferred or dropped; cells still to come are late, and, where
its Tide has closed, stray (R135). -/
def exclude (s : State) (b : Nat) (arm : Bool) (port : Nat) : State :=
  match bucketAt s b with
  | none => s
  | some e =>
    let d := bDesc s e
    let x := (tget (if arm then e.arms else e.ports) port).getD {}
    let s := recordLate s (bCtx e) d arm port e.tag e.group
    let rng := if arm then (0, e.n) else portRange d e.n port
    let r : LateRec := ⟨e.job, e.tag, bCtx e, e.group, arm, port, e.cay, rng.2, rng.1, x.got,
      decide (e.tag / 8192 ≠ ctxTide s (bCtx e) % 8), !gDefer d⟩
    let upd := fun (t : Table BStream) => tput t port { x with included := some false, groups := [] }
    let s := withBucket s b (fun e => { e with
      arms := if arm then upd e.arms else e.arms
      ports := if arm then e.ports else upd e.ports
      excluded := e.excluded + 1
      codes := e.codes ++ [if gDefer d then 0x01 else 0x02] })
    let s := if gDefer d && !r.closed then
        (x.groups.zipIdx).foldl (fun s g => deferValues s r (rng.1 + 16 * g.2) g.1) s else s
    if x.ended then lateDone s r else { s with lates := s.lates ++ [r] }

/-- A port's deadline (R130) has passed. -/
def portLate (s : State) (e : Bucket) : Bool := decide (e.t0 + gDeadline (bDesc s e) < s.now)
/-- An arm's deadline (R131) has passed. -/
def armLate (s : State) (e : Bucket) (p : Nat) : Bool :=
  let d := bDesc s e
  decide (e.t0 + gDeadline d + armHops s d p * gHopAllow d < s.now)

/-! ## Sending (R116, R117, R122, R253) -/

/-- A DATA or TRAILER cell is allocated from the reservation, shared to the egress, retained, and sent. -/
def sendKept (s : State) (b p : Nat) (x : Cell) : State :=
  match bucketAt s b with
  | none => s
  | some e =>
    let x := { x with dest := BitVec.ofNat 15 (peerCoord s p), src := BitVec.ofNat 15 (ownCoord s) }
    let wrap := if portPlus p then axisPos (ownCoord s) (portAxis p) + 1 == axisLen s (portAxis p)
      else axisPos (ownCoord s) (portAxis p) == 0
    let rec_ := BitVec.ofNat 16 (0x8000 + b)
    let own := BitVec.ofNat 16 (0xC000 + e.cay)
    let charge := if 0 < e.poolLeft then some (bCtx e) else none
    match poolAlloc s (portDie p) own charge with
    | none => injectAt s (jobSrc s e.job.toNat) p wrap none x
    | some (a, s) =>
      let s := poolShare s a own 1 rec_
      let s := match e.kept.getLast? with
        | some k => poolLink s k.pool a
        | none => s
      let s := withBucket s b (fun e => { e with kept := e.kept ++ [⟨a, p, x⟩], poolLeft := e.poolLeft - 1 })
      injectAt s (jobSrc s e.job.toNat) p wrap (some a) x

/-- A cell of the member's stream: the header, and the form's scale and payload. -/
def dataCell (e : Bucket) (s1 : Bool) (vc j : Nat) (scale : BitVec 16) (payload : List Byte) : Cell :=
  { type := BitVec.ofNat 4 (if s1 then tDATA_S1 else tDATA_W32), vc := BitVec.ofNat 3 vc, job := e.job
    tag := BitVec.ofNat 16 e.tag, seq := BitVec.ofNat 16 j, scale := scale, payload := payload }

/-- Values of a list of W32 blocks. -/
def blockValues (bs : List W32) : List Wide := bs.flatMap w32Values

/-- The old memory counts only where the value sent is valid (R120, R121). DEDUCED (log 47). -/
def oldAt (xs : List Wide) (es : List (BitVec 32)) : List Dy :=
  List.zipWith (fun x e => match x with | some _ => fp32Dy e | none => dyZero) xs es

/-- A list with the members from an index on replaced. -/
def spliceAt (l : List (BitVec 32)) (i : Nat) (xs : List (BitVec 32)) : List (BitVec 32) :=
  l.take i ++ xs ++ l.drop (i + xs.length)

/-- Cell `j` of an S1 stream (R116): the partial and the error memory of its 512 elements. DEDUCED (log 47). -/
def sendS1Cell (s : State) (b p vc j : Nat) (e : Bucket) : State :=
  let i := 512 * j
  let m := min 512 (e.n - i)
  let xs := (blockValues ((e.outs.drop (32 * j)).take 32)).take m
  let es := (e.em.drop i).take m
  let r := sendS1 xs es
  let k := ckSub (ckSumDy i r.lost) (ckSumDy i (oldAt xs es))
  let s := cayFlags s e.cay r.flags
  let s := withBucket s b (fun e => { e with em := spliceAt e.em i r.err, kSend := ckAdd e.kSend k })
  sendKept s b p (dataCell e true vc j r.scale (packBits r.bits))

/-- Cell `j` of a W32 stream (R116): under DEFER with the error memory added; an invalid element leaves the memory at
zero. DESIGN CHOICE (log 129). -/
def sendW32Cell (s : State) (b p vc j : Nat) (e : Bucket) (df : Bool) : State :=
  let i := 16 * j
  let w := e.outs.getD j w32Zero
  let pay := fun (w : W32) => w.q.flatMap (fun c => natLe 4 c.toNat)
  if !df then sendKept s b p (dataCell e false vc j w.e (pay w))
  else
    let xs := padGroup e.n i (w32Values w)
    let es := ((e.em.drop i).take 16) ++ List.replicate (16 - (e.em.length - i)) 0
    let vs := List.zipWith (fun x o => match x with
      | some d => some (dyAdd d (fp32Dy o))
      | none => none) xs es
    let r := toW32 vs
    let er := r.lost.map fp32Sat
    let k := ckSub (ckSumDy i r.lost) (ckSumDy i (oldAt xs es))
    let fl := er.foldl (fun f q => orFlags f q.2) r.flags
    let s := cayFlags s e.cay fl
    let s := withBucket s b (fun e => { e with
      em := spliceAt e.em i ((er.map (fun q => q.1)).take (e.n - i)), kSend := ckAdd e.kSend k })
    sendKept s b p (dataCell e false vc j r.block.e (pay r.block))

/-- DATA cells of a member's stream. -/
def cellCount (d : List Byte) (n : Nat) : Nat := if gS1 d then (n + 511) / 512 else (n + 15) / 16

/-- Cells whose elements are formed are sent in order while RELEASE is held; a cell that a retained copy of an earlier
attempt holds is skipped (R127). -/
def sendCells : Nat → State → Nat → Nat → Nat → State
  | 0, s, _, _, _ => s
  | f + 1, s, b, p, vc =>
    match bucketAt s b with
    | none => s
    | some e =>
      let d := bDesc s e
      let per := if gS1 d then 32 else 1
      let j := e.sentCells
      if e.go && decide (j < cellCount d e.n) && decide (min (bGroups e) (per * (j + 1)) ≤ e.outs.length) then
        let s := if j < e.skip then s
          else if gS1 d then sendS1Cell s b p vc j e else sendW32Cell s b p vc j e (gDefer d)
        let s := withBucket s b (fun e => { e with sentCells := j + 1 })
        sendCells f (elemsDone s b (16 * per * (j + 1))) b p vc
      else s

/-- The TRAILER of the member's stream (Table 4-9). -/
def trailerOf (d : List Byte) (e : Bucket) (vc : Nat) : Cell :=
  let cells := cellCount d e.n
  { type := BitVec.ofNat 4 tTRAILER, vc := BitVec.ofNat 3 vc, last := true, job := e.job, tag := BitVec.ofNat 16 e.tag
    seq := BitVec.ofNat 16 cells
    payload := natLe 8 (bucketSum e) ++ natLe 8 (bucketK e) ++ natLe 4 cells ++
      natLe 2 (incSum e (fun x => x.incl)) ++ natLe 2 (bucketExcl e) ++
      natLe 1 (if bucketBad e then 0x20 else 0) ++ zeros 39 }

/-! ## Folding -/

/-- The streams of a chain's arms at this member, lower first. -/
def chainArms (s : State) (d : List Byte) (e : Bucket) (k : Nat) : List (Nat × BStream) :=
  (chainUps s d k (mySide s d k)).map (fun p => (p, (tget e.arms p).getD {}))
/-- Every arm of a chain is included or excluded. -/
def armsDecided (xs : List (Nat × BStream)) : Bool := xs.all (fun x => x.2.included.isSome)
/-- The included arms. -/
def armsIn (xs : List (Nat × BStream)) : List BStream :=
  (xs.map (fun x => x.2)).filter (fun x => x.included == some true)

/-- RELEASE to each upstream neighbour of a chain, or the RESEND that is owed (R113, R127). -/
def releaseChain (s : State) (b k : Nat) : State :=
  match bucketAt s b with
  | none => s
  | some e =>
    let d := bDesc s e
    (chainUps s d k (mySide s d k)).foldl (fun s p =>
      match bucketAt s b with
      | none => s
      | some e =>
        let x := (tget e.arms p).getD {}
        let s := withBucket s b (fun e => { e with arms := tput e.arms p { x with released := true, resend := false } })
        if x.resend then grantPort s e p .resend 0
        else if x.released then s else grantPort s e p .release 0) s

/-- The local partial (R110), per group: a fold of the included ports, or the placement of the port whose range it is. -/
def partialGroup (d : List Byte) (e : Bucket) (g : Nat) : W32 × Nat × Flags :=
  let i := 16 * g
  let ins := e.ports.filter (fun p => p.2.included == some true)
  if gCut d = 1 ∨ gCut d = 3 then
    let r := foldGroups (ins.map (fun p => padGroup e.n i (p.2.groups.getD g zeroGroup))) i
    let w := w32K (lanesValues r.1) i
    (w.1, ckAdd r.2.1 w.2.1, orFlags r.2.2 w.2.2)
  else
    let here := ins.find? (fun p => let rg := portRange d e.n p.1; decide (rg.1 ≤ i) && decide (i < rg.1 + rg.2))
    match here with
    | some p => w32K (padGroup e.n i (p.2.groups.getD ((i - (portRange d e.n p.1).1) / 16) zeroGroup)) i
    | none => (w32Zero, 0, noFlags)

/-- Every port of PORTS is excluded, or included with its whole stream held. -/
def portsDecided (d : List Byte) (e : Bucket) : Bool :=
  (gPorts d).all (fun a =>
    let x := (tget e.ports a).getD {}
    x.included == some false || (x.included == some true && x.ended))

/-- A Cay finishes a fold step (Table 13-6). -/
def folded (s : State) (cay : Nat) : State := { s with folds := tput s.folds cay s.now }

/-- The local partial is written, and the sequence chain released. -/
def formPartial (s : State) (b : Nat) : State :=
  match bucketAt s b with
  | none => s
  | some e =>
    let d := bDesc s e
    let rs := (List.range (bGroups e)).map (partialGroup d e)
    let s := withBucket (folded s e.cay) b (fun e => { e with
      partials := rs.map (fun r => r.1), stage := .seq, outs := [], wides := []
      kFold := rs.foldl (fun k r => ckAdd k r.2.1) e.kFold })
    releaseChain (cayFlags s e.cay (rs.foldl (fun f r => orFlags f r.2.2) noFlags)) b 1

/-- What one group's fold answers. -/
structure GroupOut where
  block : W32
  wide : Lanes
  k : Nat
  flags : Flags

/-- The fold of one group in the order of R111 and R112: the arms, the own partial and, at the owner, the deferral
memory. A member without an included arm keeps its partial. DEDUCED (log 48). -/
def foldGroup (owner root df : Bool) (arms : List BStream) (e : Bucket) (g : Nat) : GroupOut :=
  let i := 16 * g
  let own := e.partials.getD g w32Zero
  let ins := arms.map (fun a => padGroup e.n i (a.groups.getD g zeroGroup))
  if !root && arms.isEmpty then ⟨own, clearLanes 16 floorW96, 0, noFlags⟩
  else
    let em := (e.em.drop i).take 16
    let mem := if owner && df then [padGroup e.n i (em.map (fun c => some (fp32Dy c)))] else []
    let r := foldGroups (ins ++ [padGroup e.n i (w32Values own)] ++ mem) i
    let kMem := if owner && df then ckSumDy i (em.map fp32Dy) else 0
    if owner then ⟨own, r.1, ckSub r.2.1 kMem, r.2.2⟩
    else
      let w := w32K (lanesValues r.1) i
      ⟨w.1, r.1, ckAdd r.2.1 w.2.1, orFlags r.2.2 w.2.2⟩

/-- Groups that the arms allow are folded in order. -/
def foldReady : Nat → State → Nat → Nat → State
  | 0, s, _, _ => s
  | f + 1, s, b, k =>
    match bucketAt s b with
    | none => s
    | some e =>
      let d := bDesc s e
      let root := isRoot (mySide s d k)
      let owner := root && k == 0
      let xs := chainArms s d e k
      let ins := armsIn xs
      let g := if owner then e.wides.length else e.outs.length
      if armsDecided xs && decide (g < bGroups e) && ins.all (fun a => decide (g < a.groups.length) || a.ended) then
        let r := foldGroup owner root (gDefer d) ins e g
        let s := withBucket (folded s e.cay) b (fun e => { e with
          outs := if owner then e.outs else e.outs ++ [r.block]
          wides := if owner then e.wides ++ [r.wide] else e.wides
          kFold := ckAdd e.kFold r.k })
        foldReady f (cayFlags s e.cay r.flags) b k
      else s

/-- The included arms of a chain have ended and every group is folded. -/
def chainDone (s : State) (e : Bucket) (k : Nat) : Bool :=
  let d := bDesc s e
  let xs := chainArms s d e k
  let g := if isRoot (mySide s d k) && k == 0 then e.wides.length else e.outs.length
  armsDecided xs && (armsIn xs).all (fun a => a.ended) && g == bGroups e

/-! ## The owner's staging and check (R112, R124) -/

/-- A failed check is counted (R123). -/
def checkFailed (s : State) (bad : Bool) : State := if bad then bump s FAB_RED_CHECK_COUNT_FAILED 1 else s

/-- The FP32 form of a lane for staging, and what it drops for K. -/
def stageLane (ieee : Bool) (x : Wide) : (Nat × Flags) × Dy :=
  let r := wideToFloat .fp32 ieee x
  let dropped := match x with
    | some v => (match floatDy .fp32 r.1 with | some y => dySub v y | none => v)
    | none => dyZero
  (r, dropped)

/-- The 208 bytes of a W96 group (Table 2-7). -/
def wideBytes (l : Lanes) : List Byte :=
  l.q.flatMap (fun q => natLe 12 (match q with | some v => ofSigned 96 v | none => 2 ^ 95)) ++
    natLe 2 (ofSigned 16 l.e) ++ zeros 14

/-- DONE goes on to the upstream neighbours and on each access port in PORTS (R125). An excluded stream gets DONE at its
TRAILER beside it (R132, R133). DEDUCED (log 45). -/
def sendDone (s : State) (b st : Nat) : State :=
  match bucketAt s b with
  | none => s
  | some e =>
    let d := bDesc s e
    let s := (groupUps s d).foldl (fun s p => grantPort s e p .done st) s
    (gPorts d).foldl (fun s a => grantAcc s e a .done st) s

/-- The staging address of a bucket at the owner. -/
def stageAddr (s : State) (e : Bucket) (l : Nat) : Nat :=
  match allocOf s (bCtx e) (.staging l e.tag) with | some a => a.base | none => 0
/-- The spill address. -/
def spillAddr (s : State) (e : Bucket) (l : Nat) : Nat :=
  match allocOf s (bCtx e) (.spill l e.tag) with | some a => a.base | none => 0

/-- A bucket joins its layer's staged ones; the layer may now be complete (R154). -/
def addStaged (s : State) (e : Bucket) (l : Nat) (spill : Option Nat) : State :=
  withLayer s l (fun x =>
    let x := { x with staged := x.staged ++ [⟨e.tag, e.first, e.n, e.cay, stageAddr s e l, spill⟩] }
    if layerComplete x then { x with completeAt := some s.now } else x)

/-- A bucket whose values go to the spill leaves its deferral memory as it is until the conversion (R174): its home holds
the late values of the step apart. -/
def holdHome (s : State) (b : Nat) : State :=
  match bucketAt s b with
  | some e =>
    withBucket (withHome s (bCtx e) e.group (bNumber e) (fun h => { h with held := true, late := e.deferred })) b
      (fun e => { e with deferred := [] })
  | none => s

/-- A bucket that is written into staging zeroes its deferral memory (R153); where the layer has stopped for the Tide, or
stops with this bucket, those values are lost (R155). -/
def zeroDeferral (s : State) (b l : Nat) (lost : Bool) : State :=
  match bucketAt s b with
  | some e =>
    let s := withBucket s b (fun e => { e with em := e.em.map (fun _ => 0) })
    if lost && gDefer (bDesc s e) then withLayer s l (fun y => { y with deferLost := true }) else s
  | none => s

/-- The reduced bucket is posted as done, DONE goes on, and the bucket ends. -/
def finishStage (s : State) (b n : Nat) (bad : Bool) : State :=
  let st := if bad then 0x20 else 0
  endBucket (sendDone (elemsDone s b n) b st) b st

/-- The owner writes the reduced bucket: to staging, or to spill while the layer's state is absent; then its check. Where
the layer's accumulators cannot be read it stops (R268). DESIGN CHOICE (log 42). -/
def stageBucket (s : State) (b : Nat) : State :=
  match bucketAt s b with
  | none => s
  | some e =>
    let ieee := ctxIeee s (bCtx e)
    let vals := (e.wides.flatMap lanesValues).take e.n
    let s := withBucket s b (fun e => { e with exclAll := bucketExcl e })
    let inv := vals.any (fun v => v.isNone)
    let s := if inv then withBucket s b (fun e => { e with codes := e.codes ++ [0x50] }) else s
    match bLayer s e with
    | none => endBucket s b 0x20
    | some (l, x) =>
      let total := bucketSum e
      if x.present && (accFault s x).isSome then endBucket (sendDone s b 0) b 0x22
      else if x.present then
        let rs := vals.map (stageLane ieee)
        let k := ckAdd (bucketK e) (ckSumDy 0 (rs.map (fun r => r.2)))
        let got := ckSum 0 (rs.map (fun r => floatDy .fp32 r.1.1))
        let fails := ckAdd got k != total
        let bad := fails || bucketBad e
        let s := zeroDeferral s b l (bad || x.halted.isSome)
        let s := cayFlags s e.cay (rs.foldl (fun f r => orFlags f r.1.2) noFlags)
        let s := stageValues s l e.cay (stageAddr s e l) e.tag e.first (rs.map (fun r => r.1.1))
        let s := if rs.any (fun r => (squareOf r.1.1).2.nv) then
            withBucket s b (fun e => { e with codes := e.codes ++ [0x50] }) else s
        let s := checkFailed s fails
        let s := if bad || x.halted.isSome then s else addStaged s e l none
        finishStage s b e.n bad
      else
        let fails := ckAdd (ckSum 0 vals) (bucketK e) != total
        let a := spillAddr s e l
        let s := poke s a (e.wides.flatMap wideBytes)
        let s := checkFailed s fails
        let bad := fails || bucketBad e
        let s := putJournal (setF s (LAYER_JNL_A_LATE l) 1) l
        let s := if bad || x.halted.isSome then s else addStaged (holdHome s b) e l (some a)
        finishStage s b e.n bad

/-! ## Progress of a bucket -/

/-- A member's stream on a chain: fold, send, end with the TRAILER. -/
def runMember (s : State) (b k p : Nat) : State :=
  match bucketAt s b with
  | none => s
  | some e =>
    let vc := if k = 1 then 3 else 1
    let s := foldReady (bGroups e + 1) s b k
    let s := sendCells (bGroups e + 1) s b p vc
    match bucketAt s b with
    | none => s
    | some e =>
      let d := bDesc s e
      if e.sentCells == cellCount d e.n && chainDone s e k && e.go then
        let s := if e.trailerSent then s else sendKept s b p (trailerOf d e vc)
        flushDeferred (withBucket s b (fun e => { e with trailerSent := true, stage := .sent })) b
      else s

/-- The bucket's work goes on as far as what it holds allows. -/
def progress : Nat → State → Nat → State
  | 0, s, _ => s
  | f + 1, s, b =>
    match bucketAt s b with
    | none => s
    | some e =>
      let d := bDesc s e
      if !bLive e then s
      else match e.stage with
        | .ports => if portsDecided d e then progress f (formPartial s b) b else s
        | .seq =>
          match chainDown d 1 (mySide s d 1) with
          | some p => runMember s b 1 p
          | none =>
            let s := foldReady (bGroups e + 1) s b 1
            match bucketAt s b with
            | none => s
            | some e =>
              if chainDone s e 1 then
                let s := withBucket s b (fun e => { e with partials := e.outs, outs := [], wides := [], stage := .data })
                progress f (releaseChain s b 0) b
              else s
        | .data =>
          match chainDown d 0 (mySide s d 0) with
          | some p => runMember s b 0 p
          | none =>
            let s := foldReady (bGroups e + 1) s b 0
            match bucketAt s b with
            | none => s
            | some e => if chainDone s e 0 then stageBucket s b else s
        | .sent => s

/-- Progress through every stage, while the bucket's Cay is in service and holds its reservations. -/
def advance (s : State) (b : Nat) : State :=
  match bucketAt s b with
  | some e => if bReady s e then progress 4 s b else s
  | none => s

/-! ## Received cells -/

/-- A cell discarded under R108. -/
def stray (s : State) : State := bump s FAB_RED_STRAY_COUNT_COUNT 1

/-- Values in groups of 16. -/
def inGroups : Nat → List Wide → List (List Wide)
  | 0, _ => []
  | n + 1, xs => if xs.isEmpty then [] else xs.take 16 :: inGroups n (xs.drop 16)

/-- What an accelerator's cell brings: the values, the checksum of what was sent, the ingress entries to K, and the NV
events by element with their causes. -/
structure Ingress where
  vals : List Wide
  check : Nat
  kin : Nat
  flags : Flags
  nv : List (Nat × Nat)
  residues : Option (List (BitVec 32))

/-- A G8 cell (R49, R50): `m` real elements from index `i` on. -/
def ingressG8 (x : Cell) (i m : Nat) : Ingress :=
  let p := payloadOf x
  let sc := fun (k : Nat) => BitVec.ofNat 8 (x.scale.toNat / 256 ^ k)
  let vals := (g8Values (p.take 32) (sc 0) ++ g8Values (p.drop 32) (sc 1)).take m
  let nv := (vals.zipIdx).filterMap (fun v => if v.1.isNone then some (i + v.2, 7) else none)
  ⟨vals, ckSum i vals, 0, noFlags, nv, none⟩

/-- A BF16 cell quantised on arrival with its stored residues (R51, R52, R110). -/
def ingressBf16 (x : Cell) (i m : Nat) (res : List (BitVec 32)) : Ingress :=
  let cs := ((List.range 32).map (fun k => BitVec.ofNat 16 (fieldAt (payloadOf x) (2 * k) 2))).take m
  let rs := (res ++ List.replicate m 0).take m
  let q := quantiseG8 cs rs
  let ins := List.zipWith ingressValue cs rs
  let raw := cs.map (fun c => floatDy .bf16 c.toNat)
  let old := List.zipWith (fun (v : Wide × Flags) r => match v.1 with | some _ => fp32Dy r | none => dyZero) ins rs
  let nv := (ins.zipIdx).filterMap (fun v => if v.1.2.nv then some (i + v.2, v.1.2.cause) else none)
  ⟨g8Values q.codes q.scale, ckSum i raw, ckSub (ckSumDy i q.lost) (ckSumDy i old), { q.flags with nv := false }, nv,
   some q.residues⟩

/-- Stored ingress residues of a port's contribution to a bucket number (R52). -/
def residueOf (s : State) (c g num a : Nat) : List (BitVec 32) :=
  match s.residues.find? (fun r => r.1 == c && r.2.1 == g && r.2.2.1 == num && r.2.2.2.1 == a) with
  | some r => r.2.2.2.2
  | none => []
/-- The state with a port's residues from an index on replaced. -/
def putResidues (s : State) (c g num a i : Nat) (rs : List (BitVec 32)) : State :=
  let old := residueOf s c g num a
  let new := spliceAt (old ++ List.replicate (i + rs.length - old.length) 0) i rs
  { s with residues := s.residues.filter (fun r => !(r.1 == c && r.2.1 == g && r.2.2.1 == num && r.2.2.2.1 == a)) ++
      [(c, g, num, a, new)] }

/-- A port's cell enters the module: quantised or read, its flags, NV events and residues recorded.
DEDUCED (log 43). DESIGN CHOICE (log 124). -/
def ingressCell (s : State) (c g : Nat) (d : List Byte) (job : BitVec 16) (tag cay a first len got : Nat) (x : Cell) :
    State × Ingress :=
  let per := if gBf16 d then 32 else 64
  let m := min per (len - per * got)
  let i := first + per * got
  let num := tag % 8192
  let r := if gBf16 d then ingressBf16 x i m ((residueOf s c g num a).drop (per * got)) else ingressG8 x i m
  let s := match r.residues with
    | some rs => putResidues s c g num a (per * got) rs
    | none => s
  let s := cayFlags s cay r.flags
  let s := r.nv.foldl (fun s v => cayNv s cay v.2 ⟨0, job.toNat, g, tag, v.1 / per, 0, v.1 % per⟩) s
  (countNv s c (gLayer d) r.nv.length, r)

/-- A late contribution's record. -/
def findLate (s : State) (job tag : BitVec 16) (arm : Bool) (port : Nat) : Option LateRec :=
  s.lates.find? (fun r => r.job == job && r.tag == tag.toNat && r.arm == arm && r.port == port)
/-- The state with a late record changed. -/
def withLate (s : State) (r : LateRec) (f : LateRec → LateRec) : State :=
  { s with lates := s.lates.map (fun q => if q = r then f q else q) }
/-- The state without a late record. -/
def dropLate (s : State) (r : LateRec) : State := { s with lates := s.lates.filter (fun q => q != r) }

/-- A cell of an excluded contribution after its context's STEP_CLOSE: stray, and counted as dropped once (R135). -/
def closedLate (s : State) (r : LateRec) : State :=
  let s := stray s
  if r.counted then s
  else
    let s := bump s FAB_RED_LATE_COUNT_DROPPED 1
    withLate (withStep s r.ctx (fun t => { t with dropped := t.dropped + 1 })) r (fun q => { q with counted := true })

/-- Values of a module's DATA cell. -/
def armValues (x : Cell) : List Wide :=
  if x.type.toNat = tDATA_S1 then s1Values (payloadOf x) x.scale
  else w32Values ⟨(List.range 16).map (fun k => BitVec.ofNat 32 (fieldAt (payloadOf x) (4 * k) 4)), x.scale⟩

/-- Elements of a module's DATA cell. -/
def armSpan (x : Cell) : Nat := if x.type.toNat = tDATA_S1 then 512 else 16

/-- NV was raised in the work of a late contribution's bucket (R89). -/
def lateNv (s : State) (r : LateRec) : State :=
  match findBucket s r.job r.tag false with
  | some (b, _) => withBucket s b (fun e => { e with codes := e.codes ++ [0x50] })
  | none => s

/-- A DATA cell of an excluded contribution (R132, R133). -/
def lateData (s : State) (r : LateRec) (x : Cell) : State :=
  if r.closed then closedLate s r
  else
    let d := groupDesc s r.group
    let s1 := withLate s r (fun q => { q with got := q.got + 1 })
    if !gDefer d then s1
    else if r.arm then
      let i := armSpan x * r.got
      deferValues s1 r i ((armValues x).take (r.n - i))
    else
      let u := ingressCell s1 r.ctx r.group d r.job r.tag r.cay r.port r.first r.n r.got x
      let u := (if u.2.nv.isEmpty then u.1 else lateNv u.1 r, u.2)
      deferValues u.1 r (r.first + (if gBf16 d then 32 else 64) * r.got) u.2.vals

/-- The TRAILER of an excluded contribution. DEDUCED (log 45). -/
def lateTrailer (s : State) (r : LateRec) : State :=
  if r.closed then dropLate (closedLate s r) { r with counted := true }
  else lateDone (dropLate s r) r

/-- A stream's checks at its TRAILER (R123). DEDUCED (log 48). -/
def trailerBad (x : BStream) (t : Cell) : Bool :=
  let p := payloadOf t
  let sum := fieldAt p 0 8
  let corr := fieldAt p 8 8
  decide (ckP ≤ sum) || decide (ckP ≤ corr) || ckAdd x.check corr != sum % ckP ||
  fieldAt p 0x10 4 != x.got || x.seqBad || t.seq.toNat != x.got % 65536

/-- A stream with its TRAILER taken in. -/
def endStream (x : BStream) (t : Cell) (fails : Bool) : BStream :=
  let p := payloadOf t
  { x with ended := true, sum := fieldAt p 0 8, corr := fieldAt p 8 8, incl := fieldAt p 0x14 2, excl := fieldAt p 0x16 2
           bad := fails || fieldAt p 0x18 1 == 0x20 }

/-- A live bucket of a job and tag whose Tide bits are the context's present ones (R108). -/
def liveBucket (s : State) (x : Cell) : Option (Nat × Bucket) :=
  match findBucket s x.job x.tag.toNat false with
  | some (b, e) =>
    if e.verdict == some .admitted && x.tag.toNat / 8192 == ctxTide s (bCtx e) % 8 then some (b, e) else none
  | none => none

/-- Every contribution whose deadline has passed is excluded before a cell is consumed (R130). -/
def expirePorts (s : State) (b : Nat) : State :=
  match bucketAt s b with
  | none => s
  | some e =>
    if bLive e && portLate s e then
      (gPorts (bDesc s e)).foldl (fun s a =>
        match bucketAt s b with
        | some e => if ((tget e.ports a).getD {}).included.isNone then exclude s b false a else s
        | none => s) s
    else s

/-- An arm whose deadline has passed before its first DATA cell is excluded (R131). -/
def expireArm (s : State) (b p : Nat) : State :=
  match bucketAt s b with
  | none => s
  | some e =>
    if bLive e && (groupUps s (bDesc s e)).contains p && ((tget e.arms p).getD {}).included.isNone && armLate s e p then
      exclude s b true p
    else s

/-! ## Streams that come again (R127) -/

/-- A stream that is to come again from its first cell. -/
def freshStream (x : BStream) (resend : Bool) : BStream :=
  { adm := x.adm, included := x.included, released := x.released && !resend, resend := resend, res0 := x.res0 }

/-- The ingress residues of a port as they stood before its contribution. DEDUCED (log 57). -/
def restoreResidues (s : State) (e : Bucket) (a : Nat) (x : BStream) : State :=
  if x.got = 0 ∨ !gBf16 (bDesc s e) then s
  else
    { s with residues := s.residues.filter (fun r =>
        !(r.1 == bCtx e && r.2.1 == e.group && r.2.2.1 == bNumber e && r.2.2.2.1 == a)) ++
        [(bCtx e, e.group, bNumber e, a, x.res0)] }

/-- RESEND to an access port whose contribution is included; of one that has not ended the values are lost, and RESEND
follows at its TRAILER. DEDUCED (log 57). -/
def resendPort (b : Nat) (s : State) (a : Nat) : State :=
  match bucketAt s b with
  | none => s
  | some e =>
    let x := (tget e.ports a).getD {}
    let s := restoreResidues s e a x
    if x.included = some true then
      grantAcc (withBucket s b (fun e => { e with ports := tput e.ports a (freshStream x false) })) e a .resend 0
    else if x.included = none ∧ 0 < x.got then
      withBucket s b (fun e => { e with ports := tput e.ports a { x with lost := true, groups := [], kin := 0, check := 0 } })
    else s

/-- A DATA cell from the accelerator on an access port (R110, R114). While the bucket's Cay is out of service, or where a
fence has lost its first cells, the stream is only followed: RESEND brings it again (R127). DEDUCED (log 57). -/
def portData (s : State) (a : Nat) (x : Cell) : State :=
  let s := match liveBucket s x with
    | some (b, _) => expirePorts s b
    | none => s
  match findLate s x.job x.tag false a with
  | some r => lateData s r x
  | none =>
    match liveBucket s x with
    | none => stray s
    | some (b, e) =>
      let d := bDesc s e
      let st := (tget e.ports a).getD {}
      if !(gPorts d).contains a || e.outcome.isSome || st.ended || st.included == some false then stray s
      else if !bReady s e || st.lost then
        withBucket s b (fun e => { e with ports := tput e.ports a { st with
          got := st.got + 1, lost := true, res0 := if st.got = 0 then residueOf s (bCtx e) e.group (bNumber e) a else st.res0 } })
      else
        let rg := portRange d e.n a
        let u := ingressCell s (bCtx e) e.group d e.job e.tag e.cay a rg.1 rg.2 st.got x
        let st' := { st with
          got := st.got + 1, seqBad := st.seqBad || x.seq.toNat != st.got % 65536
          check := ckAdd st.check u.2.check, kin := ckAdd st.kin u.2.kin
          groups := st.groups ++ inGroups 4 u.2.vals
          res0 := if st.got = 0 then residueOf s (bCtx e) e.group (bNumber e) a else st.res0 }
        advance (withBucket (folded u.1 e.cay) b (fun e => { e with
          ports := tput e.ports a st', codes := if u.2.nv.isEmpty then e.codes else e.codes ++ [0x50] })) b

/-- A TRAILER from the accelerator on an access port: the contribution is included, and checked (R123, R130). -/
def portTrailer (s : State) (a : Nat) (x : Cell) : State :=
  let s := match liveBucket s x with
    | some (b, _) => expirePorts s b
    | none => s
  let s := match findLate s x.job x.tag false a with
    | some r => lateTrailer s r
    | none =>
      match liveBucket s x with
      | none => stray s
      | some (b, e) =>
        let st := (tget e.ports a).getD {}
        if !(gPorts (bDesc s e)).contains a || e.outcome.isSome || st.ended || st.included == some false then stray s
        else if !bReady s e then
          withBucket s b (fun e => { e with ports := tput e.ports a { st with ended := true, included := some true, lost := true } })
        else if st.lost then
          resendPort b (withBucket s b (fun e => { e with ports := tput e.ports a { st with included := some true } })) a
        else
          let fails := trailerBad st x
          let s := checkFailed s fails
          withBucket s b (fun e => { e with
            ports := tput e.ports a { endStream st x fails with included := some true } })
  match liveBucket s x with
  | some (b, _) => advance s b
  | none => s

/-- A live bucket's arm has been sent RELEASE (R108). -/
def armOpen (s : State) (p : Nat) (x : Cell) : Bool :=
  match liveBucket s x with
  | some (_, e) => ((tget e.arms p).getD {}).released
  | none => true

/-- A DATA cell from an upstream module (R111, R112, R114, R131). DEDUCED (log 49). -/
def armData (s : State) (p : Nat) (x : Cell) : State :=
  let s := match liveBucket s x with
    | some (b, _) => expireArm s b p
    | none => s
  match findLate s x.job x.tag true p with
  | some r => if armOpen s p x then lateData s r x else stray s
  | none =>
    match liveBucket s x with
    | none => stray s
    | some (b, e) =>
      let d := bDesc s e
      let st := (tget e.arms p).getD {}
      if st.resend then s
      else if !(groupUps s d).contains p || e.outcome.isSome || !st.released || st.ended || st.included == some false ||
          x.type.toNat != (if gS1 d then tDATA_S1 else tDATA_W32) then stray s
      else if !bReady s e then
        withBucket s b (fun e => { e with arms := tput e.arms p { st with got := st.got + 1, included := some true } })
      else
        let i := armSpan x * st.got
        let vals := (armValues x).take (e.n - i)
        let st' := { st with
          got := st.got + 1, included := some true, seqBad := st.seqBad || x.seq.toNat != st.got % 65536
          check := ckAdd st.check (ckSum i vals), groups := st.groups ++ inGroups 32 vals }
        advance (withBucket s b (fun e => { e with arms := tput e.arms p st' })) b

/-- A TRAILER from an upstream module (R123). -/
def armTrailer (s : State) (p : Nat) (x : Cell) : State :=
  let s := match liveBucket s x with
    | some (b, _) => expireArm s b p
    | none => s
  match findLate s x.job x.tag true p with
  | some r => if armOpen s p x then lateTrailer s r else stray s
  | none =>
    match liveBucket s x with
    | none => stray s
    | some (b, e) =>
      let st := (tget e.arms p).getD {}
      if st.resend then s
      else if !(groupUps s (bDesc s e)).contains p || e.outcome.isSome || !st.released || st.ended ||
          st.included == some false then stray s
      else if !bReady s e then withBucket s b (fun e => { e with arms := tput e.arms p { st with ended := true } })
      else
        let fails := trailerBad st x
        let s := checkFailed s (fails && st.included == some true)
        advance (withBucket s b (fun e => { e with arms := tput e.arms p (endStream st x fails) })) b

/-- TRAILER (R123): the end of an upstream module's stream. -/
def trailerCell (p : TorusPort) (x : Cell) (s : State) : Res :=
  if x.type.toNat = tTRAILER then receive s p.val x (fun s => some (armTrailer s p.val x)) else .next s

/-- DEADLINE (R130): ports whose TRAILER has not been consumed by the bucket's deadline are excluded. -/
def deadline (b : BucketNum) (s : State) : Res := .next (advance (expirePorts s b.val) b.val)

/-- ARM_DEADLINE (R131): an arm whose first DATA cell has not been consumed by the arm's deadline is excluded. -/
def armDeadline (b : BucketNum) (p : TorusPort) (s : State) : Res :=
  .next (advance (expireArm s b.val p.val) b.val)

/-- A write of a range clears the marks of the blocks that it covers (R268). -/
def clearPoison (s : State) (a n : Nat) : State :=
  { s with poison := s.poison.filter (fun k => !(decide (a ≤ 64 * k) && decide (64 * k + 64 ≤ a + n))) }

/-- ERROR_MEMORY_WRITEBACK_DONE (R264): the home holds the memory, and a waiting prefetch of it may run. -/
def execErrorMemoryWritebackDone (c : Ctx) (k : BitVec 13) (s : State) : Res :=
  match s.homes.find? (fun h => h.ctx == c.val && h.num == k.toNat && h.busy &&
      moveRuns s (.emWriteback c.val h.group k.toNat)) with
  | none => .next s
  | some h =>
    let s := clearPoison s (homeAddr s c.val h.group k.toNat) (4 * h.vals.length)
    .next (nextMoves (withHome s c.val h.group k.toNat (fun h => { h with busy := false }))
      (.emWriteback c.val h.group k.toNat))

/-- REDUCE (R136): bound to an admitted bucket of the context; it ends with the bucket. DEDUCED (log 50). -/
def execReduce (c : Ctx) (q : QNum) (i : Word) (s : State) : Res :=
  runCmd s c q i 0x02 (fun s k b =>
    let tag := fieldAt b 0x12 2
    match s.buckets.find? (fun p => p.2.ctx == some c.val && p.2.tag == tag && p.2.group == fieldAt b 0x10 2 &&
        p.2.verdict == some .admitted && p.2.reduceCmd.isNone && !p.2.cw) with
    | none => endCmd s k i.toNat 0x12
    | some (n, e) =>
      endReduce (chunkPosts (e.n + 2) (withBucket s n (fun e => { e with reduceCmd := some (k, i.toNat) })) n) n)

end Sys2Proof.Machine
end

