-- ==== Sys2Proof/Machine/Causeway.lean ====
section
/-! DEFINITION. Small collectives on the Causeway (R138 to R143): the operation a slot holds, its fold over the local
ports and the chains, its result. -/

namespace Sys2Proof.Machine

/-! ## The operations (R142) -/

/-- Bytes of an element: 8 for FP64, 4 for FP32, 1 for bits. -/
def cwWidth (d : List Byte) : Nat := if gCwFormat d = 0 then 8 else if gCwFormat d = 1 then 4 else 1
/-- The floating-point format of an operand, none for bits. -/
def cwFloat (d : List Byte) : Option FloatFmt :=
  if gCwFormat d = 0 then some .fp64 else if gCwFormat d = 1 then some .fp32 else none
/-- The bytes an operand fills: CW_COUNT elements, or, for and, or and xor, CW_COUNT bytes. -/
def cwBytes (d : List Byte) : Nat := if 3 ≤ gCwOp d then gCwCount d else gCwCount d * cwWidth d
/-- Elements of an operand. -/
def cwElements (d : List Byte) (x : List Byte) : List Nat :=
  let w := if 3 ≤ gCwOp d then 1 else cwWidth d
  (List.range (cwBytes d / w)).map (fun i => fieldAt x (w * i) w)

/-- One element of an operation: and, or, xor of bytes; sum, maximum, minimum of floating-point numbers. -/
def cwElement (d : List Byte) (f : FloatFmt) (ieee : Bool) (a b : Nat) : Nat × Flags :=
  let v : FEnv := { ieee := ieee }
  match gCwOp d with
  | 0 => fAdd f v a b
  | 1 => fMinMax true f v a b
  | 2 => fMinMax false f v a b
  | 3 => (a &&& b, noFlags)
  | 4 => (a ||| b, noFlags)
  | _ => (a ^^^ b, noFlags)

/-- One combine of two operands in a combiner: its flags and its locator follow R87. A sum, maximum or minimum of bits,
for which the spec states no result, gives free bytes. Bytes past the operand's elements are zero.
DESIGN CHOICE (log 52). DESIGN CHOICE (log 131). -/
def cwCombine (s : State) (n job g : Nat) (d : List Byte) (ieee : Bool) (x y : List Byte) : State × List Byte × Bool :=
  match cwFloat d, decide (gCwOp d < 3) with
  | none, true =>
    ({ s with free := s.free + 1 }, (List.range (gCwCount d)).map (Config.openByte s.free) ++ zeros (64 - gCwCount d), false)
  | f, _ =>
    let w := if 3 ≤ gCwOp d then 1 else cwWidth d
    let rs := List.zipWith (cwElement d (f.getD .fp32) ieee) (cwElements d x) (cwElements d y)
    let s := cwFlags s n { (rs.foldl (fun a r => orFlags a r.2) noFlags) with nv := false }
    let nv := (rs.zipIdx).find? (fun r => r.1.2.nv)
    let s := match nv with
      | some r => cwNv s n r.1.2.cause job g r.2
      | none => s
    (s, slice (rs.flatMap (fun r => natLe w r.1)) 0 64, nv.isSome)

/-- The operand that adds nothing: sent by a member that has no term (R141). DEDUCED (log 51). -/
def cwIdentity (d : List Byte) : List Byte :=
  let el := match gCwOp d, cwFloat d with
    | 0, some f => withSign f true 0
    | 1, some f => withSign f true (floatInfCode f)
    | 2, some f => floatInfCode f
    | 3, _ => 0xFF
    | _, _ => 0
  let w := if 3 ≤ gCwOp d then 1 else cwWidth d
  slice ((List.range (cwBytes d / w)).flatMap (fun _ => natLe w el)) 0 64

/-! ## A slot's operation -/

/-- The slot of a group entry. -/
def cwAt (s : State) (g : Nat) : Option CwSlot := tget s.causeway g
/-- The state with a slot changed. -/
def withCw (s : State) (g : Nat) (f : CwSlot → CwSlot) : State := { s with causeway := tmod s.causeway g f }
/-- The context of a group entry. -/
def cwCtx (s : State) (g : Nat) : Nat := (groupCtx s g).getD 0

/-- A member of the group is held as fenced (R373). -/
def cwFenced (s : State) (d : List Byte) : Bool := (members s d).any (fun c => memberFenced s d c || remoteFenced s c)

/-- What a fold carries: the state, the term so far, whether NV was raised. -/
structure CwAcc where
  s : State
  term : Option (List Byte)
  nv : Bool

/-- A term joins a fold in a combiner; the first term needs no combine. `left` puts the new term on the left. -/
def cwJoin (n job g : Nat) (d : List Byte) (ieee left : Bool) (a : CwAcc) (x : List Byte) : CwAcc :=
  match a.term with
  | none => { a with term := some x }
  | some t =>
    let r := if left then cwCombine a.s n job g d ieee x t else cwCombine a.s n job g d ieee t x
    ⟨r.1, some r.2.1, a.nv || r.2.2⟩

/-- The local level: a left fold over the ports, combiner 6 for ports 0 to 7, 7 for the rest (R141). -/
def cwLocal (s : State) (g : Nat) (d : List Byte) (ieee : Bool) (op : CwOp) : CwAcc :=
  op.ports.foldl (fun a p => cwJoin (if p.1 < 8 then 6 else 7) (fieldAt d 0 2) g d ieee false a p.2) ⟨s, none, false⟩

/-- One chain: incoming op own, or at its root (lower op upper) op own (R141). DEDUCED (log 53). -/
def cwChain (g : Nat) (d : List Byte) (ieee : Bool) (op : CwOp) (a : CwAcc) (k : Nat) : CwAcc :=
  let ups := chainUps a.s d k (mySide a.s d k)
  let job := fieldAt d 0 2
  let n := ups.headD 0
  let start : CwAcc := ⟨a.s, none, a.nv⟩
  let m := ups.foldl (fun b p => match tget op.arms p with
    | some x => cwJoin n job g d ieee false b x
    | none => b) start
  match a.term with
  | some own => cwJoin n job g d ieee false m own
  | none => m

/-- A CAUSEWAY cell. -/
def cwCell (job tag : Nat) (result : Bool) (x : List Byte) : Cell :=
  { type := BitVec.ofNat 4 tCAUSEWAY, vc := 0, job := BitVec.ofNat 16 job, tag := BitVec.ofNat 16 tag
    seq := if result then 1 else 0, payload := slice x 0 64 }

/-- The command of the slot's operation ends. -/
def cwEndCmd (s : State) (op : CwOp) (st : Nat) : State :=
  match op.cmd with
  | some c => endCmdWith s c.1 c.2 st op.n
  | none => s

/-- The result is sent on and delivered, the slot is free for the next operation (R140, R141, R143). -/
def cwDeliver (s : State) (g : Nat) (op : CwOp) (x : List Byte) (nv : Bool) : State :=
  let d := groupDesc s g
  let c := cwCtx s g
  let cell := cwCell (fieldAt d 0 2) op.n true x
  let s := (groupUps s d).foldl (fun s p => sendPort s p cell) s
  let s := (gPorts d).foldl (fun s a => sendAcc s a cell) s
  let addr := match op.cmd.bind (fun r => cmdAt s r.1 r.2) with
    | some m => fieldAt m.bytes 0x18 8
    | none => 0
  let w := if addr = 0 then (s, none) else memWrite s (some c) addr (slice x 0 64)
  let s := withCw w.1 g (fun q => { q with op := none, next := op.n + 1 })
  cwEndCmd s op (worst (w.2.toList ++ (if nv || op.nv then [0x50] else [])))

/-- The slot's operation holds every term it waits for: the command, the ports, the arms. -/
def cwReady (s : State) (d : List Byte) (op : CwOp) : Bool :=
  op.cmd.isSome && !op.sent && (gPorts d).all (fun a => (tget op.ports a).isSome) &&
  (groupUps s d).all (fun p => (tget op.arms p).isSome)

/-- The operation is folded and goes downstream, or at the root of the data chain its result goes back. -/
def cwRun (s : State) (g : Nat) : State :=
  match cwAt s g with
  | none => s
  | some q =>
    match q.op with
    | none => s
    | some op =>
      let d := groupDesc s g
      if !q.admitted || !cwReady s d op then s
      else
        let ieee := ctxIeee s (cwCtx s g)
        let a := (chainsOf s d (ownCoord s)).foldl (cwChain g d ieee op) (cwLocal s g d ieee op)
        let x := a.term.getD (cwIdentity d)
        let s := withCw a.s g (fun q => { q with op := some { op with sent := true, nv := op.nv || a.nv } })
        match groupDown s d with
        | some p => sendPort s p (cwCell (fieldAt d 0 2) op.n false x)
        | none => cwDeliver s g op x a.nv

/-- The next waiting command begins its operation; with a member fenced it ends with FENCED_MEMBER (R143). -/
def cwStart : Nat → State → Nat → State
  | 0, s, _ => s
  | f + 1, s, g =>
    match cwAt s g with
    | none => s
    | some q =>
      match q.queue with
      | [] => s
      | c :: rest =>
        let busy := match q.op with | some op => op.cmd.isSome | none => false
        if busy || !q.admitted then s
        else
          let op := q.op.getD { n := q.next }
          let s := withCw s g (fun q => { q with queue := rest, op := some { op with cmd := some c } })
          if cwFenced s (groupDesc s g) then
            cwStart f (cwEndCmd (withCw s g (fun q => { q with op := none, next := op.n + 1 })) { op with cmd := some c } 0x30) g
          else cwStart f (cwRun s g) g

/-- Waiting commands of a slot, bounded for the recursion. -/
def cwGo (s : State) (g : Nat) : State :=
  match cwAt s g with
  | some q => cwStart (q.queue.length + 1) s g
  | none => s

/-- The group's exchange was admitted (R139). -/
def cwAdmitted (s : State) (g : Nat) : State := cwGo (withCw s g (fun q => { q with admitted := true })) g
/-- The group's exchange was refused: its waiting commands end with the code of R106. -/
def cwRefused (s : State) (g st : Nat) : State :=
  match cwAt s g with
  | some q => endAll (withCw s g (fun q => { q with queue := [] })) q.queue st
  | none => s

/-- The operation of a slot is abandoned: a member is fenced (R143). One whose exchange is not yet decided ends too.
The number of an operation that had begun here is not used again. DESIGN CHOICE (log 132). -/
def cwAbandon (s : State) (g : Nat) : State :=
  match cwAt s g with
  | some q =>
    match q.op with
    | some op =>
      cwGo (cwEndCmd (withCw s g (fun q => { q with op := none, next := op.n + 1 })) op 0x30) g
    | none => if q.admitted then cwGo s g else cwRefused s g 0x30
  | none => s

/-! ## Arrivals -/

/-- The slot that a cell of a job and operation number belongs to: a KIND 0x02 entry of the job's context whose present
or next operation it is and that `wants` it. DEDUCED (log 53). -/
def cwFind (s : State) (x : Cell) (wants : Nat → CwOp → Bool) : Option (Nat × CwOp) :=
  s.causeway.findSome? (fun p =>
    let op := p.2.op.getD { n := p.2.next }
    if fieldAt (groupDesc s p.1) 0 2 == x.job.toNat && op.n % 65536 == x.tag.toNat && wants p.1 op then some (p.1, op)
    else none)

/-- NV where an invalid value enters through an access port (R48). DEDUCED (log 53). -/
def cwEnter (s : State) (a g : Nat) (d : List Byte) (x : List Byte) : State × Bool :=
  match cwFloat d with
  | none => (s, false)
  | some f =>
    if 3 ≤ gCwOp d then (s, false)
    else
      match ((cwElements d x).zipIdx).find? (fun e => isNan (floatDecode f e.1)) with
      | some e => (cwNv s (if a < 8 then 6 else 7) 7 (fieldAt d 0 2) g e.2, true)
      | none => (s, false)

/-- What enters of an operand: a NaN as the canonical one (R47). DESIGN CHOICE (log 131). -/
def cwCanonical (d x : List Byte) : List Byte :=
  match cwFloat d, decide (gCwOp d < 3) with
  | some f, true =>
    let ys := (cwElements d x).flatMap (fun e => natLe (cwWidth d) (if isNan (floatDecode f e) then floatNan f else e))
    ys ++ x.drop ys.length
  | _, _ => x

/-- A contribution from the accelerator on an access port. -/
def cwFromPort (s : State) (a : Nat) (x : Cell) : State :=
  match cwFind s x (fun g op => (gPorts (groupDesc s g)).contains a && (tget op.ports a).isNone) with
  | none => s
  | some (g, op) =>
    let r := cwEnter s a g (groupDesc s g) (payloadOf x)
    cwGo (cwRun (withCw r.1 g (fun q => { q with
      op := some { op with ports := tput op.ports a (cwCanonical (groupDesc s g) (payloadOf x)), nv := op.nv || r.2 } })) g) g

/-- A contribution from upstream, or the result from downstream. -/
def cwFromArm (s : State) (p : Nat) (x : Cell) : State :=
  if x.seq = 0 then
    match cwFind s x (fun g op => (groupUps s (groupDesc s g)).contains p && (tget op.arms p).isNone) with
    | none => s
    | some (g, op) =>
      cwGo (cwRun (withCw s g (fun q => { q with op := some { op with arms := tput op.arms p (payloadOf x) } })) g) g
  else
    match cwFind s x (fun g op => groupDown s (groupDesc s g) == some p && op.sent) with
    | none => s
    | some (g, op) => cwGo (cwDeliver s g op (payloadOf x) false) g

/-- CAUSEWAY (R141): a contribution or a result from a neighbouring module. -/
def execCausewayCell (p : TorusPort) (x : Cell) (s : State) : Res :=
  if x.type.toNat = tCAUSEWAY then receive s p.val x (fun s => some (cwFromArm s p.val x)) else .next s

end Sys2Proof.Machine
end

