-- ==== Sys2Proof/Machine/Admission.lean ====
section
/-! DEFINITION. Admission of buckets and Causeway groups: BUCKET_OPEN, the reservations of Table 4-4, ADMIT and GRANT, the
timeout of R107 (R99 to R109, R139), the restart of a bucket on another Cay (R127), and CAUSEWAY_OP. -/

namespace Sys2Proof.Machine

/-! ## Reservations (R101, Table 4-4) -/

/-- A reservation to make: its tier, its bytes, its use. -/
structure Need where
  tier : Tier
  bytes : Nat
  use : AllocFor

/-- The Lagoon reservations of a bucket on a Cay's slice. -/
def bucketNeeds (s : State) (b : Nat) (e : Bucket) (cay : Nat) : List Need :=
  let d := bDesc s e
  let n := e.n
  let ports := (gPorts d).length
  let own := isOwner s d
  [⟨.slice cay, 4 * n, .bucket b⟩, ⟨.slice cay, (n + 7) / 8, .bucket b⟩] ++
  (if (gCut d = 1 ∨ gCut d = 3) ∧ 0 < ports then [⟨.slice cay, (ports * 33 * n + 31) / 32, .bucket b⟩] else []) ++
  (if needsEm s d then [⟨.slice cay, 4 * n, .bucket b⟩] else []) ++
  (match bLayer s e with
   | some (l, _) => if own then [⟨.slice cay, 4 * n, .staging l e.tag⟩] else []
   | none => [])

/-- The owner's spill in HBM. -/
def spillNeeds (s : State) (e : Bucket) : List Need :=
  match bLayer s e with
  | some (l, _) => if isOwner s (bDesc s e) then [⟨.hbm, 13 * e.n, .spill l e.tag⟩] else []
  | none => []

/-- Memories that stay with the bucket number: the HBM home of the error or deferral memory (R118), the ingress residues
of BF16 ports (R52). One that already holds enough is kept. -/
def homeNeeds (s : State) (e : Bucket) : List Need :=
  let d := bDesc s e
  let ports := (gPorts d).length
  let total := ((gPorts d).map (fun a => (portRange d e.n a).2)).foldl (· + ·) 0
  let wants := (if needsEm s d then [⟨.hbm, 4 * e.n, .home e.group (bNumber e)⟩] else []) ++
    (if gBf16 d && decide (0 < ports) then [(⟨.lagoon, 4 * total, .residue e.group (bNumber e)⟩ : Need)] else [])
  wants.filter (fun w => match allocOf s (bCtx e) w.use with
    | some a => decide (a.len < unitsOf w.bytes * chargeUnit)
    | none => true)

/-- The code of highest rank among refusals, if there is one (R137). -/
def worstOf (codes : List Nat) : Option Nat := if codes.isEmpty then none else some (worst codes)

/-- Reservations tried in order, each after a refused one too; the refusal of highest rank (R137).
DESIGN CHOICE (log 56). -/
def reserveAll (c : Nat) : List Need → State → State × Option Nat
  | [], s => (s, none)
  | w :: ws, s =>
    let r := reserve s c w.tier w.bytes w.use
    let t := reserveAll c ws r.1
    (t.1, worstOf (r.2.toList ++ t.2.toList))

/-- Pool cells of the stream a member sends. -/
def poolNeed (s : State) (e : Bucket) : Option (Nat × Nat) :=
  let d := bDesc s e
  (groupDown s d).map (fun p => (portDie p, cellCount d e.n + 1))

/-- Buckets on a Cay that hold one of its 64 fold slots. -/
def foldSlotsUsed (s : State) (cay : Nat) : Nat :=
  (s.buckets.filter (fun p => p.2.reserved && !p.2.cw && p.2.cay == cay)).length

/-- The map entry of a bucket (R102): VALID and the Cay. -/
def mapEntry (s : State) (e : Bucket) : Bool × Nat :=
  let k := (e.group + bNumber e) % 128
  (flag s (FAB_RED_CAY_MAP_VALID k), getF s (FAB_RED_CAY_MAP_CAY k))

/-- A memory of another length: its values up to it, zero beyond. DESIGN CHOICE (log 130). -/
def resizeMem (n : Nat) (vs : List (BitVec 32)) : List (BitVec 32) := (vs ++ List.replicate (n - vs.length) 0).take n

/-- The home of a bucket's memory stands at the bucket's length. DESIGN CHOICE (log 130). -/
def setHome (s : State) (e : Bucket) : State :=
  if !needsEm s (bDesc s e) then s
  else
    match homeOf s (bCtx e) e.group (bNumber e) with
    | some _ => withHome s (bCtx e) e.group (bNumber e) (fun h => { h with vals := resizeMem e.n h.vals })
    | none => { s with homes := s.homes ++ [⟨bCtx e, e.group, bNumber e, List.replicate e.n 0, false, false, []⟩] }

/-- The pool cells of a bucket's stream are reserved on the die of its egress. -/
def takePoolCells (s : State) (b : Nat) (e : Bucket) : State × Option Nat :=
  match poolNeed s e with
  | none => (s, none)
  | some (die, k) =>
    let r := poolReserve s (bCtx e) die k
    (if r.2.isSome then r.1 else withBucket r.1 b (fun e => { e with poolLeft := k }), r.2)

/-- The reservations of Table 4-4: all held, or the cause of highest rank (R137). A Cay without a free fold slot or an owner
whose layer takes no bucket is NO_ADMISSION, which no other refusal here outranks. DESIGN CHOICE (log 56). -/
def takeReservations (s : State) (b : Nat) : State × Option Nat :=
  match bucketAt s b with
  | none => (s, none)
  | some e =>
    if e.cw then (s, none)
    else
      let m := mapEntry s e
      let d := bDesc s e
      let ok := match bLayer s e with
        | some (l, x) => layerAccepts s l x
        | none => false
      if isOwner s d && !ok then (s, some 0x41)
      else if !m.1 || decide (64 ≤ foldSlotsUsed s m.2) then (bump s MEM_SPACE_SHORT_COUNT_COUNT 1, some 0x41)
      else
        let homes := homeNeeds s e
        let s0 := releaseAllocs s (fun a => a.ctx == bCtx e && homes.any (fun w => w.use == a.use))
        let r := reserveAll (bCtx e) (homes ++ bucketNeeds s b e m.2 ++ spillNeeds s e) s0
        let p := takePoolCells r.1 b e
        match worstOf (r.2.toList ++ p.2.toList) with
        | some x => (p.1, some x)
        | none => (setHome p.1 e, none)

/-- Every reservation of a bucket that was not admitted is released; an entry that no command has named holds none. -/
def dropReservations (s : State) (b : Nat) : State :=
  match bucketAt s b with
  | none => s
  | some e =>
    if e.ctx.isNone then s
    else
      let s := match bLayer s e with
        | some (l, x) => if x.staged.any (fun y => y.tag == e.tag) then s else releaseStaging s l [e.tag]
        | none => s
      releaseBucket s b

/-! ## Verdicts (R103, R105 to R107) -/

/-- The ADMITs an entry holds, by port. -/
def heldAdmits (e : Bucket) : List (Nat × AdmitInfo) := e.arms.filterMap (fun p => p.2.adm.map (fun a => (p.1, a)))

/-- The module's own protocol level. -/
def ownLevel (s : State) : Nat := getF s HEALTH_LEVEL_OWN

/-- The lowest level among the module and the ADMITs held. -/
def lowLevel (s : State) (e : Bucket) : Nat := (heldAdmits e).foldl (fun l p => min l p.2.level) (ownLevel s)

/-- The causes of refusal an entry knows: its own and those of the ADMITs held. -/
def knownCauses (e : Bucket) : List Nat :=
  e.cause.toList ++ ((heldAdmits e).filter (fun p => p.2.refuse)).map (fun p => p.2.cause)

/-- An ADMIT held disagrees with the module's digest. -/
def disagrees (e : Bucket) : Bool := (heldAdmits e).any (fun p => p.2.disagree || p.2.digest != e.digest)

/-- The GRANT of an entry's verdict, as an answer to an ADMIT. DEDUCED (log 55). -/
def verdictCell (e : Bucket) (admitDigest : Nat) : Cell :=
  match e.verdict with
  | some (.refused c) => grantCell e.job e.tag .refused c 0 (e.ownerDigest.getD admitDigest)
  | _ => grantCell e.job e.tag .admitted 0 e.level (e.ownerDigest.getD e.digest)

/-- The verdict goes to every module whose ADMIT is held and not yet answered. -/
def answerAdmits (s : State) (b : Nat) : State :=
  match bucketAt s b with
  | none => s
  | some e =>
    let s := ((heldAdmits e).filter (fun p => !p.2.answered)).foldl
      (fun s p => sendPort s p.1 (verdictCell e p.2.digest)) s
    withBucket s b (fun e => { e with
      arms := e.arms.map (fun p => (p.1, { p.2 with adm := p.2.adm.map (fun a => { a with answered := true }) })) })

/-- The BUCKET_OPEN of an entry completes. -/
def endOpen (s : State) (b st : Nat) : State :=
  match bucketAt s b with
  | some e => match e.openCmd with | some r => endCmd s r.1 r.2 st | none => s
  | none => s

/-- The code of a refused BUCKET_OPEN (R106). -/
def refusedCode (s : State) (e : Bucket) (cause : Nat) : Nat :=
  if cause = 0x30 then 0x30
  else if (match e.ownerDigest with | some x => x != e.digest | none => false) then 0x10
  else if ownLevel s < gLevelMin (bDesc s e) then 0x11
  else if e.cause = some 0x40 then 0x40
  else 0x41

/-- The GRANT of the verdict to the accelerators on PORTS. -/
def grantPorts (s : State) (b : Nat) : State :=
  match bucketAt s b with
  | some e => if e.ctx.isNone then s else (gPorts (bDesc s e)).foldl (fun s a => sendAcc s a (verdictCell e e.digest)) s
  | none => s

/-- REFUSED at this module: the reservations released, the refusal relayed, BUCKET_OPEN completed. -/
def settleRefused (s : State) (b cause : Nat) (ownerDigest : Option Nat) : State :=
  let s := withBucket s b (fun e => { e with verdict := some (.refused cause), ownerDigest := ownerDigest })
  let s := grantPorts (answerAdmits (dropReservations s b) b) b
  match bucketAt s b with
  | none => s
  | some e =>
    if e.ctx.isNone then s
    else
      let st := refusedCode s e cause
      if e.cw then cwRefused s e.group st else endOpen s b st

/-- ADMITTED at this module (R103 step 6): t0, the relay, BUCKET_OPEN with OK, the accelerators' GRANT. A Causeway
group's exchange ends here, and its entry is free. -/
def settleAdmitted (s : State) (b level digest : Nat) : State :=
  let s := withBucket s b (fun e => { e with
    verdict := some .admitted, level := level, t0 := s.now, ownerDigest := some digest })
  let s := grantPorts (answerAdmits s b) b
  match bucketAt s b with
  | none => s
  | some e =>
    if e.cw then cwAdmitted { s with buckets := tdel s.buckets b } e.group
    else advance (endOpen s b 0) b

/-- The owner refuses a bucket: counted (FAB_RED_REFUSE_COUNT). -/
def ownerRefuse (s : State) (b cause : Nat) : State :=
  match bucketAt s b with
  | some e => settleRefused (bump s FAB_RED_REFUSE_COUNT_COUNT 1) b cause (some e.digest)
  | none => s

/-- The owner's decision (R103 step 4). -/
def ownerDecide (s : State) (b : Nat) : State :=
  match bucketAt s b with
  | none => s
  | some e =>
    let causes := knownCauses e ++ (if disagrees e then [0x10] else []) ++
      (if lowLevel s e < gLevelMin (bDesc s e) then [0x11] else [])
    if causes.isEmpty then settleAdmitted s b (lowLevel s e) e.digest else ownerRefuse s b (worst causes)

/-- The ADMIT cell of a member (Table 4-5). -/
def admitCell (s : State) (e : Bucket) (causes : List Nat) : Cell :=
  { type := BitVec.ofNat 4 tADMIT, vc := 0, job := e.job, tag := BitVec.ofNat 16 e.tag
    payload := natLe 8 e.digest ++ natLe 4 e.n ++ natLe 1 (lowLevel s e) ++
      natLe 1 ((if disagrees e then 1 else 0) + (if causes.isEmpty then 0 else 2)) ++ natLe 1 (worst causes) ++ zeros 49 }

/-- A member's ADMIT goes to its downstream neighbour. -/
def sendAdmit (s : State) (b : Nat) (causes : List Nat) : State :=
  match bucketAt s b with
  | none => s
  | some e =>
    match groupDown s (bDesc s e) with
    | none => s
    | some p => sendPort (withBucket s b (fun e => { e with sentAdmit := true })) p (admitCell s e causes)

/-- The entry awaits the verdict and has not yet acted. -/
def undecided (e : Bucket) : Bool := e.ctx.isSome && e.verdict.isNone && !e.sentAdmit

/-- A member acts once its reservations are held and an ADMIT has come from each upstream neighbour (R103 steps 3, 4). -/
def tryAdmit (s : State) (b : Nat) : State :=
  match bucketAt s b with
  | none => s
  | some e =>
    let d := bDesc s e
    if undecided e && e.reserved && e.emReady &&
        (groupUps s d).all (fun p => ((tget e.arms p).getD {}).adm.isSome) then
      if isOwner s d then ownerDecide s b else sendAdmit s b (knownCauses e)
    else s

/-- A local cause (R103): what was reserved is released, and the member answers at once. -/
def localRefuse (s : State) (b cause : Nat) : State :=
  let s := dropReservations (withBucket s b (fun e => { e with cause := some cause })) b
  match bucketAt s b with
  | none => s
  | some e =>
    if isOwner s (bDesc s e) then ownerDecide s b
    else sendAdmit (bump s FAB_RED_REFUSE_COUNT_COUNT 1) b (knownCauses e)

/-- A member of the group was re-admitted in the Tide in progress of the context: it joins no bucket of it (R386).
DESIGN CHOICE (log 120). -/
def barredMember (s : State) (c : Nat) (d : List Byte) : Bool := (members s d).any (fun m => s.barred.contains (c, m))

/-- An entry named by its command asks for its reservations (R103 steps 2, 3). A BUCKET_OPEN that a local cause refuses asks
for no state: the prefetch of R173 starts with the reservations held. DESIGN CHOICE (log 138). -/
def startAdmission (s : State) (b : Nat) : State :=
  match bucketAt s b with
  | none => s
  | some e =>
    let d := bDesc s e
    if neighbourFenced s d || barredMember s (bCtx e) d then localRefuse s b 0x30
    else
      let r := takeReservations s b
      match r.2 with
      | some cause => localRefuse r.1 b cause
      | none =>
        let m := mapEntry r.1 e
        let em := !e.cw && needsEm s d
        let s := withBucket r.1 b (fun e => { e with reserved := true, emReady := !em, cay := m.2 })
        let s := if em then sendBacks (addMove s (.emPrefetch b) (m.2 / 64)) else s
        let s := match bLayer s e with
          | some (l, _) => if isOwner s d && !e.cw then askState s l else s
          | none => s
        tryAdmit s b

/-! ## BUCKET_OPEN (R99, R100, R107, R109, R152) -/

/-- What breaks a bucket descriptor whatever the group entry holds. -/
def bucketForm (b : List Byte) : Bool :=
  let n := fieldAt b 0x14 4
  let f := fieldAt b 0x18 4
  bits (fieldAt b 0x10 2) 15 10 != 0 || (slice b 0x1C 20).any (· != 0) || n == 0 || decide (4194304 < n) ||
  decide (2 ^ 30 ≤ f) || decide (2 ^ 30 < f + n)

/-- What breaks it under the group's descriptor (R100). -/
def bucketUnfit (d : List Byte) (n : Nat) : Bool :=
  let m := (gPorts d).length
  gKind d != 1 || (gCut d == 2 && decide (0 < m) && n % (64 * m) != 0)

/-- The range of an owner's bucket meets that of another bucket of its layer (R152), in the table, whatever has become of
it (R107), or staged (R154). DEDUCED (log 54). -/
def rangeTaken (s : State) (c layer tag first n : Nat) : Bool :=
  s.buckets.any (fun p => p.2.ctx == some c && !p.2.cw && p.2.tag != tag && gLayer (bDesc s p.2) == layer &&
    overlap p.2.first p.2.n first n) ||
  (match layerOf s c layer with
   | some (_, x) => x.staged.any (fun y => overlap y.first y.n first n)
   | none => false)

/-- The owner's code under R152, none where its range is sound. -/
def ownerCode (s : State) (c : Nat) (d : List Byte) (tag first n : Nat) : Option Nat :=
  if !isOwner s d then none
  else
    match layerOf s c (gLayer d) with
    | none => none
    | some (_, x) =>
      if ldE x.desc < first + n then some 0x13
      else if rangeTaken s c (gLayer d) tag first n then some 0x12
      else none

/-- A number that the bucket table does not hold. -/
def freeBucket (s : State) : Option Nat := freeKey s.buckets 8192 0

/-- An entry takes its command's descriptor. -/
def nameEntry (s : State) (b : Nat) (c : Nat) (bd : List Byte) (k i : Nat) : State :=
  let g := bits (fieldAt bd 0x10 2) 9 0
  withBucket s b (fun e => { e with
    ctx := some c, group := g, n := fieldAt bd 0x14 4, first := fieldAt bd 0x18 4
    digest := bucketDigest (groupDesc s g) (slice bd 0x10 32), openCmd := some (k, i) })

/-- BUCKET_OPEN goes on with its entry: the owner's checks, then the reservations. -/
def openEntry (s : State) (b c : Nat) (d : List Byte) (tag first n : Nat) : State :=
  match ownerCode s c d tag first n with
  | some st => ownerRefuse (endOpen s b st) b 0x41
  | none => startAdmission s b

/-- An entry of the bucket that no later BUCKET_OPEN may name: admitted, or awaiting its verdict (R107, R109). -/
def entryTaken (s : State) (job : BitVec 16) (tag : Nat) : Bool :=
  match findBucket s job tag false with
  | some (_, e) => e.verdict == some .admitted || (e.verdict.isNone && e.openCmd.isSome)
  | none => false

/-- The codes that hold against a BUCKET_OPEN before its entry is looked at (R23, R100, R109, R380); the highest in rank
is taken (R137, R297). A descriptor that fails its form is not read further. -/
def openCodes (s : State) (c : Nat) (bd : List Byte) : List Nat :=
  let g := bits (fieldAt bd 0x10 2) 9 0
  let tag := fieldAt bd 0x12 2
  let n := fieldAt bd 0x14 4
  let d := groupDesc s g
  if bucketForm bd then [0x13]
  else if groupCtx s g ≠ some c then [0x12]
  else
    (if bucketUnfit d n then [0x13] else []) ++
    (if tag / 8192 ≠ ctxTide s c % 8 ∨ !runsFit s d ∨ entryTaken s (BitVec.ofNat 16 (ctxJob s c)) tag then [0x12] else []) ++
    (if selfFenced s then [0x30] else []) ++ (if !coordValid s then [0x41] else [])

/-- A BUCKET_OPEN that breaks a check: the owner's codes of R152 rank with the others; one that only a fence of this module
or its missing coordinate refuses counts as refused here. DESIGN CHOICE (log 121). -/
def refuseOpen (s : State) (k i c : Nat) (bd : List Byte) (codes : List Nat) : State :=
  let g := bits (fieldAt bd 0x10 2) 9 0
  let own := if groupCtx s g = some c then
      (ownerCode s c (groupDesc s g) (fieldAt bd 0x12 2) (fieldAt bd 0x18 4) (fieldAt bd 0x14 4)).toList else []
  let st := worst (codes ++ own)
  endCmd (if st = 0x30 ∨ st = 0x41 then bump s FAB_RED_REFUSE_COUNT_COUNT 1 else s) k i st

/-- The checks of a BUCKET_OPEN (R100, R109), and its entry. -/
def bucketOpen (s : State) (k i c : Nat) (bd : List Byte) : State :=
  let g := bits (fieldAt bd 0x10 2) 9 0
  let tag := fieldAt bd 0x12 2
  let n := fieldAt bd 0x14 4
  let first := fieldAt bd 0x18 4
  let job := BitVec.ofNat 16 (ctxJob s c)
  let d := groupDesc s g
  let codes := openCodes s c bd
  if !codes.isEmpty then refuseOpen s k i c bd codes
  else
    let s := { s with lates := s.lates.filter (fun r => !(r.closed && r.job == job && r.tag == tag)) }
    match findBucket s job tag false with
    | some (b, e) =>
      let s := nameEntry s b c bd k i
      match e.verdict, bucketAt s b with
      | some (.refused cause), some e => endCmd s k i (worst (refusedCode s e cause :: (ownerCode s c d tag first n).toList))
      | _, _ => openEntry s b c d tag first n
    | none =>
      match freeBucket s with
      | none =>
        match ownerCode s c d tag first n with
        | some st => endCmd s k i st
        | none => endCmd (bump s FAB_RED_REFUSE_COUNT_COUNT 1) k i 0x41
      | some b =>
        let s := { s with buckets := tput s.buckets b { job := job, tag := tag, created := s.now } }
        openEntry (nameEntry s b c bd k i) b c d tag first n

/-- BUCKET_OPEN (R103). -/
def execBucketOpen (c : Ctx) (q : QNum) (i : Word) (s : State) : Res :=
  runCmd s c q i 0x01 (fun s k b => bucketOpen s k i.toNat c.val b)

/-! ## CAUSEWAY_OP (R109, R139, R140) -/

/-- The digest of a Causeway group's exchange: of its descriptor's job-wide part with ELEMENTS 0 and FIRST 0 (R139).
DESIGN CHOICE (log 122). -/
def cwDigest (d : List Byte) : Nat := bucketDigest d (zeros 32)

/-- An installed Causeway group of a job has an exchange of a digest. DESIGN CHOICE (log 122). -/
def cwKnown (s : State) (job : BitVec 16) (digest : Nat) : Bool :=
  s.groups.any (fun p => gKind p.2.desc == 2 && fieldAt p.2.desc 0 2 == job.toNat && cwDigest p.2.desc == digest)

/-- The entry of a group's exchange: its own; or one that only ADMITs have made, of its digest; or such a one of a digest
that no group here has, all from upstream neighbours of the group. DESIGN CHOICE (log 122). -/
def cwEntry (s : State) (c g : Nat) : Option (Nat × Bucket) :=
  let d := groupDesc s g
  let mine := fun (p : Nat × Bucket) => p.2.cw && p.2.ctx == some c && p.2.group == g
  let free := fun (p : Nat × Bucket) => p.2.cw && p.2.ctx.isNone && p.2.job == BitVec.ofNat 16 (ctxJob s c)
  ((s.buckets.find? mine).or (s.buckets.find? (fun p => free p && p.2.digest == cwDigest d))).or
    (s.buckets.find? (fun p => free p && !cwKnown s p.2.job p.2.digest && p.2.arms.all (fun a => (groupUps s d).contains a.1)))

/-- The exchange of a Causeway group: a bucket with ELEMENTS 0 and FIRST 0 (R139), of tag 0.
DEDUCED (log 53). DESIGN CHOICE (log 122). -/
def openCauseway (s : State) (c g : Nat) : State :=
  let job := BitVec.ofNat 16 (ctxJob s c)
  let d := groupDesc s g
  let name := fun (s : State) (b : Nat) => withBucket s b (fun e => { e with
    ctx := some c, group := g, digest := cwDigest d, cw := true })
  let refuse := fun (s : State) (st : Nat) => cwRefused (bump s FAB_RED_REFUSE_COUNT_COUNT 1) g st
  if selfFenced s then refuse s 0x30
  else if !coordValid s then refuse s 0x41
  else
    match cwEntry s c g with
    | some (b, e) =>
      match e.verdict with
      | some (.refused cause) =>
        let s := name s b
        match bucketAt s b with
        | some e => cwRefused s g (refusedCode s e cause)
        | none => s
      | _ => if e.ctx.isSome then s else startAdmission (name s b) b
    | none =>
      match freeBucket s with
      | none => refuse s 0x41
      | some b =>
        startAdmission (name { s with buckets := tput s.buckets b { job := job, tag := 0, created := s.now, cw := true } } b) b

/-- The checks of a CAUSEWAY_OP, the highest code in rank first (R137), and its place in the slot's queue. On a slot whose
exchange has been admitted it begins also while the module has no valid coordinate: R23 names only BUCKET_OPEN; its cell
waits or is discarded with the other job cells. DEDUCED (log 32). DESIGN CHOICE (log 139). -/
def causewayOp (s : State) (k i c : Nat) (b : List Byte) : State :=
  let g := fieldAt b 0x10 2
  let ra := fieldAt b 0x18 8
  let d := groupDesc s g
  let codes := (if ra ≠ 0 ∧ !inWindows s c ra 64 true then [0x13] else []) ++
    (if ra ≠ 0 ∧ stateProtected s ra 64 then [0x12] else []) ++ (if selfFenced s then [0x30] else []) ++
    (if groupCtx s g ≠ some c then [0x12] else
      (if gKind d ≠ 2 then [0x13] else []) ++ (if !runsFit s d then [0x12] else []) ++ (if cwFenced s d then [0x30] else []))
  if !codes.isEmpty then endCmd s k i (worst codes)
  else
    let s := withCw s g (fun q => { q with queue := q.queue ++ [(k, i)] })
    match cwAt s g with
    | some q => if q.admitted then cwGo s g else openCauseway s c g
    | none => s

/-- CAUSEWAY_OP (R139 to R143). -/
def execCausewayOp (c : Ctx) (q : QNum) (i : Word) (s : State) : Res :=
  runCmd s c q i 0x06 (fun s k b => causewayOp s k i.toNat c.val b)

/-! ## Restart on another Cay (R127) -/

/-- An upstream stream is asked for again: at once where it feeds the partial (the sequence arms of a sequence root),
else, with its first sending discarded, once the partial is complete. Cells that come after a RESEND are consumed in arrival
order (R122). -/
def resendArm (b : Nat) (s : State) (p : Nat × BStream) : State :=
  match bucketAt s b with
  | none => s
  | some e =>
    let d := bDesc s e
    if p.2.included ≠ some true then s
    else if isSeqRoot s d && portChain d p.1 == some 1 then
      let s := withBucket s b (fun e => { e with arms := tput e.arms p.1 (freshStream p.2 false) })
      grantPort s e p.1 .resend 0
    else withBucket s b (fun e => { e with arms := tput e.arms p.1 (freshStream p.2 true) })

/-- The bucket's fold slot and Lagoon reservations are made again on a Cay and its slice; where they do not fit the bucket
holds none (R101). DEDUCED (log 57). -/
def moveReservations (s : State) (b cay : Nat) : State :=
  match bucketAt s b with
  | none => s
  | some e =>
    let l := (bLayer s e).map (fun p => p.1)
    let old := releaseAllocs s (fun a => match a.use with
      | .bucket k => k == b
      | .staging k t => some k == l && t == e.tag
      | _ => false)
    let r := reserveAll (bCtx e) (bucketNeeds s b e cay) old
    let fits := r.2.isNone && decide (foldSlotsUsed (withBucket s b (fun e => { e with reserved := false })) cay < 64)
    withBucket (if fits then r.1 else old) b (fun e => { e with cay := cay, reserved := fits })

/-- Once a moved bucket holds its reservations on its new slice its streams come again (R127 step 3). -/
def resendAll (s : State) (b : Nat) : State :=
  match bucketAt s b with
  | none => s
  | some e =>
    if !e.reserved then s
    else
      let s := (e.ports.map (fun p => p.1)).foldl (resendPort b) s
      advance (e.arms.foldl (resendArm b) s) b

/-- R127: the bucket moves to the Cay its map entry now names, and its streams come again. `code` is RETRY, or NO_SPARE
where no spare was free (R390). DEDUCED (log 57). -/
def restartBucket (s : State) (b code : Nat) : State :=
  match bucketAt s b with
  | none => s
  | some e =>
    if !bLive e then s
    else
      let d := bDesc s e
      let s := moveReservations s b (mapEntry s e).2
      let s := bump s FAB_RED_EM_RESTART_COUNT_COUNT 1
      let s := withStep s (bCtx e) (fun r => { r with restarts := r.restarts + 1 })
      let s := addEvent s (bCtx e) 3 0xFF e.tag 0xFFFF e.group (gLayer d)
      let s := withBucket s b (fun e => { e with
        stage := .ports, partials := [], outs := [], wides := [], kFold := 0, sentCells := 0, skip := max e.skip e.sentCells
        em := List.replicate e.em.length 0, codes := e.codes ++ [code] })
      resendAll s b

/-- An entry that has a Cay: admitted, or without a verdict and with its reservations once held. -/
def hasCay (e : Bucket) : Bool := !e.cw && (bLive e || (e.verdict.isNone && e.ctx.isSome && e.cause.isNone))

/-- A moved bucket whose reservations did not fit asks for them again. DEDUCED (log 57). -/
def retryMove (s : State) (p : Nat × Bucket) : State :=
  match bucketAt s p.1 with
  | some e =>
    if hasCay e && !e.reserved && cayUp s e.cay then
      let s := moveReservations s p.1 e.cay
      if bLive e then resendAll s p.1 else tryAdmit s p.1
    else s
  | none => s

/-- Every such bucket asks again. -/
def retryMoves (s : State) : State := s.buckets.foldl retryMove s

/-! ## ADMIT and GRANT arrivals -/

/-- What an ADMIT carries. -/
def admitInfo (x : Cell) : AdmitInfo :=
  let p := payloadOf x
  ⟨fieldAt p 0 8, fieldAt p 0x0C 1, bit (fieldAt p 0x0D 1) 0, bit (fieldAt p 0x0D 1) 1, fieldAt p 0x0E 1, false⟩

/-- Refusals that wait for their egress credit, of a die (R229). -/
def refusalsWaiting (s : State) (d : Nat) : Nat := (s.cells.filter (fun q => q.src == .refusal d)).length

/-- A cell to the neighbour on a port, from a list of R229. -/
def sendListed (s : State) (src : CellSrc) (p : Nat) (x : Cell) : State :=
  let wrap := if portPlus p then axisPos (ownCoord s) (portAxis p) + 1 == axisLen s (portAxis p)
    else axisPos (ownCoord s) (portAxis p) == 0
  injectAt s src p wrap none { x with dest := BitVec.ofNat 15 (peerCoord s p), src := BitVec.ofNat 15 (ownCoord s) }

/-- An ADMIT at an entry: held, or answered with the verdict. -/
def holdAdmit (s : State) (b p : Nat) (a : AdmitInfo) : State :=
  match bucketAt s b with
  | none => s
  | some e =>
    let x := (tget e.arms p).getD {}
    if e.verdict.isSome then sendPort s p (verdictCell e a.digest)
    else tryAdmit (withBucket s b (fun e => { e with arms := tput e.arms p { x with adm := some a } })) b

/-- The exchange that an ADMIT of a Causeway group belongs to: the one of its digest; for a digest that no group here has,
one that still waits for an ADMIT from its port (R103). DESIGN CHOICE (log 122). -/
def cwExchange (s : State) (p : Nat) (job : BitVec 16) (digest : Nat) : Option (Nat × Bucket) :=
  let mine := fun (q : Nat × Bucket) => q.2.cw && q.2.job == job
  match s.buckets.find? (fun q => mine q && q.2.digest == digest) with
  | some q => some q
  | none =>
    if cwKnown s job digest then none
    else s.buckets.find? (fun q => mine q && q.2.ctx.isSome && q.2.verdict.isNone &&
      (groupUps s (bDesc s q.2)).contains p && ((tget q.2.arms p).getD {}).adm.isNone)

/-- An ADMIT is consumed (R103, R107), but for one that waits for a place in the refusal list.
DEDUCED (log 55). DESIGN CHOICE (log 121). DESIGN CHOICE (log 122). -/
def admitArrives (s : State) (p : Nat) (x : Cell) : Option State :=
  let a := admitInfo x
  let cw := fieldAt (payloadOf x) 8 4 == 0
  match (if cw then cwExchange s p x.job a.digest else findBucket s x.job x.tag.toNat false) with
  | some (b, _) => some (holdAdmit s b p a)
  | none =>
    match freeBucket s with
    | some b =>
      let e : Bucket := { job := x.job, tag := x.tag.toNat, created := s.now, cw := cw, digest := if cw then a.digest else 0 }
      some (holdAdmit { s with buckets := tput s.buckets b e } b p a)
    | none =>
      if refusalsWaiting s (portDie p) < 256 then
        some (sendListed s (.refusal (portDie p)) p (grantCell x.job x.tag.toNat .refused 0x41 0 a.digest))
      else none

/-- ADMIT (R103). -/
def execAdmitCell (p : TorusPort) (x : Cell) (s : State) : Res :=
  if x.type.toNat = tADMIT then receive s p.val x (fun s => admitArrives s p.val x) else .next s

/-- The cell is a GRANT of a kind. -/
def isGrant (x : Cell) (k : GrantKind) : Bool := x.type.toNat == tGRANT && fieldAt (payloadOf x) 0 1 == grantCode k

/-- The entry that awaits the verdict a downstream GRANT brings; one with the GRANT's digest before another.
DEDUCED (log 81). -/
def awaiting (s : State) (p : Nat) (x : Cell) : Option Nat :=
  let fits := fun (y : Nat × Bucket) => y.2.job == x.job && y.2.tag == x.tag.toNat && y.2.sentAdmit &&
    y.2.verdict.isNone && groupDown s (bDesc s y.2) == some p
  match s.buckets.find? (fun y => fits y && y.2.digest == fieldAt (payloadOf x) 8 8) with
  | some y => some y.1
  | none => (s.buckets.find? fits).map (fun y => y.1)

/-- What a GRANT ADMITTED does (R103, R107). -/
def grantAdmitted (s : State) (p : Nat) (x : Cell) : State :=
  match awaiting s p x with
  | some b => settleAdmitted s b (fieldAt (payloadOf x) 2 1) (fieldAt (payloadOf x) 8 8)
  | none => stray s

/-- GRANT ADMITTED (R103, R107). -/
def execGrantAdmitted (p : TorusPort) (x : Cell) (s : State) : Res :=
  if isGrant x .admitted then receive s p.val x (fun s => some (grantAdmitted s p.val x)) else .next s

/-- What a GRANT REFUSED does (R106, R107). -/
def grantRefused (s : State) (p : Nat) (x : Cell) : State :=
  match awaiting s p x with
  | some b => settleRefused s b (fieldAt (payloadOf x) 1 1) (some (fieldAt (payloadOf x) 8 8))
  | none => stray s

/-- GRANT REFUSED (R106, R107). -/
def execGrantRefused (p : TorusPort) (x : Cell) (s : State) : Res :=
  if isGrant x .refused then receive s p.val x (fun s => some (grantRefused s p.val x)) else .next s

/-- The live bucket that a downstream GRANT names. -/
def grantee (s : State) (p : Nat) (x : Cell) : Option (Nat × Bucket) :=
  s.buckets.find? (fun y => y.2.job == x.job && y.2.tag == x.tag.toNat && y.2.verdict == some .admitted && !y.2.cw &&
    groupDown s (bDesc s y.2) == some p)

/-- What a GRANT RELEASE does (R113). -/
def grantRelease (s : State) (p : Nat) (x : Cell) : State :=
  match grantee s p x with
  | some (b, _) => advance (withBucket s b (fun e => { e with go := true })) b
  | none => stray s

/-- What a GRANT DONE does (R125). -/
def grantDone (s : State) (p : Nat) (x : Cell) : State :=
  match grantee s p x with
  | some (b, e) =>
    if e.outcome.isSome then s
    else
      let st := if fieldAt (payloadOf x) 1 1 = 0x20 then 0x20 else 0
      retryMoves (endBucket (sendDone s b st) b st)
  | none => stray s

/-- GRANT DONE (R125): relayed, copies freed, REDUCE completed. -/
def execGrantDone (p : TorusPort) (x : Cell) (s : State) : Res :=
  if isGrant x .done then receive s p.val x (fun s => some (grantDone s p.val x)) else .next s

/-- A retained cell goes out again: its record shares it to the egress once more (R250, R253). -/
def resendKept (s : State) (b : Nat) (e : Bucket) (k : Kept) : State :=
  let p := k.egress
  let wrap := if portPlus p then axisPos (ownCoord s) (portAxis p) + 1 == axisLen s (portAxis p)
    else axisPos (ownCoord s) (portAxis p) == 0
  let rec_ := BitVec.ofNat 16 (0x8000 + b)
  injectAt (poolShare s k.pool rec_ 1 rec_) (jobSrc s e.job.toNat) p wrap (some k.pool) k.cell

/-- What a GRANT RESEND does (R127). -/
def grantResend (s : State) (p : Nat) (x : Cell) : State :=
  match grantee s p x with
  | some (b, e) =>
    if e.outcome.isSome then s
    else advance (withBucket (e.kept.foldl (fun s k => resendKept s b e k) s) b (fun e => { e with go := true })) b
  | none => stray s

/-! ## Time-outs and prefetches -/

/-- ADMIT_TIMEOUT (R107): FAB_RED_ADMIT_TIMEOUT ticks after its creation an entry that has not acted does so, with
NO_ADMISSION; each is a bucket refused here. DESIGN CHOICE (log 3). DEDUCED (log 55). DESIGN CHOICE (log 121). -/
def execAdmitTimeout (b : BucketNum) (s : State) : Res :=
  match bucketAt s b.val with
  | none => .next s
  | some e =>
    if e.verdict.isSome || e.sentAdmit || decide (s.now < e.created + (rd s FAB_RED_ADMIT_TIMEOUT).toNat) then .next s
    else if e.ctx.isNone then .next (settleRefused (bump s FAB_RED_REFUSE_COUNT_COUNT 1) b.val 0x41 none)
    else if isOwner s (bDesc s e) then
      .next (ownerRefuse (withBucket s b.val (fun e => { e with cause := some 0x41 })) b.val 0x41)
    else
      let s := dropReservations (withBucket s b.val (fun e => { e with cause := some 0x41 })) b.val
      .next (sendAdmit (bump s FAB_RED_REFUSE_COUNT_COUNT 1) b.val [0x41])

/-- ERROR_MEMORY_PREFETCH_DONE (R118, R264, R265): the error or deferral memory is in its slice, and the reservation is
held. A home with a poisoned block delivers no data: the memory is zero, and the bucket's outcome takes the code (R268). -/
def execErrorMemoryPrefetchDone (b : BucketNum) (s : State) : Res :=
  match bucketAt s b.val with
  | none => .next s
  | some e =>
    if !moveRuns s (.emPrefetch b.val) then .next s
    else
      let lost := accessFault s (some (bCtx e)) (homeAddr s (bCtx e) e.group (bNumber e)) (4 * e.n) false
      let vals := match lost, homeOf s (bCtx e) e.group (bNumber e) with
        | none, some h => resizeMem e.n h.vals
        | _, _ => List.replicate e.n 0
      let s := nextMoves (withBucket s b.val (fun e => { e with
        em := vals, emReady := true, codes := e.codes ++ lost.toList })) (.emPrefetch b.val)
      .next (tryAdmit s b.val)

end Sys2Proof.Machine
end

