-- ==== Sys2Proof/Machine/Ferry.lean ====
section
/-! DEFINITION. Parameter traffic: FERRY_SEND, its plan and its streams (R181 to R191), GATHER (R192), retained copies
(R193 to R196). -/

namespace Sys2Proof.Machine

/-! ## Formats (Table 6-1) -/

/-- Bytes of an element of a stream format. -/
def fmtWidth (f : Nat) : Nat := if f = 0 then 4 else if f ≤ 3 then 2 else 1
/-- The lane format of a parameter format; raw bytes have none. -/
def fmtLane (f : Nat) : Option LaneFmt :=
  [LaneFmt.flt .fp32, .flt .bf16, .flt .fp16, .lg .l16, .flt .e4m3, .flt .e5m2, .lg .l8][f]?
/-- Elements of a cell. -/
def fmtPer (f : Nat) : Nat := 64 / fmtWidth f
/-- Data cells of a stream. -/
def streamCells (f n : Nat) : Nat := (n + fmtPer f - 1) / fmtPer f

/-! ## Streams at this module -/

/-- The stream of a key. -/
def ferryAt (s : State) (k : Nat) : Option Ferry := s.ferries.find? (fun f => f.key == k)
/-- The state with a stream changed. -/
def withFerry (s : State) (k : Nat) (g : Ferry → Ferry) : State :=
  { s with ferries := s.ferries.map (fun f => if f.key == k then g f else f) }
/-- The owner ID of a slot (Table 9-3). -/
def ferryOwner (k : Nat) : OwnerId := BitVec.ofNat 16 (0x6000 + k)
/-- Slots in use of a die. -/
def slotsUsed (s : State) (d : Nat) : Nat := (s.ferries.filter (fun f => decide (f.key / 128 = d))).length
/-- FAB_FERRY_SLOTS shows the slots in use. -/
def showSlots (s : State) : State :=
  setF (setF s FAB_FERRY_SLOTS_DIE_A (slotsUsed s 0)) FAB_FERRY_SLOTS_DIE_B (slotsUsed s 1)
/-- The lowest key at or above 256 that is free. -/
def freeFerry (s : State) : Nat → Nat → Nat
  | 0, k => k
  | n + 1, k => if (ferryAt s k).isNone then k else freeFerry s n (k + 1)
/-- A key for a stream of the module's own. -/
def ownKey (s : State) : Nat := freeFerry s (s.ferries.length + 1) 256

/-- A child that still takes part. -/
def childLive (c : FerryChild) : Bool :=
  match c.state with
  | .opening | .busy _ | .accepted => true
  | .finished | .failed => false

/-- Positions of the direct children in a list of entries, from a position on. -/
def directs (plan : List (Nat × Nat × Nat)) : Nat → Nat → List Nat
  | 0, _ => []
  | n + 1, i =>
    match plan[i]? with
    | some e => i :: directs plan n (i + 1 + e.2.2)
    | none => []

/-- The first index that a failed or unserved range of a list is counted by: of a slot its own entry is 0, of a sender
the first entry of the plan. -/
def rangeBase (f : Ferry) : Nat := match f.src with | .parent _ _ => 0 | _ => 1

/-- A REQ or RSP cell of the Ferry (Table 6-4). DEDUCED (log 59). -/
def ferryCell (f : Ferry) (req : Bool) (payload : List Byte) : Cell :=
  { type := BitVec.ofNat 4 (if req then tREQ else tRSP), vc := if req then 4 else 5, job := f.job
    tag := BitVec.ofNat 16 f.tag, payload := slice (payload ++ zeros 64) 0 64 }

/-- The OPEN of a child (Table 6-5). -/
def openPayload (f : Ferry) (c : FerryChild) : List Byte :=
  let h := f.head
  natLe 1 1 ++ natLe 1 (h.depth + 1) ++ natLe 2 c.size ++ natLe 1 h.fmt ++
    natLe 1 ((if h.split then 1 else 0) + (if h.region then 2 else 0)) ++ natLe 2 h.label ++ natLe 4 h.tide ++
    natLe 4 h.first ++ natLe 4 h.count ++ natLe 4 h.span ++ natLe 4 h.cells ++ zeros 36

/-- A child is held as fenced (R373), or the module takes no part in the torus. DEDUCED (log 63). -/
def childFenced (s : State) (coord : Nat) : Bool := !coordValid s || selfFenced s || remoteFenced s coord

/-- A child fails (R190): its whole subtree is unserved. -/
def failChild (s : State) (k : Nat) (c : FerryChild) : State :=
  bump (withFerry s k (fun f => { f with
    children := f.children.map (fun d => if d.idx = c.idx then { d with state := .failed } else d)
    unserved := f.unserved ++ [(c.idx - rangeBase f, c.size)] })) FAB_FERRY_ABORT_COUNT_COUNT 1

/-- A child joins a stream: OPEN is sent, or it fails at once. -/
def addChild (k : Nat) (s : State) (c : FerryChild) : State :=
  let s := withFerry s k (fun f => { f with children := f.children ++ [c] })
  match ferryAt s k with
  | none => s
  | some f => if childFenced s c.coord then failChild s k c else sendJob s c.coord (ferryCell f true (openPayload f c))

/-- The direct children of a list whose entries are known and that are not yet children. -/
def newChildren (f : Ferry) : List FerryChild :=
  ((directs f.plan (f.plan.length + 1) 1).filter (fun i => !(f.children.any (fun c => c.idx == i)))).filterMap (fun i =>
    (f.plan[i]?).map (fun e => ⟨e.1, i, e.2.2 + 1, .opening, 0, 0, false⟩))

/-- Every direct child among the entries known is opened. -/
def openChildren (s : State) (k : Nat) : State :=
  match ferryAt s k with
  | some f => (newChildren f).foldl (addChild k) s
  | none => s

/-! ## Delivery (R187) -/

/-- The access ports of a 16-bit set, ascending. -/
def portList (m : Nat) : List Nat := (List.range 16).filter (fun p => bit m p)

/-- The ports that receive data cell `i` at a destination with a port set. -/
def cellPorts (h : StreamHead) (ports i : Nat) : List Nat :=
  let ps := portList ports
  if !h.split || ps.isEmpty then ps
  else
    let at_ := (i * fmtPer h.fmt) % max 1 h.span
    (ps[at_ / max 1 (h.span / ps.length)]?).toList

/-- The stream's own delivery ports. -/
def ownPorts (f : Ferry) : Nat := match f.plan.head? with | some e => e.2.1 | none => 0

/-- A cell is delivered to one port, or counted where the context does not hold it. -/
def deliverTo (f : Ferry) (x : Cell) (pool : Option Nat) (s : State) (a : Nat) : State :=
  if !holdsPort s f.ctx a then bump s FAB_FERRY_UNDELIVERED_COUNT_COUNT 1
  else
    let s := match pool with | some p => poolShare s p (ferryOwner f.key) 1 (ferryOwner f.key) | none => s
    toAcc s { cell := { x with dest := BitVec.ofNat 15 (ownCoord s), src := BitVec.ofNat 15 (ownCoord s) }, src := jobSrc s f.job.toNat, sub := 0,
              egress := 6 + a, since := s.now, pool := pool }

/-- A copy of a window cell still waits: at an access egress, or at a torus egress. -/
def waits (s : State) (f : Ferry) (w : WinCell) (acc : Bool) : Bool :=
  s.cells.any (fun q => (decide (6 ≤ q.egress) == acc) && q.egress != ejectQ &&
    (match q.src with | .ingress _ => false | _ => true) &&
    (match w.pool with
     | some a => q.pool == some a
     | none => q.pool.isNone && q.cell.type == BitVec.ofNat 4 tDATA_PARAM && q.cell.job == f.job &&
        q.cell.tag == BitVec.ofNat 16 f.tag && q.cell.seq == BitVec.ofNat 16 w.idx))

/-! ## Retained copies: the bytes (R194) -/

/-- The address of byte `i` of a copy's parts. -/
def partAddr : List (Nat × Nat) → Nat → Nat
  | [], _ => 0
  | (a, n) :: t, i => if i < n then a + i else partAddr t (i - n)

/-- The copies of a context that match a stream. DEDUCED (log 62). -/
def copyFits (c : RetCopy) (ctx : Nat) (h : StreamHead) : Bool :=
  c.ctx == ctx && c.label == h.label && c.tide == h.tide && c.region == h.region

/-- A copy changed. DEDUCED (log 60). -/
def withCopy (s : State) (p : RetCopy → Bool) (g : RetCopy → RetCopy) : State :=
  { s with copies := s.copies.map (fun c => if p c then g c else c) }

/-- A reservation meets its first stream. One smaller than the stream's cells, 64 bytes each, ends its RETAIN with QUOTA and
stays unrecorded, its entry and its charge until RELEASE, STEP_CLOSE or a fence evicts it; a stream without a cell makes the
copy whole at once. DEDUCED (log 62). -/
def bindOne (f : Ferry) (s : State) (c : RetCopy) : State :=
  let here := fun (d : RetCopy) => d == c
  let ended := fun (s : State) (st : Nat) => match c.cmd with | some r => endCmd s r.1 r.2 st | none => s
  if c.size < 64 * f.head.cells then ended (withCopy s here (fun d => { d with head := some f.head, cmd := none })) 0x40
  else
    let b := fun (d : RetCopy) => { d with head := some f.head, tag := f.tag, ports := ownPorts f }
    if f.head.cells = 0 then ended (withCopy s here (fun d => { b d with whole := true, cmd := none })) 0
    else withCopy s here (fun d => { b d with stream := some f.key })

/-- A stream that begins is recorded by every reservation that still waits for its first stream (R194).
DEDUCED (log 62). -/
def bindCopy (s : State) (f : Ferry) : State :=
  (s.copies.filter (fun c => copyFits c f.ctx f.head && c.stream.isNone && c.head.isNone)).foldl (bindOne f) s

/-- A data cell is written into a copy that records its stream; the last one makes it whole (R193).
DEDUCED (log 62). -/
def recordOne (f : Ferry) (i : Nat) (x : Cell) (s : State) (c : RetCopy) : State :=
  let s := poke s (partAddr c.parts (64 * i)) (payloadOf x)
  let whole := c.got + 1 == f.head.cells
  let s := withCopy s (fun d => d == c) (fun d => { d with
    got := c.got + 1, whole := whole, ports := ownPorts f, stream := if whole then none else d.stream
    cmd := if whole then none else d.cmd })
  match c.cmd with
  | some r => if whole then endCmd s r.1 r.2 0 else s
  | none => s

/-- A data cell is written into every copy that records its stream. DEDUCED (log 61). -/
def recordCell (s : State) (f : Ferry) (i : Nat) (x : Cell) : State :=
  (s.copies.filter (fun c => c.stream == some f.key)).foldl (recordOne f i x) s

/-! ## The cells of a stream (R181, R183) -/

/-- Where cell `i` of the module's own stream comes from, and what stops its read. -/
def sourceRange (s : State) (f : Ferry) (i : Nat) : Nat × Nat :=
  let per := fmtPer f.head.fmt
  let m := min per (f.head.count - i * per)
  match f.src with
  | .layer l =>
    let base := match tget s.layers l with | some x => weightBase x | none => 0
    (base + 4 * (f.head.first + i * per), 4 * m)
  | .region base => (base + fmtWidth f.head.fmt * (f.head.first + i * per), fmtWidth f.head.fmt * m)
  | _ => (0, 0)

/-- One element of W in the job's parameter format; a NaN that enters from the host tier raises NV (R48).
DEDUCED (log 41). -/
def convertParam (ieee : Bool) (fmt : Nat) (host : Bool) (c : Nat) : Nat × Flags :=
  let r := match fmtLane fmt with
    | some l => laneConvert (.flt .fp32) l ieee c
    | none => (c, noFlags)
  if host && fp32Bad c then (r.1, { r.2 with nv := true, cause := 7 }) else r

/-- Weights converted: the bytes, with the flags and NV events of the lead Cay (KIND 0b011).
DESIGN CHOICE (log 124). -/
def convertCell (s : State) (f : Ferry) (l i : Nat) (bs : List Byte) : State × List Byte :=
  match tget s.layers l with
  | none => (s, bs)
  | some x =>
    let per := fmtPer f.head.fmt
    let rs := (codesOf 4 (bs.length / 4) bs).map (convertParam (ctxIeee s f.ctx) f.head.fmt (decide (hostBase ≤ weightBase x)))
    let lead := leadCay s x.desc
    let s := cayFlags s lead { (rs.foldl (fun a r => orFlags a r.2) noFlags) with nv := false }
    let bad := (rs.zipIdx).filter (fun r => r.1.2.nv)
    let s := bad.foldl (fun s r =>
      let e := f.head.first + i * per + r.2
      cayNv s lead r.1.2.cause ⟨3, f.job.toNat, ldGroup x.desc, ldLayer x.desc, e / 16, 0, e % 16⟩) s
    (withFerry s f.key (fun g => { g with nv := g.nv || !bad.isEmpty }),
     rs.flatMap (fun r => natLe (fmtWidth f.head.fmt) r.1))

/-- The payload of cell `i` of the module's own stream, or the status that stops the stream. -/
def sourceCell (s : State) (f : Ferry) (i : Nat) : State × Except Nat (List Byte) :=
  match f.src with
  | .copy =>
    match s.copies.find? (fun c => copyFits c f.ctx f.head && c.whole) with
    | some c =>
      match memRead s (some f.ctx) (partAddr c.parts (64 * i)) 64 with
      | r => r
    | none => (s, .error 0x31)
  | .layer l =>
    let r := sourceRange s f i
    match memRead s (some f.ctx) r.1 r.2 with
    | (s, .ok bs) => let u := convertCell s f l i bs; (u.1, .ok u.2)
    | (s, .error e) => (s, .error e)
  | .region _ =>
    let r := sourceRange s f i
    memRead s (some f.ctx) r.1 r.2
  | .parent _ _ => (s, .ok [])

/-- A data cell of a stream. -/
def paramCell (f : Ferry) (i : Nat) (payload : List Byte) : Cell :=
  { type := BitVec.ofNat 4 tDATA_PARAM, vc := 6, job := f.job, tag := BitVec.ofNat 16 f.tag, seq := BitVec.ofNat 16 i
    last := i + 1 == f.head.cells, payload := slice (payload ++ zeros 64) 0 64 }

/-- A data cell enters a stream's window: delivered, recorded. -/
def takeCell (s : State) (k : Nat) (x : Cell) (pool : Option Nat) : State :=
  match ferryAt s k with
  | none => s
  | some f =>
    let i := f.got
    let s := withFerry s k (fun f => { f with got := i + 1, window := f.window ++ [⟨i, x, pool⟩] })
    let s := (cellPorts f.head (ownPorts f) i).foldl (deliverTo f x pool) s
    match f.src with
    | .copy => s
    | _ => recordCell s f i x

/-! ## The end of a stream -/

/-- GATHERs bound to a stream end with a status, their DETAIL the cells delivered. -/
def endGathers (s : State) (k st n : Nat) : State :=
  let mine := s.gathers.filter (fun g => g.bound == some k)
  let s := { s with gathers := s.gathers.filter (fun g => g.bound != some k) }
  mine.foldl (fun s g => endCmdWith s g.cmd.1 g.cmd.2 st n) s

/-- Cells of a window go back to the pool. -/
def freeWindow (s : State) (f : Ferry) : State :=
  f.window.foldl (fun s w => match w.pool with
    | some a => (poolFree s a (ferryOwner f.key)).1
    | none => s) s

/-- Leading data cells all delivered. -/
def deliveredCells (s : State) (f : Ferry) : Nat :=
  match f.window.find? (fun w => waits s f w true) with
  | some w => w.idx
  | none => f.got

/-- Chunk posts of a GATHER up to a number of posts. -/
def gatherPosts : Nat → State → Nat → State
  | 0, s, _ => s
  | n + 1, s, o => gatherPosts n (post s o .add 1 0) o

/-- The chunk posts that delivery has come to (R192). -/
def postGathers (s : State) (f : Ferry) : State :=
  let d := deliveredCells s f
  s.gathers.foldl (fun s g =>
    if g.bound ≠ some f.key then s
    else
      let want := d / max 1 g.chunk + (if d = f.head.cells then 1 else 0)
      let s := { s with gathers := s.gathers.map (fun h => if h = g then { h with posts := max h.posts want } else h) }
      match g.obj with
      | some o => gatherPosts (want - g.posts) s o
      | none => s) s

/-- A stream leaves the module: its record kept until STEP_CLOSE, its GATHERs complete. -/
def closeFerry (s : State) (f : Ferry) : State :=
  let s := endGathers (postGathers s f) f.key 0 f.head.cells
  let s := { s with ferries := s.ferries.filter (fun g => g.key != f.key) }
  let s := match f.src with
    | .copy => s
    | _ => { s with finished := s.finished ++ [⟨f.order, f.ctx, f.head.label, f.head.region, f.head.tide, f.head.cells⟩] }
  showSlots s

/-- A stream ends before its last cell: each accepted child gets ABORT, the window is freed, its GATHERs and its command end
with a code. DEDUCED (log 60). -/
def dropFerry (s : State) (k : Nat) (st : Nat) : State :=
  match ferryAt s k with
  | none => s
  | some f =>
    let s := (f.children.filter (fun c => c.state == .accepted)).foldl
      (fun s c => sendJob s c.coord (ferryCell f true (natLe 1 2))) s
    let s := freeWindow s f
    let s := withCopy s (fun c => c.stream == some k) (fun c => { c with stream := none, head := none, got := 0 })
    let s := endGathers s k st (deliveredCells s f)
    let s := { s with ferries := s.ferries.filter (fun g => g.key != k) }
    let s := match f.cmd with | some r => endCmd s r.1 r.2 st | none => s
    showSlots s

/-- A slot is aborted under R190, and counted. DEDUCED (log 60). -/
def abortFerry (s : State) (k : Nat) : State := dropFerry (bump s FAB_FERRY_ABORT_COUNT_COUNT 1) k 0x30

/-- Unserved ranges in ascending order. -/
def insertRange (x : Nat × Nat) : List (Nat × Nat) → List (Nat × Nat)
  | [] => [x]
  | y :: t => if x.1 < y.1 then x :: y :: t else y :: insertRange x t
/-- The sorted ranges. -/
def sortRanges (l : List (Nat × Nat)) : List (Nat × Nat) := l.foldl (fun a x => insertRange x a) []

/-- FINISHED cells with their ranges, 14 to a cell (R188). -/
def finishedCells (f : Ferry) : Nat → List (Nat × Nat) → List Cell
  | 0, _ => []
  | n + 1, rs =>
    let now := rs.take 14
    let rest := rs.drop 14
    let p := natLe 1 0x84 ++ natLe 1 now.length ++ zeros 2 ++ now.flatMap (fun r => natLe 2 r.1 ++ natLe 2 r.2)
    { ferryCell f false p with last := rest.isEmpty } :: (if rest.isEmpty then [] else finishedCells f n rest)

/-- Ranges that the result area holds (R191). -/
def maxRanges : Nat := 256
/-- The result area of a plan of `n` entries (R185). -/
def resultArea (plan n : Nat) : Nat := plan + 32 + 8 * n
/-- A completing FERRY_SEND would write over a layer's protected state (R150). -/
def resultProtected (s : State) (plan n : Nat) : Bool :=
  stateProtected s (plan + 0x0C) 4 || stateProtected s (resultArea plan n) (4 * maxRanges)

/-- The sender's FERRY_SEND completes (R191): up to 256 ranges into the result area, their number into UNSERVED, nothing
into a layer's protected state (R150). DEDUCED (log 63). DESIGN CHOICE (log 139). -/
def endSend (s : State) (f : Ferry) : State :=
  match f.cmd with
  | none => s
  | some r =>
    let rs := (sortRanges f.unserved).take maxRanges
    let n := f.plan.length - 1
    let st := worst ((if rs.isEmpty then [] else [0x30]) ++ (if f.noSpare then [0x32] else []) ++ (if f.nv then [0x50] else []))
    let done := fun (s : State) => withFerry s f.key (fun g => { g with cmd := none })
    if resultProtected s f.planAddr n then done (endCmd s r.1 r.2 0x12)
    else
      let s := (memWrite s (some f.ctx) (resultArea f.planAddr n) (rs.flatMap (fun x => natLe 2 x.1 ++ natLe 2 x.2))).1
      let s := (memWrite s (some f.ctx) (f.planAddr + 0x0C) (natLe 4 rs.length)).1
      done (endCmdWith s r.1 r.2 st rs.length)

/-! ## Progress -/

/-- The source of a stream can be read: of a layer's weights, the lead Cay that its map entry names is in service (R181).
DESIGN CHOICE (log 127). -/
def sourceReady (s : State) (f : Ferry) : Bool :=
  match f.src with
  | .parent _ _ => false
  | .layer l =>
    match tget s.layers l with
    | some x => flag s (FAB_RED_CAY_MAP_VALID (ldGroup x.desc % 128)) && cayUp s (leadCay s x.desc)
    | none => true
  | _ => true

/-- The module's own stream reads its next cells into its window. -/
def readCells : Nat → State → Nat → State
  | 0, s, _ => s
  | n + 1, s, k =>
    match ferryAt s k with
    | none => s
    | some f =>
      if sourceReady s f ∧ f.got < f.head.cells ∧ f.window.length < 512 then
        match sourceCell s f f.got with
        | (s, .ok bs) => readCells n (takeCell s k (paramCell f f.got bs) none) k
        | (s, .error e) => dropFerry s k e
      else s

/-- The plan cells of a child: its entry and relay list, 8 entries to a cell. DEDUCED (log 59). -/
def planCells (f : Ferry) (c : FerryChild) : List Cell :=
  let es := (f.plan.drop c.idx).take c.size
  (List.range ((c.size + 7) / 8)).map (fun j =>
    { paramCell f j (((es.drop (8 * j)).take 8).flatMap (fun e => natLe 2 e.1 ++ natLe 2 e.2.1 ++ natLe 2 e.2.2 ++ zeros 2))
      with last := false })

/-- A cell of a stream goes to a child, with a reference to its pool cell. -/
def copyTo (s : State) (f : Ferry) (c : FerryChild) (pool : Option Nat) (x : Cell) : State :=
  match nextHop s (ownCoord s) c.coord false none with
  | none => s
  | some (p, dl) =>
    let s := match pool with | some a => poolShare s a (ferryOwner f.key) 1 (ferryOwner f.key) | none => s
    injectAt s (jobSrc s f.job.toNat) p dl pool
      { x with dest := BitVec.ofNat 15 c.coord, src := BitVec.ofNat 15 (ownCoord s) }

/-- The children of a stream with one changed. -/
def setChild (s : State) (k idx : Nat) (g : FerryChild → FerryChild) : State :=
  withFerry s k (fun f => { f with children := f.children.map (fun c => if c.idx = idx then g c else c) })

/-- An accepted child gets its plan cells once they are all known, then data cells up to 512 beyond its RETIRED. -/
def feedChild : Nat → State → Nat → Nat → State
  | 0, s, _, _ => s
  | n + 1, s, k, idx =>
    match ferryAt s k with
    | none => s
    | some f =>
      match f.children.find? (fun c => c.idx == idx && c.state == .accepted) with
      | none => s
      | some c =>
        if !c.planSent then
          if c.idx + c.size ≤ f.plan.length then
            feedChild n (setChild ((planCells f c).foldl (fun s x => copyTo s f c none x) s) k idx
              (fun c => { c with planSent := true })) k idx
          else s
        else if c.sent < f.got ∧ c.sent < c.window + 512 then
          match f.window.find? (fun w => w.idx == c.sent) with
          | some w =>
            feedChild n (setChild (copyTo s f c w.pool w.cell) k idx (fun c => { c with sent := c.sent + 1 })) k idx
          | none => s
        else s

/-- Cells delivered, written and gone toward every child are retired (R188 step 6). -/
def retireCells (s : State) (k : Nat) : State :=
  match ferryAt s k with
  | none => s
  | some f =>
    let done := f.window.filter (fun w =>
      (f.children.filter childLive).all (fun c => decide (w.idx < c.sent)) && !waits s f w true && !waits s f w false)
    let s := done.foldl (fun s w => match w.pool with
      | some a => (poolFree s a (ferryOwner k)).1
      | none => s) s
    withFerry s k (fun f => { f with
      window := f.window.filter (fun w => !done.contains w), retired := f.retired + done.length })

/-- WINDOW every 64 retired cells and at the last. DEDUCED (log 59). -/
def reportWindow : Nat → State → Nat → State
  | 0, s, _ => s
  | n + 1, s, k =>
    match ferryAt s k with
    | none => s
    | some f =>
      match f.src with
      | .parent p _ =>
        let next := min f.head.cells ((f.reported / 64 + 1) * 64)
        if f.reported < next ∧ next ≤ f.retired then
          let s := sendJob s p (ferryCell f false (natLe 1 0x83 ++ zeros 3 ++ natLe 4 next))
          reportWindow n (withFerry s k (fun f => { f with reported := next })) k
        else s
      | _ => s

/-- A stream that is served: FINISHED to the parent, or the sender's completion. -/
def finishFerry (s : State) (k : Nat) : State :=
  match ferryAt s k with
  | none => s
  | some f =>
    let kids := f.children.all (fun c => !childLive c)
    match f.src with
    | .parent p _ =>
      if kids && f.plan.length == f.head.entries && f.retired == f.head.cells then
        let rs := sortRanges f.unserved
        closeFerry ((finishedCells f (rs.length + 1) rs).foldl (fun s x => sendJob s p x) s) f
      else s
    | _ =>
      let s := if kids then endSend s f else s
      if kids && f.retired == f.head.cells then closeFerry s f else s

/-- One round of a stream's work. -/
def ferryRound (s : State) (k : Nat) : State :=
  let s := readCells 512 s k
  let s := match ferryAt s k with
    | some f => (f.children.map (fun c => c.idx)).foldl (fun s i => feedChild 513 s k i) s
    | none => s
  let s := match ferryAt s k with
    | some f => postGathers s f
    | none => s
  finishFerry (reportWindow 16 (retireCells s k) k) k

/-- A stream's work, as far as its cells have left. -/
def ferryRun (s : State) (k : Nat) : State := ferryRound (ferryRound s k) k
/-- Every stream's work. -/
def ferryGo (s : State) : State := (s.ferries.map (fun f => f.key)).foldl ferryRun s

/-- GATHERs that wait for their stream bind to one that begins (R192). DEDUCED (log 61). -/
def bindGathers (s : State) (f : Ferry) : State :=
  { s with gathers := s.gathers.map (fun g =>
      if g.bound.isNone && g.ctx == f.ctx && g.label == f.head.label && g.region == f.head.region &&
        g.tide == f.head.tide then { g with bound := some f.key } else g) }

/-- A stream begins at this module. -/
def beginFerry (s : State) (f : Ferry) : State :=
  let f := { f with order := s.begun }
  bindGathers (bindCopy (showSlots { s with ferries := s.ferries ++ [f], begun := s.begun + 1 }) f) f

/-! ## FERRY_SEND (R181 to R187) -/

/-- An entry of a plan in memory: DEST, PORTS, SUBTREE, and whether a reserved field is nonzero. -/
def planEntry (bs : List Byte) (i : Nat) : (Nat × Nat × Nat) × Bool :=
  let d := fieldAt bs (8 * i) 2
  ((d % 32768, fieldAt bs (8 * i + 2) 2, fieldAt bs (8 * i + 4) 2), decide (32768 ≤ d) || fieldAt bs (8 * i + 6) 2 != 0)

/-- The depth of an entry (R186). -/
def planDepth (es : List (Nat × Nat × Nat)) (i : Nat) : Nat :=
  1 + (((es.take i).zipIdx).filter (fun p => decide (i ≤ p.2 + p.1.2.2))).length

/-- A port set under SPLIT whose span does not divide evenly (R186). -/
def splitUnfit (span per ports : Nat) : Bool :=
  let n := (portList ports).length
  decide (0 < n) && span % (n * per) != 0

/-- R186's refusals, of the header and the entries. -/
def planBad (s : State) (h : List Byte) (raw : List ((Nat × Nat × Nat) × Bool)) (per count : Nat) : Bool :=
  let es := raw.map (fun e => e.1)
  let span := fieldAt h 8 4
  let split := bit (fieldAt h 4 1) 0
  decide (1 < fieldAt h 4 1) || fieldAt h 5 3 != 0 || fieldAt h 0x10 16 != 0 || (!split && span != 0) ||
  raw.any (fun e => e.2) ||
  (es.zipIdx).any (fun p => decide (es.length ≤ p.2 + p.1.2.2) || p.1.1 == ownCoord s || !coordOk s p.1.1 ||
    decide (32 < planDepth es p.2) || (es.take p.2).any (fun e => e.1 == p.1.1)) ||
  (split && (es.any (fun e => splitUnfit span per e.2.1) || splitUnfit span per (fieldAt h 2 2) || count % span != 0))

/-- What FERRY_SEND's own fields break, and the layer it names. DEDUCED (log 63). -/
def sendChecks (s : State) (c : Nat) (b : List Byte) : Except Nat (FerrySrc × Nat × Nat) :=
  let first := fieldAt b 0x28 4
  let count := fieldAt b 0x2C 4
  let region := fieldAt b 0x20 8
  let label := fieldAt b 0x14 2
  if fieldAt b 0x10 1 = 1 then
    let f := fieldAt b 0x11 1
    let a := region + fmtWidth f * first
    if 7 < f ∨ !(within a (fmtWidth f * count) (hbmWin s c) || within a (fmtWidth f * count) (lagoonWin s c)) then .error 0x13
    else .ok (.region region, f, ctxTide s c)
  else if fieldAt b 0x11 1 ≠ 0 ∨ region ≠ 0 then .error 0x13
  else
    match layerOf s c label with
    | none => .error 0x12
    | some (l, x) =>
      if ldE x.desc < first + count then .error 0x13
      else if !jCommitted s l then .error 0x12
      else .ok (.layer l, getF s (CTX_CFG_PFMT c), jTide s l)

/-- The code of FERRY_SEND's own fields. -/
def sendCode (s : State) (c : Nat) (b : List Byte) : List Nat :=
  match sendChecks s c b with
  | .error e => [e]
  | .ok _ => []

/-- The elements of a cell of FERRY_SEND's format. -/
def sendPer (s : State) (c : Nat) (b : List Byte) : Nat :=
  match sendChecks s c b with
  | .ok q => fmtPer q.2.1
  | .error _ => fmtPer (getF s (CTX_CFG_PFMT c))

/-- The codes of a plan whose entries are known, or, where they cannot be read, of its header (R150, R186). -/
def planCodes (s : State) (c pa n : Nat) (h b : List Byte) (raw : List ((Nat × Nat × Nat) × Bool)) : List Nat :=
  (if planBad s h raw (sendPer s c b) (fieldAt b 0x2C 4) then [0x13] else []) ++ (if resultProtected s pa n then [0x12] else [])

/-- FERRY_SEND: its fields and the plan, the code of highest rank first (R297), then the streams to the direct
destinations. DEDUCED (log 63). -/
def ferrySend (s : State) (k i c : Nat) (b : List Byte) : State :=
  let pa := fieldAt b 0x18 8
  if !within pa 32 (hbmWin s c) then endCmd s k i 0x13
  else
    match memRead s (some c) pa 32 with
    | (s, .error e) => endCmd s k i (worst (e :: sendCode s c b))
    | (s, .ok h) =>
      let n := fieldAt h 0 2
      if n = 0 ∨ 1023 < n ∨ !within pa (32 + 8 * n + 1024) (hbmWin s c) then endCmd s k i 0x13
      else
        match memRead s (some c) (pa + 32) (8 * n) with
        | (s, .error e) => endCmd s k i (worst (e :: (sendCode s c b ++ planCodes s c pa n h b [])))
        | (s, .ok bs) =>
          let raw := (List.range n).map (planEntry bs)
          let count := fieldAt b 0x2C 4
          let codes := sendCode s c b ++ planCodes s c pa n h b raw
          if !codes.isEmpty then endCmd s k i (worst codes)
          else
            match sendChecks s c b with
            | .error e => endCmd s k i e
            | .ok (src, fmt, tide) =>
                let head : StreamHead := ⟨0, n + 1, fmt, bit (fieldAt h 4 1) 0, fieldAt b 0x10 1 == 1, fieldAt b 0x14 2,
                  tide, fieldAt b 0x28 4, count, fieldAt h 8 4, streamCells fmt count⟩
                let f : Ferry := { key := ownKey s, ctx := c, job := BitVec.ofNat 16 (ctxJob s c)
                                   tag := ctxTide s c % 8 * 8192 + fieldAt b 0x12 2 % 8192, src := src, head := head
                                   plan := (ownCoord s, fieldAt h 2 2, n) :: raw.map (fun e => e.1), cmd := some (k, i)
                                   planAddr := pa }
                ferryRun (openChildren (beginFerry s f) f.key) f.key

/-- FERRY_SEND (R181). -/
def ferrySendRun (c : Ctx) (q : QNum) (i : Word) (s : State) : Res :=
  runCmd s c q i 0x04 (fun s k b => ferrySend s k i.toNat c.val b)

/-! ## The exchange of a hop (R188) -/

/-- The payload's operation code. -/
def opOf (x : Cell) : Nat := fieldAt (payloadOf x) 0 1
/-- The cell is a REQ or RSP of an operation. -/
def isOp (x : Cell) (ty op : Nat) : Bool := x.type.toNat == ty && !x.echo && opOf x == op

/-- What an OPEN carries. -/
def openHead (x : Cell) : StreamHead :=
  let p := payloadOf x
  ⟨fieldAt p 1 1, fieldAt p 2 2, fieldAt p 4 1, bit (fieldAt p 5 1) 0, bit (fieldAt p 5 1) 1, fieldAt p 6 2, fieldAt p 8 4,
   fieldAt p 0x0C 4, fieldAt p 0x10 4, fieldAt p 0x14 4, fieldAt p 0x18 4⟩

/-- Answers that wait in a die's BUSY list (R229). -/
def busyWaiting (s : State) (d : Nat) : Nat := (s.cells.filter (fun q => q.src == .busy d)).length

/-- An OPEN is queued on the die of its port, or answered BUSY; it waits at ingress while the BUSY list is full too. -/
def openArrives (s : State) (p : Nat) (x : Cell) : Option State :=
  let d := portDie p
  if (s.opens.filter (fun o => o.die == d)).length < 64 then
    some { s with opens := s.opens ++ [⟨d, p, x.src.toNat, x.job, x.tag.toNat, openHead x⟩] }
  else if busyWaiting s d < 64 then
    let y : Cell := { type := BitVec.ofNat 4 tRSP, vc := 5, job := x.job, tag := x.tag, payload := natLe 1 0x82 ++ zeros 63 }
    some (bump (sendTo s (.busy d) x.src.toNat y) FAB_FERRY_BUSY_COUNT_COUNT 1)
  else none

/-- OPEN (R188). -/
def execFerryOpen (p : TorusPort) (x : Cell) (s : State) : Res :=
  if isOp x tREQ 0x01 then receive s p.val x (fun s => openArrives s p.val x) else .next s

/-- The free slot of a depth on a die. -/
def freeSlot (s : State) (d depth : Nat) : Option Nat :=
  ((List.range 4).map (fun j => 128 * d + 4 * (depth - 1) + j)).find? (fun k => (ferryAt s k).isNone)

/-- STREAM_SLOT_TAKEN (R188): the `n`-th queued OPEN of a die takes a free slot of its depth, and ACCEPT goes back. -/
def execStreamSlotTaken (d : Die) (n : Nat) (s : State) : Res :=
  match (s.opens.filter (fun o => o.die == d.val))[n]? with
  | none => .next s
  | some o =>
    if o.head.depth = 0 ∨ 32 < o.head.depth then .next s
    else
      match freeSlot s d.val o.head.depth, jobCtx s o.job.toNat with
      | some k, some c =>
        let f : Ferry := { key := k, ctx := c, job := o.job, tag := o.tag, src := .parent o.parent o.port, head := o.head }
        let s := beginFerry { s with opens := s.opens.erase o } f
        .next (sendJob s o.parent (ferryCell f false (natLe 1 0x81)))
      | _, _ => .next s

/-- The stream of a cell that comes from its parent. -/
def fromParent (s : State) (x : Cell) : Option Ferry :=
  s.ferries.find? (fun f => f.job == x.job && f.tag == x.tag.toNat &&
    (match f.src with | .parent p _ => p == x.src.toNat | _ => false))

/-- The stream and child of a cell that comes from a child. -/
def fromChild (s : State) (x : Cell) (p : FerryChild → Bool) : Option (Ferry × FerryChild) :=
  s.ferries.findSome? (fun f =>
    if f.job == x.job && f.tag == x.tag.toNat then
      (f.children.find? (fun c => c.coord == x.src.toNat && p c)).map (fun c => (f, c))
    else none)

/-- What an ABORT does (R190). -/
def ferryAborted (s : State) (_p : Nat) (x : Cell) : State :=
  match fromParent s x with
  | some f => abortFerry s f.key
  | none => { s with opens := s.opens.filter (fun o =>
      !(o.job == x.job && o.tag == x.tag.toNat && o.parent == x.src.toNat)) }

/-- ABORT (R190): the slot is aborted, or the queued OPEN withdrawn. -/
def execFerryAbort (p : TorusPort) (x : Cell) (s : State) : Res :=
  if isOp x tREQ 0x02 then receive s p.val x (fun s => some (ferryAborted s p.val x)) else .next s

/-- What a BUSY does (R188). -/
def ferryBusied (s : State) (_p : Nat) (x : Cell) : State :=
  match fromChild s x (fun c => c.state == .opening) with
  | some (f, c) => setChild s f.key c.idx (fun c => { c with state := .busy s.now })
  | none => s

/-- BUSY (R188): the OPEN is sent again FAB_FERRY_BUSY_RETRY ticks later. -/
def execFerryBusy (p : TorusPort) (x : Cell) (s : State) : Res :=
  if isOp x tRSP 0x82 then receive s p.val x (fun s => some (ferryBusied s p.val x)) else .next s

/-- FERRY_BUSY_RETRY (R188): refused OPENs of a stream whose delay has passed go out again. -/
def execFerryBusyRetry (k : Nat) (s : State) : Res :=
  match ferryAt s k with
  | none => .next s
  | some f =>
    .next (f.children.foldl (fun s c =>
      match c.state with
      | .busy t =>
        if t + (rd s FAB_FERRY_BUSY_RETRY).toNat ≤ s.now then
          sendJob (setChild s k c.idx (fun c => { c with state := .opening })) c.coord (ferryCell f true (openPayload f c))
        else s
      | _ => s) s)

/-- A plan cell of a slot: 8 entries of its list; children whose entries are known are opened. -/
def takePlan (s : State) (f : Ferry) (x : Cell) : State :=
  let es := ((List.range 8).map (fun i => (planEntry (payloadOf x) i).1)).take (f.head.entries - f.plan.length)
  let s := withFerry s f.key (fun f => { f with plan := f.plan ++ es })
  let s := match f.plan with
    | [] => withCopy s (fun c => c.stream == some f.key) (fun c => { c with
        ports := match es.head? with | some e => e.2.1 | none => 0 })
    | _ => s
  ferryRun (openChildren s f.key) f.key

/-- The cell is the next plan cell of a slot. DEDUCED (log 59). -/
def isPlanCell (s : State) (x : Cell) : Bool :=
  match fromParent s x with
  | some f => decide (f.plan.length < f.head.entries)
  | none => false

/-- What a plan cell does (R188). -/
def planTaken (s : State) (_p : Nat) (x : Cell) : State :=
  match fromParent s x with
  | some f => takePlan s f x
  | none => s

/-- PLAN_CELL (R188). -/
def execPlanCell (p : TorusPort) (x : Cell) (s : State) : Res :=
  if x.type.toNat = tDATA_PARAM ∧ isPlanCell s x then receive s p.val x (fun s => some (planTaken s p.val x)) else .next s

/-- A data cell is consumed into its slot's window, in a pool cell of the slot's die. -/
def takeData (s : State) (f : Ferry) (x : Cell) : State :=
  let x := { x with dateline := false, mark := false, retry := false }
  match poolAlloc s (f.key / 128) (ferryOwner f.key) none with
  | some (a, s) => ferryRun (takeCell s f.key x (some a)) f.key
  | none => ferryRun (takeCell s f.key x none) f.key

/-- What a DATA_PARAM cell does (R188). -/
def dataTaken (s : State) (_p : Nat) (x : Cell) : State :=
  match fromParent s x with
  | some f => takeData s f x
  | none => s

/-- DATA_PARAM (R188). -/
def execDataParam (p : TorusPort) (x : Cell) (s : State) : Res :=
  if x.type.toNat = tDATA_PARAM ∧ !isPlanCell s x then receive s p.val x (fun s => some (dataTaken s p.val x)) else .next s

/-! ## Fences (R190) -/

/-- The streams after the fabric's view has changed: children held as fenced fail, slots of a fenced parent are
aborted. -/
def ferryFences (s : State) : State :=
  let s := { s with opens := s.opens.filter (fun o => !childFenced s o.parent) }
  let s := s.ferries.foldl (fun s f =>
    match f.src with
    | .parent p _ => if childFenced s p then abortFerry s f.key else s
    | _ => s) s
  let s := s.ferries.foldl (fun s f =>
    (f.children.filter (fun c => childLive c && childFenced s c.coord)).foldl (fun s c =>
      purgeEgress (failChild s f.key c) (match nextHop s (ownCoord s) c.coord false none with | some (p, _) => p | none => 99)
        (fun q => q.cell.dest.toNat == c.coord && q.cell.job == f.job && q.cell.tag.toNat == f.tag &&
          q.cell.type == BitVec.ofNat 4 tDATA_PARAM && (match q.src with | .ingress _ => false | _ => true))) s) s
  ferryGo s

/-- A stream has a data cell still to come for an access port of its context (R187): among its next span of cells, under
SPLIT, or its next cell. -/
def cellsDue (s : State) (f : Ferry) (a : Nat) : Bool :=
  let k := if f.head.split then max 1 (f.head.span / fmtPer f.head.fmt) else 1
  holdsPort s f.ctx a &&
    (List.range (min k (f.head.cells - f.got))).any (fun j => (cellPorts f.head (ownPorts f) (f.got + j)).contains a)

/-- A slot or a copy delivers to an access port (R396): it has cells still to come, or cells that wait at the port. -/
def ferryDelivers (s : State) (a : Nat) : Bool :=
  s.ferries.any (fun f => bit (ownPorts f) a && (cellsDue s f a || s.cells.any (fun q => q.egress == 6 + a &&
    q.cell.type == BitVec.ofNat 4 tDATA_PARAM && q.cell.job == f.job && q.cell.tag == BitVec.ofNat 16 f.tag)))

/-- A FERRY_SEND still reads a layer's weights (R184). -/
def ferryReads (s : State) (l : Nat) : Bool :=
  s.ferries.any (fun f => f.src == .layer l && decide (f.got < f.head.cells))

/-! ## GATHER (R192, R195) -/

/-- A whole copy of a context, by its names. -/
def wholeCopy (s : State) (c label tide : Nat) (region : Bool) : Option RetCopy :=
  s.copies.find? (fun x => x.ctx == c && x.label == label && x.tide == tide && x.region == region && x.whole)

/-- Delivery from a whole copy, as the stream delivered it. -/
def gatherCopy (s : State) (g : Gather) (x : RetCopy) : State :=
  match x.head with
  | none => s
  | some h =>
    let f : Ferry := { key := ownKey s, ctx := g.ctx, job := BitVec.ofNat 16 (ctxJob s g.ctx), tag := x.tag, src := .copy
                       head := h, plan := [(ownCoord s, x.ports, 0)] }
    ferryRun { s with ferries := s.ferries ++ [f], gathers := s.gathers ++ [{ g with bound := some f.key }] } f.key

/-- A GATHER names a stream of its context's job. -/
def gatherNames (g : Gather) (ctx label tide : Nat) (region : Bool) : Bool :=
  ctx == g.ctx && label == g.label && tide == g.tide && region == g.region

/-- The first of the running and finished streams that a GATHER names, in the order in which they began (R192): its order,
and the key of a running one or the record. -/
def firstStream (s : State) (g : Gather) : Option (Nat × (Ferry ⊕ FinRec)) :=
  let run := (s.ferries.filter (fun f => f.src != .copy && gatherNames g f.ctx f.head.label f.head.tide f.head.region)).map
    (fun f => (f.order, (Sum.inl f : Ferry ⊕ FinRec)))
  let fin := (s.finished.filter (fun r => gatherNames g r.ctx r.label r.tide r.region)).map
    (fun r => (r.order, (Sum.inr r : Ferry ⊕ FinRec)))
  (run ++ fin).foldl (fun b x => match b with
    | none => some x
    | some y => if x.1 < y.1 then some x else some y) none

/-- A GATHER binds to the first stream that matches, begun, finished or still to come. -/
def gatherStream (s : State) (g : Gather) : State :=
  match firstStream s g with
  | some (_, .inr r) =>
    let s := match g.obj with
      | some o => gatherPosts (r.cells / max 1 g.chunk + 1) s o
      | none => s
    endCmdWith s g.cmd.1 g.cmd.2 0 r.cells
  | some (_, .inl f) => postGathers { s with gathers := s.gathers ++ [{ g with bound := some f.key }] } f
  | none => { s with gathers := s.gathers ++ [g] }

/-- GATHER of a command. -/
def gatherCmd (s : State) (k i c : Nat) (b : List Byte) : State :=
  let src := fieldAt b 0x12 1
  let g : Gather := { cmd := (k, i), ctx := c, label := fieldAt b 0x10 2, region := bit (fieldAt b 0x13 1) 0
                      tide := fieldAt b 0x18 4, obj := sigRef (fieldAt b 0x14 2), chunk := fieldAt b 0x1C 4 }
  match (if src = 0 then none else wholeCopy s c g.label g.tide g.region) with
  | some x => gatherCopy s g x
  | none => if src = 1 then endCmd s k i 0x31 else gatherStream s g

/-- GATHER (R192). -/
def execGather (c : Ctx) (q : QNum) (i : Word) (s : State) : Res :=
  runCmd s c q i 0x03 (fun s k b => gatherCmd s k i.toNat c.val b)

/-! ## RETAIN and RELEASE (R193, R196) -/

/-- The largest free run of a slice, in units, up to a wanted number: first address and length. -/
def freeRun (s : State) (n want : Nat) : Nat × Nat :=
  let r := tierRange (.slice n)
  let obs := obstacles s
  let fin := r.1 + r.2
  let starts := (r.1 :: obs.map (fun o => o.1 + o.2)).filter (fun a =>
    decide (r.1 ≤ a) && decide (a < fin) && !(obs.any (fun o => decide (o.1 ≤ a) && decide (a < o.1 + o.2))))
  let runs := starts.map (fun a =>
    let e := (obs.filter (fun o => decide (a < o.1))).foldl (fun e o => min e o.1) fin
    (a, min want ((e - a) / chargeUnit * chargeUnit)))
  runs.foldl (fun b x => if b.2 < x.2 then x else b) (r.1, 0)

/-- The free runs of a slice are taken, the largest first, until the size is held: what is left, and the state. -/
def fillSlice (c : Nat) (use : AllocFor) (k : Nat) : Nat → Nat → State → Nat × State
  | 0, left, s => (left, s)
  | n + 1, left, s =>
    let x := if cayUp s k then freeRun s k left else (0, 0)
    if x.2 = 0 then (left, s)
    else
      let f := usedFld false c
      fillSlice c use k n (left - x.2)
        (setF { s with allocs := s.allocs ++ [⟨x.1, x.2, c, use⟩] } f (getF s f + x.2 / chargeUnit))

/-- Slices are filled in ascending Cay number until the size is held. -/
def fillSlices (c : Nat) (use : AllocFor) : List Nat → Nat → State → Option State
  | _, 0, s => some s
  | [], _ + 1, _ => none
  | k :: ks, left, s =>
    let r := fillSlice c use k ((obstacles s).length + 1) left s
    fillSlices c use ks r.1 r.2

/-- A number that no copy of a context has. -/
def freshCopy (s : State) (c : Nat) : Nat := (((s.copies.filter (fun x => x.ctx == c)).map (fun x => x.n + 1)).foldl max 0)

/-- RETAIN of a command: the reservation, and the wait for its stream. DEDUCED (log 62). -/
def retainCmd (s : State) (k i c : Nat) (b : List Byte) : State :=
  let label := fieldAt b 0x10 2
  let region := bit (fieldAt b 0x12 1) 0
  let keep := fieldAt b 0x13 1
  let tide := fieldAt b 0x14 4
  let size := fieldAt b 0x18 8
  let n := freshCopy s c
  let use := AllocFor.retained label region tide n
  let u := unitsOf size
  if !fitsQuota s false c u then endCmd (bump s (MEM_CTX_REFUSE_COUNT_COUNT c) 1) k i 0x40
  else
    match fillSlices c use (List.range 128) (u * chargeUnit) s with
    | none => endCmd (bump s MEM_SPACE_SHORT_COUNT_COUNT 1) k i 0x40
    | some s =>
      let parts := (s.allocs.filter (fun a => a.ctx == c && a.use == use)).map (fun a => (a.base, a.len))
      let x : RetCopy := { ctx := c, label := label, region := region, tide := tide, keep := keep, size := size
                           cmd := some (k, i), parts := parts, n := n }
      { s with copies := s.copies ++ [x] }

/-- RETAIN (R193). -/
def execRetain (c : Ctx) (q : QNum) (i : Word) (s : State) : Res :=
  runCmd s c q i 0x09 (fun s k b => retainCmd s k i.toNat c.val b)

/-- A copy is evicted: its reservation returned; a RETAIN that still waits ends with a status, a GATHER that it serves with
FENCED_CAY, or the code of the fence. -/
def evictCopy (s : State) (x : RetCopy) (st gst : Nat) : State :=
  let s := { s with copies := s.copies.filter (fun y => y != x) }
  let s := releaseAllocs s (fun a => a.ctx == x.ctx && a.use == AllocFor.retained x.label x.region x.tide x.n)
  let s := match x.cmd with | some r => endCmd s r.1 r.2 st | none => s
  (s.ferries.filter (fun f => f.src == .copy && copyFits x f.ctx f.head)).foldl (fun s f =>
    let s := endGathers s f.key gst (deliveredCells s f)
    { s with ferries := s.ferries.filter (fun g => g.key != f.key) }) s

/-- A Cay whose slice holds part of a copy is fenced: the whole copy is lost (R196), and the commands whose work it was end
with a code (R390). -/
def loseCopies (s : State) (n code : Nat) : State :=
  let lo := lagoonBase + n * 0x8000000
  (s.copies.filter (fun x => x.parts.any (fun p => overlap p.1 p.2 lo 0x8000000))).foldl (fun s x =>
    bump (evictCopy s x code code) FAB_FERRY_RET_LOST_COUNT_COUNT 1) s

/-- FERRY_SENDs that read a region of a lost slice end with a code (R255, R390). -/
def loseRegions (s : State) (n code : Nat) : State :=
  let lo := lagoonBase + n * 0x8000000
  (s.ferries.filter (fun f => (match f.src with | .region _ => true | _ => false) && decide (f.got < f.head.cells) &&
    (let r := sourceRange s f f.got
     let fin := sourceRange s f (f.head.cells - 1)
     overlap r.1 (fin.1 + fin.2 - r.1) lo 0x8000000))).foldl (fun s f => dropFerry s f.key code) s

/-- FERRY_SENDs whose conversion of weights a hard fence without a spare interrupts (R181, R390). -/
def convNoSpare (s : State) (n : Nat) : State :=
  { s with ferries := s.ferries.map (fun f => match f.src with
      | .layer l => if ((tget s.layers l).map (fun x => leadCay s x.desc)) == some n && decide (f.got < f.head.cells) then
          { f with noSpare := true } else f
      | _ => f) }

/-! ## Running COPYs over access ports (R285, R360) -/

/-- The state of an access port. -/
def accAt (s : State) (a : Nat) : AccSt := (tget s.access a).getD {}
/-- The running COPY of a command. -/
def runOf (s : State) (k : Nat × Nat) : Option CopyRun := s.copying.find? (fun r => r.cmd == k)

/-- A frame waiting at a port belongs to a COPY. -/
def ofRun (k : Nat × Nat) (reads : List AccRead) : AccBody → Bool
  | .memWrite _ _ _ c => c == some k
  | .memRead _ _ t => reads.any (fun r => r.cmd == k && r.tag == t)
  | _ => false

/-- A COPY over an access port ends: its frames that have not left are withdrawn, its reads forgotten. -/
def endRunCopy (s : State) (k : Nat × Nat) (st : Nat) : State :=
  let s := { s with
    copying := s.copying.filter (fun r => r.cmd != k)
    access := s.access.map (fun p => (p.1, { p.2 with
      mem := p.2.mem.filter (fun b => !ofRun k p.2.reads b)
      reads := p.2.reads.filter (fun r => r.cmd != k) })) }
  endCmd s k.1 k.2 st

/-- What a running COPY has still to read of, or to write to, the module's memory meets a range. -/
def runMeets (s : State) (r : CopyRun) (lo n : Nat) : Bool :=
  (r.srcAcc.isNone && overlap (r.src + r.asked) (r.bytes - r.asked) lo n) ||
  (r.dstAcc.isNone && (overlap (r.dst + r.asked) (r.bytes - r.asked) lo n ||
    (match r.srcAcc with
     | some a => (accAt s a).reads.any (fun x => x.cmd == r.cmd && overlap (r.dst + x.off) x.len lo n)
     | none => false)))

/-- Running COPYs whose work on a lost slice is not done end with a code (R255, R390). -/
def loseRuns (s : State) (n code : Nat) : State :=
  (s.copying.filter (fun r => runMeets s r (lagoonBase + n * 0x8000000) 0x8000000)).foldl
    (fun s r => endRunCopy s r.cmd code) s

/-- Copies whose KEEP a new Tide has passed are evicted (R196). -/
def expireCopies (s : State) (c tide : Nat) : State :=
  (s.copies.filter (fun x => x.ctx == c && decide (x.tide + x.keep < tide))).foldl (fun s x => evictCopy s x 0x40 0x31) s

/-- RELEASE of a command: the copies that it names are evicted; with none it is ILLEGAL_STATE (R295).
DEDUCED (log 62). -/
def releaseCmd (s : State) (k i c : Nat) (b : List Byte) : State :=
  match s.copies.filter (fun x => x.ctx == c && x.label == fieldAt b 0x10 2 && x.region == bit (fieldAt b 0x12 1) 0 &&
      x.tide == fieldAt b 0x14 4) with
  | [] => endCmd s k i 0x12
  | xs => endCmd (xs.foldl (fun s x => evictCopy s x 0x40 0x31) s) k i 0

/-- RELEASE (R196). -/
def execRelease (c : Ctx) (q : QNum) (i : Word) (s : State) : Res :=
  runCmd s c q i 0x0A (fun s k b => releaseCmd s k i.toNat c.val b)

end Sys2Proof.Machine
end

