-- ==== Sys2Proof/Machine/Permute.lean ====
section
/-! DEFINITION. PERMUTE: its descriptor, its exchange of elements and its end (R197 to R199). -/

namespace Sys2Proof.Machine

/-- The permute of a job and tag. -/
def permAt (s : State) (job : BitVec 16) (tag : Nat) : Option Perm :=
  s.permutes.find? (fun m => m.job == job && m.tag == tag)
/-- The state with a permute changed. -/
def withPerm (s : State) (m : Perm) (g : Perm → Perm) : State :=
  { s with permutes := s.permutes.map (fun x => if x.job == m.job && x.tag == m.tag then g x else x) }
/-- A permute with a member changed. -/
def setPeer (m : Perm) (c : Nat) (g : PermPeer → PermPeer) : Perm :=
  { m with peers := m.peers.map (fun p => if p.coord = c then g p else p) }

/-- A permute ends (R198, R199): its failure is counted. -/
def endPerm (s : State) (m : Perm) (st : Nat) : State :=
  let s := { s with permutes := s.permutes.filter (fun x => !(x.job == m.job && x.tag == m.tag)) }
  endCmd (if st = 0x10 ∨ st = 0x30 then bump s FAB_PERMUTE_FAIL_COUNT_COUNT 1 else s) m.cmd.1 m.cmd.2 st

/-- Elements of a PERMUTE cell. -/
def permPer (m : Perm) : Nat := 64 / max 1 m.width
/-- Cells of a stream of `n` elements: one where it has none. -/
def permCells (m : Perm) (n : Nat) : Nat := max 1 ((n + permPer m - 1) / permPer m)

/-- Staging position of a member's first element: the RECV_COUNTs before it. -/
def recvBase (m : Perm) (c : Nat) : Nat :=
  ((m.peers.takeWhile (fun p => p.coord != c)).map (fun p => p.recvs.length)).foldl (· + ·) 0

/-- The address of staging position `i`. -/
def stagingAt (m : Perm) (i : Nat) : Nat := m.staging + m.width * i

/-- The elements of a list gathered from SRC. -/
def gatherElems (s : State) (m : Perm) (is : List Nat) : List (List Byte) :=
  is.map (fun i => bytesAt s.mem s.free (m.srcBase + m.width * i) m.width)

/-- A PERMUTE cell. DEDUCED (log 64). -/
def permCell (m : Perm) (j : Nat) (last : Bool) (bs : List Byte) : Cell :=
  { type := BitVec.ofNat 4 tPERMUTE, vc := 6, job := m.job, tag := BitVec.ofNat 16 m.tag, seq := BitVec.ofNat 16 j
    last := last, payload := slice (bs ++ zeros 64) 0 64 }

/-- What stops the reading of the elements of a list from SRC: a poisoned block (R268). DEDUCED (log 65). -/
def gatherFault (s : State) (m : Perm) (is : List Nat) : Option Nat :=
  is.findSome? (fun i => accessFault s (some m.ctx) (m.srcBase + m.width * i) m.width false)

/-- What stops the reading of staging (R268). DEDUCED (log 65). -/
def stagingFault (s : State) (m : Perm) : Option Nat :=
  let n := m.width * ((m.peers.map (fun p => p.recvs.length)).foldl (· + ·) 0)
  if n = 0 then none else accessFault s (some m.ctx) m.staging n false

/-- The elements for a member leave as PERMUTE cells (R198 step 3). -/
def sendElems (s : State) (m : Perm) (p : PermPeer) : State :=
  let es := gatherElems s m p.sends
  let n := permCells m es.length
  (List.range n).foldl (fun s j =>
    sendJob s p.coord (permCell m j (j + 1 == n) (((es.drop (permPer m * j)).take (permPer m)).flatten))) s

/-- A READY or COMPLETE cell. -/
def permRsp (m : Perm) (op status : Nat) : Cell :=
  { type := BitVec.ofNat 4 tRSP, vc := 5, job := m.job, tag := BitVec.ofNat 16 m.tag
    payload := natLe 1 op ++ natLe 1 status ++ zeros 62 }

/-- Other members than the module itself. -/
def permOthers (s : State) (m : Perm) : List PermPeer := m.peers.filter (fun p => p.coord != ownCoord s)

/-- One of the module's own incoming streams failed. -/
def permFailed (m : Perm) : Bool := m.peers.any (fun p => p.failed)

/-- Staging goes to DST through the RECV_LISTs, in entry order and list order (R198 step 6). -/
def writeDst (s : State) (m : Perm) : State :=
  ((m.peers.flatMap (fun p => p.recvs)).zipIdx).foldl (fun s r =>
    poke s (m.dstBase + m.width * r.1) (bytesAt s.mem s.free (stagingAt m r.2) m.width)) s

/-- COMPLETE goes out once every incoming stream has ended and every own send is read; the permute ends once COMPLETE is
held from every member (R198 steps 5, 6), with MISMATCH too. DEDUCED (log 143). -/
def permGo (s : State) (m : Perm) : State :=
  match permAt s m.job m.tag with
  | none => s
  | some m =>
    let others := permOthers s m
    let bad := permFailed m
    let out := !m.completeSent && others.all (fun p => p.ready && p.ended)
    let s := if out then
        withPerm (others.foldl (fun s p => sendJob s p.coord (permRsp m 0x86 (if bad then 0x10 else 0))) s) m
          (fun x => { x with completeSent := true })
      else s
    if (m.completeSent || out) && others.all (fun p => p.complete.isSome) then
      if bad || others.any (fun p => p.complete == some 0x10) then endPerm s m 0x10
      else
        match stagingFault s m with
        | some st => endPerm s m st
        | none => endPerm (writeDst s m) m 0
    else s

/-- READY from a member: its elements are sent (R198 step 3); where they cannot be read the permute ends here (R268). -/
def permReady (s : State) (m : Perm) (c : Nat) : State :=
  match m.peers.find? (fun p => p.coord == c && !p.ready) with
  | none => s
  | some p =>
    match gatherFault s m p.sends with
    | some st => endPerm s m st
    | none => permGo (withPerm (sendElems s m p) m (fun x => setPeer x c (fun p => { p with ready := true }))) m

/-! ## The command -/

/-- Element indices of a list in memory. -/
def indexList (s : State) (a n : Nat) : List Nat := codesOf 4 n (bytesAt s.mem s.free a (4 * n))

/-- A peer entry (Table 6-8): the member, and whether a reserved field is nonzero. DEDUCED (log 64). -/
def peerEntry (s : State) (bs : List Byte) (i : Nat) : PermPeer × Bool :=
  let o := 32 * i
  (⟨fieldAt bs o 2, indexList s (fieldAt bs (o + 8) 8) (fieldAt bs (o + 4) 4),
    indexList s (fieldAt bs (o + 0x18) 8) (fieldAt bs (o + 0x10) 4), false, 0, false, false, none⟩,
   fieldAt bs (o + 2) 2 != 0 || fieldAt bs (o + 0x14) 4 != 0)

/-- The lists of an entry are read: one in the host tier goes out on its port (R258, R363). -/
def readLists (c : Nat) (bs : List Byte) (s : State) (i : Nat) : State :=
  let o := 32 * i
  let ask := fun (s : State) (a n : Nat) =>
    if n = 0 || (accessFault s (some c) a (4 * n) false).isSome then s else askHost s (some c) a (4 * n)
  ask (ask s (fieldAt bs (o + 8) 8) (fieldAt bs (o + 4) 4)) (fieldAt bs (o + 0x18) 8) (fieldAt bs (o + 0x10) 4)

/-- The lists of an entry lie inside the context's windows. -/
def listsOk (s : State) (c : Nat) (bs : List Byte) (i : Nat) : Bool :=
  let o := 32 * i
  let ok := fun (a n : Nat) => n == 0 || inWindows s c a (4 * n) false
  ok (fieldAt bs (o + 8) 8) (fieldAt bs (o + 4) 4) && ok (fieldAt bs (o + 0x18) 8) (fieldAt bs (o + 0x10) 4)

/-- What reading an entry's lists meets: a slice out of service, a host port that is down, a poisoned block (R255, R258,
R268); 0 where nothing does. DEDUCED (log 65). -/
def listFault (s : State) (c : Nat) (bs : List Byte) (i : Nat) : Nat :=
  let o := 32 * i
  let f := fun (a n : Nat) => if n = 0 then 0 else (accessFault s (some c) a (4 * n) false).getD 0
  worse (f (fieldAt bs (o + 8) 8) (fieldAt bs (o + 4) 4)) (f (fieldAt bs (o + 0x18) 8) (fieldAt bs (o + 0x10) 4))

/-- Elements a permute receives. -/
def permTotal (m : Perm) : Nat := (m.peers.map (fun p => p.recvs.length)).foldl (· + ·) 0

/-- The refusals of R198 that the first 32 bytes of a descriptor give: a reserved field, SRC or DST outside the window.
DEDUCED (log 65). -/
def permHeadBad (s : State) (c : Nat) (h : List Byte) : Bool :=
  fieldAt h 3 5 != 0 || !within (fieldAt h 8 8) (fieldAt h 2 1) (hbmWin s c) || !within (fieldAt h 0x10 8) (fieldAt h 2 1) (hbmWin s c)

/-- R198 step 1's refusals of the descriptor itself. DEDUCED (log 65). -/
def permBad (s : State) (c : Nat) (h : List Byte) (m : Perm) (raw : List (PermPeer × Bool)) : Bool :=
  permHeadBad s c h || raw.any (fun e => e.2) || !(m.peers.any (fun p => p.coord == ownCoord s)) ||
  (m.peers.zipIdx).any (fun p => !coordOk s p.1.coord || decide (32768 ≤ p.1.coord) ||
    (m.peers.take p.2).any (fun q => q.coord == p.1.coord)) ||
  !(permTotal m == 0 || within m.staging (m.width * permTotal m) (hbmWin s c))

/-- An index of a list leads outside the context's HBM window. DEDUCED (log 65). -/
def indexBad (s : State) (c : Nat) (m : Perm) : Bool :=
  m.peers.any (fun p => p.sends.any (fun i => !within (m.srcBase + m.width * i) m.width (hbmWin s c)) ||
    p.recvs.any (fun i => !within (m.dstBase + m.width * i) m.width (hbmWin s c)))

/-- The permute would write into a layer's state or mask area that R150 protects. -/
def permProtected (s : State) (m : Perm) : Bool :=
  stateProtected s m.staging (m.width * permTotal m) ||
  m.peers.any (fun p => p.recvs.any (fun i => stateProtected s (m.dstBase + m.width * i) m.width))

/-- What reading the elements to send meets (R268). -/
def permFault (s : State) (m : Perm) : Nat :=
  worst (m.peers.flatMap (fun p => p.sends.map (fun i => (accessFault s (some m.ctx) (m.srcBase + m.width * i) m.width false).getD 0)))

/-- The highest-ranking code that stops a permute whose descriptor is sound, 0 where none does (R297). What the lists name
counts where they can be read. DEDUCED (log 65). -/
def permCode (s : State) (c : Nat) (m : Perm) (lists : Nat) : Nat :=
  let read := lists == 0
  let fenced := (permOthers s m).any (fun p => childFenced s p.coord)
  let busy := (permAt s m.job m.tag).isSome || stateProtected s m.staging (m.width * permTotal m) ||
    (read && permProtected s m)
  worst [lists, if read && indexBad s c m then 0x13 else 0, if busy then 0x12 else 0, if fenced then 0x30 else 0,
    if read then permFault s m else 0]

/-- The module's own elements are copied to staging (R198 step 4). -/
def copyOwn (s : State) (m : Perm) : State :=
  match m.peers.find? (fun p => p.coord == ownCoord s) with
  | none => s
  | some p =>
    let s := (((gatherElems s m p.sends).take p.recvs.length).zipIdx).foldl (fun s e =>
      poke s (stagingAt m (recvBase m p.coord + e.2)) e.1) s
    withPerm s m (fun x => setPeer x p.coord (fun q => { q with failed := p.sends.length != p.recvs.length }))

/-- A checked permute begins: READY goes to every other member, and READYs that came before count. DEDUCED (log 64). -/
def permStart (s : State) (m : Perm) : State :=
  let s := copyOwn { s with permutes := s.permutes ++ [m] } m
  let s := (permOthers s m).foldl (fun s p => sendJob s p.coord (permRsp m 0x85 0)) s
  let early := s.readies.filter (fun r => r.1 == m.job && r.2.1 == m.tag)
  let s := { s with readies := s.readies.filter (fun r => !early.contains r) }
  let s := early.foldl (fun s r => match permAt s m.job m.tag with
    | some m => permReady s m r.2.2
    | none => s) s
  permGo s m

/-- The tag of a context's permute number in its Tide (R182). -/
def permTag (s : State) (c : Nat) (b : List Byte) : Nat := ctxTide s c % 8 * 8192 + fieldAt b 0x18 2 % 8192

/-- ILLEGAL_STATE where a permute number is in use, with another code. -/
def permUsed (s : State) (c : Nat) (b : List Byte) : List Nat :=
  if (permAt s (BitVec.ofNat 16 (ctxJob s c)) (permTag s c b)).isSome then [0x12] else []

/-- PERMUTE in its order. A layer's protected state is looked at here, not again when DST is written.
DEDUCED (log 65). DESIGN CHOICE (log 139). -/
def permuteCmd (s : State) (k i c : Nat) (b : List Byte) : State :=
  let da := fieldAt b 0x10 8
  if !within da 32 (hbmWin s c) then endCmd s k i 0x13
  else
    match memRead s (some c) da 32 with
    | (s, .error e) => endCmd s k i (worst (e :: permUsed s c b))
    | (s, .ok h) =>
      let n := fieldAt h 0 2
      let w := fieldAt h 2 1
      if n = 0 ∨ 1024 < n ∨ !([1, 2, 4, 8].contains w) ∨ !within da (32 + 32 * n) (hbmWin s c) then endCmd s k i 0x13
      else
        match memRead s (some c) (da + 32) (32 * n) with
        | (s, .error e) => endCmd s k i (worst (e :: (if permHeadBad s c h then [0x13] else []) ++ permUsed s c b))
        | (s, .ok bs) =>
          if !((List.range n).all (listsOk s c bs)) then endCmd s k i 0x13
          else
            let raw := (List.range n).map (peerEntry s bs)
            let m : Perm := { cmd := (k, i), ctx := c, job := BitVec.ofNat 16 (ctxJob s c)
                              tag := permTag s c b, width := w
                              srcBase := fieldAt h 8 8, dstBase := fieldAt h 0x10 8, staging := fieldAt h 0x18 8
                              peers := raw.map (fun e => e.1) }
            let st := if permBad s c h m raw then 0x13
              else permCode s c m (worst ((List.range n).map (listFault s c bs)))
            let s := (List.range n).foldl (readLists c bs) s
            if st = 0 then permStart s m
            else endCmd (if st = 0x30 then bump s FAB_PERMUTE_FAIL_COUNT_COUNT 1 else s) k i st

/-- PERMUTE (R198). -/
def execPermute (c : Ctx) (q : QNum) (i : Word) (s : State) : Res :=
  runCmd s c q i 0x05 (fun s k b => permuteCmd s k i.toNat c.val b)

/-! ## Arrivals -/

/-- What a READY does (R198). -/
def readyTaken (s : State) (_p : Nat) (x : Cell) : State :=
  match permAt s x.job x.tag.toNat with
  | some m => permReady s m x.src.toNat
  | none => { s with readies := s.readies ++ [(x.job, x.tag.toNat, x.src.toNat)] }

/-- READY (R198): one that comes before its PERMUTE is held. -/
def execPermuteReady (p : TorusPort) (x : Cell) (s : State) : Res :=
  if isOp x tRSP 0x85 then receive s p.val x (fun s => some (readyTaken s p.val x)) else .next s

/-- A PERMUTE cell's elements go to staging; a stream of the wrong number of cells fails. -/
def takeElems (s : State) (m : Perm) (q : PermPeer) (x : Cell) : State :=
  let per := permPer m
  let n := q.recvs.length
  let i := per * q.gotCells
  let k := min per (n - i)
  let s := (List.range k).foldl (fun s j =>
    poke s (stagingAt m (recvBase m q.coord + i + j)) (slice (payloadOf x) (m.width * j) m.width)) s
  let bad := (x.last && q.gotCells + 1 != permCells m n) || decide (permCells m n < q.gotCells + 1)
  permGo (withPerm s m (fun y => setPeer y q.coord (fun q => { q with
    gotCells := q.gotCells + 1, ended := x.last, failed := q.failed || bad }))) m

/-- What a PERMUTE cell does (R198). -/
def permCellTaken (s : State) (_p : Nat) (x : Cell) : State :=
  match permAt s x.job x.tag.toNat with
  | some m => match m.peers.find? (fun q => q.coord == x.src.toNat && !q.ended) with
    | some q => takeElems s m q x
    | none => s
  | none => s

/-- PERMUTE_CELL (R198). -/
def execPermuteCell (p : TorusPort) (x : Cell) (s : State) : Res :=
  if x.type.toNat = tPERMUTE then receive s p.val x (fun s => some (permCellTaken s p.val x)) else .next s

/-- What a COMPLETE does (R198). -/
def completeTaken (s : State) (_p : Nat) (x : Cell) : State :=
  match permAt s x.job x.tag.toNat with
  | some m => permGo (withPerm s m (fun y => setPeer y x.src.toNat (fun q =>
      { q with complete := some (fieldAt (payloadOf x) 1 1) }))) m
  | none => s

/-- COMPLETE (R198). DEDUCED (log 64). -/
def execPermuteComplete (p : TorusPort) (x : Cell) (s : State) : Res :=
  if isOp x tRSP 0x86 then receive s p.val x (fun s => some (completeTaken s p.val x)) else .next s

/-- Permutes after the fabric's view has changed (R199): one that holds COMPLETE from every member goes on. -/
def permFences (s : State) : State :=
  s.permutes.foldl (fun s m =>
    let others := permOthers s m
    if others.any (fun p => childFenced s p.coord) && !others.all (fun p => p.complete.isSome) then endPerm s m 0x30
    else s) s

end Sys2Proof.Machine
end

