-- ==== Sys2Proof/Machine/Update.lean ====
section
/-! DEFINITION. The fused update (chapter 5): its start and the statistics step (R154 to R156), tasks and calls (R157 to
R163), their application (R158, R160, R167), the matrix phase (R165, R166), the journal's moves (R168, R169), stops and
reruns (R170, R171). -/

namespace Sys2Proof.Machine

/-! ## Calls begin -/

/-- A call's registers at entry (R304): everything cleared but the g registers its ABI names, KC and the PC. -/
def enterCall (s : State) (n : Nat) (c : MCall) (gs : List (Nat × Nat)) (ftz : Bool) (pc : Nat) : State :=
  let old := cayAt s n
  let kc := (if ftz then 4 else 0) + (if ctxIeee s c.ctx then 8 else 0)
  putCay s n { call := some c, pc := pc, kc := BitVec.ofNat 64 kc, since := s.now, queued := old.queued, lastCtx := old.lastCtx
               g := gs.foldl (fun l p => lmod l p.1 (fun _ => BitVec.ofNat 64 p.2)) (List.replicate 32 0) }
/-- Program image and constant page are placed in a Cay's store (R305, R329). DEDUCED (log 75). -/
def placeCode (s : State) (n : Nat) (image const : List Byte) : State :=
  poke (poke s (cayStore n) image) (cayStore n + 0x4000) const

/-! ## Tasks (R157) -/

/-- A run of blocks within one row of one section. -/
structure Run where
  sec : Nat
  row : Nat
  first : Nat
  blocks : Nat
  deriving DecidableEq, Repr

/-- The runs from an element up to the end of a task. -/
def runsFrom (d : List Byte) : Nat → Nat → Nat → List Run
  | 0, _, _ => []
  | n + 1, e, fin =>
    if fin ≤ e then []
    else
      match sectionAt d e with
      | none => []
      | some (k, sec) =>
        let i := e - sec.off
        let cols := max 1 sec.cols
        let stop := min fin (e + (cols - i % cols))
        ⟨k, i / cols, e, (stop - e + 127) / 128⟩ :: runsFrom d n stop fin

/-- The runs of a task. -/
def taskRuns (d : List Byte) (t : Nat) : List Run := runsFrom d 33 (4096 * t) (min (ldE d) (4096 * (t + 1)))

/-- The staged bucket that holds an element. -/
def stagedAt (x : Layer) (e : Nat) : Option StagedB := x.staged.find? (fun b => decide (b.first ≤ e) && decide (e < b.first + b.n))
/-- The staging address of an element. -/
def stagingOf (x : Layer) (e : Nat) : Nat :=
  match stagedAt x e with
  | some b => b.addr + 4 * (e - b.first)
  | none => 0
/-- The Cay whose slice holds the staging of a task's first element. DEDUCED (log 68). -/
def taskCay (x : Layer) (t : Nat) : Nat := addrCay (stagingOf x (4096 * t))
/-- A task's bit in a pass's done bitmap. -/
def taskApplied (s : State) (d : List Byte) (pass t : Nat) : Bool :=
  bit (fieldAt (bytesAt s.mem 0 (bitmapAddr d pass + t / 8) 1) 0 1) (t % 8)

/-! ## Scratch (R151) -/

/-- Scratch address of a factor, in the order of the accumulators. DEDUCED (log 66). -/
def factorAddr (x : Layer) (i : Nat) : Nat := (match x.scratch with | some p => p.1 | none => 0) + 4 * i
/-- Scratch address of a matrix section's output: after the factors, sections in order. DEDUCED (log 66). -/
def matrixAddr (x : Layer) (k : Nat) : Nat :=
  let d := x.desc
  factorAddr x (statCount d) + (((((sections d).zipIdx).filter (fun p => decide (p.2 < k) && p.1.matrix)).map (fun p =>
    6 * secRows p.1 * p.1.cols + 10 * (min (secRows p.1) p.1.cols) ^ 2)).foldl (· + ·) 0)

/-- Moment buffer k at an element. -/
def momentAt (x : Layer) (k e : Nat) : Nat := weightBase x + momentOff x.desc k + momentBytes x.desc * e

/-! ## Calls (R161, R163, R329) -/

/-- The registers of Table 5-5 for a run. DEDUCED (log 66). -/
def entryRegs (s : State) (l : Nat) (x : Layer) (r : Run) (apply : Bool) (cay : Nat) : List (Nat × Nat) :=
  let d := x.desc
  let sec := ((sections d)[r.sec]?).getD ⟨0, 0, 1, false⟩
  let col := (r.first - sec.off) % max 1 sec.cols
  let ortho := sec.matrix && flag s (LAYER_JNL_A_ORTHO_DONE l)
  let mom := ldMomentum d
  let f := fieldAt (bytesAt s.mem 0 (factorAddr x (statBase d r.sec + r.row)) 4) 0 4
  let dAddr := if ortho then matrixAddr x r.sec + 4 * (r.first - sec.off) else stagingOf x r.first
  let common := [(1, stagingOf x r.first), (7, r.blocks), (9, cayStore cay + 0x4000), (10, jTide s l), (11, r.first),
    (12, r.sec + (if mom then 16 else 0) + (if ldFp32 d then 32 else 0) + (if ortho then 64 else 0))]
  if apply then common ++ [(2, weightBase x + 4 * r.first), (8, dAddr)]
  else common ++ [(5, factorAddr x (statBase d r.sec + secRows sec + col)), (6, f)] ++
    (if mom then [(3, momentAt x (jCur s l) r.first), (4, momentAt x (1 - jCur s l) r.first)] else [])

/-- The call of a run. -/
def runCall (x : Layer) (l t : Nat) (r : Run) (apply : Bool) (codeLen : Nat) (job : Nat) (gs : List (Nat × Nat)) : MCall :=
  let g := fun k => match gs.find? (fun p => p.1 == k) with | some p => p.2 | none => 0
  { ctx := x.ctx, job := job, kernel := false, codeLen := codeLen, layer := l, where_ := ldLayer x.desc
    group := ldGroup x.desc, task := t, apply := apply, blocks := r.blocks, mbytes := momentBytes x.desc
    g1 := g 1, g2 := g 2, g3 := g 3, g4 := g 4, g5 := g 5, g8 := g 8, g11 := g 11 }

/-- The calls of a layer's update end. -/
def clearCalls (s : State) (l : Nat) : State :=
  { s with cays := s.cays.map (fun p =>
      match p.2.call with
      | some c => if !c.kernel && c.layer == l then (p.1, { p.2 with call := none, streams := List.replicate 4 {} }) else p
      | none => p) }

/-- A fault of a range the engine reads itself (R171, R268). -/
def rangeFault (s : State) (x : Layer) (rs : List (Nat × Nat)) : Option Nat :=
  rs.findSome? (fun r => if r.2 = 0 then none else accessFault s (some x.ctx) r.1 r.2 false)

/-- A task's present run starts on its Cay; a factor that cannot be read stops the update (R171). -/
def startRun (s : State) (l : Nat) (k : TaskSt) : State :=
  match tget s.layers l with
  | none => s
  | some x =>
    match x.upd, (taskRuns x.desc k.t)[k.run]? with
    | some u, some r =>
      let apply := u.pass == 2
      let factor := (factorAddr x (statBase x.desc r.sec + r.row), if apply then 0 else 4)
      match rangeFault s x [factor] with
      | some st => stopUpdate (clearCalls s l) l st
      | none =>
        let gs := entryRegs s l x r apply k.cay
        let pc := fieldAt u.image (if apply then 4 else 0) 4
        enterCall (placeCode s k.cay u.image u.const) k.cay
          (runCall x l k.t r apply (fieldAt u.image 8 4) (ctxJob s x.ctx) gs) gs (ldFtz x.desc) pc
    | _, _ => s

/-- The state with a layer's update changed. -/
def withUpd (s : State) (l : Nat) (f : UpdateSt → UpdateSt) : State :=
  withLayer s l (fun x => { x with upd := x.upd.map f })
/-- The state with a begun task changed. -/
def withTask (s : State) (l t : Nat) (f : TaskSt → TaskSt) : State :=
  withUpd s l (fun u => { u with tasks := u.tasks.map (fun k => if k.t = t then f k else k) })

/-- A pass may begin tasks while the lead Cay is in service: pass 1 in STAGED, pass 2 in MOMENTS_WRITTEN once the matrix
phase is done and no stream still reads the weights (R165, R184). -/
def passOpen (s : State) (l : Nat) (x : Layer) (u : UpdateSt) : Bool :=
  if !cayUp s (leadCay s x.desc) then false
  else if u.pass = 1 then jPhase s l == 1
  else jPhase s l == 2 && !ferryReads s l &&
    (flag s (LAYER_JNL_A_ORTHO_DONE l) || !((sections x.desc).any (fun k => k.matrix)))

/-- A task begins on its Cay where that is idle. DEDUCED (log 68). -/
def tryTask (l : Nat) (s : State) (t : Nat) : State :=
  match tget s.layers l with
  | none => s
  | some x =>
    match x.upd with
    | none => s
    | some u =>
      let cay := taskCay x t
      if u.tasks.any (fun k => k.t == t) || taskApplied s x.desc u.pass t || !cayIdle s cay || !cayUp s cay then s
      else
        let k : TaskSt := { t := t, cay := cay }
        startRun (withUpd s l (fun u => { u with tasks := u.tasks ++ [k] })) l k

/-- A begun task whose Cay was busy or changed gets its call. -/
def resumeTask (l : Nat) (s : State) (k : TaskSt) : State :=
  if k.done || !cayIdle s k.cay || !cayUp s k.cay then s else startRun s l k

/-- Idle Cays of a layer's tasks begin calls. -/
def pumpLayer (s : State) (l : Nat) : State :=
  match tget s.layers l with
  | none => s
  | some x =>
    match x.upd with
    | none => s
    | some u =>
      if !passOpen s l x u then s
      else
        let s := u.tasks.foldl (resumeTask l) s
        (List.range (tasks x.desc)).foldl (tryTask l) s

/-- Idle Cays begin the calls that running updates have for them. DEDUCED (log 68). -/
def pump (s : State) : State := (s.layers.filter (fun p => p.2.upd.isSome)).foldl (fun s p => pumpLayer s p.1) s

/-! ## The statistics step (R156) -/

/-- A rational number rounded to FP32, ties to even. -/
def ratio32 (ieee : Bool) (num : Int) (e : Int) (den : Nat) : Nat × Flags :=
  if num = 0 then (0, noFlags)
  else
    let m := num.natAbs * 2 ^ 64 * 2 ^ (Nat.log2 den + 1)
    floatRound .fp32 .nearest ieee (decide (num < 0)) (m / max 1 den) (e - 64 - (Nat.log2 den + 1)) (m % max 1 den != 0)

/-- A sum of FP32 codes divided by a count: exact, rounded once; with a NaN or an infinity among them the IEEE result,
NV for opposite infinities (Table 3-5). -/
def mean32 (ieee : Bool) (cs : List Nat) (n : Nat) : Nat × Flags :=
  let vals := cs.map (floatDecode .fp32)
  let pos := vals.any (fun v => v == .inf false)
  let neg := vals.any (fun v => v == .inf true)
  if vals.any isNan then (floatNan .fp32, noFlags)
  else if pos && neg then (floatNan .fp32, nvFlags 2)
  else if pos then (floatInfCode .fp32, noFlags)
  else if neg then (withSign .fp32 true (floatInfCode .fp32), noFlags)
  else
    let x := dySum (cs.filterMap (floatDy .fp32))
    ratio32 ieee x.m x.e n

/-- What a part of the engine's work has raised: its flags, and its NV events in order, each with its cause and the
element of the layer it befell, none where the value is no element of the layer. -/
structure Raised where
  flags : Flags := noFlags
  nvs : List (Nat × Option Nat) := []

/-- What one operation raises at a place. -/
def raisedAt (place : Option Nat) (f : Flags) : Raised :=
  ⟨{ f with nv := false }, if f.nv then [(f.cause, place)] else []⟩
/-- What several parts raise, in order. -/
def joinRaised (rs : List Raised) : Raised :=
  ⟨rs.foldl (fun f r => orFlags f r.flags) noFlags, rs.flatMap (fun r => r.nvs)⟩
/-- What operations on values that are no elements of the layer raise. DEDUCED (log 67). -/
def raisedBy (fs : List Flags) : Raised := joinRaised (fs.map (raisedAt none))

/-- One statistic: `fma(beta2, cur, fl(omb2 × fl(a + eps1)))`. -/
def newStat (v : FEnv) (beta2 omb2 eps1 cur : Nat) (a : Nat × Flags) : Nat × Raised :=
  let t := fAdd .fp32 v a.1 eps1
  let u := fMul .fp32 v omb2 t.1
  let r := fFma .fp32 v beta2 cur u.1
  (r.1, raisedBy [a.2, t.2, u.2, r.2])

/-- One section: the new statistics in the order of the accumulators, the factors in the same order, what was raised. -/
def sectionStats (v : FEnv) (beta2 eps1 : Nat) (rowAcc colAcc : List Int) (rowCur colCur : List Nat) :
    List Nat × List Nat × Raised :=
  let one := 0x3F800000
  let omb := fSub .fp32 v one beta2
  let rs := List.zipWith (fun a c => newStat v beta2 omb.1 eps1 c (ratio32 v.ieee a (-192) colAcc.length)) rowAcc rowCur
  let cs := List.zipWith (fun a c => newStat v beta2 omb.1 eps1 c (ratio32 v.ieee a (-192) rowAcc.length)) colAcc colCur
  let mean := mean32 v.ieee (rs.map (fun r => r.1)) rowAcc.length
  let fs := rs.map (fun r =>
    let q := fDiv .fp32 v mean.1 r.1
    let x := fSqrt .fp32 v q.1
    (x.1, raisedBy [q.2, x.2]))
  let hs := cs.map (fun c =>
    let q := fSqrt .fp32 v c.1
    let x := fDiv .fp32 v one q.1
    (x.1, raisedBy [q.2, x.2]))
  ((rs ++ cs).map (fun r => r.1), (fs ++ hs).map (fun r => r.1),
   joinRaised ([raisedBy [omb.2]] ++ (rs ++ cs).map (fun r => r.2) ++ [raisedBy [mean.2]] ++ (fs ++ hs).map (fun r => r.2)))

/-- The engine's own work on a layer raises flags and NV events in a Cay: each event is counted (R88), and the locator
takes the first with the element's place, or BLOCK 0xFFFFFFFF for a value that is no element of the layer.
DEDUCED (log 67). DESIGN CHOICE (log 124). -/
def engineRaise (s : State) (l : Nat) (x : Layer) (cay : Nat) (r : Raised) : State :=
  let s := cayFlags s cay r.flags
  let s := r.nvs.foldl (fun s e =>
    let at_ := match e.2 with | some k => (k / 16, k % 16) | none => (0xFFFFFFFF, 0)
    cayNv s cay e.1 ⟨2, ctxJob s x.ctx, ldGroup x.desc, ldLayer x.desc, at_.1, 0, at_.2⟩) s
  if r.nvs.isEmpty then s
  else countNv (withUpd s l (fun u => { u with nv := true })) x.ctx (ldLayer x.desc) r.nvs.length

/-- The statistics step of one section. -/
def statsOf (l : Nat) (x : Layer) (const : List Byte) (s : State) (p : Sec × Nat) : State :=
  let d := x.desc
  let base := statBase d p.2
  let r := secRows p.1
  let acc := fun (i : Nat) => accRead s (accAddr d (base + i))
  let cur := weightBase x + statOff d (jCur s l) + 4 * base
  let olds := codesOf 4 (r + p.1.cols) (bytesAt s.mem 0 cur (4 * (r + p.1.cols)))
  let v : FEnv := { ieee := ctxIeee s x.ctx }
  let z := sectionStats v (fieldAt const 0 4) (fieldAt const 4 4) ((List.range r).map acc)
    ((List.range p.1.cols).map (fun j => acc (r + j))) (olds.take r) (olds.drop r)
  let s := poke s (weightBase x + statOff d (1 - jCur s l) + 4 * base) (z.1.flatMap (natLe 4))
  let s := poke s (factorAddr x base) (z.2.1.flatMap (natLe 4))
  engineRaise s l x (leadCay s d) z.2.2

/-- The statistics step of a layer. -/
def statistics (s : State) (l : Nat) : State :=
  match tget s.layers l with
  | some x => match x.upd with
    | some u => ((sections x.desc).zipIdx).foldl (statsOf l x u.const) s
    | none => s
  | none => s

/-! ## Ends of an update -/

/-- An update stops with a code (R171). -/
def failUpdate (s : State) (l st : Nat) : State := pump (stopUpdate (clearCalls s l) l st)

/-- The layer has matrix sections. -/
def hasMatrix (d : List Byte) : Bool := (sections d).any (fun k => k.matrix)

/-- The last transitions of Table 5-8: norms into the step record, COMMITTED, CUR inverted, the commit signal. -/
def commitLayer (s : State) (l : Nat) : State :=
  match tget s.layers l with
  | none => s
  | some x =>
    let nv := match x.upd with | some u => u.nv | none => false
    let d := x.desc
    let w := normBytes (accRead s (ldState d + 0x40))
    let dn := normBytes (accRead s (ldState d + 0x70))
    let g := normBytes (gradNorm s d)
    let s := dropStaged s l
    let s := endTide s l (if nv then 0x50 else 0) (fun e => { e with flags := e.flags + 2, wnorm := w, gnorm := g, dnorm := dn })
    let s := clearScratchpad s l
    let s := setF s (LAYER_JNL_A_CUR l) (1 - jCur s l)
    let s := moveJournal s l 0 (jTide s l)
    startBack (withLayer s l (fun y => { y with completeAt := none, deferLost := false })) l

/-- What the end of an update reads: the row accumulators and the norms. -/
def normRanges (d : List Byte) : List (Nat × Nat) := [(ldState d + 0x40, 96), (accAddr d 0, 48 * statCount d)]

/-- The phase moves once every task of the pass is applied (R169); an update whose norms cannot be read stops (R171). -/
def movePhase (s : State) (l : Nat) : State :=
  match tget s.layers l with
  | none => s
  | some x =>
    if jPhase s l = 1 ∧ x.done1 = tasks x.desc then
      moveJournal (withUpd s l (fun u => { u with pass := 2, tasks := [] })) l 2 (jTide s l)
    else if jPhase s l = 2 ∧ x.done2 = tasks x.desc then
      match rangeFault s x (normRanges x.desc) with
      | some st => failUpdate s l st
      | none => commitLayer (moveJournal s l 3 (jTide s l)) l
    else s

/-- The conditions of R154. -/
def updateReady (s : State) (l : Nat) (x : Layer) : Bool :=
  layerComplete x && x.staged.all (fun b => b.spill.isNone) && x.present && x.upd.isNone && !x.posted && jCommitted s l &&
    (jTide s l + 1) % 2 ^ 32 == ctxTide s x.ctx

/-- What the statistics step reads: the accumulators and S_CUR. -/
def statRanges (s : State) (l : Nat) (x : Layer) : List (Nat × Nat) :=
  [(accAddr x.desc 0, 48 * statCount x.desc), (weightBase x + statOff x.desc (jCur s l), 4 * statCount x.desc)]

/-- The statistics step, where the scratch stands and all that it reads can be read (R171). -/
def tryStatistics (s : State) (l : Nat) : State :=
  match tget s.layers l with
  | none => s
  | some x =>
    match if x.scratch.isNone then some 0x31 else rangeFault s x (statRanges s l x) with
    | some st => failUpdate s l st
    | none => statistics s l

/-- UPDATE_START (R154 to R156, R161, R174, R391): the snapshot, STAGED, the statistics step, the first calls; a layer with
an invalid staged element is abandoned (R155). -/
def updateStart (l : LayerNum) (s : State) : Res :=
  match tget s.layers l.val with
  | none => .next s
  | some x =>
    if !updateReady s l.val x || !cayUp s (leadCay s x.desc) then .next s
    else
      let t := if flag s (LAYER_JNL_A_LATE l.val) then bump s LAYER_LATE_COUNT_COUNT 1 else s
      if x.bad ≠ 0 then .next (abandon t l.val 0x50)
      else
        match tget s.slots (ldProgram x.desc) with
        | none => .next s
        | some p =>
          let t := withLayer t l.val (fun y => { y with
            upd := some { image := p.image, const := p.const, lead := leadCay s x.desc } })
          .next (pump (tryStatistics (moveJournal t l.val 1 (ctxTide s x.ctx)) l.val))

/-! ## Freeze masks (R167) and norms (R160) -/

/-- An element is frozen. -/
def frozen (s : State) (d : List Byte) (e : Nat) : Bool :=
  let k := if ldGrain d then e / 32 else e
  ldMasked d && bit (fieldAt (bytesAt s.mem 0 (ldMask d + k / 8) 1) 0 1) (k % 8)

/-- The exact square of the L16 value of an exact number, zero where it has none, with the conversion's flags.
DESIGN CHOICE (log 125). -/
def squareDy (x : Dy) : Int × Flags :=
  let r := dyToLog .l16 x
  (match logSquare .l16 r.1 with
   | some q => toUnits q
   | none => 0, r.2)

/-- One element's part of ‖w‖²: the L16 square of its new weight (R160). DESIGN CHOICE (log 125). -/
def weightSquare (new : Nat) : Int × Flags :=
  let q := squareOf new
  (match q.1 with
   | some y => toUnits y
   | none => 0, q.2)

/-- One element's part of ‖Δ‖²: the L16 square of the exact difference of its weights (R160), of the FP32 difference where
one of them is infinite or a NaN. DEDUCED (log 67). DESIGN CHOICE (log 125). -/
def deltaSquare (ieee : Bool) (old new : Nat) : Int × Flags :=
  match floatDy .fp32 old, floatDy .fp32 new with
  | some a, some b => squareDy (dySub b a)
  | _, _ =>
    let d := fSub .fp32 { ieee := ieee } new old
    let q := weightSquare d.1
    (q.1, orFlags d.2 q.2)

/-- A held store reaches memory; under a mask the frozen elements' weights keep their bytes. -/
def applyStore (x : Layer) (apply : Bool) (s : State) (h : HeldStore) : State :=
  if !apply || !ldMasked x.desc then poke s h.addr h.data
  else
    (h.data.zipIdx).foldl (fun s b =>
      let a := h.addr + b.2
      let e := (a - weightBase x) / 4
      if decide (weightBase x ≤ a) && frozen s x.desc e then s else poke s a [b.1]) s

/-- The M shadow of frozen elements takes M_CUR. -/
def keepMoments (s : State) (l : Nat) (x : Layer) (es : List Nat) : State :=
  if !ldMasked x.desc || momentBytes x.desc == 0 then s
  else es.foldl (fun s e =>
    if frozen s x.desc e then
      poke s (momentAt x (1 - jCur s l) e) (bytesAt s.mem 0 (momentAt x (jCur s l) e) (momentBytes x.desc))
    else s) s

/-- Elements of a task. -/
def taskElems (d : List Byte) (t : Nat) : List Nat :=
  (List.range (min 4096 (ldE d - 4096 * t))).map (fun i => 4096 * t + i)

/-- A task's bit is set and counted. -/
def markTask (s : State) (l : Nat) (x : Layer) (pass t : Nat) : State :=
  let a := bitmapAddr x.desc pass + t / 8
  let old := fieldAt (bytesAt s.mem 0 a 1) 0 1
  let s := poke s a (natLe 1 (old ||| 2 ^ (t % 8)))
  withLayer s l (fun y => if pass = 1 then { y with done1 := y.done1 + 1 } else { y with done2 := y.done2 + 1 })

/-- A held store writes one of `n` bytes from an address. -/
def touches (hs : List HeldStore) (a n : Nat) : Bool := hs.any (fun h => overlap h.addr h.data.length a n)

/-- A task's stores have left an invalid element in the staged values, the moments or the weights (R89). -/
def wroteInvalid (s : State) (l : Nat) (x : Layer) (apply : Bool) (hs : List HeldStore) (es : List Nat) : Bool :=
  let code := fun (a n : Nat) => fieldAt (bytesAt s.mem 0 a n) 0 n
  let bad := fun (a n : Nat) => touches hs a n && (if n = 2 then l16Bad (code a n) else fp32Bad (code a n))
  es.any (fun e =>
    if apply then !frozen s x.desc e && bad (weightBase x + 4 * e) 4
    else bad (stagingOf x e) 4 ||
      (momentBytes x.desc != 0 && !frozen s x.desc e && bad (momentAt x (1 - jCur s l) e) (momentBytes x.desc)))

/-- What the engine reads of a task of the pass that it applies: M_CUR under a mask, or the weights and the accumulators
of the norms; the mask, the task's bit. -/
def applyRanges (s : State) (l : Nat) (x : Layer) (apply : Bool) (t : Nat) : List (Nat × Nat) :=
  let d := x.desc
  let n := min 4096 (ldE d - 4096 * t)
  let grain := if ldGrain d then 32 else 1
  let first := 4096 * t / grain / 8
  let mask := if ldMasked d then [(ldMask d + first, ((4096 * t + n - 1) / grain) / 8 + 1 - first)] else []
  mask ++ [(bitmapAddr d (if apply then 2 else 1) + t / 8, 1)] ++
    (if apply then [(weightBase x + 16384 * t, 4 * n), (ldState d + 0x40, 96)]
     else if ldMasked d then [(momentAt x (jCur s l) (4096 * t), momentBytes d * n)] else [])

/-- The norm contributions of a task of pass 2 join the accumulators, and what forming them raised goes to the task's Cay
(R158, R160): the element, its weight before and after. A frozen element's Δ counts as zero (R167). -/
def addNorms (s : State) (l : Nat) (x : Layer) (cay : Nat) (ws : List (Nat × Nat × Nat)) : State :=
  let ieee := ctxIeee s x.ctx
  let a := ws.map (fun w => (w.1, weightSquare w.2.2))
  let b := ws.map (fun w => (w.1, if frozen s x.desc w.1 then (0, noFlags) else deltaSquare ieee w.2.1 w.2.2))
  let sum := fun (xs : List (Nat × Int × Flags)) => (xs.map (fun y => y.2.1)).foldl (· + ·) 0
  let s := accAdd (accAdd s (ldState x.desc + 0x40) (sum a)) (ldState x.desc + 0x70) (sum b)
  engineRaise s l x cay (joinRaised ((a ++ b).map (fun y => raisedAt (some y.1) y.2.2)))

/-- The held stores of a task, its norms and its bit, as one unit (R158). -/
def applyTask (s : State) (l : Nat) (x : Layer) (u : UpdateSt) (k : TaskSt) : State :=
  let es := taskElems x.desc k.t
  let wAt := fun (s : State) (e : Nat) => fieldAt (bytesAt s.mem 0 (weightBase x + 4 * e) 4) 0 4
  let apply := u.pass == 2
  let t0 := k.stores.foldl (applyStore x apply) s
  let t1 := if apply then t0 else keepMoments t0 l x es
  let t2 := if apply then addNorms t1 l x k.cay (es.map (fun e => (e, wAt s e, wAt t1 e))) else t1
  withUpd (markTask t2 l x u.pass k.t) l (fun u => { u with
    tasks := u.tasks.filter (fun j => j.t != k.t), nv := u.nv || wroteInvalid t1 l x apply k.stores es })

/-- TASK_APPLY (R158): a finished task is applied, and the phase may move; a range that the engine cannot read stops the
update (R171). -/
def taskApply (l : LayerNum) (t : Nat) (s : State) : Res :=
  match tget s.layers l.val with
  | none => .next s
  | some x =>
    match x.upd with
    | none => .next s
    | some u =>
      match u.tasks.find? (fun k => k.t == t && k.done) with
      | none => .next s
      | some k =>
        match rangeFault s x (applyRanges s l.val x (u.pass == 2) t) with
        | some st => .next (failUpdate s l.val st)
        | none => .next (pump (movePhase (applyTask s l.val x u k) l.val))

/-! ## The matrix phase (R165, R166) -/

/-- A matrix of FP32 codes by rows. -/
abbrev Mat := List (List Nat)

/-- Which element of the layer an entry of a matrix is; none for entries that are no elements. -/
abbrev Place := Nat → Nat → Option Nat

/-- An entry, zero outside. DEDUCED (log 66). -/
def matAt (x : Mat) (i j : Nat) : Nat := (x.getD i []).getD j 0
/-- The transpose of an r × c matrix. -/
def transpose (x : Mat) (r c : Nat) : Mat := (List.range c).map (fun j => (List.range r).map (fun i => matAt x i j))
/-- The places of a transpose. -/
def Place.flip (at_ : Place) : Place := fun i j => at_ j i
/-- Entries that are no elements of the layer. -/
def noPlace : Place := fun _ _ => none

/-- An operation on each entry, and what it raised. -/
def matMap (f : Nat → Nat × Flags) (at_ : Place) (x : Mat) : Mat × Raised :=
  let rs := x.map (fun row => row.map f)
  (rs.map (fun row => row.map (fun c => c.1)),
   joinRaised ((rs.zipIdx).flatMap (fun row => (row.1.zipIdx).map (fun c => raisedAt (at_ row.2 c.2) c.1.2))))
/-- Elementwise sum. -/
def matAdd (v : FEnv) (at_ : Place) (x y : Mat) : Mat × Raised :=
  let rs := List.zipWith (List.zipWith (fAdd .fp32 v)) x y
  (rs.map (fun row => row.map (fun c => c.1)),
   joinRaised ((rs.zipIdx).flatMap (fun row => (row.1.zipIdx).map (fun c => raisedAt (at_ row.2 c.2) c.1.2))))
/-- An operand of a product in L16. -/
def toL16 (at_ : Place) (x : Mat) : Mat × Raised := matMap (floatToLog .fp32 .l16) at_ x

/-- One tile of a product: output rows 32p on, columns 32q on; k-slices of 32 in ascending order (R72, R74, R77). -/
def tileProduct (a b : Mat) (inner p q : Nat) : Lanes × Flags :=
  (List.range ((inner + 31) / 32)).foldl (fun acc k =>
    let xs := (List.range 1024).map (fun i =>
      groupSum .l16 ((List.range 32).map (fun j =>
        (matAt a (32 * p + i / 32) (32 * k + j), matAt b (32 * k + j) (32 * q + i % 32)))))
    let c := combine 80 acc.1 xs
    (c.lanes, orFlags acc.2 c.flags)) (clearLanes 1024 (floorTile .l16), noFlags)

/-- A matrix product of an r × n and an n × c matrix of FP32 codes (R165): through L16, tiles, and back to FP32.
DESIGN CHOICE (log 140). -/
def matMul (ieee : Bool) (pa pb : Place) (a b : Mat) (r n c : Nat) : Mat × Raised :=
  let la := toL16 pa a
  let lb := toL16 pb b
  let tiles := (List.range ((r + 31) / 32)).map (fun p => (List.range ((c + 31) / 32)).map (fun q =>
    let t := tileProduct la.1 lb.1 n p q
    ((lanesValues t.1).map (wideToFloat .fp32 ieee), t.2)))
  let fl := tiles.foldl (fun f row => row.foldl (fun f t =>
    t.1.foldl (fun f x => orFlags f x.2) (orFlags f t.2)) f) noFlags
  ((List.range r).map (fun i => (List.range c).map (fun j =>
    let t := ((tiles.getD (i / 32) []).getD (j / 32) ([], noFlags)).1
    (t.getD (i % 32 * 32 + j % 32) (0, noFlags)).1)), joinRaised [la.2, lb.2, raisedBy [fl]])

/-- One iteration: `a = x xᵀ`, `b = fl(b_k a) + fl(c_k (a a))`, `x = fl(a_k x) + fl(b x)`; with more rows than columns the
products use `xᵀ x` and `x b`. -/
def matIter (v : FEnv) (at_ : Place) (x : Mat) (r c : Nat) (ak bk ck : Nat) : Mat × Raised :=
  let tall := decide (c < r)
  let n := min r c
  let xt := transpose x r c
  let a := if tall then matMul v.ieee at_.flip at_ xt x c r c else matMul v.ieee at_ at_.flip x xt r c r
  let aa := matMul v.ieee noPlace noPlace a.1 a.1 n n n
  let u := matMap (fMul .fp32 v bk) noPlace a.1
  let w := matMap (fMul .fp32 v ck) noPlace aa.1
  let b := matAdd v noPlace u.1 w.1
  let bx := if tall then matMul v.ieee at_ noPlace x b.1 r c c else matMul v.ieee noPlace at_ b.1 x r r c
  let ax := matMap (fMul .fp32 v ak) at_ x
  let y := matAdd v at_ ax.1 bx.1
  (y.1, joinRaised [a.2, aa.2, u.2, w.2, b.2, bx.2, ax.2, y.2])

/-- The exact sum of the L16 squares of a matrix, an entry without one counting as 0 (R165).
DESIGN CHOICE (log 125). -/
def squareSum (at_ : Place) (d : Mat) : Int × Raised :=
  let qs := d.map (fun row => row.map weightSquare)
  (qs.foldl (fun a row => row.foldl (fun a q => a + q.1) a) 0,
   joinRaised ((qs.zipIdx).flatMap (fun row => (row.1.zipIdx).map (fun c => raisedAt (at_ row.2 c.2) c.1.2))))

/-- Iterations of the constant page: at most 8, for which it has coefficients (R162). DESIGN CHOICE (log 126). -/
def iterations (const : List Byte) : Nat := min 8 (fieldAt const 8 4)

/-- The matrix phase of one section: its output by rows, and what it raised. -/
def matrixSection (v : FEnv) (const : List Byte) (at_ : Place) (d : Mat) (r c : Nat) : Mat × Raised :=
  let sq := squareSum at_ d
  let ss := ratio32 v.ieee sq.1 (-192) 1
  let n := fSqrt .fp32 v ss.1
  let den := fAdd .fp32 v n.1 (fieldAt const 0x0C 4)
  let x0 := matMap (fun e => fDiv .fp32 v e den.1) at_ d
  let z := (List.range (iterations const)).foldl (fun (x : Mat × List Raised) k =>
    let y := matIter v at_ x.1 r c (fieldAt const (0x10 + 12 * k) 4) (fieldAt const (0x14 + 12 * k) 4)
      (fieldAt const (0x18 + 12 * k) 4)
    (y.1, x.2 ++ [y.2])) (x0.1, [sq.2, raisedBy [ss.2, n.2, den.2], x0.2])
  let out := matMap (fMul .fp32 v (fieldAt const 0x70 4)) at_ z.1
  (out.1, joinRaised (z.2 ++ [out.2]))

/-- The matrix phase of a layer, section by section, into its scratch. -/
def matrixPhase (l : Nat) (x : Layer) (const : List Byte) (s : State) (p : Sec × Nat) : State :=
  if !p.1.matrix then s
  else
    let r := secRows p.1
    let c := p.1.cols
    let d : Mat := (List.range r).map (fun i => (List.range c).map (fun j =>
      fieldAt (bytesAt s.mem 0 (stagingOf x (p.1.off + i * c + j)) 4) 0 4))
    let z := matrixSection { ieee := ctxIeee s x.ctx } const (fun i j => some (p.1.off + i * c + j)) d r c
    engineRaise (poke s (matrixAddr x p.2) (z.1.flatMap (fun row => row.flatMap (natLe 4)))) l x (leadCay s x.desc) z.2

/-- MATRIX_PHASE_DONE (R165, R166): the outputs are in the scratch, ORTHO_DONE is set, pass 2 begins. -/
def matrixPhaseDone (l : LayerNum) (s : State) : Res :=
  match tget s.layers l.val with
  | none => .next s
  | some x =>
    match x.upd with
    | none => .next s
    | some u =>
      if jPhase s l.val ≠ 2 ∨ jBroken s l.val ∨ flag s (LAYER_JNL_A_ORTHO_DONE l.val) ∨ !hasMatrix x.desc ∨ !cayUp s (leadCay s x.desc) then .next s
      else
        match rangeFault s x (x.staged.map (fun b => (b.addr, 4 * b.n))) with
        | some st => .next (failUpdate s l.val st)
        | none =>
          let s := ((sections x.desc).zipIdx).foldl (matrixPhase l.val x u.const) s
          .next (pump (putJournal (setF s (LAYER_JNL_A_ORTHO_DONE l.val) 1) l.val))

/-! ## A call of an update ends (R157, R158) -/

/-- An update entry returns: the next run of its task, or the task is finished. -/
def endRun (s : State) (n : Nat) (c : MCall) : State :=
  let m := cayAt s n
  let s := putCay s n { m with call := none }
  match (tget s.layers c.layer).bind (fun x => x.upd) with
  | none => s
  | some u =>
    match u.tasks.find? (fun k => k.t == c.task) with
    | none => s
    | some k =>
      let k := { k with run := k.run + 1 }
      let d := match tget s.layers c.layer with | some x => x.desc | none => []
      let s := withTask s c.layer c.task (fun _ => k)
      let s := if m.nv then withUpd s c.layer (fun u => { u with nv := true }) else s
      if k.run < (taskRuns d c.task).length then startRun s c.layer k
      else pump (withTask s c.layer c.task (fun k => { k with done := true }))

/-- Reruns of a layer's update are counted (R170). -/
def countReruns (s : State) (l n : Nat) : State :=
  bump (withLayer s l (fun y => { y with replays := min 65535 (y.replays + n) })) LAYER_REPLAY_COUNT_COUNT n

/-- A task is to run again on a Cay from its first run (R170): its held stores are discarded, and it is counted. After a
residue failure it has had its one rerun. DEDUCED (log 68). -/
def rerunTask (s : State) (l t cay : Nat) (residue : Bool) : State :=
  let s := withTask s l t (fun k => { k with cay := cay, run := 0, stores := [], done := false, rerun := k.rerun || residue })
  countReruns s l 1

/-! ## Streams that read on (R184, R188) -/

/-- Streams read on as far as they can, and a pass that waited for the last read begins (R184). -/
def streamsGo (s : State) : State := pump (ferryGo s)

/-- What an ACCEPT does (R188). -/
def ferryAccepted (s : State) (_p : Nat) (x : Cell) : State := pump <|
  match fromChild s x (fun c => childLive c && c.state != .accepted) with
  | some (f, c) => ferryRun (setChild s f.key c.idx (fun c => { c with state := .accepted })) f.key
  | none =>
    sendJob s x.src.toNat { type := BitVec.ofNat 4 tREQ, vc := 4, job := x.job, tag := x.tag
                            payload := natLe 1 2 ++ zeros 63 }

/-- What a WINDOW does (R188). -/
def ferryWindowed (s : State) (_p : Nat) (x : Cell) : State := pump <|
  match fromChild s x (fun c => c.state == .accepted) with
  | some (f, c) =>
    ferryRun (setChild s f.key c.idx (fun c => { c with window := max c.window (fieldAt (payloadOf x) 4 4) })) f.key
  | none => s

/-- What a FINISHED does (R188). -/
def childFinished (s : State) (_p : Nat) (x : Cell) : State := pump <|
  match fromChild s x (fun c => c.state == .accepted) with
  | some (f, c) =>
    let y := payloadOf x
    let rs := (List.range (min 14 (fieldAt y 1 1))).map (fun j =>
      (fieldAt y (4 + 4 * j) 2 + c.idx - rangeBase f, fieldAt y (6 + 4 * j) 2))
    let s := withFerry s f.key (fun f => { f with unserved := f.unserved ++ rs })
    if x.last then ferryRun (setChild s f.key c.idx (fun c => { c with state := .finished })) f.key else s
  | none => s

end Sys2Proof.Machine
end

