-- ==== Sys2Proof/Machine/Fence.lean ====
section
/-! DEFINITION. Fencing of links and modules (chapter 13): the fence view and its records (R370 to R375), beacons and the
watchdog (R376 to R378), self-fence (R380, R381), what a change of the view does to running work. -/

namespace Sys2Proof.Machine

/-! ## The view and its records -/

/-- The FENCED bit of a record's BITS. -/
def bitFenced : Nat := 1
/-- The DOWN bit of an axis in a record's BITS. -/
def bitDown (ax : Nat) : Nat := 2 ^ (ax + 1)
/-- Causes of Table 13-3. -/
def causeLink : Nat := 1
/-- BEACON. -/
def causeBeacon : Nat := 2
/-- SELF. -/
def causeSelf : Nat := 3
/-- MANAGER. -/
def causeManager : Nat := 4
/-- READMIT. -/
def causeReadmit : Nat := 5

/-- A one-bit field as a number at a bit's place. -/
def bitAt (s : State) (f : Fld) (k : Nat) : Nat := if flag s f then k else 0

/-- The record that states an entry's present content (Table 13-1). -/
def viewRec (s : State) (c : Nat) : FenceRec :=
  ⟨c, getF s (HEALTH_VIEW_EPOCH c),
   bitAt s (HEALTH_VIEW_FENCED c) 1 + bitAt s (HEALTH_VIEW_DOWN_X c) 2 + bitAt s (HEALTH_VIEW_DOWN_Y c) 4 +
     bitAt s (HEALTH_VIEW_DOWN_Z c) 8,
   getF s (HEALTH_VIEW_CAUSE c), (tget s.origins c).getD 0⟩

/-- The state with an entry's content replaced by a record's. -/
def putView (s : State) (r : FenceRec) : State :=
  let b := fun k => if bit r.bits k then 1 else 0
  let w := r.epoch % 65536 + r.cause % 16 * 2 ^ 24 + b 1 * 2 ^ 28 + b 2 * 2 ^ 29 + b 3 * 2 ^ 30 + b 0 * 2 ^ 31
  { wr s (HEALTH_VIEW r.subject) (BitVec.ofNat 32 w) with origins := tput s.origins r.subject r.origin }

/-- The 8 bytes of a record. -/
def recBytes (r : FenceRec) : List Byte :=
  natLe 2 r.subject ++ natLe 2 r.epoch ++ natLe 1 r.bits ++ natLe 1 r.cause ++ natLe 2 r.origin

/-- Record `k` of a BEACON payload. -/
def recAt (p : List Byte) (k : Nat) : FenceRec :=
  let o := 8 + 8 * k
  ⟨fieldAt p o 2 % 32768, fieldAt p (o + 2) 2, fieldAt p (o + 4) 1 % 16, fieldAt p (o + 5) 1, fieldAt p (o + 6) 2⟩

/-- A bit of `a` that `b` lacks. -/
def lacks (a b : Nat) : Bool := (List.range 4).any (fun k => bit a k && !bit b k)
/-- The bits of either. -/
def joinBits (a b : Nat) : Nat :=
  ((List.range 4).map (fun k => if bit a k || bit b k then 2 ^ k else 0)).foldl (· + ·) 0

/-- What an entry becomes by a received record; none where the record is dropped (R371). DEDUCED (log 79). -/
def adopted (e r : FenceRec) : Option FenceRec :=
  if e.epoch < r.epoch then some r
  else if e.epoch = r.epoch ∧ lacks r.bits e.bits then some { r with bits := joinBits e.bits r.bits }
  else none

/-! ## Beacons (R374, R376, R377) -/

/-- Beacon state of a torus port. -/
def beaconAt (s : State) (p : Nat) : BeaconSt := (tget s.beacons p).getD {}
/-- The state with a port's beacons changed. -/
def withBeacon (s : State) (p : Nat) (f : BeaconSt → BeaconSt) : State :=
  { s with beacons := tput s.beacons p (f (beaconAt s p)) }
/-- The watchdog lets beacons go (R377). -/
def beaconsOn (s : State) : Bool := (rd s HEALTH_WATCHDOG).toNat == 0 || !s.wdStopped

/-- A BEACON cell with its flags and records (Table 13-4). -/
def beaconCell (s : State) (p : Nat) (sync syncEnd sched : Bool) (rs : List FenceRec) : Cell :=
  let readmit := flag s HEALTH_READMIT_REQUEST && getF s HEALTH_READMIT_PORT == p
  let b := fun (v : Bool) (k : Nat) => if v then k else 0
  { dest := 0x7FFF, src := localSrc s, type := BitVec.ofNat 4 tBEACON, vc := 0
    payload := slice (natLe 1 1 ++ natLe 1 (getF s HEALTH_LEVEL_OWN) ++ natLe 2 (beaconAt s p).count ++
      natLe 1 rs.length ++ natLe 1 (b readmit 1 + b sync 2 + b syncEnd 4 + b sched 8) ++ zeros 2 ++
      rs.flatMap recBytes ++ zeros 56) 0 64 }

/-- A beacon goes to a port's VC0 queue. DESIGN CHOICE (log 144). -/
def sendBeacon (s : State) (p : Nat) (sync syncEnd sched : Bool) (rs : List FenceRec) : State :=
  let x := beaconCell s p sync syncEnd sched rs
  injectAt (withBeacon s p (fun b => { b with count := (b.count + 1) % 65536 })) .module p false none x

/-- Records in beacons of up to seven; with `sync` the last beacon ends the sync. -/
def sendRecords : Nat → State → Nat → Bool → List FenceRec → State
  | 0, s, _, _, _ => s
  | n + 1, s, p, sync, rs =>
    if rs.isEmpty then s
    else sendRecords n (sendBeacon s p sync (sync && decide (rs.length ≤ 7)) false (rs.take 7)) p sync (rs.drop 7)

/-- The coordinates whose entry is listed (an unlisted one is 0), ascending. -/
def listedView (s : State) : List Nat :=
  (s.regs.filter (fun e => decide (HEALTH_VIEW 0 ≤ e.1) && decide (e.1 < HEALTH_VIEW 32768))).map (fun e => (e.1 - HEALTH_VIEW 0) / 4)

/-- Every entry whose EPOCH is nonzero, coordinates ascending. -/
def syncRecords (s : State) : List FenceRec :=
  ((listedView s).filter (fun c => getF s (HEALTH_VIEW_EPOCH c) != 0)).map (viewRec s)

/-- The sync of a port that has come up (R374), now or at the next kick. DEDUCED (log 79). -/
def sendSync (s : State) (p : Nat) : State :=
  if beaconsOn s then sendRecords 4682 s p true (syncRecords s)
  else withBeacon s p (fun b => { b with syncDue := true })

/-- An adopted record goes out on every torus port that is up (R374), now or at the next kick (R377).
DEDUCED (log 79). -/
def spread (s : State) (r : FenceRec) : State :=
  (List.range 6).foldl (fun s p =>
    if !portUp s p then s
    else if beaconsOn s then sendBeacon s p false false false [r]
    else withBeacon s p (fun b => { b with waiting := b.waiting ++ [r] })) s

/-! ## What a change of the view does (R375, R380) -/

/-- A ports' queue after the peer is held as fenced or the port is down: waiting cells are discarded (R212, R253). Cells
that arrived by a torus port count there and return their credits. -/
def discardWaiting (s : State) (q : QCell) : State :=
  match q.src with
  | .ingress p =>
    let s := bump s (FAB_PORT_DROP_ROUTE_COUNT p) 1
    if q.owed && !q.bridged then giveCredit s p q.sub else s
  | _ => dropRef s q

/-- Waiting cells of a torus egress that `f` selects are discarded; those that become heads wait from now on (R225), and
bridge places that come free are taken. -/
def flushEgress (s : State) (e : Nat) (f : QCell → Bool) : State :=
  let out := s.cells.filter (fun q => q.egress == e && f q)
  bridgeGo (out.foldl discardWaiting { s with cells := keepCells s.now (fun q => !(q.egress == e && f q)) s.cells })

/-- Ports with a fenced peer drop all but link-local cells. DEDUCED (log 110). -/
def flushFenced (s : State) : State :=
  (List.range 6).foldl (fun s p => if peerFenced s p then flushEgress s p (fun q => q.cell.dest != 0x7FFF) else s) s

/-- How the members of a group are held (R373): a Causeway member also by the route to it. -/
def heldOfGroup (s : State) (d : List Byte) : List Bool :=
  (members s d).map (fun c => memberFenced s d c || (gKind d == 2 && remoteFenced s c))

/-- CTX_EVENT.FENCE_CHANGE in every open context that has a group whose held-fenced state differs from the state's before
(R375), with vector 16 (R382). DEDUCED (log 110). -/
def fenceChange (old s : State) : State :=
  let gs := s.groups.filter (fun g => heldOfGroup old g.2.desc != heldOfGroup s g.2.desc)
  ((List.range 64).filter (fun c => ctxIsOpen s c && gs.any (fun g => g.2.ctx == c))).foldl (fun s c =>
    ctxMsix (setF s (CTX_EVENT_FENCE_CHANGE c) 1) c 16) s

/-- HEALTH_FENCE_LOG0 captures a fence while its VALID is 0. DEDUCED (log 80). -/
def fenceLog (s : State) (unit kind status subject : Nat) : State :=
  if flag s HEALTH_FENCE_LOG0_VALID then s
  else wr s HEALTH_FENCE_LOG0 (BitVec.ofNat 32 (2 ^ 31 + unit * 2 ^ 28 + kind % 16 * 2 ^ 24 + status * 2 ^ 16 + subject))

/-- Buckets after a change: an admitted one with a fenced member ends (R129), one whose neighbour is fenced and that has
not acted is refused (R106). DEDUCED (log 81). -/
def fenceBuckets (s : State) : State :=
  s.buckets.foldl (fun s p =>
    match bucketAt s p.1 with
    | none => s
    | some e =>
      let d := bDesc s e
      if bLive e then (if anyFenced s d then fenceBucket s p.1 else s)
      else if undecided e && neighbourFenced s d then localRefuse s p.1 0x30
      else s) s

/-- Causeway operations after a change (R143). -/
def fenceCauseway (s : State) : State :=
  s.causeway.foldl (fun s p => if cwFenced s (groupDesc s p.1) then cwAbandon s p.1 else s) s

/-- Every operation of a Causeway slot ends with FENCED_MEMBER. -/
def cwEndAll (s : State) (g : Nat) : State :=
  match cwAt s g with
  | none => s
  | some q =>
    let n := match q.op with | some op => op.n + 1 | none => q.next
    let t := withCw s g (fun q => { q with op := none, next := n, queue := [] })
    let t := match q.op with | some op => cwEndCmd t op 0x30 | none => t
    endAll t q.queue 0x30

/-- Everything that needs the torus ends as on a survivor that sees a fenced member (R23, R380). DEDUCED (log 32). -/
def dropTraffic (s : State) (cause : Nat) : State :=
  let s := s.buckets.foldl (fun s p =>
    match bucketAt s p.1 with
    | none => s
    | some e =>
      if bLive e then fenceBucket s p.1
      else if e.verdict.isNone then settleRefused (bump s FAB_RED_REFUSE_COUNT_COUNT 1) p.1 cause none else s) s
  let s := s.causeway.foldl (fun s p => cwEndAll s p.1) s
  pump (permFences (ferryFences s))

/-- The work of the module after a change of the view. -/
def fenceWork (s : State) : State :=
  let s := flushFenced s
  if selfFenced s then dropTraffic s 0x30 else pump (permFences (ferryFences (fenceCauseway (fenceBuckets s))))

/-- The entry that the exchange of a port would clear (Table 13-2): the fenced peer's, else that of the link's owner. -/
def clearSubject (s : State) (p : Nat) : Nat := if fenced s (peerCoord s p) then peerCoord s p else linkOwner s p

/-- A FENCED or DOWN record adopted with an EPOCH at or past the clearing record's wins: the exchange of a port that would
clear its entry `e` starts anew (R386). -/
def restartExchange (s : State) (e r : FenceRec) : State :=
  if r.bits = 0 ∨ r.cause = causeReadmit ∨ r.epoch ≤ e.epoch then s
  else (List.range 6).foldl (fun s p =>
    if coordValid s && clearSubject s p == r.subject then withBeacon s p (fun b => { b with run := 0, exchange := none }) else s) s

/-- A module whose FENCED bit is cleared joins no bucket of the Tide that each open context is in (R386).
DESIGN CHOICE (log 120). -/
def barMember (s : State) (c : Nat) : State :=
  { s with barred := ((List.range 64).filter (fun k => ctxLive s k && !s.barred.contains (k, c))).map (fun k => (k, c)) ++ s.barred }

/-- An entry changes (R374, R375): the record is spread, events and reports go out, running work meets the new view. -/
def changeView (s : State) (r : FenceRec) : State :=
  let e := viewRec s r.subject
  let t := spread (putView s r) r
  let t := if bit r.bits 0 && !bit e.bits 0 then fenceLog t 2 r.cause 0 r.subject
    else if lacks r.bits e.bits then fenceLog t 1 r.cause 0 r.subject else t
  let t := emit (pfMsix (fenceChange s t) 0) (.reportView r)
  let t := if bit e.bits 0 && !bit r.bits 0 then barMember t r.subject else t
  fenceWork (restartExchange t e r)

/-- A record is adopted or dropped (R371). DEDUCED (log 80). -/
def adopt (s : State) (r : FenceRec) : State :=
  match adopted (viewRec s r.subject) r with
  | some n => changeView s n
  | none => s

/-- A module originates a record: the present content, its EPOCH plus 1, one bit set or cleared (R372). One that would
pass 0xFFFF is reported instead. -/
def originate (s : State) (c b : Nat) (set : Bool) (cause : Nat) : State :=
  let e := viewRec s c
  if e.epoch = 0xFFFF then emit s (.reportEpoch c)
  else
    let has := joinBits e.bits b
    adopt s { e with epoch := e.epoch + 1, bits := if set then has else has - b, cause := cause, origin := ownCoord s }

/-- The module fences itself (R381); without a coordinate it has no entry. DEDUCED (log 81). -/
def selfFence (s : State) (cause : Nat) : State :=
  if coordValid s then originate s (ownCoord s) bitFenced true cause else s

/-- A torus port that was up has gone down: each end originates DOWN for the link (Table 13-2). DEDUCED (log 82). -/
def originateDown (s : State) (p : Nat) : State :=
  if coordValid s then originate s (linkOwner s p) (bitDown (portAxis p)) true causeLink else s

/-! ## The view is cleared (R370) -/

/-- Every entry reads EPOCH 0 with every bit 0. -/
def clearView (s : State) : State :=
  { s with
    regs := s.regs.filter (fun r => !(decide (0x2410000 ≤ r.1) && decide (r.1 < 0x2430000)))
    origins := [] }

/-! ## Commands -/

/-- HEALTH_KICK (R377): a write of KICK satisfies the watchdog; beacons that waited for it go out. DEDUCED (log 88). -/
def kick (s : State) : State :=
  let s := { s with kickAt := s.now, wdStopped := false }
  (List.range 6).foldl (fun s p =>
    let b := beaconAt s p
    let s := withBeacon s p (fun b => { b with waiting := [], syncDue := false })
    if !portUp s p then s
    else if b.syncDue then sendSync s p
    else sendRecords (b.waiting.length + 1) s p false b.waiting) s

/-- HEALTH_KICK (R377). -/
def execHealthKick (r : Requester) (v : Word) (s : State) : Res :=
  access s r HEALTH_KICK (fun s => if v.getLsbD 0 then kick s else s)

/-- WATCHDOG_EXPIRY (R377): a period without a kick stops every port's beacons.
DESIGN CHOICE (log 3). DEDUCED (log 88). -/
def execWatchdogExpiry (s : State) : Res :=
  let t := (rd s HEALTH_WATCHDOG).toNat
  if t ≠ 0 ∧ !s.wdStopped ∧ s.kickAt + t ≤ s.now then .next { s with wdStopped := true } else .next s

/-- A write of HEALTH_SELF_FENCE; with both bits set the lower bit's cause is originated first. -/
def selfFenceWrite (s : State) (v : Word) : State :=
  let s := if v.getLsbD 0 then selfFence s causeSelf else s
  if v.getLsbD 1 then selfFence s causeManager else s

/-- SELF_FENCE_SELF (R381). -/
def execSelfFenceSelf (r : Requester) (v : Word) (s : State) : Res :=
  access s r HEALTH_SELF_FENCE (fun s => selfFenceWrite s v)

/-- SELF_FENCE_MANAGER (R381). -/
def execSelfFenceManager (r : Requester) (v : Word) (s : State) : Res :=
  access s r HEALTH_SELF_FENCE (fun s => selfFenceWrite s v)

/-- DIE_BRIDGE_FAIL (R381). DESIGN CHOICE (log 84). -/
def execDieBridgeFail (s : State) : Res := .next (selfFence s causeSelf)

/-- A write of HEALTH_READMIT (R384): REQUEST and PORT are stored; READMIT goes out in that port's beacons. -/
def readmitWrite (s : State) (v : Word) : State :=
  setF (setF s HEALTH_READMIT_REQUEST (bits v.toNat 3 3)) HEALTH_READMIT_PORT (bits v.toNat 2 0)

/-- HEALTH_READMIT_REQUEST (R384). -/
def execHealthReadmitRequest (r : Requester) (v : Word) (s : State) : Res :=
  access s r HEALTH_READMIT (fun s => readmitWrite s v)

/-- A write of HEALTH_BEACON (R378): one with INTERVAL 0, FENCE_MISS 0, or SUSPECT_MISS not below FENCE_MISS changes no
field. -/
def beaconWrite (s : State) (v : Word) : State :=
  let fence := bits v.toNat 15 8
  if bits v.toNat 31 16 = 0 ∨ fence = 0 ∨ fence ≤ bits v.toNat 7 0 then s else wr s HEALTH_BEACON v

/-- HEALTH_BEACON_WRITE (R378). -/
def execHealthBeaconWrite (r : Requester) (v : Word) (s : State) : Res :=
  access s r HEALTH_BEACON (fun s => beaconWrite s v)

/-- A write of HEALTH_LEVEL (R400). -/
def levelWrite (s : State) (v : Word) : State :=
  let l := bits v.toNat 7 0
  if coordValid s ∨ ¬(l = 2 ∨ l = 3) then s else setF s HEALTH_LEVEL_OWN l

/-- HEALTH_LEVEL_WRITE (R400). -/
def execHealthLevelWrite (r : Requester) (v : Word) (s : State) : Res :=
  access s r HEALTH_LEVEL (fun s => levelWrite s v)

/-- BEACON_DUE (R376): the next scheduled beacon of a port that is up. DEDUCED (log 79). -/
def execBeaconDue (p : TorusPort) (s : State) : Res :=
  let b := beaconAt s p.val
  if portUp s p.val && decide (b.nextAt ≤ s.now) then
    let s := withBeacon s p.val (fun b => { b with nextAt := b.nextAt + getF s HEALTH_BEACON_INTERVAL })
    .next (if beaconsOn s then sendBeacon s p.val false false true [] else s)
  else .next s

/-- BEACON_MISS (R378): an interval without a beacon; at SUSPECT_MISS the peer is suspect, at FENCE_MISS it is fenced.
DESIGN CHOICE (log 3). DEDUCED (log 78). -/
def execBeaconMiss (p : TorusPort) (s : State) : Res :=
  let b := beaconAt s p.val
  let t := getF s HEALTH_BEACON_INTERVAL
  if !portUp s p.val || decide (s.now < b.heard + t) then .next s
  else
    let n := b.misses + 1
    let s := withBeacon s p.val (fun b => { b with misses := n, heard := b.heard + t })
    let s := if n = getF s HEALTH_BEACON_SUSPECT_MISS then
        pfMsix (scorePort (setF s (HEALTH_PORT_SCORE_SUSPECT p.val) 1) p.val 2048) 0 else s
    .next (if n = getF s HEALTH_BEACON_FENCE_MISS ∧ coordValid s then
      originate s (peerCoord s p.val) bitFenced true causeBeacon else s)

/-- A beacon's part in re-admission (R385 step 1): scheduled beacons with READMIT in a run of 16, none later than two
intervals after the one before; the sixteenth starts the exchange, which `challengeOut` begins. -/
def countReadmit (s : State) (p : Nat) (flags : Nat) : State :=
  if !bit flags 3 then s
  else
    let b := beaconAt s p
    let late := decide (b.runAt + 2 * getF s HEALTH_BEACON_INTERVAL < s.now)
    let n := if !bit flags 0 then 0 else if b.run = 0 ∨ late then 1 else b.run + 1
    withBeacon s p (fun b => { b with run := n, runAt := s.now })

end Sys2Proof.Machine
end

