-- ==== Sys2Proof/Machine/CayFence.lean ====
section
/-! DEFINITION. Fencing of Cays and spares (R387 to R392, with R127, R128, R170, R171, R196), health scores and the
expulsion budget (R393 to R395). -/

namespace Sys2Proof.Machine

/-! ## Cays of a die -/

/-- The die of a Cay number. -/
def cayDie (n : Nat) : Nat := if n < 64 then 0 else 1
/-- Free spares of a die (R392). -/
def spares (d : Nat) : Fld := if d = 0 then HEALTH_SPARES_FREE_A else HEALTH_SPARES_FREE_B
/-- In-service Cays of a die. -/
def inService (s : State) (d : Nat) : Nat := ((List.range 64).filter (fun i => cayUp s (64 * d + i))).length
/-- The next in-service Cay of the same die in ascending number, counting cyclically (R388 step 4). -/
def nextCay (s : State) (n : Nat) : Nat :=
  let base := 64 * cayDie n
  (((List.range 64).map (fun i => base + (n - base + 1 + i) % 64)).find? (cayUp s)).getD n
/-- The Lagoon slice of a number. -/
def sliceRange (n : Nat) : Nat × Nat := (lagoonBase + n * 0x8000000, 0x8000000)

/-- Every map entry that names a Cay changed. -/
def mapEntries (s : State) (n : Nat) (f : State → Nat → State) : State :=
  ((List.range 128).filter (fun i => getF s (FAB_RED_CAY_MAP_CAY i) == n)).foldl f s

/-- CTX_EVENT.CAY_FENCED in every open context, with vector 16. -/
def cayEvent (s : State) : State :=
  ((List.range 64).filter (ctxIsOpen s)).foldl (fun s c => ctxMsix (setF s (CTX_EVENT_CAY_FENCED c) 1) c 16) s

/-! ## The owner's layers (R128, R170, R171, R391) -/

/-- The staging of a bucket lies on a slice. -/
def placedOn (n : Nat) (b : StagedB) : Bool := overlap b.addr (4 * b.n) (sliceRange n).1 (sliceRange n).2
/-- A bucket's staged values lie on a slice: a spilled one's lie in HBM (R174). -/
def stagedOn (n : Nat) (b : StagedB) : Bool := b.spill.isNone && placedOn n b

/-- A running update still needs staging on a slice: in pass 1 any, in pass 2 that of a task not applied, but for matrix
sections whose phase is done. DEDUCED (log 83). -/
def needsSlice (s : State) (l : Nat) (x : Layer) (u : UpdateSt) (n : Nat) : Bool :=
  let bs := x.staged.filter (stagedOn n)
  if u.pass = 1 then !bs.isEmpty
  else (List.range (tasks x.desc)).any (fun t => !taskApplied s x.desc 2 t && (taskRuns x.desc t).any (fun r =>
    let sec := ((sections x.desc)[r.sec]?).getD ⟨0, 0, 1, false⟩
    !(sec.matrix && flag s (LAYER_JNL_A_ORTHO_DONE l)) && bs.any (fun b => overlap r.first (128 * r.blocks) b.first b.n)))

/-- A layer's scratch lies on a slice. -/
def scratchOn (x : Layer) (n : Nat) : Bool :=
  match x.scratch with
  | some p => overlap p.1 p.2 (sliceRange n).1 (sliceRange n).2
  | none => false

/-- A layer's scratch is made again on the slice of the Cay that now holds its entry (R391); none where it does not
fit. -/
def remakeScratch (s : State) (l : Nat) : State :=
  let s := releaseAllocs s (fun a => a.use == .scratch l)
  (takeScratch (withLayer s l (fun y => { y with scratch := none })) l).1

/-- The next in-service Cay in ascending number after a Cay, counting cyclically over the module (R170). -/
def nextTaskCay (s : State) (n : Nat) : Nat := (((List.range 128).map (fun i => (n + 1 + i) % 128)).find? (cayUp s)).getD n

/-- The calls of some tasks of a layer's update end. -/
def clearTasks (s : State) (l : Nat) (ts : List Nat) : State :=
  { s with cays := s.cays.map (fun p =>
      match p.2.call with
      | some c => if !c.kernel && c.layer == l && ts.contains c.task then
          (p.1, { p.2 with call := none, streams := List.replicate 4 {} }) else p
      | none => p) }

/-- A task reads the scratch: in pass 1 the factors, in pass 2 the output of a matrix section (Table 5-5). -/
def readsScratch (x : Layer) (u : UpdateSt) (t : Nat) : Bool :=
  decide (u.pass = 1) || (taskRuns x.desc t).any (fun r => (((sections x.desc)[r.sec]?).map (fun k => k.matrix)).getD false)

/-- The begun tasks of a layer's update that a fence stops run again from their first run, and are counted (R170): those of
the fenced Cay, and those that read the lost scratch. DEDUCED (log 83). -/
def restartTasks (s : State) (l : Nat) (x : Layer) (u : UpdateSt) (n : Nat) : State :=
  let ks := u.tasks.filter (fun k => !k.done && (k.cay == n || readsScratch x u k.t))
  ks.foldl (fun s k => rerunTask s l k.t k.cay false) (clearTasks s l (ks.map (fun k => k.t)))

/-- The statistics step again (R170), counted. -/
def rerunStatistics (s : State) (l : Nat) : State := countReruns (tryStatistics s l) l 1

/-- Tasks that run on a fenced Cay and whose staging lies elsewhere run again on the next Cay in service (R170). -/
def rerunTasks (s : State) (l : Nat) (u : UpdateSt) (n : Nat) : State :=
  (u.tasks.filter (fun k => k.cay == n && !k.done)).foldl (fun s k => rerunTask s l k.t (nextTaskCay s n) false) s

/-- Tasks of a fenced Cay get another Cay without a further count. -/
def moveTasks (s : State) (l n : Nat) : State :=
  withUpd s l (fun u => { u with tasks := u.tasks.map (fun k =>
    if k.cay = n ∧ !k.done then { k with cay := nextTaskCay s n } else k) })

/-- A spilled bucket's staging reservation lay on a slice that has no successor: it is made again on the slice of the next
Cay of the die, or the layer stops. DEDUCED (log 83). -/
def moveSpilled (n l : Nat) (s : State) (b : StagedB) : State :=
  match tget s.layers l with
  | none => s
  | some x =>
    if b.spill.isNone || !placedOn n b || !(x.staged.any (fun y => y == b)) then s
    else
      let cay := nextCay s n
      let s := releaseAllocs s (fun a => a.use == AllocFor.staging l b.tag)
      let r := reserve s x.ctx (.slice cay) (4 * b.n) (.staging l b.tag)
      match r.2, allocOf r.1 x.ctx (.staging l b.tag) with
      | none, some a => withLayer r.1 l (fun y => { y with
          staged := y.staged.map (fun z => if z.tag = b.tag then { z with addr := a.base, cay := cay } else z) })
      | _, _ => haltLayer r.1 l 0x31

/-- A layer when a Cay whose slice it may use is fenced. `spare` says that a spare will take the number; without one the
scratch is made again elsewhere, also where the update stops (R391). The output of a finished matrix phase is not made again:
R170 repeats that phase only when ORTHO_DONE is 0. DEDUCED (log 83). -/
def fenceLayer (n : Nat) (spare : Bool) (s : State) (p : Nat × Layer) : State :=
  match tget s.layers p.1 with
  | none => s
  | some x =>
    match x.upd with
    | none =>
      let s := if x.staged.any (stagedOn n) then haltLayer s p.1 0x31 else s
      if spare then s
      else
        let s := x.staged.foldl (moveSpilled n p.1) s
        if scratchOn x n then remakeScratch s p.1 else s
    | some u =>
      if needsSlice s p.1 x u n then
        let s := failUpdate s p.1 0x31
        if !spare && scratchOn x n then remakeScratch s p.1 else s
      else if scratchOn x n then
        let s := restartTasks s p.1 x u n
        if spare then s else moveTasks (rerunStatistics (remakeScratch s p.1) p.1) p.1 n
      else rerunTasks s p.1 u n

/-! ## A Cay fence (R388 to R390) -/

/-- The buckets of a fenced Cay move under R127, or before admission with their reservations, those too that had found no
room on it; those moved before ask again for what did not fit. DEDUCED (log 83). -/
def moveBuckets (s : State) (n code : Nat) : State :=
  s.buckets.foldl (fun s p =>
    match bucketAt s p.1 with
    | none => s
    | some e =>
      if e.cay ≠ n ∨ !hasCay e then s
      else if bLive e then restartBucket s p.1 code
      else moveReservations s p.1 (mapEntry s e).2) s |> retryMoves

/-- The call of a fenced Cay ends (R328): a kernel, which is no command (R390), with FENCED_CAY, an update's under R170 and
R171. DEDUCED (log 83). -/
def endFencedCall (s : State) (n : Nat) : State :=
  let st := getF s (CAY_KL_STATE_STATE n)
  let s := if st = 1 ∨ st = 2 then endKernel s n 0x31 else s
  putCay s n { cayAt s n with call := none, streams := List.replicate 4 {} }

/-- A die with fewer in-service Cays than MIN_CAYS makes the module fence itself, unless it is fenced (R381, R392). -/
def checkCays (s : State) : State :=
  if !selfFenced s ∧ (inService s 0 < getF s HEALTH_CTRL_MIN_CAYS ∨ inService s 1 < getF s HEALTH_CTRL_MIN_CAYS) then
    selfFence s causeSelf
  else s

/-- A write of HEALTH_CTRL: with MIN_CAYS raised, R381 may apply at once. -/
def healthCtrlWrite (s : State) (v : Word) : State :=
  let s := setF (setF s HEALTH_CTRL_THRESH (bits v.toNat 31 16)) HEALTH_CTRL_MIN_CAYS (bits v.toNat 15 8)
  checkCays (setF s HEALTH_CTRL_SOFT_EN (bits v.toNat 0 0))

/-- A Cay fence, hard or soft (R388). DEDUCED (log 83). -/
def cayFence (s : State) (n : Nat) (hard : Bool) : State :=
  let d := cayDie n
  let spare := decide (0 < getF s (spares d))
  let s := bump s (if hard then HEALTH_FENCE_COUNT_HARD else HEALTH_FENCE_COUNT_SOFT) 1
  let s := setF s (HEALTH_CAY_STATE n) (if spare then 4 else if hard then 2 else 3)
  let s := fenceLog s 0 (if hard then 1 else 2) (if spare || !hard then 0 else 0x32) n
  let s := cayEvent (pfMsix s 0)
  let code := if hard && !spare then 0x32 else 0x31
  let s := loseRuns (loseRegions (loseCopies (endFencedCall s n) n code) n code) n code
  let s := if hard && !spare then convNoSpare s n else s
  let s := if spare then
      mapEntries (setF s (spares d) (getF s (spares d) - 1)) n (fun s i => setF s (FAB_RED_CAY_MAP_VALID i) 0)
    else mapEntries s n (fun s i => setF s (FAB_RED_CAY_MAP_CAY i) (nextCay s n))
  let s := s.layers.foldl (fenceLayer n spare) s
  let s := if spare then s else moveBuckets s n (if hard then 0x32 else 0x60)
  streamsGo (checkCays s)

/-! ## Upsets of a Cay's operations (R92, R93) -/

/-- The task that a call runs is a rerun already (R170). -/
def rerunning (s : State) (c : MCall) : Bool :=
  match (tget s.layers c.layer).bind (fun x => x.upd) with
  | some u => u.tasks.any (fun k => k.t == c.task && k.rerun)
  | none => false

/-- An error that the Cay survives is counted and scored; the operation goes on (R92, R93, Table 13-6). -/
def survived (s : State) (n : Nat) (u : Upset) : State :=
  if u = .repeated then scoreCay (bump s (CAY_RESIDUE_COUNT_RETRIED n) 1) n 256
  else scoreCay (bump s (CAY_ARRAY_ERR_COUNT_CORRECTED n) 1) n 16

/-- The task that a call runs has failed a residue check: its next run is its one rerun (R170). -/
def markRerun (s : State) (c : MCall) : State := withTask s c.layer c.task (fun k => { k with rerun := true })

/-- An error that the Cay does not survive (R92, R93, R328): it is counted; a kernel ends with RESIDUE or
ECC_UNCORRECTED, an update's task is left for its one rerun after a residue failure (R170) and else stops the update
(R171); the Cay is fenced at once (R387). -/
def succumbed (s : State) (n : Nat) (u : Upset) : State :=
  let st := if u = .failed then 0x21 else 0x22
  let s := bump s (if u = .failed then CAY_RESIDUE_COUNT_FAILED n else CAY_ARRAY_ERR_COUNT_UNCORRECTED n) 1
  let s := match (cayAt s n).call with
    | some c =>
      if c.kernel then endKernel s n st
      else if u = .failed ∧ !rerunning s c then markRerun s c
      else stopUpdate (clearCalls s c.layer) c.layer st
    | none => s
  cayFence s n true

/-- The upset leaves the state as the operation meets it. -/
def metUpset (s : State) (n : Nat) : State := { s with upsets := tdel s.upsets n }

/-- The Cay lives on after an upset. -/
def survives (u : Upset) : Bool := u == .repeated || u == .corrected

/-- An upset that an operation meets. DESIGN CHOICE (log 113). -/
def upsetMet (s : State) (n : Nat) (u : Upset) : State :=
  if survives u then survived (metUpset s n) n u else succumbed (metUpset s n) n u

/-- What of a bucket its Cay has formed: received values, partials, results, the stream it sends and its error memory. -/
def bucketWork (e : Bucket) : List (List (List Wide)) × List W32 × List W32 × List Lanes × BStage × Nat × List (BitVec 32) :=
  ((e.ports ++ e.arms).map (fun p => p.2.groups), e.partials, e.outs, e.wides, e.stage, e.sentCells, e.em)

/-- A Cay has worked between two states: on a bucket's fold or staging, on the conversion of a spill or of weights, on a
task's norms, or as a layer's lead Cay on statistics or the matrix phase. DESIGN CHOICE (log 113). -/
def cayWorked (s t : State) (n : Nat) : Bool :=
  s.buckets.any (fun p => p.2.cay == n && bLive p.2 &&
    (match bucketAt t p.1 with | some e => bucketWork e != bucketWork p.2 | none => false)) ||
  t.ferries.any (fun f => match f.src with
    | .layer l => ((tget t.layers l).map (fun x => leadCay t x.desc)) == some n &&
        decide (((ferryAt s f.key).map (fun g => g.got)).getD 0 < f.got)
    | _ => false) ||
  s.layers.any (fun p =>
    (leadCay s p.2.desc == n && (jPhase s p.1 == 0 && jPhase t p.1 == 1 ||
      flag s (LAYER_JNL_A_ORTHO_DONE p.1) != flag t (LAYER_JNL_A_ORTHO_DONE p.1))) ||
    (match tget t.layers p.1 with
     | some y => (leadCay s p.2.desc == n && y.replays != p.2.replays) || p.2.staged.any (fun b => b.cay == n && b.spill.isSome && y.staged.any (fun d => d.tag == b.tag && d.spill.isNone)) ||
       (p.2.done2 != y.done2 && (match p.2.upd with | some u => u.tasks.any (fun k => k.cay == n && k.done) | none => false))
     | none => false))

/-- A command under the upsets that its Cays may meet (R92, R93): a Cay that survives one has its work right; one that does
not is fenced before it, and the command meets the state that this leaves. DESIGN CHOICE (log 113). -/
def underUpsets (s : State) (f : State → Res) : Res :=
  if s.upsets.isEmpty then f s
  else
    match f s with
    | .next t =>
      match s.upsets.find? (fun u => cayUp s u.1 && cayWorked s t u.1) with
      | some (n, u) => if survives u then .next (survived (metUpset t n) n u) else f (succumbed (metUpset s n) n u)
      | none => .next t
    | r => r

/-- DATA_W32 (R92, R114): a W32 cell, consumed into the bucket's fold. -/
def execDataW32 (p : TorusPort) (x : Cell) (s : State) : Res :=
  underUpsets s (fun s =>
    if x.type.toNat = tDATA_W32 then receive s p.val x (fun s => some (armData s p.val x)) else .next s)

/-- DATA_S1 (R92, R114): an S1 cell, expanded and consumed into the bucket's fold. -/
def execDataS1 (p : TorusPort) (x : Cell) (s : State) : Res :=
  underUpsets s (fun s =>
    if x.type.toNat = tDATA_S1 then receive s p.val x (fun s => some (armData s p.val x)) else .next s)

/-- TRAILER (R92, R123): the end of an upstream module's stream, with the folds that it lets begin. -/
def execTrailerCell (p : TorusPort) (x : Cell) (s : State) : Res := underUpsets s (trailerCell p x)
/-- DEADLINE (R92, R130), with the folds that it lets begin. DESIGN CHOICE (log 3). -/
def execDeadline (b : BucketNum) (s : State) : Res := underUpsets s (deadline b)
/-- ARM_DEADLINE (R92, R131), with the folds that it lets begin. -/
def execArmDeadline (b : BucketNum) (p : TorusPort) (s : State) : Res := underUpsets s (armDeadline b p)
/-- LAYER_STATE_PRESENT (R92, R173, R174), with the conversions of spilled buckets. DEDUCED (log 41). -/
def execLayerStatePresent (l : LayerNum) (s : State) : Res := underUpsets s (layerStatePresent l)
/-- UPDATE_START (R92, R154 to R156), with the statistics step. -/
def execUpdateStart (l : LayerNum) (s : State) : Res := underUpsets s (updateStart l)
/-- TASK_APPLY (R92, R158, R160), with the task's norms. -/
def execTaskApply (l : LayerNum) (t : Nat) (s : State) : Res := underUpsets s (taskApply l t)
/-- MATRIX_PHASE_DONE (R92, R165, R166), with the matrix phase. -/
def execMatrixPhaseDone (l : LayerNum) (s : State) : Res := underUpsets s (matrixPhaseDone l)
/-- GRANT RELEASE (R92, R113): the member may send its stream. -/
def execGrantRelease (p : TorusPort) (x : Cell) (s : State) : Res :=
  underUpsets s (fun s =>
    if isGrant x .release then receive s p.val x (fun s => some (grantRelease s p.val x)) else .next s)

/-- GRANT RESEND (R92, R127): the stream goes again from its first cell, from the retained copies. -/
def execGrantResend (p : TorusPort) (x : Cell) (s : State) : Res :=
  underUpsets s (fun s =>
    if isGrant x .resend then receive s p.val x (fun s => some (grantResend s p.val x)) else .next s)

/-- ACCEPT (R92, R188): the parent sends plan cells and data. One for a stream that is gone here is answered with ABORT.
DEDUCED (log 60). -/
def execFerryAccept (p : TorusPort) (x : Cell) (s : State) : Res :=
  underUpsets s (fun s =>
    if isOp x tRSP 0x81 then receive s p.val x (fun s => some (ferryAccepted s p.val x)) else .next s)

/-- WINDOW (R92, R188): the child's running total of retired cells. -/
def execFerryWindow (p : TorusPort) (x : Cell) (s : State) : Res :=
  underUpsets s (fun s =>
    if isOp x tRSP 0x83 then receive s p.val x (fun s => some (ferryWindowed s p.val x)) else .next s)

/-- FINISHED (R92, R188): the unserved ranges of the child's subtree; the last cell ends the child. -/
def execFerryFinished (p : TorusPort) (x : Cell) (s : State) : Res :=
  underUpsets s (fun s =>
    if isOp x tRSP 0x84 then receive s p.val x (fun s => some (childFinished s p.val x)) else .next s)

/-- FERRY_SEND (R92, R181), with the conversion of its first cells. -/
def execFerrySend (c : Ctx) (q : QNum) (i : Word) (s : State) : Res := underUpsets s (ferrySendRun c q i)

/-- A Cay holds a running call and has finished no instruction and no fold step for 1,024 ticks (Table 13-6). Fold steps
are done in the command that makes them possible, so that no Cay holds one undone. DEDUCED (log 58). -/
def hangs (s : State) (n : Nat) : Bool :=
  let m := cayAt s n
  m.call.isSome && decide (m.since + 1024 ≤ s.now) &&
    decide ((tget s.folds n).getD 0 + 1024 ≤ s.now)

/-- CAY_HANG (R387): 1,024 ticks in which a Cay with work finishes nothing, a hard fault. DEDUCED (log 58). -/
def execCayHang (n : CayNum) (s : State) : Res :=
  if cayUp s n.val && hangs s n.val then .next (cayFence s n.val true) else .next s

/-- Layers whose lead Cay has come back repeat their statistics step (R170), and spilled buckets that waited for the Cay are
converted (R174). -/
def resumeLayer (n : Nat) (s : State) (p : Nat × Layer) : State :=
  match tget s.layers p.1 with
  | some x => if x.upd.isSome && scratchOn x n then rerunStatistics s p.1 else convertSpills s p.1
  | none => s

/-- A spare takes a Cay's number (R255, R388): its slice and store read as zero, the entries that name it are valid
again. -/
def spareServes (s : State) (n : Nat) : State :=
  let s := setF (setF s (HEALTH_CAY_STATE n) 1) (HEALTH_CAY_SCORE n) 0
  let s := putCay (wipe (wipe s (sliceRange n).1 (sliceRange n).2) (cayStore n) 0x200000) n {}
  let s := mapEntries s n (fun s i => setF s (FAB_RED_CAY_MAP_VALID i) 1)
  cayEvent s

/-- The work of a Cay in service again goes on: its layers, its buckets, the streams that read its layers' weights. -/
def spareResumes (n : Nat) (s : State) : Res :=
  if !cayUp s n then .next s
  else .next (streamsGo (moveBuckets (s.layers.foldl (resumeLayer n) s) n 0x60))

/-- SPARE_IN_SERVICE (R92, R255, R388): the spare takes the number, and its buckets and layers go on.
DESIGN CHOICE (log 4). -/
def execSpareInService (n : CayNum) (s : State) : Res :=
  if getF s (HEALTH_CAY_STATE n.val) ≠ 4 then .next s
  else underUpsets (spareServes s n.val) (spareResumes n.val)

/-! ## Scores (R393 to R395) -/

/-- A score after a period. -/
def decayed (x : Nat) : Nat := x - (x + 1023) / 1024

/-- A score field decays. -/
def decayF (s : State) (f : Fld) : State := setF s f (decayed (getF s f))

/-- Every score loses its share; a fenced Cay's stays. -/
def decayAll (s : State) : State :=
  let s := (List.range 128).foldl (fun s n => if cayUp s n then decayF s (HEALTH_CAY_SCORE n) else s) s
  let s := (List.range 22).foldl (fun s p => decayF s (HEALTH_PORT_SCORE_SCORE p)) s
  decayF s HEALTH_MODULE_SCORE_SCORE

/-- The candidate of R394: the highest score at or above THRESH, ties to the lower number. DEDUCED (log 83). -/
def softCandidate (s : State) : Option Nat :=
  if !flag s HEALTH_CTRL_SOFT_EN then none
  else
    ((List.range 128).filter (fun n => cayUp s n && decide (getF s HEALTH_CTRL_THRESH ≤ getF s (HEALTH_CAY_SCORE n)))).foldl
      (fun b n => match b with
        | none => some n
        | some a => if getF s (HEALTH_CAY_SCORE a) < getF s (HEALTH_CAY_SCORE n) then some n else some a) none

/-- Soft fences in the present window. -/
def softUsed (s : State) : Nat :=
  (s.softAt.filter (fun t => decide (s.now < t + (rd s HEALTH_BUDGET_WINDOW).toNat))).length

/-- The soft fence at the end of a period, or its deferral. -/
def softFence (s : State) : State :=
  match softCandidate s with
  | none => s
  | some n =>
    if 0 < getF s (spares (cayDie n)) ∧ softUsed s < getF s HEALTH_BUDGET_MAX then
      cayFence { s with softAt := s.now :: s.softAt } n false
    else bump s HEALTH_SOFT_DEFER_COUNT_COUNT 1

/-- SCORE_DECAY (R393, R394): every 156,250 ticks. -/
def execScoreDecay (s : State) : Res :=
  if s.decayAt + 156250 ≤ s.now then .next (softFence (decayAll { s with decayAt := s.decayAt + 156250 })) else .next s

end Sys2Proof.Machine
end

