-- ==== Sys2Proof/Machine/Operands.lean ====
section
/-! DEFINITION. Operand forms of Milar instructions (Tables 11-5 and 11-6): the fields of a word, the registers they
name, lanes of vector registers, the addresses memory instructions form. -/

namespace Sys2Proof.Machine

/-! ## Fields of a word (Table 11-5) -/

/-- Bits `[hi:lo]` of a word. -/
def wb (w : Word) (hi lo : Nat) : Nat := bits w.toNat hi lo
/-- The major opcode. -/
def wMajor (w : Word) : Nat := wb w 31 26
/-- rd, rt, vd. -/
def wRd (w : Word) : Nat := wb w 25 21
/-- ra, va, the base register. -/
def wRa (w : Word) : Nat := wb w 20 16
/-- rb, vb. -/
def wRb (w : Word) : Nat := wb w 15 11
/-- vc. -/
def wVc (w : Word) : Nat := wb w 10 6
/-- The function of a register form. -/
def wFn (w : Word) : Nat := wb w 5 0
/-- The 16-bit immediate, zero-extended. -/
def wImm (w : Word) : Nat := wb w 15 0
/-- A field as a signed number of `k` bits, in 64 bits. -/
def sextTo (k v : Nat) : BitVec 64 := (BitVec.ofNat k v).signExtend 64
/-- The 16-bit immediate, sign-extended. -/
def wSimm (w : Word) : BitVec 64 := sextTo 16 (wImm w)
/-- Whether every field of a list is zero. -/
def zeroFields (w : Word) (fs : List (Nat × Nat)) : Bool := fs.all (fun f => wb w f.1 f.2 == 0)

/-! ## Registers (R301, R302) -/

/-- A g register; g0 reads zero. -/
def getG (m : Milar) (i : Nat) : BitVec 64 := if i = 0 then 0 else m.g.getD i 0
/-- The program state with a g register written; a write to g0 is discarded. -/
def setG (m : Milar) (i : Nat) (x : BitVec 64) : Milar := if i = 0 then m else { m with g := lmod m.g i (fun _ => x) }
/-- A predicate; p0 reads 1. -/
def getP (m : Milar) (i : Nat) : Bool := if i = 0 then true else m.p.getD i false
/-- The program state with a predicate written; a write to p0 is discarded. -/
def setP (m : Milar) (i : Nat) (b : Bool) : Milar := if i = 0 then m else { m with p := lmod m.p i (fun _ => b) }
/-- A vector register. -/
def getV (m : Milar) (i : Nat) : BitVec 2048 := m.v.getD i 0
/-- The program state with a vector register and its position tag written. -/
def setV (m : Milar) (i : Nat) (x : BitVec 2048) (tag : Option Nat) : Milar :=
  { m with v := lmod m.v i (fun _ => x), tags := lmod m.tags i (fun _ => tag) }
/-- A register's position tag (R325). -/
def getTag (m : Milar) (i : Nat) : Option Nat := m.tags.getD i none
/-- An accumulator's four groups. -/
def getA (m : Milar) (i : Nat) : List Lanes := m.a.getD i []
/-- The program state with an accumulator written. -/
def setA (m : Milar) (i : Nat) (x : List Lanes) : Milar := { m with a := lmod m.a i (fun _ => x) }
/-- A tile. -/
def getT (m : Milar) (i : Nat) : Tile := m.t.getD i ⟨.l16, clearLanes 1024 (floorTile .l16)⟩
/-- The program state with a tile written. -/
def setT (m : Milar) (i : Nat) (x : Tile) : Milar := { m with t := lmod m.t i (fun _ => x) }

/-- Lane `i` of width `w` bits (R302). -/
def lane (w i : Nat) (x : BitVec 2048) : Nat := (x.toNat >>> (w * i)) % 2 ^ w
/-- The lanes of a register. -/
def lanesOf (w : Nat) (x : BitVec 2048) : List Nat := (List.range (2048 / max 1 w)).map (fun i => lane w i x)
/-- A register of lanes. -/
def ofLanes (w : Nat) (xs : List Nat) : BitVec 2048 :=
  BitVec.ofNat 2048 (xs.foldr (fun x a => x % 2 ^ w + a * 2 ^ w) 0)
/-- The bytes of a register: byte k is bits [8k + 7 : 8k] (R302). -/
def vecBytes (x : BitVec 2048) : List Byte := natLe 256 x.toNat
/-- A register of 256 bytes. -/
def ofBytes (bs : List Byte) : BitVec 2048 := BitVec.ofNat 2048 (leNat bs)

/-- Lane width in bits of a width code: .b, .h, .w, .d. -/
def widthBits (c : Nat) : Nat := 8 * 2 ^ (c % 4)

/-! ## KC (Table 11-2) -/

/-- Vector rounding. -/
def kcRm (m : Milar) : Rm :=
  match bits m.kc.toNat 1 0 with
  | 0 => .nearest | 1 => .zero | 2 => .up | _ => .down
/-- FTZ. -/
def kcFtz (m : Milar) : Bool := bit m.kc.toNat 2
/-- MODE: IEEE. -/
def kcIeee (m : Milar) : Bool := bit m.kc.toNat 3
/-- The settings of vector arithmetic. -/
def kcEnv (m : Milar) : FEnv := { rm := kcRm m, ieee := kcIeee m, ftz := kcFtz m }

/-! ## Addresses (R306) -/

/-- The address of a memory instruction: base plus sign-extended offset, modulo 2^64. -/
def memAddr (m : Milar) (w : Word) : Nat := (getG m (wRa w) + wSimm w).toNat

end Sys2Proof.Machine
end

