-- ==== Sys2Proof/Machine/MilarDecode.lean ====
section
/-! DEFINITION. The decoder of Milar words: which instruction a 32-bit word spells (R310, R311, Tables 11-5 to 11-17). -/

namespace Sys2Proof.Machine

/-- A word holds a row's encoding: its major opcode, its function field, its zero fields. -/
def encodes (w : Word) (major : Nat) (fn : Option (Nat × Nat × Nat)) (zs : List (Nat × Nat)) : Bool :=
  wMajor w == major && (match fn with | some (hi, lo, v) => wb w hi lo == v | none => true) && zeroFields w zs

/-- An instruction where a word's zero fields are zero. -/
def zeroed (w : Word) (zs : List (Nat × Nat)) (i : Instr) : Option Instr := if zeroFields w zs then some i else none

/-! ## The forms of a conversion word (R316, R317) -/

/-- The source and destination formats a conversion names, where R316 gives the pair a conversion and the widths differ
by a factor of 1, 2 or 4. -/
def convPair (w : Word) : Option (LaneFmt × LaneFmt) :=
  match laneFmt (wb w 4 1), laneFmt (wb w 8 5) with
  | some a, some b =>
    let p := laneWidth a
    let q := laneWidth b
    if lanePairOk a b && decide (max p q ≤ 4 * min p q) then some (a, b) else none
  | _, _ => none

/-- Which of the three forms a pair of widths takes: same width, widening, narrowing. -/
inductive ConvForm where
  | same | widen | narrow
  deriving DecidableEq, Repr

/-- The form of a pair. DEDUCED (log 72). -/
def convForm (a b : LaneFmt) : ConvForm :=
  if laneWidth a = laneWidth b then .same else if laneWidth a < laneWidth b then .widen else .narrow

/-- The form a conversion word takes: by the widths its codes name; a word with a code that names none is taken as the
same-width form, which traps as every form would. DEDUCED (log 111). -/
def wordForm (w : Word) : ConvForm :=
  match laneFmt (wb w 4 1), laneFmt (wb w 8 5) with
  | some a, some b => convForm a b
  | _, _ => .same

/-! ## The majors with functions -/

/-- Table 11-7. -/
def scalarInstr (n : CayNum) (w : Word) : Option Instr :=
  match wFn w with
  | 0x00 => zeroed w [(10, 6)] (.addD n w) | 0x01 => zeroed w [(10, 6)] (.subD n w) | 0x02 => zeroed w [(10, 6)] (.addW n w)
  | 0x03 => zeroed w [(10, 6)] (.subW n w) | 0x04 => zeroed w [(10, 6)] (.sAnd n w) | 0x05 => zeroed w [(10, 6)] (.sOr n w)
  | 0x06 => zeroed w [(10, 6)] (.sXor n w) | 0x07 => zeroed w [(10, 6)] (.mulD n w) | 0x08 => zeroed w [(10, 6)] (.mulW n w)
  | 0x09 => zeroed w [(10, 6)] (.shlD n w) | 0x0A => zeroed w [(10, 6)] (.shrD n w) | 0x0B => zeroed w [(10, 6)] (.sarD n w)
  | 0x0C => zeroed w [(10, 7)] (.shliD n w) | 0x0D => zeroed w [(10, 7)] (.shriD n w) | 0x0E => zeroed w [(10, 7)] (.sariD n w)
  | 0x0F => zeroed w [(10, 6)] (.minD n w) | 0x10 => zeroed w [(10, 6)] (.maxD n w) | 0x11 => zeroed w [(10, 6)] (.minuD n w)
  | 0x12 => zeroed w [(10, 6)] (.maxuD n w) | 0x13 => zeroed w [(10, 9)] (.pselD n w)
  | _ => none

/-- Table 11-8. -/
def compareInstr (n : CayNum) (w : Word) : Option Instr :=
  let two := [(25, 24), (10, 6)]
  let preds := [(25, 24), (20, 19), (10, 6)]
  match wFn w with
  | 0x00 => zeroed w two (.ceq n w) | 0x01 => zeroed w two (.cne n w) | 0x02 => zeroed w two (.clt n w)
  | 0x03 => zeroed w two (.cge n w) | 0x04 => zeroed w two (.cltu n w) | 0x05 => zeroed w two (.cgeu n w)
  | 0x08 => zeroed w two (.ceq n w) | 0x09 => zeroed w two (.cne n w) | 0x0A => zeroed w two (.clt n w)
  | 0x0B => zeroed w two (.cge n w) | 0x0C => zeroed w two (.cltu n w) | 0x0D => zeroed w two (.cgeu n w)
  | 0x10 => zeroed w (preds ++ [(15, 14)]) (.pand n w) | 0x11 => zeroed w (preds ++ [(15, 14)]) (.por n w)
  | 0x12 => zeroed w (preds ++ [(15, 14)]) (.pxor n w) | 0x13 => zeroed w (preds ++ [(15, 11)]) (.pnot n w)
  | _ => none

/-- Table 11-9. -/
def systemInstr (n : CayNum) (w : Word) : Option Instr :=
  match wFn w with
  | 0 => zeroed w [(25, 6)] (.nop n w) | 1 => zeroed w [(10, 6)] (.ret n w) | 2 => zeroed w [(10, 6)] (.rdkc n w)
  | 3 => zeroed w [(10, 6)] (.wrkc n w) | 4 => zeroed w [(10, 6)] (.trap n w)
  | _ => none

/-- Table 11-10: function bits [4:0]. -/
def floatInstr (n : CayNum) (w : Word) : Option Instr :=
  match wb w 4 0 with
  | 0x00 => zeroed w [(10, 6)] (.vfadd n w) | 0x01 => zeroed w [(10, 6)] (.vfsub n w) | 0x02 => zeroed w [(10, 6)] (.vfmul n w)
  | 0x03 => zeroed w [(10, 6)] (.vfdiv n w) | 0x04 => zeroed w [(15, 6)] (.vfsqrt n w) | 0x05 => some (.vffma n w)
  | 0x06 => zeroed w [(10, 6)] (.vfmin n w) | 0x07 => zeroed w [(10, 6)] (.vfmax n w) | 0x08 => zeroed w [(15, 6)] (.vfabs n w)
  | 0x09 => zeroed w [(15, 6)] (.vfneg n w) | 0x0A => zeroed w [(10, 6)] (.vfeq n w) | 0x0B => zeroed w [(10, 6)] (.vflt n w)
  | 0x0C => zeroed w [(10, 6)] (.vfle n w)
  | _ => none

/-- Table 11-11: function bits [3:0]. -/
def integerInstr (n : CayNum) (w : Word) : Instr :=
  match wb w 3 0 with
  | 0x0 => .vadd n w | 0x1 => .vsub n w | 0x2 => .vmul n w | 0x3 => .vand n w | 0x4 => .vor n w | 0x5 => .vxor n w
  | 0x6 => .vshl n w | 0x7 => .vshr n w | 0x8 => .vsar n w | 0x9 => .vmin n w | 0xA => .vmax n w | 0xB => .vminu n w
  | 0xC => .vmaxu n w | 0xD => .veq n w | 0xE => .vlt n w | _ => .vsel n w

/-- A word that names two formats of one width has vb and part zero (R317), whatever R316 says of the pair. -/
def sameZero (w : Word) : Bool :=
  (laneFmt (wb w 4 1)).isNone || (laneFmt (wb w 8 5)).isNone || zeroFields w [(15, 9)]

/-- Major 0x32: bit 0 is zero; the same-width form has vb and part zero. -/
def convInstr (n : CayNum) (w : Word) : Option Instr :=
  if wb w 0 0 ≠ 0 then none
  else match wordForm w with
    | .same => if sameZero w then some (.vcvt n w) else none
    | .widen => some (.vcvtw n w)
    | .narrow => some (.vcvtn n w)

/-- Table 11-12. -/
def moveInstr (n : CayNum) (w : Word) : Option Instr :=
  match wb w 5 2 with
  | 0 => some (.vbcast n w) | 1 => some (.vext n w) | 2 => some (.vins n w)
  | 3 => if wb w 1 0 = 3 then some (.vmov n w) else none
  | _ => none

/-- Table 11-14: the fields that an instruction does not name are zero. -/
def accInstr (n : CayNum) (w : Word) : Option Instr :=
  match wFn w with
  | 0 => zeroed w [(23, 6)] (.aclr n w)
  | 1 => if (laneFmt (wb w 15 12)).isSome then zeroed w [(23, 21), (9, 6)] (.vacc n w) else none
  | 2 => if wb w 15 12 = 6 ∨ wb w 15 12 = 7 then zeroed w [(23, 21), (9, 6)] (.vsqacc n w) else none
  | 3 => zeroed w [(21, 6)] (.aadd n w) | 4 => zeroed w [(25, 24), (21, 21), (15, 6)] (.afcvtW n w)
  | 5 => zeroed w [(25, 24), (21, 21), (15, 12), (9, 6)] (.afcvtD n w)
  | _ => none

/-- Table 11-15. -/
def tileInstr (n : CayNum) (w : Word) : Option Instr :=
  match wFn w with
  | 0 => some (.tclrL8 n w) | 1 => some (.tclrL16 n w) | 2 => some (.tmacL8 n w) | 3 => some (.tmacL16 n w)
  | 4 => some (.tmovA n w) | 5 => some (.tmovW n w) | 6 => some (.tmovD n w) | 7 => some (.tnormA n w)
  | _ => none

/-- Table 11-17. -/
def streamInstr (n : CayNum) (w : Word) : Option Instr :=
  let zs := [(20, 16), (13, 6)]
  match wFn w with
  | 0 => zeroed w zs (.xgather n w) | 1 => zeroed w zs (.xscatter n w) | 2 => zeroed w zs (.xcopy n w)
  | 3 => zeroed w zs (.xpref n w) | 4 => zeroed w [(25, 16), (13, 6)] (.xwait n w)
  | _ => none

/-- The Milar instruction that a word spells on a Cay (Table 11-6), none for a word that R311 does not list.
DESIGN CHOICE (log 69). -/
def milarInstr (n : CayNum) (w : Word) : Option Instr :=
  match wMajor w with
  | 0x01 => scalarInstr n w
  | 0x02 => some (.addiD n w) | 0x03 => some (.addiW n w) | 0x04 => some (.andi n w) | 0x05 => some (.ori n w)
  | 0x06 => some (.xori n w) | 0x07 => zeroed w [(20, 16)] (.lui n w)
  | 0x09 => compareInstr n w
  | 0x0A => some (.beqD n w) | 0x0B => some (.bneD n w) | 0x0C => some (.bltD n w) | 0x0D => some (.bgeD n w)
  | 0x0E => some (.bltuD n w) | 0x0F => some (.bgeuD n w)
  | 0x10 => zeroed w [(25, 24), (19, 16)] (if wb w 20 20 = 0 then .bp n w else .bnp n w)
  | 0x12 => some (.jal n w) | 0x13 => some (.jalr n w)
  | 0x14 => systemInstr n w
  | 0x18 => some (.ld n w) | 0x19 => some (.ld n w) | 0x1A => some (.ld n w) | 0x1B => some (.ld n w)
  | 0x1C => some (.ldu n w) | 0x1D => some (.ldu n w) | 0x1E => some (.ldu n w)
  | 0x20 => some (.st n w) | 0x21 => some (.st n w) | 0x22 => some (.st n w) | 0x23 => some (.st n w)
  | 0x24 => some (.vld n w) | 0x25 => some (.vld n w) | 0x26 => some (.vld n w) | 0x27 => some (.vld n w)
  | 0x28 => some (.vst n w) | 0x29 => some (.vst n w) | 0x2A => some (.vst n w) | 0x2B => some (.vst n w)
  | 0x2C => zeroed w [(25, 25)] (.ald n w) | 0x2D => zeroed w [(25, 25)] (.ast n w)
  | 0x30 => floatInstr n w
  | 0x31 => some (integerInstr n w)
  | 0x32 => convInstr n w
  | 0x33 => moveInstr n w
  | 0x34 => accInstr n w
  | 0x38 => tileInstr n w
  | 0x3C => streamInstr n w
  | _ => none

end Sys2Proof.Machine
end

