-- ==== Sys2Proof/Decode.lean ====
section
/-! DEFINITION. The command a word spells: the rows of Milar instructions are the ones to which the spec gives bits. -/

namespace Sys2Proof

/-- The command whose bits are `w`: a word of 32 bits spells a Milar instruction (R310, R311, Tables 11-5 to 11-17), here of
Cay 0; no other row has bits. DESIGN CHOICE (log 17). DESIGN CHOICE (log 69). -/
def decodeTableWord (nbits w : Nat) : Option Instr :=
  if nbits = 32 ∧ w < 2 ^ 32 then Machine.milarInstr 0 (BitVec.ofNat 32 w) else none

end Sys2Proof
end

