-- ==== Sys2Proof/Machine/Milar.lean ====
section
/-! DEFINITION. How a Cay executes one Milar instruction: the call it belongs to, traps and stops (R326 to R328), what
memory a program reaches (R306, R307), an update entry's held stores (R308), numeric events (R324, R325). -/

namespace Sys2Proof.Machine

/-! ## Outcomes of an instruction -/

/-- What an instruction does in the state `s` and the program state `m` of its Cay: it completes; it returns; it traps with a cause
of Table 11-18, an ARG and an address; it ends the call by a stop with a status (R328); it waits and is tried again. -/
inductive MOut where
  | ok (s : State) (m : Milar)
  | ret (s : State) (m : Milar)
  | trap (cause arg addr : Nat)
  | stop (s : State) (st : Nat)
  | wait

/-- Trap causes of Table 11-18. -/
def tcIllegal : Nat := 1
/-- ALIGN. -/
def tcAlign : Nat := 2
/-- REACH. -/
def tcReach : Nat := 3
/-- STORE. -/
def tcStore : Nat := 4
/-- OPERAND. -/
def tcOperand : Nat := 5
/-- LIMIT. -/
def tcLimit : Nat := 6
/-- USER. -/
def tcUser : Nat := 7
/-- INDEX. -/
def tcIndex : Nat := 8
/-- DESCRIPTOR. -/
def tcDescriptor : Nat := 9

/-- A call ends with a status, with nothing captured (R328): an update stops under R171, a kernel is DONE. -/
def stopCall (s : State) (n : Nat) (c : MCall) (st : Nat) : State :=
  if c.kernel then pump (endKernel s n st) else failUpdate s c.layer st

/-- A trap is counted and, where CAY_TRAP0.VALID is 0, captured (R326). -/
def captureTrap (s : State) (n : Nat) (c : MCall) (pc cause arg addr : Nat) : State :=
  let s := bump s (CAY_TRAP_COUNT_COUNT n) 1
  if flag s (CAY_TRAP0_VALID n) then s
  else
    let kind := if c.kernel then 4 else 2
    let s := wr s (CAY_TRAP0 n) (BitVec.ofNat 32 (2 ^ 31 + kind * 2 ^ 28 + cause * 2 ^ 16 + c.job % 65536))
    let s := wr s (CAY_TRAP1 n) (BitVec.ofNat 32 (pc % 2 ^ 19 * 512 + arg % 512))
    wr (wr s (CAY_TRAP2 n) (BitVec.ofNat 32 addr)) (CAY_TRAP3 n) (BitVec.ofNat 32 (addr / 2 ^ 32))

/-- A trap ends the call with BAD_DESCRIPTOR (R327). -/
def trapCall (s : State) (n : Nat) (c : MCall) (pc cause arg addr : Nat) : State :=
  stopCall (captureTrap s n c pc cause arg addr) n c 0x13

/-- A call that has returned: an update entry's task goes on (R157), a kernel is DONE with OK, or NUMERIC when its
instructions raised NV (R331). -/
def endCall (s : State) (n : Nat) (c : MCall) : State :=
  if c.kernel then pump (endKernel s n (if (cayAt s n).nv then 0x50 else 0)) else endRun s n c

/-- An instruction that is fetched. The meaning `f` finds the PC at the next word; `pc` is the instruction's own. -/
def milarRun (s : State) (n : CayNum) (c : MCall) (f : State → Milar → MCall → MOut) : Res :=
  let m := cayAt s n.val
  match f s { m with pc := (m.pc + 1) % 2 ^ 19, count := m.count + 1, since := s.now } c with
  | .ok t m' => .next (putCay t n.val m')
  | .ret t m' => .next (endCall (putCay t n.val m') n.val c)
  | .trap cause arg addr => .next (trapCall s n.val c m.pc cause arg addr)
  | .stop t st => .next (stopCall t n.val c st)
  | .wait => .next s

/-- The word that a Cay's PC names in its store (R305). DESIGN CHOICE (log 69). -/
def codeWord (s : State) (n pc : Nat) : Word := BitVec.ofNat 32 (leNat (bytesAt s.mem 0 (cayStore n + 4 * pc) 4))

/-- One instruction of a Cay's running call: `w` is the word at its PC. Where no call runs, or another word stands there,
nothing happens. An instruction beyond CAY_KLIMIT traps with LIMIT, a fetch at or beyond the code length with ILLEGAL
(R326); a fetch of a poisoned block stops the call (R268, R328). An upset is met before the result is written: the
instruction runs again, or the work stops (R92, R93).
DESIGN CHOICE (log 69). DEDUCED (log 70). DESIGN CHOICE (log 113). -/
def milar (s : State) (n : CayNum) (w : Word) (f : State → Milar → MCall → MOut) : Res :=
  let m := cayAt s n.val
  match m.call with
  | none => .next s
  | some c =>
    if (rd s (CAY_KLIMIT n.val)).toNat ≤ m.count then .next (trapCall s n.val c m.pc tcLimit 0 0)
    else if c.codeLen ≤ m.pc then .next (trapCall s n.val c m.pc tcIllegal 0 0)
    else if codeWord s n.val m.pc ≠ w then .next s
    else
      match accessFault s (some c.ctx) (cayStore n.val + 4 * m.pc) 4 false with
      | some st => .next (stopCall s n.val c st)
      | none =>
        match tget s.upsets n.val with
        | none => milarRun s n c f
        | some u => if survives u then milarRun (upsetMet s n.val u) n c f else .next (upsetMet s n.val u)

/-- The PC of the instruction itself, inside its meaning. -/
def ownPc (m : Milar) : Nat := (m.pc + 2 ^ 19 - 1) % 2 ^ 19

/-- A guarded meaning: a word that breaks the row's encoding is another instruction's, or spells none and traps with
ILLEGAL (R311). DESIGN CHOICE (log 69). -/
def legal (w : Word) (b : Bool) (r : MOut) : MOut :=
  if b then r else if (milarInstr 0 w).isSome then .wait else .trap tcIllegal 0 0

/-! ## Reach (R306, R307, Table 11-4) -/

/-- Code and constant page of the own store. -/
def codeRange (n : Nat) : Nat × Nat := (cayStore n, 0x5000)
/-- Program scratch of the own store. -/
def scratchRange (n : Nat) : Nat × Nat := (cayStore n + 0x10000, 0xF0000)
/-- The blocks of an update entry: staging or d, W, M_CUR, the M shadow, the factors. -/
def blockRanges (c : MCall) : List (Nat × Nat) :=
  if c.apply then [(c.g1, 512 * c.blocks), (c.g2, 512 * c.blocks), (c.g8, 512 * c.blocks)]
  else [(c.g1, 512 * c.blocks), (c.g3, 128 * c.mbytes * c.blocks), (c.g4, 128 * c.mbytes * c.blocks),
    (c.g5, 512 * c.blocks)]
/-- The ranges a call loads from. -/
def loadRanges (s : State) (n : Nat) (c : MCall) : List (Nat × Nat) :=
  [codeRange n, lagoonWin s c.ctx, hbmWin s c.ctx] ++ (if c.kernel then [scratchRange n] else blockRanges c)
/-- The ranges a call stores to (R164 for an update entry). DEDUCED (log 71). -/
def storeRanges (s : State) (n : Nat) (c : MCall) : List (Nat × Nat) :=
  if c.kernel then [scratchRange n, lagoonWin s c.ctx, hbmWin s c.ctx]
  else if c.apply then [(c.g2, 512 * c.blocks)]
  else [(c.g1, 512 * c.blocks), (c.g4, 128 * c.mbytes * c.blocks)]

/-- A byte lies in one of some ranges. -/
def inRanges (rs : List (Nat × Nat)) (a : Nat) : Bool := rs.any (fun r => decide (r.1 ≤ a) && decide (a < r.1 + r.2))
/-- Every byte of an access lies in one of some ranges. -/
def allIn (rs : List (Nat × Nat)) (a n : Nat) : Bool := (List.range n).all (fun i => inRanges rs (a + i))

/-- Where a byte that a program addresses lies: an update entry's staging is one run to the program, whatever buckets
hold its elements; every other address is the memory's own. -/
def physical (s : State) (c : MCall) (a : Nat) : Nat :=
  if c.kernel then a
  else
    match tget s.layers c.layer with
    | none => a
    | some x =>
      let staged := fun (p : Nat) => stagingOf x (c.g11 + (a - p) / 4) + (a - p) % 4
      if c.g1 ≤ a ∧ a < c.g1 + 512 * c.blocks then staged c.g1
      else if c.apply ∧ c.g8 ≤ a ∧ a < c.g8 + 512 * c.blocks ∧ c.g8 = c.g1 then staged c.g8
      else a

/-- The byte an update task's held stores give an address, the latest first (R308). -/
def heldByte : List HeldStore → Nat → Option Byte
  | [], _ => none
  | h :: t, a => if h.addr ≤ a ∧ a < h.addr + h.data.length then h.data[a - h.addr]? else heldByte t a

/-- The stores held for a call's task, the latest first. -/
def heldOf (s : State) (c : MCall) : List HeldStore :=
  if c.kernel then []
  else
    match (tget s.layers c.layer).bind (fun x => x.upd) with
    | some u => match u.tasks.find? (fun k => k.t == c.task) with
      | some k => k.stores.reverse
      | none => []
    | none => []

/-- The bytes a load of the call takes. -/
def loadBytes (s : State) (c : MCall) (a n : Nat) : List Byte :=
  let held := heldOf s c
  (List.range n).map (fun i =>
    let p := physical s c (a + i)
    (heldByte held p).getD (byteAt s.mem s.free p))

/-- Why an access fails once it is reached, byte by byte (R93, R255, R268). -/
def byteFault (s : State) (c : MCall) (a n : Nat) (write : Bool) : Option Nat :=
  (List.range n).findSome? (fun i => accessFault s (some c.ctx) (physical s c (a + i)) 1 write)

/-- The access would depend on a stream that has not completed (R309): a load of what it writes, a store to what it
reads or writes. -/
def dependsOn (t : StreamSt) (a n : Nat) (write : Bool) : Bool :=
  (t.writes ++ (if write then t.reads else [])).any (fun r => overlap a n r.1 r.2)

/-- The first stream, in order, that an access waits for or whose fault it takes. -/
def blockingStream (m : Milar) (a n : Nat) (write : Bool) : Option (Nat × StreamSt) :=
  ((m.streams.zipIdx).find? (fun t => (t.1.active || t.1.fault.isSome) && dependsOn t.1 a n write)).map
    (fun t => (t.2, t.1))

/-- The outcome of waiting for a stream: it waits while the stream is active, then takes its fault (R323). -/
def waitFor (k : Nat) (t : StreamSt) (r : MOut) : MOut :=
  if t.active then .wait
  else match t.fault with
    | some (cause, addr) => .trap cause k addr
    | none => r

/-- A load of `n` bytes aligned to `al`: its checks in the order of R326, then `f` on the bytes. -/
def loadAs (s : State) (m : Milar) (c : MCall) (n a len al : Nat) (f : List Byte → MOut) : MOut :=
  if a % al ≠ 0 then .trap tcAlign 0 a
  else if !allIn (loadRanges s n c) a len then .trap tcReach 0 a
  else
    match blockingStream m a len false with
    | some (k, t) => waitFor k t (f (loadBytes s c a len))
    | none =>
      match byteFault s c a len false with
      | some st => .stop s st
      | none => f (loadBytes s c a len)

/-- A store by the call: an update entry's is held (R158), a kernel's reaches memory. -/
def putBytes (s : State) (c : MCall) (a : Nat) (bs : List Byte) : State :=
  if c.kernel then poke s a bs
  else withTask s c.layer c.task (fun k => { k with
    stores := k.stores ++ (bs.zipIdx).map (fun b => ⟨physical s c (a + b.2), [b.1]⟩) })

/-- The ranges in which a store meets no REACH: of an update entry, its blocks, for which R164 then decides.
DEDUCED (log 71). -/
def storeReach (s : State) (n : Nat) (c : MCall) : List (Nat × Nat) :=
  if c.kernel then storeRanges s n c else blockRanges c

/-- A store of bytes aligned to `al`, with its checks in the order of R326. DEDUCED (log 71). -/
def storeAs (s : State) (m : Milar) (c : MCall) (n a al : Nat) (bs : List Byte) : MOut :=
  if a % al ≠ 0 then .trap tcAlign 0 a
  else if !allIn (storeReach s n c) a bs.length then .trap tcReach 0 a
  else if !allIn (storeRanges s n c) a bs.length then .trap tcStore 0 a
  else
    match blockingStream m a bs.length true with
    | some (k, t) => waitFor k t (.ok (putBytes s c a bs) m)
    | none =>
      match byteFault s c a bs.length true with
      | some st => .stop s st
      | none => .ok (putBytes s c a bs) m

/-! ## Numeric events (R83, R85, R324, R325) -/

/-- The locator's place of an element of an instruction: `tag` is the element of lane 0 where the result has one, `per`
the elements of the lane width in 64 bytes. DEDUCED (log 73). -/
def nvWhere (m : Milar) (c : MCall) (tag : Option Nat) (per i : Nat) : NvPlace :=
  if c.kernel then ⟨4, c.job, 0, 0, 0, ownPc m, i⟩
  else
    match tag with
    | some t => ⟨2, c.job, c.group, c.where_, (t + i) / max 1 per, ownPc m, (t + i) % max 1 per⟩
    | none => ⟨2, c.job, c.group, c.where_, 0xFFFFFFFF, ownPc m, i⟩

/-- The flags of an instruction's lanes: the sticky flags, the locator of the lowest element that raised NV, the layer's
NV count and the call's own mark. DEDUCED (log 111). -/
def raise (s : State) (m : Milar) (c : MCall) (n : Nat) (tag : Option Nat) (per : Nat) (fs : List Flags) : State × Milar :=
  let all := fs.foldl orFlags noFlags
  let s := cayFlags s n { all with nv := false }
  match (fs.zipIdx).find? (fun f => f.1.nv) with
  | none => (s, m)
  | some (f, i) =>
    let s := cayNv s n f.cause (nvWhere m c tag per i)
    let s := if c.kernel then s else countNv s c.ctx c.where_ (fs.filter (fun f => f.nv)).length
    (s, { m with nv := true })

/-- A vector result written with its flags and tag. -/
def writeV (s : State) (m : Milar) (c : MCall) (n vd : Nat) (tag : Option Nat) (per : Nat) (w : Nat)
    (rs : List (Nat × Flags)) : MOut :=
  let r := raise s m c n tag per (rs.map (fun x => x.2))
  .ok r.1 (setV r.2 vd (ofLanes w (rs.map (fun x => x.1))) (if c.kernel then none else tag))

end Sys2Proof.Machine
end

