-- ==== Sys2Proof/Machine/MilarScalar.lean ====
section
/-! DEFINITION. Milar's scalar instructions: arithmetic and logic (Table 11-7), immediates (Table 11-6), compares and
predicate logic (Table 11-8), branches and jumps (Table 11-6), the system functions (Table 11-9). -/

namespace Sys2Proof.Machine

/-! ## Forms -/

/-- A register form with both sources: `rd = f ra rb`; bits [10:6] are zero. -/
def regForm (n : CayNum) (w : Word) (fn : Nat) (f : BitVec 64 → BitVec 64 → BitVec 64) (s : State) : Res :=
  milar s n w (fun s m _ => legal w (encodes w 0x01 (some (5, 0, fn)) [(10, 6)])
    (.ok s (setG m (wRd w) (f (getG m (wRa w)) (getG m (wRb w))))))

/-- The shift count of an immediate shift: the rb field and bit 6. -/
def shiftCount (w : Word) : Nat := wRb w + 32 * wb w 6 6

/-- An immediate shift: bits [10:7] are zero. -/
def shiftForm (n : CayNum) (w : Word) (fn : Nat) (f : BitVec 64 → Nat → BitVec 64) (s : State) : Res :=
  milar s n w (fun s m _ => legal w (encodes w 0x01 (some (5, 0, fn)) [(10, 7)])
    (.ok s (setG m (wRd w) (f (getG m (wRa w)) (shiftCount w)))))

/-- An immediate form: `rd = f ra` with the immediate inside `f`. -/
def immForm (n : CayNum) (w : Word) (major : Nat) (zs : List (Nat × Nat)) (f : BitVec 64 → BitVec 64) (s : State) : Res :=
  milar s n w (fun s m _ => legal w (encodes w major none zs) (.ok s (setG m (wRd w) (f (getG m (wRa w))))))

/-- The low 32 bits, sign-extended (R312). -/
def word32 (x : BitVec 64) : BitVec 64 := (x.truncate 32).signExtend 64

/-- A compare form: pd in [23:21]; function `fn` compares 64 bits, `fn + 8` the low 32 bits. -/
def compareForm (n : CayNum) (w : Word) (fn : Nat) (f : BitVec 64 → BitVec 64 → Bool) (g : BitVec 32 → BitVec 32 → Bool)
    (s : State) : Res :=
  milar s n w (fun s m _ =>
    let x := getG m (wRa w)
    let y := getG m (wRb w)
    if encodes w 0x09 (some (5, 0, fn)) [(25, 24), (10, 6)] then .ok s (setP m (wb w 23 21) (f x y))
    else legal w (encodes w 0x09 (some (5, 0, fn + 8)) [(25, 24), (10, 6)])
      (.ok s (setP m (wb w 23 21) (g (x.truncate 32) (y.truncate 32)))))

/-- A predicate form: pa in [18:16], pb in [13:11]. -/
def predForm (n : CayNum) (w : Word) (fn : Nat) (zs : List (Nat × Nat)) (f : Bool → Bool → Bool) (s : State) : Res :=
  milar s n w (fun s m _ => legal w (encodes w 0x09 (some (5, 0, fn)) ([(25, 24), (20, 19), (10, 6)] ++ zs))
    (.ok s (setP m (wb w 23 21) (f (getP m (wb w 18 16)) (getP m (wb w 13 11))))))

/-- A PC moved by a signed word offset from the instruction itself. -/
def jumpBy (m : Milar) (k v : Nat) : Nat := ((BitVec.ofNat 19 (ownPc m)) + (BitVec.ofNat k v).signExtend 19).toNat

/-- A branch: ra in [25:21], rb in [20:16]. -/
def branchForm (n : CayNum) (w : Word) (major : Nat) (f : BitVec 64 → BitVec 64 → Bool) (s : State) : Res :=
  milar s n w (fun s m _ => legal w (encodes w major none [])
    (.ok s (if f (getG m (wb w 25 21)) (getG m (wb w 20 16)) then { m with pc := jumpBy m 16 (wImm w) } else m)))

/-- A predicate branch: the predicate in [23:21], the sense in bit 20. -/
def predBranch (n : CayNum) (w : Word) (sense : Nat) (s : State) : Res :=
  milar s n w (fun s m _ => legal w (encodes w 0x10 (some (20, 20, sense)) [(25, 24), (19, 16)])
    (.ok s (if getP m (wb w 23 21) == (sense == 0) then { m with pc := jumpBy m 16 (wImm w) } else m)))

/-- The module address of the word after the instruction (R305). -/
def linkAddr (n : CayNum) (m : Milar) : BitVec 64 := BitVec.ofNat 64 (cayStore n.val + 4 * m.pc)

/-! ## Register functions (Table 11-7) -/

/-- ADD_D (R312, Table 11-7). -/
def execAddD (n : CayNum) (w : Word) (s : State) : Res := regForm n w 0x00 (fun x y => x + y) s
/-- SUB_D (R312, Table 11-7). -/
def execSubD (n : CayNum) (w : Word) (s : State) : Res := regForm n w 0x01 (fun x y => x - y) s
/-- ADD_W (R312, Table 11-7). -/
def execAddW (n : CayNum) (w : Word) (s : State) : Res := regForm n w 0x02 (fun x y => word32 (x + y)) s
/-- SUB_W (R312, Table 11-7). -/
def execSubW (n : CayNum) (w : Word) (s : State) : Res := regForm n w 0x03 (fun x y => word32 (x - y)) s
/-- AND (Table 11-7). -/
def execSAnd (n : CayNum) (w : Word) (s : State) : Res := regForm n w 0x04 (fun x y => x &&& y) s
/-- OR (Table 11-7). -/
def execSOr (n : CayNum) (w : Word) (s : State) : Res := regForm n w 0x05 (fun x y => x ||| y) s
/-- XOR (Table 11-7). -/
def execSXor (n : CayNum) (w : Word) (s : State) : Res := regForm n w 0x06 (fun x y => x ^^^ y) s
/-- MUL_D (R312, Table 11-7): the low 64 bits of the product. -/
def execMulD (n : CayNum) (w : Word) (s : State) : Res := regForm n w 0x07 (fun x y => x * y) s
/-- MUL_W (R312, Table 11-7): the low 32 bits, sign-extended. -/
def execMulW (n : CayNum) (w : Word) (s : State) : Res := regForm n w 0x08 (fun x y => word32 (x * y)) s
/-- SHL_D (Table 11-7): by rb mod 64. -/
def execShlD (n : CayNum) (w : Word) (s : State) : Res := regForm n w 0x09 (fun x y => x <<< (y.toNat % 64)) s
/-- SHR_D (Table 11-7). -/
def execShrD (n : CayNum) (w : Word) (s : State) : Res := regForm n w 0x0A (fun x y => x >>> (y.toNat % 64)) s
/-- SAR_D (Table 11-7). -/
def execSarD (n : CayNum) (w : Word) (s : State) : Res := regForm n w 0x0B (fun x y => x.sshiftRight (y.toNat % 64)) s
/-- SHLI_D (Table 11-7): by the rb field and bit 6. -/
def execShliD (n : CayNum) (w : Word) (s : State) : Res := shiftForm n w 0x0C (fun x k => x <<< k) s
/-- SHRI_D (Table 11-7). -/
def execShriD (n : CayNum) (w : Word) (s : State) : Res := shiftForm n w 0x0D (fun x k => x >>> k) s
/-- SARI_D (Table 11-7). -/
def execSariD (n : CayNum) (w : Word) (s : State) : Res := shiftForm n w 0x0E (fun x k => x.sshiftRight k) s
/-- MIN_D (Table 11-7): the signed minimum. -/
def execMinD (n : CayNum) (w : Word) (s : State) : Res := regForm n w 0x0F (fun x y => if x.slt y then x else y) s
/-- MAX_D (Table 11-7): the signed maximum. -/
def execMaxD (n : CayNum) (w : Word) (s : State) : Res := regForm n w 0x10 (fun x y => if x.slt y then y else x) s
/-- MINU_D (Table 11-7). -/
def execMinuD (n : CayNum) (w : Word) (s : State) : Res := regForm n w 0x11 (fun x y => if x.ult y then x else y) s
/-- MAXU_D (Table 11-7). -/
def execMaxuD (n : CayNum) (w : Word) (s : State) : Res := regForm n w 0x12 (fun x y => if x.ult y then y else x) s
/-- PSEL_D (Table 11-7): ra where the predicate in [8:6] is set, else rb; bits [10:9] are zero. -/
def execPselD (n : CayNum) (w : Word) (s : State) : Res :=
  milar s n w (fun s m _ => legal w (encodes w 0x01 (some (5, 0, 0x13)) [(10, 9)])
    (.ok s (setG m (wRd w) (if getP m (wb w 8 6) then getG m (wRa w) else getG m (wRb w)))))

/-! ## Immediates (Table 11-6) -/

/-- ADDI_D (Table 11-6). -/
def execAddiD (n : CayNum) (w : Word) (s : State) : Res := immForm n w 0x02 [] (fun x => x + wSimm w) s
/-- ADDI_W (Table 11-6). -/
def execAddiW (n : CayNum) (w : Word) (s : State) : Res := immForm n w 0x03 [] (fun x => word32 (x + wSimm w)) s
/-- ANDI (Table 11-6): the immediate zero-extended. -/
def execAndi (n : CayNum) (w : Word) (s : State) : Res := immForm n w 0x04 [] (fun x => x &&& BitVec.ofNat 64 (wImm w)) s
/-- ORI (Table 11-6). -/
def execOri (n : CayNum) (w : Word) (s : State) : Res := immForm n w 0x05 [] (fun x => x ||| BitVec.ofNat 64 (wImm w)) s
/-- XORI (Table 11-6). -/
def execXori (n : CayNum) (w : Word) (s : State) : Res := immForm n w 0x06 [] (fun x => x ^^^ BitVec.ofNat 64 (wImm w)) s
/-- LUI (Table 11-6): the immediate times 2^16, sign-extended; the ra field is zero. -/
def execLui (n : CayNum) (w : Word) (s : State) : Res :=
  immForm n w 0x07 [(20, 16)] (fun _ => (BitVec.ofNat 32 (wImm w * 65536)).signExtend 64) s

/-! ## Compares and predicates (Table 11-8) -/

/-- CEQ (Table 11-8), .d and .w. -/
def execCeq (n : CayNum) (w : Word) (s : State) : Res := compareForm n w 0 (fun x y => x == y) (fun x y => x == y) s
/-- CNE (Table 11-8). -/
def execCne (n : CayNum) (w : Word) (s : State) : Res := compareForm n w 1 (fun x y => x != y) (fun x y => x != y) s
/-- CLT (Table 11-8). -/
def execClt (n : CayNum) (w : Word) (s : State) : Res := compareForm n w 2 (fun x y => x.slt y) (fun x y => x.slt y) s
/-- CGE (Table 11-8). -/
def execCge (n : CayNum) (w : Word) (s : State) : Res := compareForm n w 3 (fun x y => !x.slt y) (fun x y => !x.slt y) s
/-- CLTU (Table 11-8). -/
def execCltu (n : CayNum) (w : Word) (s : State) : Res := compareForm n w 4 (fun x y => x.ult y) (fun x y => x.ult y) s
/-- CGEU (Table 11-8). -/
def execCgeu (n : CayNum) (w : Word) (s : State) : Res := compareForm n w 5 (fun x y => !x.ult y) (fun x y => !x.ult y) s
/-- PAND (Table 11-8). -/
def execPand (n : CayNum) (w : Word) (s : State) : Res := predForm n w 0x10 [(15, 14)] (fun a b => a && b) s
/-- POR (Table 11-8). -/
def execPor (n : CayNum) (w : Word) (s : State) : Res := predForm n w 0x11 [(15, 14)] (fun a b => a || b) s
/-- PXOR (Table 11-8). -/
def execPxor (n : CayNum) (w : Word) (s : State) : Res := predForm n w 0x12 [(15, 14)] (fun a b => a != b) s
/-- PNOT (Table 11-8): the rb field is zero. -/
def execPnot (n : CayNum) (w : Word) (s : State) : Res := predForm n w 0x13 [(15, 11)] (fun a _ => !a) s

/-! ## Branches and jumps (Table 11-6) -/

/-- BEQ_D (Table 11-6). -/
def execBeqD (n : CayNum) (w : Word) (s : State) : Res := branchForm n w 0x0A (fun x y => x == y) s
/-- BNE_D (Table 11-6). -/
def execBneD (n : CayNum) (w : Word) (s : State) : Res := branchForm n w 0x0B (fun x y => x != y) s
/-- BLT_D (Table 11-6). -/
def execBltD (n : CayNum) (w : Word) (s : State) : Res := branchForm n w 0x0C (fun x y => x.slt y) s
/-- BGE_D (Table 11-6). -/
def execBgeD (n : CayNum) (w : Word) (s : State) : Res := branchForm n w 0x0D (fun x y => !x.slt y) s
/-- BLTU_D (Table 11-6). -/
def execBltuD (n : CayNum) (w : Word) (s : State) : Res := branchForm n w 0x0E (fun x y => x.ult y) s
/-- BGEU_D (Table 11-6). -/
def execBgeuD (n : CayNum) (w : Word) (s : State) : Res := branchForm n w 0x0F (fun x y => !x.ult y) s
/-- BP (Table 11-6): branch where the predicate is set. -/
def execBp (n : CayNum) (w : Word) (s : State) : Res := predBranch n w 0 s
/-- BNP (Table 11-6): branch where the predicate is clear. -/
def execBnp (n : CayNum) (w : Word) (s : State) : Res := predBranch n w 1 s
/-- JAL (Table 11-6): a signed 21-bit word offset; rd takes the address of the next word. -/
def execJal (n : CayNum) (w : Word) (s : State) : Res :=
  milar s n w (fun s m _ => legal w (encodes w 0x12 none [])
    (.ok s { setG m (wRd w) (linkAddr n m) with pc := (jumpBy m 21 (wb w 20 0)) }))
/-- JALR (Table 11-6): PC = (ra + sext(imm)) / 4; rd takes the address of the next word. -/
def execJalr (n : CayNum) (w : Word) (s : State) : Res :=
  milar s n w (fun s m _ => legal w (encodes w 0x13 none [])
    (.ok s { setG m (wRd w) (linkAddr n m) with pc := (memAddr m w) / 4 % 2 ^ 19 }))

/-! ## System functions (Table 11-9) -/

/-- NOP (Table 11-9): all fields zero. -/
def execNop (n : CayNum) (w : Word) (s : State) : Res :=
  milar s n w (fun s m _ => legal w (encodes w 0x14 (some (5, 0, 0)) [(25, 6)]) (.ok s m))

/-- RDKC (Table 11-9). -/
def execRdkc (n : CayNum) (w : Word) (s : State) : Res :=
  milar s n w (fun s m _ => legal w (encodes w 0x14 (some (5, 0, 2)) [(10, 6)]) (.ok s (setG m (wRd w) m.kc)))

/-- WRKC (R303, Table 11-9): RM takes ra's low two bits; FTZ and MODE stay. -/
def execWrkc (n : CayNum) (w : Word) (s : State) : Res :=
  milar s n w (fun s m _ => legal w (encodes w 0x14 (some (5, 0, 3)) [(10, 6)])
    (.ok s { m with kc := (m.kc &&& ~~~3#64) ||| (getG m (wRa w) &&& 3#64) }))

/-- TRAP (Table 11-9): cause USER, ARG the rb field. -/
def execTrap (n : CayNum) (w : Word) (s : State) : Res :=
  milar s n w (fun _ _ _ => legal w (encodes w 0x14 (some (5, 0, 4)) [(10, 6)]) (.trap tcUser (wRb w) 0))

/-- The first stream with a fault that no instruction has taken. -/
def faultedStream (m : Milar) : Option (Nat × StreamSt) :=
  ((m.streams.zipIdx).find? (fun t => t.1.fault.isSome)).map (fun t => (t.2, t.1))

/-- RET (Table 11-9): waits for the call's active streams, takes a fault that none has taken (R323), then ends the
call. DEDUCED (log 74). -/
def execRet (n : CayNum) (w : Word) (s : State) : Res :=
  milar s n w (fun s m _ => legal w (encodes w 0x14 (some (5, 0, 1)) [(10, 6)])
    (if m.streams.any (fun t => t.active) then .wait
     else match faultedStream m with
      | some (k, t) => waitFor k t (.ret s m)
      | none => .ret s m))

end Sys2Proof.Machine
end

