-- ==== Sys2Proof/Machine/MilarMemory.lean ====
section
/-! DEFINITION. Milar's M-format instructions: scalar, vector and accumulator loads and stores (R302, R306 to R309,
R318, R325). -/

namespace Sys2Proof.Machine

/-- A word's major opcode lies in a range. -/
def majorIn (w : Word) (lo hi : Nat) : Bool := decide (lo ≤ wMajor w) && decide (wMajor w ≤ hi)
/-- Bytes of a width code. -/
def widthBytes (c : Nat) : Nat := 2 ^ (c % 4)

/-- LD (Table 11-6): ld.b, ld.h, ld.w, ld.d, sign-extended into g. -/
def execLd (n : CayNum) (w : Word) (s : State) : Res :=
  milar s n w (fun s m c => legal w (majorIn w 0x18 0x1B)
    (let k := widthBytes (wMajor w)
     loadAs s m c n.val (memAddr m w) k k (fun bs => .ok s (setG m (wRd w) (sextTo (8 * k) (leNat bs))))))

/-- LDU (Table 11-6): ldu.b, ldu.h, ldu.w, zero-extended into g. -/
def execLdu (n : CayNum) (w : Word) (s : State) : Res :=
  milar s n w (fun s m c => legal w (majorIn w 0x1C 0x1E)
    (let k := widthBytes (wMajor w)
     loadAs s m c n.val (memAddr m w) k k (fun bs => .ok s (setG m (wRd w) (BitVec.ofNat 64 (leNat bs))))))

/-- ST (Table 11-6): st.b, st.h, st.w, st.d, the low bits of g. -/
def execSt (n : CayNum) (w : Word) (s : State) : Res :=
  milar s n w (fun s m c => legal w (majorIn w 0x20 0x23)
    (let k := widthBytes (wMajor w)
     storeAs s m c n.val (memAddr m w) k (natLe k (getG m (wRd w)).toNat)))

/-- The tag a load's address gives (R325): from staging, d, W, M_CUR or the M shadow, the layer element of lane 0. -/
def loadTag (c : MCall) (a : Nat) : Option Nat :=
  if c.kernel then none
  else
    let rs := if c.apply then [(c.g1, 512 * c.blocks, 4), (c.g8, 512 * c.blocks, 4), (c.g2, 512 * c.blocks, 4)]
      else [(c.g1, 512 * c.blocks, 4), (c.g3, 128 * c.mbytes * c.blocks, c.mbytes), (c.g4, 128 * c.mbytes * c.blocks, c.mbytes)]
    (rs.find? (fun r => decide (r.1 ≤ a) && decide (a < r.1 + r.2.1))).map (fun r => c.g11 + (a - r.1) / max 1 r.2.2)

/-- VLD (Table 11-6, R302): 256 bytes into v; the suffix sets only the alignment. -/
def execVld (n : CayNum) (w : Word) (s : State) : Res :=
  milar s n w (fun s m c => legal w (majorIn w 0x24 0x27)
    (loadAs s m c n.val (memAddr m w) 256 (widthBytes (wMajor w))
      (fun bs => .ok s (setV m (wRd w) (ofBytes bs) (loadTag c (memAddr m w))))))

/-- VST (Table 11-6, R302): 256 bytes from v. -/
def execVst (n : CayNum) (w : Word) (s : State) : Res :=
  milar s n w (fun s m c => legal w (majorIn w 0x28 0x2B)
    (storeAs s m c n.val (memAddr m w) (widthBytes (wMajor w)) (vecBytes (getV m (wRd w)))))

/-- A W96 group read from memory: the reserved bytes are ignored (R58). -/
def groupOf (bs : List Byte) : Lanes :=
  ⟨(List.range 16).map (fun i =>
    let c := fieldAt bs (12 * i) 12
    if c = 2 ^ 95 then none else some (toSigned 96 c)), toSigned 16 (fieldAt bs 192 2)⟩

/-- ALD (R318): group k's lanes and exponent are replaced by the stored ones. -/
def execAld (n : CayNum) (w : Word) (s : State) : Res :=
  milar s n w (fun s m c => legal w (encodes w 0x2C none [(25, 25)])
    (loadAs s m c n.val (memAddr m w) 208 16
      (fun bs => .ok s (setA m (wb w 22 21) (lmod (getA m (wb w 22 21)) (wb w 24 23) (fun _ => groupOf bs))))))

/-- AST (R318): group k in the 208-byte form. -/
def execAst (n : CayNum) (w : Word) (s : State) : Res :=
  milar s n w (fun s m c => legal w (encodes w 0x2D none [(25, 25)])
    (storeAs s m c n.val (memAddr m w) 16 (wideBytes ((getA m (wb w 22 21)).getD (wb w 24 23) (clearLanes 16 floorW96)))))

end Sys2Proof.Machine
end

