-- ==== Sys2Proof/Machine/MilarVector.lean ====
section
/-! DEFINITION. Milar's vector instructions: floating point (R80 to R82, R313), integers (R314), lane moves (R315),
conversions (R316, R317). -/

namespace Sys2Proof.Machine

/-! ## Floating point (Table 11-10) -/

/-- The first tagged source of a list of registers (R325). DEDUCED (log 73). -/
def firstTag (m : Milar) (rs : List Nat) : Option Nat := rs.findSome? (getTag m)

/-- The format that function bit 5 names. -/
def vfFmt (w : Word) : FloatFmt := if wb w 5 5 == 1 then .fp64 else .fp32

/-- A vector floating-point form: function bits [4:0] are `fn`, the fields `zs` are zero; `srcs` are the fields it
reads, `f` gives each lane. -/
def vfForm (n : CayNum) (w : Word) (fn : Nat) (zs : List (Nat × Nat)) (srcs : List Nat)
    (f : FloatFmt → FEnv → List Nat → Nat × Flags) (s : State) : Res :=
  milar s n w (fun s m c => legal w (encodes w 0x30 (some (4, 0, fn)) zs)
    (let fmt := vfFmt w
     let wd := floatWidth fmt
     writeV s m c n.val (wRd w) (firstTag m srcs) (512 / wd) wd
       ((List.range (2048 / wd)).map (fun i => f fmt (kcEnv m) (srcs.map (fun r => lane wd i (getV m r)))))))

/-- The `i`-th operand of a lane. -/
def opnd (xs : List Nat) (i : Nat) : Nat := xs.getD i 0
/-- A compare's lane: all ones where it holds. -/
def maskOf (w : Nat) (b : Bool) : Nat := if b then 2 ^ w - 1 else 0
/-- A quiet compare as a lane operation (R313). -/
def vfCmp (k : FCmp) (f : FloatFmt) (v : FEnv) (xs : List Nat) : Nat × Flags :=
  let r := fCompare k f v (opnd xs 0) (opnd xs 1)
  (maskOf (floatWidth f) r.1, r.2)

/-- VFADD (R80, Table 11-10). -/
def execVfadd (n : CayNum) (w : Word) (s : State) : Res :=
  vfForm n w 0x00 [(10, 6)] [wRa w, wRb w] (fun f v xs => fAdd f v (opnd xs 0) (opnd xs 1)) s
/-- VFSUB. -/
def execVfsub (n : CayNum) (w : Word) (s : State) : Res :=
  vfForm n w 0x01 [(10, 6)] [wRa w, wRb w] (fun f v xs => fSub f v (opnd xs 0) (opnd xs 1)) s
/-- VFMUL. -/
def execVfmul (n : CayNum) (w : Word) (s : State) : Res :=
  vfForm n w 0x02 [(10, 6)] [wRa w, wRb w] (fun f v xs => fMul f v (opnd xs 0) (opnd xs 1)) s
/-- VFDIV. -/
def execVfdiv (n : CayNum) (w : Word) (s : State) : Res :=
  vfForm n w 0x03 [(10, 6)] [wRa w, wRb w] (fun f v xs => fDiv f v (opnd xs 0) (opnd xs 1)) s
/-- VFSQRT: the vb field is zero. -/
def execVfsqrt (n : CayNum) (w : Word) (s : State) : Res :=
  vfForm n w 0x04 [(15, 6)] [wRa w] (fun f v xs => fSqrt f v (opnd xs 0)) s
/-- VFFMA: va × vb + vc, one rounding. -/
def execVffma (n : CayNum) (w : Word) (s : State) : Res :=
  vfForm n w 0x05 [] [wRa w, wRb w, wVc w] (fun f v xs => fFma f v (opnd xs 0) (opnd xs 1) (opnd xs 2)) s
/-- VFMIN. -/
def execVfmin (n : CayNum) (w : Word) (s : State) : Res :=
  vfForm n w 0x06 [(10, 6)] [wRa w, wRb w] (fun f v xs => fMinMax false f v (opnd xs 0) (opnd xs 1)) s
/-- VFMAX. -/
def execVfmax (n : CayNum) (w : Word) (s : State) : Res :=
  vfForm n w 0x07 [(10, 6)] [wRa w, wRb w] (fun f v xs => fMinMax true f v (opnd xs 0) (opnd xs 1)) s
/-- VFABS: a sign operation (R313). -/
def execVfabs (n : CayNum) (w : Word) (s : State) : Res :=
  vfForm n w 0x08 [(15, 6)] [wRa w] (fun f v xs => fSign false f v (opnd xs 0)) s
/-- VFNEG: a sign operation (R313). -/
def execVfneg (n : CayNum) (w : Word) (s : State) : Res :=
  vfForm n w 0x09 [(15, 6)] [wRa w] (fun f v xs => fSign true f v (opnd xs 0)) s
/-- VFEQ. -/
def execVfeq (n : CayNum) (w : Word) (s : State) : Res := vfForm n w 0x0A [(10, 6)] [wRa w, wRb w] (vfCmp .eq) s
/-- VFLT. -/
def execVflt (n : CayNum) (w : Word) (s : State) : Res := vfForm n w 0x0B [(10, 6)] [wRa w, wRb w] (vfCmp .lt) s
/-- VFLE. -/
def execVfle (n : CayNum) (w : Word) (s : State) : Res := vfForm n w 0x0C [(10, 6)] [wRa w, wRb w] (vfCmp .le) s

/-! ## Integers (Table 11-11) -/

/-- A vector integer form: function bits [3:0] are `fn`, [5:4] the width; `f` gives each lane from the width and the
lanes of the sources. -/
def viForm (n : CayNum) (w : Word) (fn : Nat) (srcs : List Nat)
    (f : Nat → List Nat → Nat) (s : State) : Res :=
  milar s n w (fun s m c => legal w (encodes w 0x31 (some (3, 0, fn)) [])
    (let wd := widthBits (wb w 5 4)
     .ok s (setV m (wRd w)
       (ofLanes wd ((List.range (2048 / wd)).map (fun i => f wd (srcs.map (fun r => lane wd i (getV m r))))))
       (if c.kernel then none else firstTag m srcs))))

/-- The two-source integer forms. -/
def viForm2 (n : CayNum) (w : Word) (fn : Nat) (f : Nat → Nat → Nat → Nat) (s : State) : Res :=
  viForm n w fn [wRa w, wRb w] (fun wd xs => f wd (opnd xs 0) (opnd xs 1)) s

/-- Signed order of two lanes. -/
def sLt (wd x y : Nat) : Bool := decide (toSigned wd x < toSigned wd y)

/-- VADD (R314, Table 11-11). -/
def execVadd (n : CayNum) (w : Word) (s : State) : Res := viForm2 n w 0x0 (fun wd x y => (x + y) % 2 ^ wd) s
/-- VSUB. -/
def execVsub (n : CayNum) (w : Word) (s : State) : Res := viForm2 n w 0x1 (fun wd x y => (x + 2 ^ wd - y) % 2 ^ wd) s
/-- VMUL: the low lane bits. -/
def execVmul (n : CayNum) (w : Word) (s : State) : Res := viForm2 n w 0x2 (fun wd x y => x * y % 2 ^ wd) s
/-- VAND. -/
def execVand (n : CayNum) (w : Word) (s : State) : Res := viForm2 n w 0x3 (fun _ x y => x &&& y) s
/-- VOR. -/
def execVor (n : CayNum) (w : Word) (s : State) : Res := viForm2 n w 0x4 (fun _ x y => x ||| y) s
/-- VXOR. -/
def execVxor (n : CayNum) (w : Word) (s : State) : Res := viForm2 n w 0x5 (fun _ x y => x ^^^ y) s
/-- VSHL: the count is vb's lane modulo the lane width. -/
def execVshl (n : CayNum) (w : Word) (s : State) : Res := viForm2 n w 0x6 (fun wd x y => x * 2 ^ (y % wd) % 2 ^ wd) s
/-- VSHR. -/
def execVshr (n : CayNum) (w : Word) (s : State) : Res := viForm2 n w 0x7 (fun wd x y => x / 2 ^ (y % wd)) s
/-- VSAR. -/
def execVsar (n : CayNum) (w : Word) (s : State) : Res :=
  viForm2 n w 0x8 (fun wd x y => ofSigned wd ((toSigned wd x).fdiv (2 ^ (y % wd)))) s
/-- VMIN: signed. -/
def execVmin (n : CayNum) (w : Word) (s : State) : Res := viForm2 n w 0x9 (fun wd x y => if sLt wd x y then x else y) s
/-- VMAX: signed. -/
def execVmax (n : CayNum) (w : Word) (s : State) : Res := viForm2 n w 0xA (fun wd x y => if sLt wd x y then y else x) s
/-- VMINU. -/
def execVminu (n : CayNum) (w : Word) (s : State) : Res := viForm2 n w 0xB (fun _ x y => min x y) s
/-- VMAXU. -/
def execVmaxu (n : CayNum) (w : Word) (s : State) : Res := viForm2 n w 0xC (fun _ x y => max x y) s
/-- VEQ. -/
def execVeq (n : CayNum) (w : Word) (s : State) : Res := viForm2 n w 0xD (fun wd x y => maskOf wd (x == y)) s
/-- VLT: signed. -/
def execVlt (n : CayNum) (w : Word) (s : State) : Res := viForm2 n w 0xE (fun wd x y => maskOf wd (sLt wd x y)) s
/-- VSEL: va where vc's lane is nonzero, else vb. -/
def execVsel (n : CayNum) (w : Word) (s : State) : Res :=
  viForm n w 0xF [wRa w, wRb w, wVc w] (fun _ xs => if opnd xs 2 ≠ 0 then opnd xs 0 else opnd xs 1) s

/-! ## Lane moves (Table 11-12) -/

/-- A lane index in a g register, where it names a lane (R315). -/
def laneIndex (m : Milar) (wd r : Nat) : Option Nat :=
  let i := (getG m r).toNat
  if i < 2048 / wd then some i else none

/-- VBCAST: every lane takes the low lane bits of ga. -/
def execVbcast (n : CayNum) (w : Word) (s : State) : Res :=
  milar s n w (fun s m _ => legal w (encodes w 0x33 (some (5, 2, 0)) [])
    (let wd := widthBits (wb w 1 0)
     .ok s (setV m (wRd w) (ofLanes wd (List.replicate (2048 / wd) (getG m (wRa w)).toNat)) none)))

/-- VEXT: gd takes lane gb of va, zero-extended; an index at or above the lane count traps with OPERAND. -/
def execVext (n : CayNum) (w : Word) (s : State) : Res :=
  milar s n w (fun s m _ => legal w (encodes w 0x33 (some (5, 2, 1)) [])
    (let wd := widthBits (wb w 1 0)
     match laneIndex m wd (wRb w) with
     | none => .trap tcOperand 0 0
     | some i => .ok s (setG m (wRd w) (BitVec.ofNat 64 (lane wd i (getV m (wRa w)))))))

/-- VINS: lane gb of vd takes the low bits of ga; the other lanes are kept. -/
def execVins (n : CayNum) (w : Word) (s : State) : Res :=
  milar s n w (fun s m _ => legal w (encodes w 0x33 (some (5, 2, 2)) [])
    (let wd := widthBits (wb w 1 0)
     match laneIndex m wd (wRb w) with
     | none => .trap tcOperand 0 0
     | some i =>
       .ok s (setV m (wRd w) (ofLanes wd (lmod (lanesOf wd (getV m (wRd w))) i (fun _ => (getG m (wRa w)).toNat))) none)))

/-- VMOV: vd takes va; the width field is 0b11. DEDUCED (log 73). -/
def execVmov (n : CayNum) (w : Word) (s : State) : Res :=
  milar s n w (fun s m _ => legal w (encodes w 0x33 (some (5, 0, 0xF)) [])
    (.ok s (setV m (wRd w) (getV m (wRa w)) (getTag m (wRa w)))))

/-! ## Conversions (R316, R317) -/

/-- The lanes converted. DEDUCED (log 111). -/
def convLanes (a b : LaneFmt) (ieee : Bool) (xs : List Nat) : List (Nat × Flags) := xs.map (laneConvert a b ieee)

/-- Elements of a lane width in 64 bytes: the locator counts in the format in which the operation read it (Table 3-9). -/
def perOf (f : LaneFmt) : Nat := 512 / laneWidth f

/-- A conversion word of a form, with its pair: bit 0 is zero; a code or a pair R316 excludes traps with OPERAND; a word
of another form is another row's. DEDUCED (log 111). -/
def convAs (w : Word) (k : ConvForm) (r : LaneFmt → LaneFmt → MOut) : MOut :=
  legal w (encodes w 0x32 none [(0, 0)] && wordForm w == k && (k != .same || sameZero w))
    (match convPair w with
     | none => .trap tcOperand 0 0
     | some (a, b) => r a b)

/-- VCVT (R317): same width; vb and part are zero. -/
def execVcvt (n : CayNum) (w : Word) (s : State) : Res :=
  milar s n w (fun s m c => convAs w .same (fun a b =>
    writeV s m c n.val (wRd w) (getTag m (wRa w)) (perOf a) (laneWidth b)
      (convLanes a b (kcIeee m) (lanesOf (laneWidth a) (getV m (wRa w))))))

/-- VCVTW, with vcvtl and vcvth (R317): lane i of vd is lane part × Ld + i of va; part below the ratio. -/
def execVcvtw (n : CayNum) (w : Word) (s : State) : Res :=
  milar s n w (fun s m c => convAs w .widen (fun a b =>
    let ld := 2048 / laneWidth b
    let part := wb w 10 9
    if laneWidth b / laneWidth a ≤ part then .trap tcOperand 0 0
    else
      writeV s m c n.val (wRd w) ((getTag m (wRa w)).map (fun t => t + part * ld)) (perOf a) (laneWidth b)
        (convLanes a b (kcIeee m) (((lanesOf (laneWidth a) (getV m (wRa w))).drop (part * ld)).take ld))))

/-- VCVTN (R317): vd lanes 2Ls × part + i from va, 2Ls × part + Ls + i from vb; the other lanes are kept. Part is 0 when
the ratio is 2, 0 or 1 when it is 4. The tag is va's. -/
def execVcvtn (n : CayNum) (w : Word) (s : State) : Res :=
  milar s n w (fun s m c => convAs w .narrow (fun a b =>
    let ls := 2048 / laneWidth a
    let part := wb w 10 9
    if laneWidth a / laneWidth b ≤ 2 * part then .trap tcOperand 0 0
    else
      let rs := convLanes a b (kcIeee m) (lanesOf (laneWidth a) (getV m (wRa w)) ++ lanesOf (laneWidth a) (getV m (wRb w)))
      let old := lanesOf (laneWidth b) (getV m (wRd w))
      let r := raise s m c n.val (getTag m (wRa w)) (perOf a)
        (List.replicate (2 * ls * part) noFlags ++ rs.map (fun x => x.2))
      .ok r.1 (setV r.2 (wRd w)
        (ofLanes (laneWidth b) (old.take (2 * ls * part) ++ rs.map (fun x => x.1) ++ old.drop (2 * ls * (part + 1))))
        (if c.kernel then none else getTag m (wRa w)))))

end Sys2Proof.Machine
end

