-- ==== Sys2Proof/Machine/MilarTile.lean ====
section
/-! DEFINITION. Milar's accumulator instructions (R318, Table 11-14) and tile instructions (R319, Table 11-15). -/

namespace Sys2Proof.Machine

/-! ## Accumulators -/

/-- Combines 64 exact values into an accumulator, each group of 16 lanes separately (R74, R77): the groups and the flags. -/
def combineAcc (gs : List Lanes) (xs : List Wide) : List Lanes × Flags :=
  let rs := (gs.zipIdx).map (fun g => combine 96 g.1 ((xs.drop (16 * g.2)).take 16))
  (rs.map (fun r => r.lanes), rs.foldl (fun f r => orFlags f r.flags) noFlags)

/-- The 64 values of an accumulator. -/
def accValues (gs : List Lanes) : List Wide := gs.flatMap lanesValues

/-- ACLR: every lane 0, every group exponent −160. -/
def execAclr (n : CayNum) (w : Word) (s : State) : Res :=
  milar s n w (fun s m _ => legal w (encodes w 0x34 (some (5, 0, 0)) [(23, 6)])
    (.ok s (setA m (wb w 25 24) (List.replicate 4 (clearLanes 16 floorW96)))))

/-- Parts that a source of some lanes has (R318). DEDUCED (log 72). -/
def accParts (lanes : Nat) : Nat := if lanes < 64 then 2 else lanes / 64

/-- Converted source lanes combined into accumulator `ad`: the lanes of part `part`; 32 lanes go to half of the
accumulator and the other half receives zero. -/
def accumulate (s : State) (m : Milar) (c : MCall) (n ad va part width : Nat) (conv : Nat → Wide × Flags) : MOut :=
  let lanes := 2048 / width
  if accParts lanes ≤ part then .trap tcOperand 0 0
  else
    let first := if lanes < 64 then 0 else 64 * part
    let rs := (((lanesOf width (getV m va)).drop first).take 64).map conv
    let xs := rs.map (fun r => r.1)
    let xs := if lanes < 64 then
        List.replicate (32 * part) (some dyZero) ++ xs ++ List.replicate (32 - 32 * part) (some dyZero)
      else xs
    let z := combineAcc (getA m ad) xs
    let r := raise s m c n (getTag m va) (512 / width)
      (List.replicate first noFlags ++ rs.map (fun r => r.2) ++ [z.2])
    .ok r.1 (setA r.2 ad z.1)

/-- VACC: combines the converted source lanes; any format of Table 11-13. DEDUCED (log 72). -/
def execVacc (n : CayNum) (w : Word) (s : State) : Res :=
  milar s n w (fun s m c => legal w (encodes w 0x34 (some (5, 0, 1)) [(23, 21), (9, 6)])
    (match laneFmt (wb w 15 12) with
     | none => .trap tcIllegal 0 0
     | some f => accumulate s m c n.val (wb w 25 24) (wRa w) (wb w 11 10) (laneWidth f) (laneToWide f)))

/-- VSQACC: combines the exact square of each lane; format .l8 or .l16 only. -/
def execVsqacc (n : CayNum) (w : Word) (s : State) : Res :=
  milar s n w (fun s m c => legal w (encodes w 0x34 (some (5, 0, 2)) [(23, 21), (9, 6)])
    (match laneFmt (wb w 15 12) with
     | some (.lg f) => accumulate s m c n.val (wb w 25 24) (wRa w) (wb w 11 10) (logWidth f) (fun x => (logSquare f x, noFlags))
     | _ => .trap tcIllegal 0 0))

/-- AADD: combines as's lanes into ad as exact incoming values. -/
def execAadd (n : CayNum) (w : Word) (s : State) : Res :=
  milar s n w (fun s m c => legal w (encodes w 0x34 (some (5, 0, 3)) [(21, 6)])
    (let z := combineAcc (getA m (wb w 25 24)) (accValues (getA m (wb w 23 22)))
     let r := raise s m c n.val none 1 [z.2]
     .ok r.1 (setA r.2 (wb w 25 24) z.1)))

/-- AFCVT_W: lane i of vd = lane i of as, converted to FP32. -/
def execAfcvtW (n : CayNum) (w : Word) (s : State) : Res :=
  milar s n w (fun s m c => legal w (encodes w 0x34 (some (5, 0, 4)) [(25, 24), (21, 21), (15, 6)])
    (writeV s m c n.val (wRa w) none 16 32 ((accValues (getA m (wb w 23 22))).map (wideToFloat .fp32 (kcIeee m)))))

/-- AFCVT_D: lane i of vd = lane 32 × part + i of as, converted to FP64. -/
def execAfcvtD (n : CayNum) (w : Word) (s : State) : Res :=
  milar s n w (fun s m c => legal w (encodes w 0x34 (some (5, 0, 5)) [(25, 24), (21, 21), (15, 12), (9, 6)])
    (let part := wb w 11 10
     if 2 ≤ part then .trap tcOperand 0 0
     else
       writeV s m c n.val (wRa w) none 8 64
         ((((accValues (getA m (wb w 23 22))).drop (32 * part)).take 32).map (wideToFloat .fp64 (kcIeee m)))))

/-! ## Tiles -/

/-- The tile field. DEDUCED (log 72). -/
def wTile (w : Word) : Nat := wb w 25 23
/-- va or vd of a T form. -/
def wTa (w : Word) : Nat := wb w 22 18
/-- vb of a T form. -/
def wTb (w : Word) : Nat := wb w 17 13
/-- The accumulator of a T form. -/
def wTacc (w : Word) : Nat := wb w 12 11
/-- The row of a T form. -/
def wRow (w : Word) : Nat := wb w 10 6

/-- A tile cleared for a format. -/
def clearTile (f : LogFmt) : Tile := ⟨f, clearLanes 1024 (floorTile f)⟩

/-- TCLR_L8: clears t for L8, exponent −45. -/
def execTclrL8 (n : CayNum) (w : Word) (s : State) : Res :=
  milar s n w (fun s m _ => legal w (encodes w 0x38 (some (5, 0, 0)) []) (.ok s (setT m (wTile w) (clearTile .l8))))
/-- TCLR_L16: clears t for L16, exponent −157. -/
def execTclrL16 (n : CayNum) (w : Word) (s : State) : Res :=
  milar s n w (fun s m _ => legal w (encodes w 0x38 (some (5, 0, 1)) []) (.ok s (setT m (wTile w) (clearTile .l16))))

/-- Element (i, j) of a 32 × 32 operand that starts at a register (R319). -/
def tileOperand (m : Milar) (f : LogFmt) (v i j : Nat) : Nat :=
  let r := 64 / logWidth f
  lane (logWidth f) (i % r * 32 + j) (getV m (v + i / r))

/-- The 1,024 group sums of one k-slice (R72). -/
def sliceSums (m : Milar) (f : LogFmt) (va vb : Nat) : List Wide :=
  (List.range 1024).map (fun e => groupSum f ((List.range 32).map (fun k =>
    (tileOperand m f va (e / 32) k, tileOperand m f vb k (e % 32)))))

/-- One k-slice: the group sums combined into the tile as one combine (R74, R77); a misaligned register group or a tile
of the other format traps with OPERAND. -/
def tileMac (f : LogFmt) (fn : Nat) (n : CayNum) (w : Word) (s : State) : Res :=
  milar s n w (fun s m c => legal w (encodes w 0x38 (some (5, 0, fn)) [])
    (let k := logWidth f / 2
     let t := getT m (wTile w)
     if wTa w % k ≠ 0 ∨ wTb w % k ≠ 0 ∨ t.fmt ≠ f then .trap tcOperand 0 0
     else
       let z := combine 80 t.lanes (sliceSums m f (wTa w) (wTb w))
       let r := raise s m c n.val none 1 [z.flags]
       .ok r.1 (setT r.2 (wTile w) ⟨f, z.lanes⟩)))

/-- TMAC_L8. -/
def execTmacL8 (n : CayNum) (w : Word) (s : State) : Res := tileMac .l8 2 n w s
/-- TMAC_L16. -/
def execTmacL16 (n : CayNum) (w : Word) (s : State) : Res := tileMac .l16 3 n w s

/-- TMOV_A (R79): the 64 elements of rows 2r and 2r + 1 become the lanes of a, each group with the tile's exponent;
r from 0 to 15. -/
def execTmovA (n : CayNum) (w : Word) (s : State) : Res :=
  milar s n w (fun s m _ => legal w (encodes w 0x38 (some (5, 0, 4)) [])
    (if 16 ≤ wRow w then .trap tcOperand 0 0
     else
       let t := (getT m (wTile w)).lanes
       .ok s (setA m (wTacc w) ((List.range 4).map (fun g => ⟨(t.q.drop (64 * wRow w + 16 * g)).take 16, t.e⟩)))))

/-- TMOV_W: the same 64 elements, converted to FP32 lanes. -/
def execTmovW (n : CayNum) (w : Word) (s : State) : Res :=
  milar s n w (fun s m c => legal w (encodes w 0x38 (some (5, 0, 5)) [])
    (if 16 ≤ wRow w then .trap tcOperand 0 0
     else
       writeV s m c n.val (wTa w) none 16 32
         ((((lanesValues (getT m (wTile w)).lanes).drop (64 * wRow w)).take 64).map (wideToFloat .fp32 (kcIeee m)))))

/-- TMOV_D: row r, converted to 32 FP64 lanes. -/
def execTmovD (n : CayNum) (w : Word) (s : State) : Res :=
  milar s n w (fun s m c => legal w (encodes w 0x38 (some (5, 0, 6)) [])
    (writeV s m c n.val (wTa w) none 8 64
      ((((lanesValues (getT m (wTile w)).lanes).drop (32 * wRow w)).take 32).map (wideToFloat .fp64 (kcIeee m)))))

/-- The exact sum of the squares of a tile's valid elements; invalid where an element is. -/
def tileNorm (t : Lanes) : Wide :=
  if t.q.any (fun q => q.isNone) then none
  else some ⟨(t.q.map (fun q => match q with | some v => v * v | none => 0)).foldl (· + ·) 0, 2 * t.e⟩

/-- TNORM_A: the sum into lane 0 of a; the other lanes receive zero. -/
def execTnormA (n : CayNum) (w : Word) (s : State) : Res :=
  milar s n w (fun s m c => legal w (encodes w 0x38 (some (5, 0, 7)) [])
    (let z := combineAcc (getA m (wTacc w)) (tileNorm (getT m (wTile w)).lanes :: List.replicate 63 (some dyZero))
     let r := raise s m c n.val none 1 [z.2]
     .ok r.1 (setA r.2 (wTacc w) z.1)))

end Sys2Proof.Machine
end

