-- ==== Sys2Proof/Machine/MilarStream.lean ====
section
/-! DEFINITION. Milar's stream instructions (R320 to R323, Tables 11-16 and 11-17) and the end of a stream; CAY_KLIMIT
(Table 11-18). -/

namespace Sys2Proof.Machine

/-- A stream descriptor (Table 11-16). -/
structure XDesc where
  src : Nat
  dst : Nat
  index : Nat
  count : Nat
  row : Nat
  srcStride : Nat
  dstStride : Nat
  idxW : Nat
  limit : Nat
  reserved : Bool
  deriving DecidableEq, Repr

/-- The descriptor of 64 bytes. -/
def xDesc (b : List Byte) : XDesc :=
  { src := fieldAt b 0 8, dst := fieldAt b 8 8, index := fieldAt b 0x10 8, count := fieldAt b 0x18 4
    row := fieldAt b 0x1C 4, srcStride := fieldAt b 0x20 4, dstStride := fieldAt b 0x24 4, idxW := fieldAt b 0x28 1
    limit := fieldAt b 0x2C 4, reserved := fieldAt b 0x29 3 != 0 || fieldAt b 0x30 16 != 0 }

/-- The functions of Table 11-17 that move rows. -/
inductive XOp where
  | gather | scatter | copy | prefetch
  deriving DecidableEq, Repr

/-- A stream that reads indices. -/
def xIndexed (op : XOp) (d : XDesc) : Bool :=
  match op with
  | .gather | .scatter => true
  | .copy => false
  | .prefetch => d.index != 0

/-- R322's conditions on a descriptor: IDX_W and LIMIT are zero for xcopy alone (Table 11-16). -/
def xBad (op : XOp) (d : XDesc) : Bool :=
  d.reserved || d.row == 0 || decide (MiB < d.row) ||
  (if op = .copy then d.idxW != 0 || d.limit != 0 else (d.idxW != 4 && d.idxW != 8) || d.limit == 0)

/-- The ranges a stream reads or writes (Table 11-4). -/
def streamRanges (s : State) (n c : Nat) (write : Bool) : List (Nat × Nat) :=
  [scratchRange n, lagoonWin s c, hbmWin s c] ++
  ((List.range 8).map (hostWin s c)).filterMap (fun w =>
    if w.2.2.1 && (if write then w.2.2.2.2 else w.2.2.2.1) then some (w.1, w.2.1) else none)

/-- What ended the moving of rows. -/
inductive XEnd where
  | done
  | fault (cause addr : Nat)
  | stop (st : Nat)
  deriving DecidableEq, Repr

/-- Bytes read for a stream: a read of the host's own bytes draws a free value. -/
def streamRead (s : State) (c a n : Nat) : State × List Byte :=
  (askHost { s with free := s.free + 1 } (some c) a n, bytesAt s.mem s.free a n)
/-- Bytes written by a stream; a host-tier write leaves on the host port. -/
def streamWrite (s : State) (c a : Nat) (bs : List Byte) : State :=
  if a < hostBase then poke s a bs else hostSend (poke s a bs) (hostPort a) (reqFn s (some c)) a bs

/-- A range's check for a stream: reach, then access. -/
def xCheck (s : State) (n c a len : Nat) (write : Bool) : Option XEnd :=
  if !allIn (streamRanges s n c write) a len then some (.fault tcReach a)
  else (accessFault s (some c) a len write).map .stop

/-- A row's index: its value, or the end it makes. -/
def xIndex (s : State) (n c : Nat) (op : XOp) (d : XDesc) (r : Nat) : State × Except XEnd Nat :=
  if !xIndexed op d then (s, .ok r)
  else
    let a := d.index + r * d.idxW
    match xCheck s n c a d.idxW false with
    | some e => (s, .error e)
    | none =>
      let z := streamRead s c a d.idxW
      let i := leNat z.2
      (z.1, if d.limit ≤ i then .error (.fault tcIndex a) else .ok i)

/-- Rows in ascending order (R321): every row before the faulting row moves, and none after it (R323). The stream gathers
the rows and the ranges it reads and writes; each index is the one that the rows before it leave.
DEDUCED (log 74). -/
def xRows (n c : Nat) (op : XOp) (d : XDesc) : Nat → Nat → State → StreamSt → State × StreamSt × XEnd
  | 0, _, s, t => (s, t, .done)
  | k + 1, r, s, t =>
    match xIndex s n c op d r with
    | (s, .error e) => (s, t, e)
    | (s, .ok i) =>
      let a := (d.src + (if op = .scatter then r else i) * d.srcStride) % 2 ^ 64
      let b := (d.dst + (if op = .scatter then i else r) * d.dstStride) % 2 ^ 64
      match xCheck s n c a d.row false with
      | some e => (s, t, e)
      | none =>
        let reads := (a, d.row) :: (if xIndexed op d then [(d.index + r * d.idxW, d.idxW)] else [])
        if op = .prefetch then
          xRows n c op d k (r + 1) s { t with reads := reads ++ t.reads, rows := (a, a, d.row) :: t.rows }
        else
          match xCheck s n c b d.row true with
          | some e => (s, t, e)
          | none =>
            let z := streamRead s c a d.row
            xRows n c op d k (r + 1) (streamWrite z.1 c b z.2)
              { t with reads := reads ++ t.reads, writes := (b, d.row) :: t.writes, rows := (a, b, d.row) :: t.rows }

/-- What an end of the rows leaves in a stream. -/
def xEnds (t : StreamSt) : XEnd → StreamSt
  | .done => t
  | .fault cause a => { t with fault := some (cause, a) }
  | .stop st => { t with stop := some st }

/-- The stream field. -/
def wStream (w : Word) : Nat := wb w 15 14

/-- The program state with a stream set. -/
def setStream (m : Milar) (k : Nat) (t : StreamSt) : Milar := { m with streams := lmod m.streams k (fun _ => t) }

/-- An active or faulted stream that the reads and writes of a new stream depend on (R309, R322). -/
def earlierStream (m : Milar) (reads writes : List (Nat × Nat)) : Option (Nat × StreamSt) :=
  ((m.streams.zipIdx).find? (fun t => (t.1.active || t.1.fault.isSome) &&
    (reads.any (fun r => dependsOn t.1 r.1 r.2 false) || writes.any (fun r => dependsOn t.1 r.1 r.2 true)))).map
    (fun t => (t.2, t.1))

/-- What a stream instruction does after the streams that it depends on. -/
def afterStreams (m : Milar) (reads writes : List (Nat × Nat)) (r : MOut) : MOut :=
  match earlierStream m reads writes with
  | some (j, t) => waitFor j t r
  | none => r

/-- A stream starts: it waits for an earlier stream that writes its indices or shares rows with it (R322); the rows it will
move are those it would move at its issue (R309), and it is active until it has moved them; a stream with COUNT 0 completes
at its issue. DEDUCED (log 74). -/
def startStream (s : State) (m : Milar) (c : MCall) (n k : Nat) (op : XOp) (d : XDesc) : MOut :=
  let x := xRows n c.ctx op d d.count 0 s {}
  let t := xEnds x.2.1 x.2.2
  let s := { s with free := x.1.free }
  afterStreams m (if xIndexed op d then [(d.index, d.count * d.idxW)] else []) []
    (afterStreams m t.reads t.writes
      (.ok (if xIndexed op d then askHost s (some c.ctx) d.index (d.count * d.idxW) else s)
        (setStream m k { t with active := d.count != 0, rows := t.rows.reverse, prefetch := op == .prefetch })))

/-- A row of a stream moves, of xpref into the stream buffer (R321); an access that fails drops the rows left and will stop
the call. DEDUCED (log 74). -/
def moveRow (c : Nat) (z : State × StreamSt) : State × StreamSt :=
  let s := z.1
  match z.2.rows with
  | [] => z
  | (a, b, len) :: rows =>
    match (accessFault s (some c) a len false).or (if z.2.prefetch then none else accessFault s (some c) b len true) with
    | some st => (s, { z.2 with rows := [], fault := none, stop := some st })
    | none =>
      let r := streamRead s c a len
      if z.2.prefetch then (r.1, { z.2 with rows := rows, buffer := z.2.buffer ++ [(a, r.2)] })
      else (streamWrite r.1 c b r.2, { z.2 with rows := rows })

/-- Up to so many rows of a stream move. -/
def moveRows (c : Nat) : Nat → State × StreamSt → State × StreamSt
  | 0, z => z
  | k + 1, z => moveRows c k (moveRow c z)

/-- A stream of a Cay's call moves up to so many rows. -/
def runStream (s : State) (n k count : Nat) : State :=
  let m := cayAt s n
  match m.call, m.streams[k]? with
  | some c, some t =>
    if t.active then
      let z := moveRows c.ctx count (s, t)
      putCay z.1 n (setStream m k z.2)
    else s
  | _, _ => s

/-- One row of every active stream moves. DEDUCED (log 74). -/
def moveStreams (s : State) : State :=
  s.cays.foldl (fun s p => (List.range 4).foldl (fun s k => runStream s p.1 k 1) s) s

/-- An X instruction (R320, R322): in an update entry ILLEGAL; it waits for the stream it names; the descriptor's
address, then its content, are checked. DEDUCED (log 74). -/
def xForm (op : XOp) (fn : Nat) (n : CayNum) (w : Word) (s : State) : Res :=
  milar s n w (fun s m c => legal w (encodes w 0x3C (some (5, 0, fn)) [(20, 16), (13, 6)])
    (if !c.kernel then .trap tcIllegal 0 0 else
     let k := wStream w
     let a := (getG m (wRd w)).toNat
     let go : MOut :=
       if a % 64 ≠ 0 then .trap tcAlign 0 a
       else if !allIn [codeRange n.val, scratchRange n.val] a 64 then .trap tcReach 0 a
       else
         let read : MOut :=
           match byteFault s c a 64 false with
           | some st => .stop s st
           | none =>
             let d := xDesc (bytesAt s.mem s.free a 64)
             if xBad op d then .trap tcDescriptor k a else startStream s m c n.val k op d
         match blockingStream m a 64 false with
         | some (j, t) => waitFor j t read
         | none => read
     match m.streams[k]? with
     | some t => waitFor k t go
     | none => go))

/-- XGATHER: indexed source, contiguous destination. -/
def execXgather (n : CayNum) (w : Word) (s : State) : Res := xForm .gather 0 n w s
/-- XSCATTER: contiguous source, indexed destination. -/
def execXscatter (n : CayNum) (w : Word) (s : State) : Res := xForm .scatter 1 n w s
/-- XCOPY: contiguous on both sides. -/
def execXcopy (n : CayNum) (w : Word) (s : State) : Res := xForm .copy 2 n w s
/-- XPREF: reads the source rows into the Cay's stream buffer and writes nothing. -/
def execXpref (n : CayNum) (w : Word) (s : State) : Res := xForm .prefetch 3 n w s

/-- XWAIT: waits until the stream completes and takes its fault; the gd field is zero. -/
def execXwait (n : CayNum) (w : Word) (s : State) : Res :=
  milar s n w (fun s m c => legal w (encodes w 0x3C (some (5, 0, 4)) [(25, 16), (13, 6)])
    (if !c.kernel then .trap tcIllegal 0 0 else
     match m.streams[wStream w]? with
     | some t => waitFor (wStream w) t (.ok s m)
     | none => .ok s m))

/-- STREAM_COMPLETE (R321, R323): an active stream of a call moves its last rows and ends; a fault it met waits for an
instruction, and an access that failed stops the call (R328). DEDUCED (log 74). -/
def execStreamComplete (n : CayNum) (k : StreamNum) (s : State) : Res :=
  let rows := ((cayAt s n.val).streams[k.val]?.map (fun t => t.rows.length)).getD 0
  let s := runStream s n.val k.val rows
  let m := cayAt s n.val
  match m.call, m.streams[k.val]? with
  | some c, some t =>
    if t.active then
      match t.stop with
      | some st => .next (stopCall s n.val c st)
      | none => .next (putCay s n.val { setStream m k.val { t with active := false } with since := s.now })
    else .next s
  | _, _ => .next s

/-- KLIMIT_EXCEEDED (Table 11-18): a call that has executed CAY_KLIMIT instructions and has not ended traps with LIMIT.
DEDUCED (log 70). -/
def execKlimitExceeded (n : CayNum) (s : State) : Res :=
  let m := cayAt s n.val
  match m.call with
  | none => .next s
  | some c =>
    if (rd s (CAY_KLIMIT n.val)).toNat ≤ m.count then .next (trapCall s n.val c m.pc tcLimit 0 0) else .next s

end Sys2Proof.Machine
end

