-- ==== Sys2Proof/Machine/Kernels.lean ====
section
/-! DEFINITION. User kernels: launch, run, abort (R330, R331). -/

namespace Sys2Proof.Machine

/-- A 64-bit address in a pair of launch registers. -/
def pairAddr (s : State) (lo hi : Nat) : Nat := (rd s lo).toNat + (rd s hi).toNat * 2 ^ 32

/-- A range lies in the context's HBM or Lagoon window. -/
def inOwnWindow (s : State) (c a n : Nat) : Bool := within a n (hbmWin s c) || within a n (lagoonWin s c)

/-- What follows a read that may fail. -/
def readThen {α : Type} (r : State × Except Nat (List Byte)) (k : State → List Byte → State × Except Nat α) : State × Except Nat α :=
  match r.2 with
  | .error e => (r.1, .error e)
  | .ok bs => k r.1 bs

/-- The checks of a launch, and what it copies: the image and the constant page. DEDUCED (log 75). -/
def launchRead (s : State) (n : Nat) : State × Except Nat (List Byte × List Byte) :=
  let c := getF s (CAY_KL_CTX_CTX n)
  let ia := pairAddr s (CAY_KL_IMAGE_LO n) (CAY_KL_IMAGE_HI n)
  let ca := pairAddr s (CAY_KL_CONST_LO n) (CAY_KL_CONST_HI n)
  if !ctxIsOpen s c then (s, .error 0x12)
  else if !cayUp s n then (s, .error 0x31)
  else if !inOwnWindow s c ia 12 then (s, .error 0x13)
  else
    readThen (memRead s (some c) ia 12) (fun s h =>
      let entry := fieldAt h 0 4
      let len := fieldAt h 8 4
      if 4096 < len ∨ entry < 3 ∨ len ≤ entry ∨ !inOwnWindow s c ia (4 * len) ∨ !inOwnWindow s c ca 4096 then (s, .error 0x13)
      else
        readThen (memRead s (some c) (ia + 12) (4 * len - 12)) (fun s rest =>
          readThen (memRead s (some c) ca 4096) (fun s page => (s, .ok (h ++ rest, page)))))

/-- A launch while STATE is IDLE or DONE: DONE with the check's status, or QUEUED. DEDUCED (log 75). -/
def launch (s : State) (n : Nat) : State :=
  match launchRead s n with
  | (s, .error e) => endKernel s n e
  | (s, .ok z) =>
    let s := putCay s n { cayAt s n with queued := some z }
    setF (setF s (CAY_KL_STATE_STATE n) 1) (CAY_KL_STATE_STATUS n) 0

/-- An abort while STATE is QUEUED or RUNNING: the kernel ends with RETRY before its next instruction, its streams
stop. DEDUCED (log 74). -/
def abortKernel (s : State) (n : Nat) : State := pump (endKernel s n 0x60)

/-- A write of CAY_KL_CTRL: START counts while STATE is IDLE or DONE, ABORT while it is QUEUED or RUNNING. -/
def klWrite (s : State) (n : Nat) (v : Word) : State :=
  let st := getF s (CAY_KL_STATE_STATE n)
  if st = 0 ∨ st = 3 then (if v.getLsbD 0 then launch s n else s)
  else if v.getLsbD 1 then abortKernel s n else s

/-- CAY_KL_START (R330): a write of CAY_KL_CTRL with START. -/
def execCayKlStart (r : Requester) (n : CayNum) (v : Word) (s : State) : Res :=
  access s r (CAY_KL_CTRL n.val) (fun s => klWrite s n.val v)

/-- CAY_KL_ABORT (R331): a write of CAY_KL_CTRL with ABORT. -/
def execCayKlAbort (r : Requester) (n : CayNum) (v : Word) (s : State) : Res :=
  access s r (CAY_KL_CTRL n.val) (fun s => klWrite s n.val v)

/-- KERNEL_RUN (R329 to R331, R425): program scratch that another context's kernel has used is zero; a queued kernel
starts while the Cay runs no call and no update call is ready for it. -/
def execKernelRun (n : CayNum) (s : State) : Res :=
  let m := cayAt s n.val
  match m.queued with
  | none => .next s
  | some (image, page) =>
    if getF s (CAY_KL_STATE_STATE n.val) ≠ 1 ∨ !cayIdle s n.val ∨ !cayUp s n.val then .next s
    else
      let c := getF s (CAY_KL_CTX_CTX n.val)
      let call : MCall := { ctx := c, job := ctxJob s c, kernel := true, codeLen := fieldAt image 8 4 }
      let args := (List.range 4).map (fun k => (k + 1, pairAddr s (CAY_KL_ARG_LO n.val k) (CAY_KL_ARG_HI n.val k)))
      let gs := args ++ [(9, cayStore n.val + 0x4000), (10, ctxTide s c)]
      let s := if m.lastCtx = some c then s else wipe s (cayStore n.val + 0x10000) 0xF0000
      let t := enterCall (placeCode s n.val image page) n.val call gs (flag s (CAY_KL_CTX_FTZ n.val)) (fieldAt image 0 4)
      .next (setF (putCay t n.val { cayAt t n.val with queued := none, lastCtx := some c }) (CAY_KL_STATE_STATE n.val) 2)

end Sys2Proof.Machine
end

