-- ==== Sys2Proof/Machine/Links.lean ====
section
/-! DEFINITION. Torus ports (chapter 12): bring-up and its limits (R347 to R350), TRAIN and its refusals (R349, R369), going
up and down, link-level retry (R340 to R344), idle rows (R338, R339), eye scans (R351). -/

namespace Sys2Proof.Machine

/-! ## Down causes (LANE_PORT_STATUS.CAUSE) -/

/-- LOCK. -/
def dcLock : Nat := 1
/-- DESKEW. -/
def dcDeskew : Nat := 2
/-- ORDER. -/
def dcOrder : Nat := 3
/-- LEGACY. -/
def dcLegacy : Nat := 4
/-- LEVEL. -/
def dcLevel : Nat := 5
/-- MISWIRE. -/
def dcMiswire : Nat := 6
/-- RETRY_LIMIT. -/
def dcRetryLimit : Nat := 7
/-- QUALIFY. -/
def dcQualify : Nat := 8
/-- PEER_DOWN. -/
def dcPeerDown : Nat := 9
/-- CREDIT. -/
def dcCredit : Nat := 10

/-! ## Phases -/

/-- STATE codes of the phases; the exchange of credits shows as QUALIFY. DEDUCED (log 85). -/
def phaseCode : Phase → Nat
  | .off => 0
  | .lock => 1
  | .train => 2
  | .step => 3
  | .qualify => 4
  | .credits => 4
  | .up => 5

/-- The phase of a torus port. -/
def phaseOf (s : State) (p : Nat) : Phase := (torusAt s p).phase

/-- A torus port enters a phase; PF vector 3 follows a change of STATE (R365). -/
def setPhase (s : State) (p : Nat) (ph : Phase) : State :=
  let old := getF s (LANE_PORT_STATUS_STATE p)
  let s := setF (withTorus s p (fun t => { t with phase := ph, phaseAt := s.now })) (LANE_PORT_STATUS_STATE p) (phaseCode ph)
  if old = phaseCode ph then s else pfMsix s 3

/-- Credits that FAB_VC_CREDIT_n gives the 16 sub-channels (R214). -/
def ownCredits (s : State) : List Nat :=
  (List.range 8).flatMap (fun v => [getF s (FAB_VC_CREDIT_SUB0 v), getF s (FAB_VC_CREDIT_SUB1 v)])
/-- The conditions of R214. -/
def creditsOk (cs : List Nat) : Bool := cs.all (fun n => decide (2 ≤ n)) && decide (cs.foldl (· + ·) 0 ≤ 2048)

/-- The module's serial number, from its record (Table 14-5). -/
def ownSerial (s : State) : Nat := fieldAt s.boot.record 0x10 8

/-- The TRAIN body that a port sends (Table 12-3). DEDUCED (log 85). -/
def ownTrain (s : State) (p : Nat) : TrainBody :=
  ⟨rd s GLOBAL_ID, BitVec.ofNat 64 (ownSerial s), BitVec.ofNat 8 p, 3, BitVec.ofNat 8 (getF s (LANE_PORT_CTRL_LEVEL_MIN p)), 2,
   BitVec.ofNat 16 (if coordValid s then ownCoord s else 0x7FFF), (ownCredits s).map (BitVec.ofNat 16)⟩

/-- Bring-up begins at phase 1, unless the reference is lost (R347, R435). -/
def startPort (s : State) (p : Nat) : State :=
  if s.power.refLost then s else setPhase (withTorus s p (fun _ => {})) p .lock

/-! ## Going down (R347, R342) -/

/-- The link's own state and registers are cleared; waiting cells for the port are lost, cells it has received stay but
return no credit. DEDUCED (log 78). -/
def clearPort (s : State) (p : Nat) : State :=
  let s := flushEgress s p (fun _ => true)
  let s := { s with cells := s.cells.map (fun q => if q.src == .ingress p then { q with owed := false } else q) }
  let s := setPhase (withTorus s p (fun _ => {})) p .off
  let s := { s with beacons := tdel s.beacons p }
  let s := [LANE_PORT_STATUS_RATE p, LANE_PORT_STATUS_LEVEL p, LANE_PORT_STATUS_DEGRADED p, FAB_PORT_STATE_UP p,
    HEALTH_PORT_SCORE_SUSPECT p].foldl (fun s f => setF s f 0) s
  [LANE_PEER_SERIAL_LO p, LANE_PEER_SERIAL_HI p, LANE_PEER_INFO p].foldl (fun s o => wr s o 0) s

/-- A torus port goes down with a cause; while ENABLE stays set it starts again, the restart is counted and scored, and a
port that was up originates DOWN (R347, R372). DEDUCED (log 82). DEDUCED (log 87). -/
def portDown (s : State) (p cause : Nat) : State :=
  let wasUp := portUp s p
  let s := setF (clearPort s p) (LANE_PORT_STATUS_CAUSE p) cause
  if flag s (LANE_PORT_CTRL_ENABLE p) then
    let s := scorePort (bump s (LANE_DOWN_COUNT_COUNT p) 1) p 1024
    let s := startPort s p
    if wasUp then originateDown s p else s
  else s

/-- A write of LANE_PORT_CTRL: its fields are stored; ENABLE starts or stops the port. DEDUCED (log 22). -/
def lanePortWrite (s : State) (p : Nat) (v : Word) : State :=
  let was := flag s (LANE_PORT_CTRL_ENABLE p)
  let s := setF (setF (setF s (LANE_PORT_CTRL_LEVEL_MIN p) (bits v.toNat 15 8)) (LANE_PORT_CTRL_MAXRATE p) (bits v.toNat 2 1))
    (LANE_PORT_CTRL_ENABLE p) (bits v.toNat 0 0)
  if !was && v.getLsbD 0 then startPort s p
  else if was && !v.getLsbD 0 then clearPort s p
  else s

/-- LANE_PORT_ENABLE (R347). -/
def execLanePortEnable (r : Requester) (p : TorusPort) (v : Word) (s : State) : Res :=
  access s r (LANE_PORT_CTRL p.val) (fun s => lanePortWrite s p.val v)

/-- LANE_PORT_DOWN (R347): a torus port in bring-up or up goes down with a cause of LANE_PORT_STATUS. -/
def execLanePortDown (p : TorusPort) (cause : BitVec 4) (s : State) : Res :=
  if phaseOf s p.val = .off then .next s else .next (portDown s p.val cause.toNat)

/-- DOWN (R349): the peer's DOWN unit. -/
def execLinkDown (p : TorusPort) (_cause : BitVec 4) (s : State) : Res :=
  if phaseOf s p.val = .off then .next s else .next (portDown s p.val dcPeerDown)

/-! ## Bring-up (R347, R348) -/

/-- The rate both ends step to at most. -/
def targetRate (s : State) (p : Nat) : Nat :=
  match (torusAt s p).trainRx with
  | some t => min (min 2 t.rateMax.toNat) (getF s (LANE_PORT_CTRL_MAXRATE p))
  | none => 0

/-- Both ends have sent and received STEP for the next rate. -/
def stepAgreed (t : TorusSt) : Bool := t.stepTx && t.stepRx == some t.nextRate

/-- BLOCK_LOCK (R347): lock at 10.3125 Gb/s ends phase 1; lock and deskew at the new rate end a step. -/
def execBlockLock (p : TorusPort) (s : State) : Res :=
  let t := torusAt s p.val
  match t.phase with
  | .lock => .next (setPhase s p.val .train)
  | .step =>
    if stepAgreed t then
      let s := withTorus s p.val (fun t => { t with linkRate := t.nextRate, qualBad := false })
      .next (setPhase (setF s (LANE_PORT_STATUS_RATE p.val) t.nextRate) p.val .qualify)
    else .next s
  | _ => .next s

/-- A step to a rate begins. -/
def beginStep (s : State) (p rate : Nat) (again : Bool) : State :=
  setPhase (withTorus s p (fun t => { t with nextRate := rate, stepTx := false, repeatDone := again })) p .step

/-- Bring-up goes on from a qualified rate: the next rate, or the exchange of credits. DEDUCED (log 85). -/
def afterRate (s : State) (p : Nat) : State :=
  let t := torusAt s p
  if t.linkRate < targetRate s p then beginStep s p (t.linkRate + 1) false else setPhase s p .credits

/-- TRAIN_EXCHANGE_END (R347): after 1,024 further frames of TRAIN. -/
def execTrainExchangeEnd (p : TorusPort) (s : State) : Res :=
  let t := torusAt s p.val
  if t.phase = .train ∧ t.trainRx.isSome then .next (afterRate s p.val) else .next s

/-- STEP (R347). -/
def execLinkStep (p : TorusPort) (rate : BitVec 2) (s : State) : Res :=
  match phaseOf s p.val with
  | .train | .step | .qualify => .next (withTorus s p.val (fun t => { t with stepRx := some rate.toNat }))
  | _ => .next s

/-- QUALIFY_DONE (R347): 1.0 ms at the rate without an error. -/
def execQualifyDone (p : TorusPort) (s : State) : Res :=
  let t := torusAt s p.val
  if t.phase = .qualify ∧ t.phaseAt + 156250 ≤ s.now ∧ t.qualBad = false then .next (afterRate s p.val) else .next s

/-- Limits of Table 12-6, in ticks. DEDUCED (log 85). -/
def phaseLimit (t : TorusSt) : Nat :=
  match t.phase with
  | .lock => 78125
  | .train => 78125
  | .step => if t.nextRate ≤ 1 then 312500 else 468750
  | .qualify => 156250
  | .credits => 15625
  | _ => 0

/-- A qualification that fails is repeated once from its step; then the port comes up at the last qualified rate (R348).
DEDUCED (log 85). -/
def qualifyFails (s : State) (p : Nat) : State :=
  let t := torusAt s p
  if !t.repeatDone then beginStep s p t.linkRate true
  else
    let r := t.linkRate - 1
    let s := withTorus s p (fun t => { t with linkRate := r })
    setPhase (setF (setF s (LANE_PORT_STATUS_RATE p) r) (LANE_PORT_STATUS_DEGRADED p) 1) p .credits

/-- BRINGUP_PHASE_TIMEOUT (R347, R348, Table 12-6). -/
def execBringupPhaseTimeout (p : TorusPort) (s : State) : Res :=
  let t := torusAt s p.val
  if s.now ≤ t.phaseAt + phaseLimit t then .next s
  else
    match t.phase with
    | .lock => .next (portDown s p.val dcLock)
    | .train => .next (portDown s p.val dcDeskew)
    | .step => .next (portDown s p.val dcQualify)
    | .qualify => .next (qualifyFails s p.val)
    | .credits => .next (portDown s p.val dcCredit)
    | .off => .next s
    | .up => .next s

/-! ## TRAIN (R349, R350, R352, R369) -/

/-- ACK of a control unit: the index expected next, zero before the port is up (Table 12-2). -/
def upAck (s : State) (p : Nat) : Nat := if portUp s p then (torusAt s p).rxIdx else 0

/-- The first reason of R349 to refuse a peer. -/
def trainRefusal (s : State) (p : Nat) (t : TrainBody) : Option Nat :=
  let low := min 3 t.levelMax.toNat
  let plus := if p % 2 = 0 then p + 1 else p - 1
  if bits t.id.toNat 31 16 = 0x1600 then some dcLegacy
  else if low < getF s (LANE_PORT_CTRL_LEVEL_MIN p) ∨ low < t.levelMin.toNat then some dcLevel
  else if coordValid s ∧ t.coord.toNat ≠ 0x7FFF ∧ (t.port.toNat ≠ plus ∨ t.coord.toNat ≠ peerCoord s p) then some dcMiswire
  else if t.credits.length ≠ 16 ∨ !creditsOk (t.credits.map (fun c => c.toNat)) then some dcCredit
  else none

/-- The field of TEL_REFUSE_COUNT for a refusal. -/
def refuseField (p cause : Nat) : Fld :=
  if cause = dcLegacy then TEL_REFUSE_COUNT_LEGACY p
  else if cause = dcLevel then TEL_REFUSE_COUNT_LEVEL p
  else if cause = dcMiswire then TEL_REFUSE_COUNT_MISWIRE p
  else TEL_REFUSE_COUNT_CREDIT p

/-- A refusal is counted, and the first captured (R369). -/
def recordRefusal (s : State) (p cause : Nat) (t : TrainBody) : State :=
  let s := bump s (refuseField p cause) 1
  if flag s TEL_REFUSE_LOG0_VALID then s
  else
    let s := wr s TEL_REFUSE_LOG0 (BitVec.ofNat 32 (2 ^ 31 + p * 2 ^ 24 + cause * 2 ^ 20 + bits t.id.toNat 31 16))
    wr (wr s TEL_REFUSE_LOG1 (t.serial.setWidth 32)) TEL_REFUSE_LOG2 ((t.serial >>> 32).setWidth 32)

/-- What the module learns of its neighbour (R352). -/
def learnPeer (s : State) (p : Nat) (t : TrainBody) : State :=
  let s := withTorus s p (fun q => { q with trainRx := some t })
  let s := wr (wr s (LANE_PEER_SERIAL_LO p) (t.serial.setWidth 32)) (LANE_PEER_SERIAL_HI p) ((t.serial >>> 32).setWidth 32)
  let s := wr s (LANE_PEER_INFO p)
    (BitVec.ofNat 32 (bits t.id.toNat 31 16 * 65536 + t.levelMax.toNat * 256 + t.port.toNat % 8))
  setF s (LANE_PORT_STATUS_LEVEL p) (min 3 t.levelMax.toNat)

/-- An ACK frees the copies before it. -/
def takeAck (s : State) (p : Nat) (ack : Nat) : State :=
  let t := torusAt s p
  match t.store with
  | [] => s
  | (i, _) :: _ =>
    let n := (ack + 65536 - i) % 65536
    if n = 0 ∨ t.store.length < n then s
    else
      let gone := (t.store.take n).map (fun c => c.1)
      withTorus s p (fun t => { t with
        store := t.store.drop n, resend := t.resend.filter (fun c => !gone.contains c.1), resends := 0, lastAck := s.now })

/-- TRAIN (R349, R350): the peer is accepted, or refused with DOWN and the refusal recorded. A port that is up takes TRAIN
again when coordinates have become valid, and the acknowledgement that every control unit carries (R340).
DEDUCED (log 87). -/
def execLinkTrain (p : TorusPort) (u : TrainUnit) (s : State) : Res :=
  match phaseOf s p.val with
  | .train | .up =>
    match trainRefusal s p.val u.body with
    | none =>
      let s := if portUp s p.val then takeAck s p.val u.ack.toNat else s
      .next (learnPeer s p.val u.body)
    | some c =>
      .next (portDown (emit (recordRefusal s p.val c u.body) (.control p.val (.down (upAck s p.val) c))) p.val c)
  | _ => .next s

/-- LANE_PORT_UP (R228, R347, R352, R374, R376): the counts of cells and credits start, the port's limiters are at RATE
1,024, the neighbour is reported, the view is synchronised, the beacon timers start. No port comes up while the own counts break R214. -/
def execLanePortUp (p : TorusPort) (s : State) : Res :=
  let t := torusAt s p.val
  match t.trainRx with
  | none => .next s
  | some b =>
    if t.phase ≠ .credits ∨ !creditsOk (ownCredits s) ∨ s.power.refLost then .next s
    else
      let s := withTorus s p.val (fun t => { t with
        credits := b.credits.map (fun c => c.toNat), returns := List.replicate 16 0, lastCredit := s.now, txIdx := 0
        rxIdx := 0, store := [], resend := [], lastAck := s.now, discarding := false, nakDue := none, resends := 0, sinceUnit := 0 })
      let s := withEgress s p.val (fun g => { g with limiters := g.limiters.map (fun l => { l with rate := 1024 }) })
      let s := setF (setPhase s p.val .up) (FAB_PORT_STATE_UP p.val) 1
      let s := withBeacon s p.val (fun _ => { nextAt := s.now + getF s HEALTH_BEACON_INTERVAL, heard := s.now })
      let s := emit s (.reportPeer p.val b.serial b.port.toNat (min 3 b.levelMax.toNat))
      .next (sendSync s p.val)

/-- Every port that is up sends TRAIN again once the coordinate is valid (R350). -/
def retrainPorts (s : State) : State :=
  (List.range 6).foldl (fun s p =>
    if portUp s p then
      emit (withTorus s p (fun t => { t with sinceUnit := 0 })) (.control p (.train (upAck s p) (ownTrain s p)))
    else s) s

/-! ## Link-level retry (R340 to R344) -/

/-- Cells of the store go out again from an index; more than 16 times without progress takes the port down.
DEDUCED (log 87). -/
def resendFrom (s : State) (p : Nat) (cs : List (Nat × Cell)) : State :=
  let t := torusAt s p
  if cs.isEmpty then s
  else if 16 ≤ t.resends then portDown s p dcRetryLimit
  else withTorus s p (fun t => { t with resend := cs, resends := t.resends + 1, lastAck := s.now })

/-- IDLE (R340). DESIGN CHOICE (log 4). -/
def execLinkIdle (p : TorusPort) (ack : BitVec 16) (s : State) : Res :=
  if portUp s p.val then .next (takeAck s p.val ack.toNat) else .next s

/-- NAK (R341): every cell from NAKIDX on goes out again, in order. -/
def execLinkNak (p : TorusPort) (ack idx : BitVec 16) (s : State) : Res :=
  if portUp s p.val then
    let s := takeAck s p.val ack.toNat
    .next (resendFrom s p.val ((torusAt s p.val).store.dropWhile (fun c => c.1 != idx.toNat)))
  else .next s

/-- LANE_RETRY_TIMEOUT (R342). -/
def execLaneRetryTimeout (p : TorusPort) (s : State) : Res :=
  let t := torusAt s p.val
  if portUp s p.val ∧ !t.store.isEmpty ∧ t.lastAck + (rd s (LANE_RETRY_TIMEOUT p.val)).toNat ≤ s.now then
    .next (resendFrom s p.val t.store)
  else .next s

/-- An invalid sync header counts on its lane (Table 12-13). DESIGN CHOICE (log 119). -/
def countSync (s : State) (p : Nat) (ls : List LaneNum) : State :=
  ls.foldl (fun s l => bump s (LANE_SYNC_ERR_COUNT p l.val) 1) s

/-- An error during a qualification ends it without success (R347). -/
def qualError (s : State) (p : Nat) : State := withTorus s p (fun t => { t with qualBad := true })

/-- Invalid sync headers are counted, and end a qualification without success (R347, R368). -/
def syncSeen (s : State) (p : Nat) (ls : List LaneNum) : State :=
  if ls.isEmpty then s else qualError (countSync s p ls) p

/-- LINK_CHECK_FAIL (R220, R336, R337, R341, R368): a cell unit that fails while the port is up, a control unit that is
discarded, or a unit that passes all the same; the lanes whose sync header was invalid count it.
DEDUCED (log 76). DESIGN CHOICE (log 119). -/
def execLinkCheckFail (p : TorusPort) (f : LinkFail) (s : State) : Res :=
  match phaseOf s p.val, f.unit with
  | .off, _ | .lock, _ => .next s
  | _, .control => .next (qualError (bump (countSync s p.val f.lanes) (LANE_CHECK_FAIL_COUNT p.val) 1) p.val)
  | _, .passed => .next (syncSeen s p.val f.lanes)
  | _, .cell idx header through =>
    let s := syncSeen s p.val f.lanes
    if portUp s p.val then .next (cellFails s p.val idx.toNat header through) else .next s

/-- CONTROL_UNIT_DUE (R340, R344, R347): the control unit that a port's phase calls for; on a port that is up one that is due
takes a unit slot. -/
def execControlUnitDue (p : TorusPort) (s : State) : Res :=
  let t := torusAt s p.val
  match t.phase with
  | .off => .next s
  | .train => .next (emit s (.control p.val (.train 0 (ownTrain s p.val))))
  | .step => .next (emit (withTorus s p.val (fun t => { t with stepTx := true })) (.control p.val (.step 0 t.nextRate)))
  | .up => if controlDue s p.val then .next (sendControl (countStalls (slotGains s p.val) p.val) p.val) else .next s
  | .lock | .qualify | .credits => .next (emit s (.control p.val (.idle 0)))

/-! ## Idle rows (R338, R339) -/

/-- A rate-match event counts on every lane (R236). -/
def countRows (s : State) (p : Nat) (f : Nat → Nat → Fld) : State := (List.range 24).foldl (fun s l => bump s (f p l) 1) s

/-- IDLE_ROW (R338): rate matching; a lane out of order keeps the port down. -/
def execIdleRow (p : TorusPort) (act : RowAction) (laneOrder : Bool) (s : State) : Res :=
  if phaseOf s p.val = .off then .next s
  else if !laneOrder then .next (portDown s p.val dcOrder)
  else
    match act with
    | .keep => .next s
    | .delete => .next (countRows s p.val LANE_RATEMATCH_DELETE)
    | .repeatRow => .next (countRows s p.val LANE_RATEMATCH_INSERT)

/-- IDLE_ROW_DUE (R338). -/
def execIdleRowDue (p : TorusPort) (s : State) : Res :=
  if phaseOf s p.val = .off then .next s else .next (emit s (.idleRow p.val))

/-- LOCK_LOSS (R339): an invalid idle block counts on its lane. -/
def execLockLoss (p : TorusPort) (l : LaneNum) (badBlock : Bool) (s : State) : Res :=
  match phaseOf s p.val with
  | .off | .lock => .next s
  | _ =>
    let s := if badBlock then bump s (LANE_SYNC_ERR_COUNT p.val l.val) 1 else s
    .next (portDown s p.val dcLock)

/-! ## Eye scans (R351) -/

/-- A write of LANE_EYE_CTRL: the settings are stored, START begins a measurement. DEDUCED (log 86). -/
def eyeWrite (s : State) (p l : Nat) (v : Word) : State :=
  let s := setF (setF (setF s (LANE_EYE_CTRL_LOG2 p l) (bits v.toNat 29 24)) (LANE_EYE_CTRL_VOFF p l) (bits v.toNat 23 16))
    (LANE_EYE_CTRL_HOFF p l) (bits v.toNat 13 8)
  if v.getLsbD 0 then
    let s := setF s (LANE_EYE_RESULT_DONE p l) 0
    if s.eyes.contains (p, l) then s else { s with eyes := s.eyes ++ [(p, l)] }
  else s

/-- LANE_EYE_START (R351). -/
def execLaneEyeStart (r : Requester) (p : TorusPort) (l : LaneNum) (v : Word) (s : State) : Res :=
  access s r (LANE_EYE_CTRL p.val l.val) (fun s => eyeWrite s p.val l.val v)

/-- EYE_SCAN_DONE (R351): the number of disagreements among the 2^LOG2 bits compared, and DONE.
DESIGN CHOICE (log 4). DEDUCED (log 86). -/
def execEyeScanDone (p : TorusPort) (l : LaneNum) (count : Nat) (s : State) : Res :=
  if s.eyes.contains (p.val, l.val) then
    let n := min (min count (2 ^ getF s (LANE_EYE_CTRL_LOG2 p.val l.val))) (2 ^ 31 - 1)
    .next (wr { s with eyes := s.eyes.filter (· != (p.val, l.val)) } (LANE_EYE_RESULT p.val l.val) (BitVec.ofNat 32 (2 ^ 31 + n)))
  else .next s

end Sys2Proof.Machine
end

