-- ==== Sys2Proof/Machine/Access.lean ====
section
/-! DEFINITION. Ethernet access ports (chapter 12): bring-up (R353), frames, numbers, credit and acknowledgement (R354 to
R359), cells to and from accelerators (R356, R357), accelerator memory and COPY (R360, R285), port ownership (R396). -/

namespace Sys2Proof.Machine

/-! ## The port -/

/-- The state with an access port changed. -/
def withAcc (s : State) (a : Nat) (f : AccSt → AccSt) : State := { s with access := tput s.access a (f (accAt s a)) }
/-- The egress of an access port. -/
def accEgress (a : Nat) : Nat := 6 + a

/-- Units of a memory frame with `n` data bytes (R359). DEDUCED (log 92). -/
def memUnits (n : Nat) : Nat := (16 + n + 79) / 80
/-- Units of a frame (R359). -/
def bodyUnits : AccBody → Nat
  | .cells xs => xs.length
  | .memWrite _ _ d _ => memUnits d.length
  | .memRead _ _ _ => memUnits 0
  | .pace => 0
/-- Units of the frames kept until acknowledged. -/
def keptUnits (t : AccSt) : Nat := (t.kept.map (fun k => bodyUnits k.2)).foldl (· + ·) 0
/-- Units that a new frame may have: what the peer's last CREDIT leaves (R359), and the room of the retransmit store of
512 cells (R358). -/
def sendRoom (t : AccSt) : Nat :=
  let d := (t.peerCredit + 65536 - t.txUnits) % 65536
  min (if d < 32768 then d else 0) (512 - keptUnits t)
/-- Units set aside for the replies of MEM_READs that have left (R359). DEDUCED (log 93). -/
def asideUnits (t : AccSt) : Nat :=
  ((t.reads.filter (fun r => r.sent.isSome)).map (fun r => memUnits r.len)).foldl (· + ·) 0
/-- The CREDIT the module advertises: the 1,024 cells of the port's ingress, all of them empty. DEDUCED (log 93). -/
def ownCredit (t : AccSt) : Nat := (t.rxUnits + 1024) % 65536

/-! ## Running COPYs (R285, R360) -/

/-- The state with a running COPY changed. -/
def withRun (s : State) (k : Nat × Nat) (f : CopyRun → CopyRun) : State :=
  { s with copying := s.copying.map (fun r => if r.cmd == k then f r else r) }

/-- Bytes of a piece of a COPY. -/
def pieceLen (r : CopyRun) : Nat := min 8192 (r.bytes - r.asked)

/-- The next piece is read from the module's memory. -/
def pieceFromModule (s : State) (r : CopyRun) : State :=
  match memRead s (some r.ctx) (r.src + r.asked) (pieceLen r) with
  | (s, .error e) => endRunCopy s r.cmd e
  | (s, .ok bs) => withRun s r.cmd (fun r => { r with buf := tput r.buf r.asked bs, asked := r.asked + pieceLen r })

/-- The next piece is asked for with MEM_READ. -/
def pieceFromAcc (s : State) (r : CopyRun) (a : Nat) : State :=
  let s := withAcc s a (fun t => { t with
    mem := t.mem ++ [.memRead ((r.src + r.asked) % 2 ^ 64) (pieceLen r) t.nextTag]
    reads := t.reads ++ [⟨t.nextTag, r.cmd, r.asked, pieceLen r, none⟩], nextTag := (t.nextTag + 1) % 65536 })
  withRun s r.cmd (fun r => { r with asked := r.asked + pieceLen r })

/-- Pieces of a COPY asked for from an accelerator and still to come. -/
def readsOut (s : State) (r : CopyRun) : Nat :=
  match r.srcAcc with
  | some a => ((accAt s a).reads.filter (fun x => x.cmd == r.cmd)).length
  | none => 0

/-- A frame is a write of a COPY. -/
def writesFor (k : Nat × Nat) : AccBody → Bool
  | .memWrite _ _ _ c => c == some k
  | _ => false

/-- Writes of a COPY waiting or not yet acknowledged. -/
def writesOut (s : State) (r : CopyRun) : Nat :=
  match r.dstAcc with
  | some a => (((accAt s a).mem ++ (accAt s a).kept.map (fun k => k.2)).filter (writesFor r.cmd)).length
  | none => 0

/-- Source and destination share bytes of one accelerator's memory. -/
def sameBytes (r : CopyRun) : Bool := r.srcAcc.isSome && r.srcAcc == r.dstAcc && overlap r.src r.bytes r.dst r.bytes

/-- A piece that has been read goes out with MEM_WRITE. Where source and destination overlap every byte is read first. -/
def pieceToAcc (s : State) (r : CopyRun) (a : Nat) : State :=
  match r.buf with
  | [] => s
  | (o, bs) :: rest =>
    if 8 ≤ writesOut s r ∨ (sameBytes r ∧ (r.asked < r.bytes ∨ 0 < readsOut s r)) then s
    else
      let s := withAcc s a (fun t => { t with mem := t.mem ++ [.memWrite ((r.dst + o) % 2 ^ 64) 0 bs (some r.cmd)] })
      withRun s r.cmd (fun r => { r with buf := rest, wrote := r.wrote + bs.length })

/-- A step of a COPY: the next piece is asked for, a piece read is written. At most eight are on their way.
DEDUCED (log 93). -/
def copyStep (s : State) (k : Nat × Nat) : State :=
  let s := match runOf s k with
    | some r =>
      if r.asked < r.bytes ∧ (readsOut s r + (if sameBytes r then 0 else r.buf.length)) < 8 then
        match r.srcAcc with
        | some a => pieceFromAcc s r a
        | none => pieceFromModule s r
      else s
    | none => s
  match runOf s k with
  | some r => match r.dstAcc with | some a => pieceToAcc s r a | none => s
  | none => s

/-- Repeated steps of a COPY. -/
def copySteps : Nat → State → Nat × Nat → State
  | 0, s, _ => s
  | n + 1, s, k => copySteps n (copyStep s k) k

/-- Every running COPY goes on. DEDUCED (log 95). -/
def copyGo (s : State) : State := (s.copying.map (fun r => r.cmd)).foldl (copySteps 8) s

/-- Bytes of a COPY have reached their destination; the last ones complete it. -/
def copyLanded (s : State) (k : Nat × Nat) (n : Nat) : State :=
  match runOf s k with
  | none => s
  | some r =>
    if r.left ≤ n then endRunCopy s k 0 else withRun s k (fun r => { r with left := r.left - n })

/-! ## Frames that leave (R357 to R359) -/

/-- A new frame leaves: numbered, kept, with the acknowledgement and the credit of the other direction.
DEDUCED (log 92). -/
def putFrame (s : State) (a : Nat) (b : AccBody) : State :=
  let t := accAt s a
  let s := withAcc s a (fun t => { t with
    txSeq := (t.txSeq + 1) % 65536
    kept := t.kept ++ [(t.txSeq, b)]
    txUnits := (t.txUnits + bodyUnits b) % 65536
    ackDue := none
    lastAck := if t.kept.isEmpty then s.now else t.lastAck })
  emit s (.frame a t.txSeq t.rxSeq (ownCredit t) b)

/-- Up to `n` queued cells of an access egress, in the order of its arbiter. DEDUCED (log 92). DEDUCED (log 118). -/
def gatherCells : Nat → State → Nat → List Cell → State × List Cell
  | 0, s, _, xs => (s, xs)
  | n + 1, s, e, xs =>
    let s := slotGains s e
    let c := chooseGrant s e
    let s := withEgress s e (fun _ => c.2)
    match c.1 with
    | none => (s, xs)
    | some (q, _) =>
      let r := takeGrant s q
      gatherCells n r.1 e (xs ++ [r.2])

/-- A memory frame may leave. -/
def memFits (t : AccSt) : AccBody → Bool
  | .memRead _ n _ => decide (1 ≤ sendRoom t) && decide (asideUnits t + memUnits n ≤ 1024)
  | b => decide (bodyUnits b ≤ sendRoom t)

/-- The tick a MEM_READ leaves is noted. -/
def markSent (now : Tick) (b : AccBody) (rs : List AccRead) : List AccRead :=
  match b with
  | .memRead _ _ g => rs.map (fun r => if r.tag = g then { r with sent := some now } else r)
  | _ => rs

/-- A frame of the cells then queued, up to 108 (R357). -/
def cellsOut (s : State) (a : Nat) : State :=
  let r := gatherCells (min 108 (sendRoom (accAt s a))) s (accEgress a) []
  if r.2.isEmpty then r.1 else putFrame r.1 a (.cells r.2)

/-- One slot of an access egress: a memory frame that may leave, else a frame of cells. -/
def accSlot (s : State) (a : Nat) : State :=
  if !accUp s a then s
  else
    let t := accAt s a
    match t.mem with
    | b :: rest =>
      if memFits t b then
        putFrame (withAcc s a (fun t => { t with mem := rest, reads := markSent s.now b t.reads })) a b
      else cellsOut s a
    | [] => cellsOut s a

/-! ## Frames that arrive (R354, R355, R358, R359) -/

/-- A dropped frame or cell is counted. -/
def accDrop (s : State) (a : Nat) : State := bump s (ACC_DROP_COUNT_COUNT a) 1

/-- The accelerator's addresses are learned from an accepted frame (R354); new ones are reported (R352). -/
def learnAcc (s : State) (a : Nat) (p : PeerAddr) (chassis : Option (List Byte)) : State :=
  let t := accAt s a
  let ch := chassis.getD t.chassis
  if t.peer = some p ∧ t.chassis = ch then s
  else emit (withAcc s a (fun t => { t with peer := some p, chassis := ch })) (.reportAccess a (some p.mac) ch)

/-- A kept write of a COPY has been acknowledged. -/
def ackBody (s : State) : Nat × AccBody → State
  | (_, .memWrite _ _ d (some k)) => copyLanded s k d.length
  | _ => s

/-- ACK: the kept frames before it are free. DEDUCED (log 92). -/
def accAck (s : State) (a : Nat) (ack : Nat) : State :=
  let t := accAt s a
  match t.kept with
  | [] => s
  | (i, _) :: _ =>
    let n := (ack + 65536 - i) % 65536
    if n = 0 ∨ t.kept.length < n then s
    else
      let s := withAcc s a (fun t => { t with kept := t.kept.drop n, timeouts := 0, lastAck := s.now })
      copyGo ((t.kept.take n).foldl ackBody s)

/-- What every accepted frame does: addresses, ACK, CREDIT. -/
def accHead (s : State) (a : Nat) (h : FrameHead) : State :=
  let s := learnAcc s a h.peer none
  accAck (withAcc s a (fun t => { t with peerCredit := h.credit.toNat })) a h.ack.toNat

/-- Receipt of a frame of `n` units: `f` is what an accepted one does. A bad hop limit or checksum drops it; another FSEQ
than the next is discarded. DEDUCED (log 92). -/
def accFrame (s : State) (a : Nat) (h : FrameHead) (n : Nat) (f : State → State) : Res :=
  if !accUp s a then .next s
  else if !h.hopOk || !h.udpOk then .next (accDrop s a)
  else if h.fseq.toNat ≠ (accAt s a).rxSeq then .next s
  else
    let s := accHead s a h
    .next (f (withAcc s a (fun t => { t with
      rxSeq := (t.rxSeq + 1) % 65536, rxUnits := (t.rxUnits + n) % 65536, ackDue := some (t.ackDue.getD s.now) })))

/-- A type and VC that Table 7-3 allows from an accelerator. -/
def fromAccOk (x : Cell) : Bool :=
  let t := x.type.toNat
  ((t == tDATA_G8 || t == tTRAILER) && x.vc == 1) || (t == tCAUSEWAY && x.vc == 0)

/-- The holder's job. -/
def portJob (s : State) (a : Nat) : Option Nat :=
  if flag s (HEALTH_PORT_OWNER_VALID a) then some (ctxJob s (getF s (HEALTH_PORT_OWNER_CONTEXT a))) else none

/-- A cell of a frame (R356): delivered to the holder's context, or dropped and counted. -/
def accCell (a : Nat) (s : State) (c : Cell) : State :=
  let live := flag s (HEALTH_PORT_OWNER_VALID a) && ctxLive s (getF s (HEALTH_PORT_OWNER_CONTEXT a))
  if !headerGood c || !live || portJob s a != some c.job.toNat || !fromAccOk c then accDrop s a
  else if c.type.toNat = tTRAILER then portTrailer s a c
  else if c.type.toNat = tCAUSEWAY then cwFromPort s a c
  else portData s a c

/-- CELLS (R354 to R359): a frame holds 1 to 108 cells, each with whether its header CRC checked.
DESIGN CHOICE (log 117). -/
def execCellsFrame (a : AccPort) (h : FrameHead) (cells : List Cell) (s : State) : Res :=
  if cells.length = 0 ∨ 108 < cells.length then .next (accDrop s a.val)
  else underUpsets s (fun s => accFrame s a.val h cells.length (fun s => cells.foldl (accCell a.val) s))

/-- A reply's bytes: into the module's memory, or kept to be written to the other accelerator. -/
def replyBytes (s : State) (r : CopyRun) (off : Nat) (bs : List Byte) : State :=
  match r.dstAcc with
  | some _ => copyGo (withRun s r.cmd (fun r => { r with buf := tput r.buf off bs }))
  | none =>
    match memWrite s (some r.ctx) (r.dst + off) bs with
    | (s, some e) => endRunCopy s r.cmd e
    | (s, none) => copyGo (copyLanded s r.cmd bs.length)

/-- MEM_DATA (R360): the reply to the MEM_READ of its TAG. An error ends the COPY with BAD_DESCRIPTOR. A reply of another
length than was asked for is one too. DEDUCED (log 95). DESIGN CHOICE (log 117). -/
def execMemData (a : AccPort) (h : FrameHead) (tag : BitVec 16) (ok : Bool) (data : List Byte) (s : State) : Res :=
  accFrame s a.val h (memUnits data.length) (fun s =>
    match (accAt s a.val).reads.find? (fun r => r.tag == tag.toNat && r.sent.isSome) with
    | none => accDrop s a.val
    | some x =>
      let s := withAcc s a.val (fun t => { t with reads := t.reads.filter (fun r => r.tag != tag.toNat) })
      match runOf s x.cmd with
      | none => s
      | some r => if !ok || data.length != x.len then endRunCopy s x.cmd 0x13 else replyBytes s r x.off data)

/-- MEM_WRITE (R359, R360): a memory frame of this kind from an accelerator, with its bytes of data, is dropped; its
number and its units are used up. -/
def execMemWrite (a : AccPort) (f : WriteFrame) (s : State) : Res :=
  accFrame s a.val f.head (memUnits f.bytes) (fun s => accDrop s a.val)

/-- MEM_READ (R359, R360): as MEM_WRITE, without data. -/
def execMemRead (a : AccPort) (h : FrameHead) (s : State) : Res :=
  accFrame s a.val h (memUnits 0) (fun s => accDrop s a.val)

/-- PACE (R358): ACK and CREDIT; its FSEQ is not consumed. DEDUCED (log 94). -/
def execPaceFrame (a : AccPort) (h : FrameHead) (s : State) : Res :=
  if !accUp s a.val then .next s
  else if !h.hopOk || !h.udpOk then .next (accDrop s a.val)
  else .next (accHead s a.val h)

/-- The MAC address of an access port (R354): the module record's MAC base plus the port number. -/
def accMac (s : State) (a : Nat) : Nat := fieldAt s.boot.record 0x18 6 + a

/-- The link-local address of a MAC address by modified EUI-64 (R354). -/
def linkLocal (mac : Nat) : Nat :=
  let hi := mac / 2 ^ 24
  0xFE80 * 2 ^ 112 + ((hi ^^^ 0x020000) * 2 ^ 40 + 0xFFFE * 2 ^ 24 + mac % 2 ^ 24)

/-- NEIGHBOR_SOLICITATION (R354): answered for the port's own address. -/
def execNeighborSolicitation (a : AccPort) (peer : PeerAddr) (target : BitVec 128) (s : State) : Res :=
  if !accUp s a.val then .next s
  else if target.toNat ≠ linkLocal (accMac s a.val) then .next (accDrop s a.val)
  else .next (emit (learnAcc s a.val peer none) (.neighbourAdvert a.val target))

/-- ECHO_REQUEST (R354): answered for the port's own address. -/
def execEchoRequest (a : AccPort) (peer : PeerAddr) (target : BitVec 128) (body : List Byte) (s : State) : Res :=
  if !accUp s a.val then .next s
  else if target.toNat ≠ linkLocal (accMac s a.val) then .next (accDrop s a.val)
  else .next (emit (learnAcc s a.val peer none) (.echoReply a.val body))

/-- LLDP (R354): read, and answered. -/
def execLldpFrame (a : AccPort) (peer : PeerAddr) (chassis : List Byte) (s : State) : Res :=
  if accUp s a.val then .next (emit (learnAcc s a.val peer (some chassis)) (.lldp a.val)) else .next s

/-- FOREIGN_FRAME (R354): dropped and counted; a bad FCS or codeword scores (Table 13-6). -/
def execForeignFrame (a : AccPort) (badFcs : Bool) (s : State) : Res :=
  if !accUp s a.val then .next s
  else if badFcs then .next (scorePort (bump s (ACC_FCS_COUNT_COUNT a.val) 1) (accEgress a.val) 4)
  else .next (accDrop s a.val)

/-- FRAME_ACK_DUE (R358): PACE carries the acknowledgement that no other frame has. -/
def execFrameAckDue (a : AccPort) (s : State) : Res :=
  let t := accAt s a.val
  if accUp s a.val ∧ t.ackDue.isSome then
    .next (emit (withAcc s a.val (fun t => { t with ackDue := none })) (.frame a.val t.txSeq t.rxSeq (ownCredit t) .pace))
  else .next s

/-! ## Up and down (R353, R358, R365) -/

/-- ACC_STATUS.STATE; PF vector 3 follows a change (R365). -/
def setAccState (s : State) (a st : Nat) : State :=
  if getF s (ACC_STATUS_STATE a) = st then s else pfMsix (setF s (ACC_STATUS_STATE a) st) 3

/-- The first state of a bring-up: negotiation, or training at a fixed rate. While the reference is lost none begins.
DEDUCED (log 136). -/
def startAcc (s : State) (a : Nat) : State :=
  if s.power.refLost then s else setAccState s a (if flag s (ACC_CTRL_AN a) then 1 else 2)

/-- An access port goes down: cells and frames waiting are discarded, notifications dropped, COPYs over the port end. -/
def stopAcc (s : State) (a : Nat) : State :=
  let s := purgeEgress s (accEgress a) (fun _ => true)
  let mine := s.copying.filter (fun r => r.srcAcc == some a || r.dstAcc == some a)
  let s := mine.foldl (fun s r => endRunCopy s r.cmd 0x60) s
  setF (setAccState { s with access := tdel s.access a } a 0) (ACC_STATUS_RATE a) 0

/-- The port goes down, and while ENABLE stays set it trains again. DEDUCED (log 94). -/
def accDown (s : State) (a : Nat) : State :=
  let s := stopAcc s a
  streamsGo (if flag s (ACC_CTRL_ENABLE a) then startAcc s a else s)

/-- A write of ACC_CTRL: its fields are stored; ENABLE starts or stops the port. DEDUCED (log 22). -/
def accCtrlWrite (s : State) (a : Nat) (v : Word) : State :=
  let was := flag s (ACC_CTRL_ENABLE a)
  let s := setF (setF (setF s (ACC_CTRL_MAXRATE a) (bits v.toNat 3 2)) (ACC_CTRL_AN a) (bits v.toNat 1 1))
    (ACC_CTRL_ENABLE a) (bits v.toNat 0 0)
  if !was && v.getLsbD 0 then startAcc s a
  else if was && !v.getLsbD 0 then streamsGo (stopAcc s a)
  else s

/-- ACC_ENABLE (R353). -/
def execAccEnable (r : Requester) (a : AccPort) (v : Word) (s : State) : Res :=
  access s r (ACC_CTRL a.val) (fun s => accCtrlWrite s a.val v)

/-- ACCESS_LINK_UP (R353): an enabled port that is not up comes up at a rate of MAXRATE or below; both directions number
from 0. After negotiation the port trains first. The first acknowledgement is due at once, so that the accelerator learns the CREDIT.
DEDUCED (log 136). -/
def execAccessLinkUp (a : AccPort) (rate : BitVec 2) (s : State) : Res :=
  let st := getF s (ACC_STATUS_STATE a.val)
  let m := getF s (ACC_CTRL_MAXRATE a.val)
  if s.power.refLost ∨ st = 0 ∨ st = 3 ∨ rate.toNat < m ∨ 2 < rate.toNat ∨ (!flag s (ACC_CTRL_AN a.val) ∧ rate.toNat ≠ m) then .next s
  else
    let s := withAcc s a.val (fun _ => { lastAck := s.now, ackDue := some s.now })
    let s := setF (setAccState (setAccState s a.val 2) a.val 3) (ACC_STATUS_RATE a.val) rate.toNat
    .next (emit s (.reportAccess a.val none []))

/-- ACCESS_LINK_DOWN (R365). -/
def execAccessLinkDown (a : AccPort) (s : State) : Res :=
  if accUp s a.val then .next (accDown s a.val) else .next s

/-- ACC_RTO (R358): every kept frame goes out again; the eighth timeout without progress takes the port down. -/
def execAccRto (a : AccPort) (s : State) : Res :=
  let t := accAt s a.val
  if !accUp s a.val ∨ t.kept.isEmpty ∨ s.now < t.lastAck + (rd s (ACC_RTO a.val)).toNat then .next s
  else if 8 ≤ t.timeouts + 1 then .next (accDown s a.val)
  else
    let s := withAcc s a.val (fun t => { t with timeouts := t.timeouts + 1, lastAck := s.now, ackDue := none })
    .next (t.kept.foldl (fun s k =>
      emit (scorePort (bump s (ACC_RESEND_COUNT_COUNT a.val) 1) (accEgress a.val) 1)
        (.frame a.val k.1 t.rxSeq (ownCredit t) k.2)) s)

/-- ACC_MEM_TIMEOUT (R360): no reply to a MEM_READ in time; its COPY ends with RETRY. -/
def execAccMemTimeout (a : AccPort) (tag : BitVec 16) (s : State) : Res :=
  match (accAt s a.val).reads.find? (fun r => r.tag == tag.toNat) with
  | none => .next s
  | some r =>
    match r.sent with
    | none => .next s
    | some t => if t + (rd s ACC_MEM_TIMEOUT).toNat ≤ s.now then .next (endRunCopy s r.cmd 0x60) else .next s

/-! ## COPY (R285, Table 10-5) -/

/-- The space of a COPY's side: none a bad one, else the access port or the module. -/
def copySpace (v : Nat) : Option (Option Nat) :=
  if v = 0 then some none else if 0x10 ≤ v ∧ v < 0x20 then some (some (v - 0x10)) else none

/-- A range of the HBM slots of a context's step records, which COPY may read (R296). -/
def inStepRecord (s : State) (c a n : Nat) : Bool :=
  match allocOf s c .steprec with
  | some r => within a n (r.base, 8 * stepRecSize)
  | none => false

/-- A side of a COPY that may not be named: a port the context does not hold, a range outside its windows that is no step
record to read, a Cay store. -/
def copySideBad (s : State) (c : Nat) (sp : Option Nat) (a n : Nat) (write : Bool) : Bool :=
  match sp with
  | some p => !holdsPort s c p
  | none => !(inWindows s c a n write || (!write && inStepRecord s c a n))

/-- What stops a COPY at the module's memory: of a side that names an access port nothing. -/
def copySideFault (s : State) (c : Nat) (sp : Option Nat) (a n : Nat) (write : Bool) : List Nat :=
  if sp.isSome then [] else (accessFault s (some c) a n write).toList

/-- A COPY within the module reads every byte, then writes; the code of highest rank among both sides' counts (R297). -/
def copyInside (s : State) (k i c src dst n : Nat) : State :=
  match memRead s (some c) src n with
  | (s, .error e) => endCmd s k i (worst (e :: copySideFault s c none dst n true))
  | (s, .ok bs) =>
    match memWrite s (some c) dst bs with
    | (s, some e) => endCmd s k i e
    | (s, none) => endCmd s k i 0

/-- What COPY does with its descriptor. A layer's protected state is looked at when the command starts, not again for
each piece. DEDUCED (log 94). DESIGN CHOICE (log 139). -/
def copyCmd (s : State) (k i c : Nat) (b : List Byte) : State :=
  let src := fieldAt b 0x18 8
  let dst := fieldAt b 0x20 8
  let n := fieldAt b 0x28 8
  match copySpace (fieldAt b 0x10 1), copySpace (fieldAt b 0x11 1) with
  | some sa, some da =>
    if n = 0 ∨ 2 ^ 40 < n ∨ copySideBad s c sa src n false ∨ copySideBad s c da dst n true then endCmd s k i 0x13
    else if da.isNone ∧ stateProtected s dst n then endCmd s k i 0x12
    else if (sa.toList ++ da.toList).any (fun a => !accUp s a) then
      endCmd s k i (worst (0x60 :: (copySideFault s c sa src n false ++ copySideFault s c da dst n true)))
    else if sa.isNone ∧ da.isNone then copyInside s k i c src dst n
    else copySteps 8 { s with copying := s.copying ++
      [{ cmd := (k, i), ctx := c, srcAcc := sa, dstAcc := da, src := src, dst := dst, bytes := n, left := n }] } (k, i)
  | _, _ => endCmd s k i 0x13

/-- COPY (R285, R360). -/
def execCopy (c : Ctx) (q : QNum) (i : Word) (s : State) : Res :=
  runCmd s c q i 0x0F (fun s k b => copyCmd s k i.toNat c.val b)

/-! ## Notifications (R293) -/

/-- A notification to the accelerator of an address still waits to leave. DEDUCED (log 95). -/
def notifyWaits (s : State) (a addr : Nat) : Bool :=
  (accAt s a).mem.any (fun b => match b with | .memWrite x _ _ none => x == addr | _ => false)

/-- SYNC_NOTIFY (R293): the notification of an object starts, with the counter and STATUS as they stand. One to the same
accelerator address that has not left yet comes first. -/
def execSyncNotify (o : SyncObj) (s : State) : Res :=
  let ad := notifyAddr s o.val
  let p := getF s (SYNC_NOTIFY_PORT o.val)
  if !s.notify.contains o.val then .next s
  else
    match objCtx s o.val with
    | none => .next { s with notify := s.notify.filter (· != o.val) }
    | some c =>
      let t := { s with notify := s.notify.filter (· != o.val) }
      match getF s (SYNC_NOTIFY_KIND o.val) with
      | 1 => if inHostWin s c ad 16 true then .next (memWrite t (some c) ad (notifyBytes s o.val)).1 else .next t
      | 2 => .next (ctxMsix t c (getF s (SYNC_NOTIFY_VECTOR o.val)))
      | 3 =>
        if !accUp s p then .next t
        else if notifyWaits s p ad then .next s
        else .next (withAcc t p (fun q => { q with mem := q.mem ++ [.memWrite ad 0 (notifyBytes s o.val) none] }))
      | _ => .next t

/-! ## Who holds a port (R396) -/

/-- A write of HEALTH_PORT_OWNER (R396): the next holder. -/
def ownerNextWrite (s : State) (a : Nat) (v : Word) : State :=
  setF (setF s (HEALTH_PORT_OWNER_NEXT_VALID a) (bits v.toNat 15 15)) (HEALTH_PORT_OWNER_NEXT_CONTEXT a) (bits v.toNat 5 0)

/-- HEALTH_PORT_OWNER_WRITE (R396). -/
def execHealthPortOwnerWrite (r : Requester) (a : AccPort) (v : Word) (s : State) : Res :=
  access s r (HEALTH_PORT_OWNER a.val) (fun s => ownerNextWrite s a.val v)

/-- Work that uses an access port: an admitted bucket with the port in PORTS, a Ferry delivery, a COPY, a notification. -/
def portUsed (s : State) (a : Nat) : Bool :=
  s.buckets.any (fun p => bLive p.2 && (gPorts (bDesc s p.2)).contains a) || ferryDelivers s a ||
  s.copying.any (fun r => r.srcAcc == some a || r.dstAcc == some a) ||
  (accAt s a).mem.any (fun b => match b with | .memWrite _ _ _ none => true | _ => false)

/-- The present and the next holder differ. -/
def switchWanted (s : State) (a : Nat) : Bool :=
  flag s (HEALTH_PORT_OWNER_VALID a) != flag s (HEALTH_PORT_OWNER_NEXT_VALID a) ||
  getF s (HEALTH_PORT_OWNER_CONTEXT a) != getF s (HEALTH_PORT_OWNER_NEXT_CONTEXT a)

/-- PORT_SWITCH (R396): the next holder becomes the holder while nothing uses the port. -/
def execPortSwitch (a : AccPort) (s : State) : Res :=
  if switchWanted s a.val && !portUsed s a.val then
    .next (setF (setF s (HEALTH_PORT_OWNER_VALID a.val) (getF s (HEALTH_PORT_OWNER_NEXT_VALID a.val)))
      (HEALTH_PORT_OWNER_CONTEXT a.val) (getF s (HEALTH_PORT_OWNER_NEXT_CONTEXT a.val)))
  else .next s

end Sys2Proof.Machine
end

