-- ==== Sys2Proof/Machine/Closing.lean ====
section
/-! DEFINITION. The end of a Tide and of a context: STEP_CLOSE with its record (R177 to R179, R296), the end of a close (R275,
R425), and FENCE_QUERY's report (R286, Table 10-7). -/

namespace Sys2Proof.Machine

/-! ## FENCE_QUERY -/

/-- A member counts as fenced in a report: as a group member, and of a Causeway group as a remote destination too (R373). -/
def reportFenced (s : State) (d : List Byte) (c : Nat) : Bool :=
  memberFenced s d c || (gKind d == 2 && remoteFenced s c)

/-- Bits as bytes, bit `k` in bit `k` mod 8 of byte `k / 8` (R36). -/
def mapBytes (bs : List Bool) : List Byte :=
  (List.range ((bs.length + 7) / 8)).map (fun j =>
    BitVec.ofNat 8 (((List.range 8).map (fun k => if bs.getD (8 * j + k) false then 2 ^ k else 0)).foldl (· + ·) 0))

/-- The report of Table 10-7. DEDUCED (log 89). -/
def fenceReport (s : State) (c : Nat) (d : List Byte) : List Byte :=
  let ms := (members s d).map (reportFenced s d)
  let down := ((List.range 128).filter (fun n => !cayUp s n)).length
  natLe 2 (ownCoord s) ++ natLe 1 (getF s (spares 0) + getF s (spares 1)) ++ natLe 1 down ++ natLe 2 ms.length ++
    natLe 2 (ms.filter id).length ++ natLe 4 (ctxTide s c) ++ zeros 4 ++ mapBytes ms

/-- FENCE_QUERY's checks, and its report. DEDUCED (log 89). -/
def fenceQueryCmd (s : State) (k i c : Nat) (b : List Byte) : State :=
  let g := fieldAt b 0x10 2
  let out := fieldAt b 0x18 8
  let d := groupDesc s g
  if groupCtx s g ≠ some c then endCmd s k i 0x12
  else
    let r := fenceReport s c d
    if !inWindows s c out r.length true then endCmd s k i 0x13
    else if !runsFit s d ∨ stateProtected s out r.length then endCmd s k i 0x12
    else
      match memWrite s (some c) out r with
      | (s, some e) => endCmd s k i e
      | (s, none) => endCmd s k i 0

/-- FENCE_QUERY (R286): the report of the fabric's view as it stands when the command runs. -/
def execFenceQuery (c : Ctx) (q : QNum) (i : Word) (s : State) : Res :=
  runCmd s c q i 0x0D (fun s k b => fenceQueryCmd s k i.toNat c.val b)

/-! ## STEP_CLOSE -/

/-- The layer entries a context owns, lowest first. -/
def ownLayers (s : State) (c : Nat) : List Nat := (s.layers.filter (fun p => p.2.ctx == c)).map (fun p => p.1)

/-- STEP_CLOSE waits for a layer (R178): its update runs, or it is complete and waits for its state or to start.
DEDUCED (log 90). -/
def closeWaits (s : State) (l : Nat) : Bool :=
  match tget s.layers l with
  | none => false
  | some x =>
    !jBroken s l && (jPhase s l != 0 ||
      (layerComplete x && !x.posted && (jTide s l + 1) % 2 ^ 32 == ctxTide s x.ctx))

/-- What the record says of a layer that has no entry in the Tide: on the owner OWNER, MATRIX and INCONSISTENT.
DEDUCED (log 40). -/
def plainEntry (s : State) (c layer : Nat) : LayerEntry :=
  match layerOf s c layer with
  | some (l, x) =>
    { flags := 1 + (if (sections x.desc).any (fun k => k.matrix) then 16 else 0) + (if jBroken s l then 32 else 0) }
  | none => {}

/-- The end of an owned layer's Tide at STEP_CLOSE (R172, R178): an incomplete layer is abandoned, a layer that received no
bucket takes the Tide into its journal, and the next Tide asks for its state anew (R173). An INCONSISTENT one keeps its
journal. The posts of the commit signals follow. DEDUCED (log 40). DESIGN CHOICE (log 141). -/
def closeLayer (s : State) (l : Nat) : State :=
  match tget s.layers l with
  | none => s
  | some x =>
    if x.posted then s
    else if jBroken s l then recordTide s l 0 (fun _ => plainEntry s x.ctx (ldLayer x.desc))
    else
      match x.halted with
      | some st => leaveLayer s l st
      | none =>
        if !x.staged.isEmpty then leaveLayer s l 0x41
        else dropCache (recordTide (moveJournal s l 0 (ctxTide s x.ctx)) l 0 id) l

/-- The commit posts of the layers of a context that have ended their Tide since a state, each with its entry's status. -/
def commitPosts (old s : State) (c : Nat) : List Post :=
  (ownLayers s c).filterMap (fun l =>
    match tget old.layers l, tget s.layers l with
    | some x, some y =>
      if y.posted && !x.posted then
        some ⟨ldSignal y.desc, .add, 1, ((tget (stepRec s c).layers (ldLayer y.desc)).map (fun e => e.status)).getD 0⟩
      else none
    | _, _ => none)

/-- The owned layers of a context end their Tide in one handshake (R178, R289). -/
def closeLayers (s : State) (c : Nat) : State :=
  let t := (ownLayers s c).foldl closeLayer s
  postAll t (commitPosts s t c)

/-- Layers whose scratch found no room try for it again (R391). -/
def retryScratch (s : State) (c : Nat) : State :=
  (ownLayers s c).foldl (fun s l =>
    match tget s.layers l with
    | some x => if x.scratch.isNone then remakeScratch s l else s
    | none => s) s

/-- The KIND 0x01 group entries of a context, by LAYER. -/
def layerGroups (s : State) (c : Nat) : Table (List Byte) :=
  (s.groups.filter (fun g => g.2.ctx == c && gKind g.2.desc == 1)).foldl
    (fun t g => tput t (1024 * gLayer g.2.desc + g.1) g.2.desc) []

/-- A layer entry (Table 5-11). DEDUCED (log 90). -/
def entryBytes (s : State) (c : Nat) (r : StepRec) (layer : Nat) : List Byte :=
  let e := (tget r.layers layer).getD (plainEntry s c layer)
  natLe 2 layer ++ natLe 1 e.status ++ natLe 1 e.flags ++ natLe 4 ((tget r.nv layer).getD 0) ++ natLe 2 e.replays ++
    zeros 6 ++ e.wnorm ++ e.gnorm ++ e.dnorm

/-- A step record (Tables 5-10 to 5-12). -/
def stepRecord (s : State) (c : Nat) : List Byte :=
  let r := stepRec s c
  let gs := layerGroups s c
  natLe 2 (ctxJob s c) ++ natLe 1 c ++ natLe 1 (1 + (if r.lost = 0 then 0 else 2)) ++ natLe 4 (ctxTide s c) ++
    natLe 2 (ownCoord s) ++ natLe 2 gs.length ++ natLe 4 r.events.length ++ natLe 4 r.lost ++ natLe 4 r.deferred ++
    natLe 4 r.dropped ++ natLe 4 r.restarts ++ zeros 32 ++
    slice (gs.flatMap (fun g => entryBytes s c r (gLayer g.2)) ++ zeros 65536) 0 65536 ++
    slice (r.events.flatten ++ zeros 262080) 0 262080

/-- The closed record goes to its HBM slot and to the host; the answer is the status of STEP_CLOSE. -/
def writeStepRecord (s : State) (c : Nat) : State × Nat :=
  let bs := stepRecord s c
  let s := match allocOf s c .steprec with
    | some a => poke s (a.base + stepRecSize * (ctxTide s c % 8)) bs
    | none => s
  let r := memWrite s (some c) (stepRecAddr s c) bs
  (r.1, r.2.getD 0)

/-- What ends with a context's Tide: refused entries of the bucket table (R107), late contributions (R135), records of
finished streams (R192), READYs of the Tide that met no PERMUTE. DEDUCED (log 90). -/
def dropTide (s : State) (c : Nat) : State :=
  let job := BitVec.ofNat 16 (ctxJob s c)
  let refused := fun (e : Bucket) => e.job == job && (match e.verdict with | some (.refused _) => true | _ => false)
  { s with
    buckets := s.buckets.filter (fun p => !refused p.2)
    lates := s.lates.map (fun r => if r.ctx = c then { r with closed := true } else r)
    finished := s.finished.filter (fun r => r.ctx != c)
    readies := s.readies.filter (fun r => !(r.1 == job && r.2.1 / 8192 == ctxTide s c % 8)) }

/-- What STEP_CLOSE does once nothing it waits for is left. DEDUCED (log 90). -/
def stepCloseRun (s : State) (k i c : Nat) : State :=
  let s := closeLayers s c
  let r := writeStepRecord s c
  let tide := (ctxTide s c + 1) % 2 ^ 32
  let s := dropTide r.1 c
  let s := expireCopies { s with steps := tdel s.steps c } c tide
  endCmdWith (retryMoves (retryScratch s c)) k i r.2 tide

/-- STEP_CLOSE (R178, R296): the Tide advances when the command completes. -/
def execStepClose (c : Ctx) (q : QNum) (i : Word) (s : State) : Res :=
  if (ownLayers s c.val).any (closeWaits s) then .next s
  else runCmd s c q i 0x0E (fun s k _ => stepCloseRun s k i.toNat c.val)

/-! ## The end of a close (R275) -/

/-- Work of a context that is still there: fetched commands, kernels queued or running. -/
def ctxBusy (s : State) (c : Nat) : Bool :=
  ctxActive s c != 0 ||
  (List.range 128).any (fun n =>
    let st := getF s (CAY_KL_STATE_STATE n)
    (st == 1 || st == 2) && getF s (CAY_KL_CTX_CTX n) == c)

/-- A bucket of a closing context leaves the table with what it holds. -/
def dropBucket (s : State) (b : Nat) : State :=
  let s := releaseBucket (freeKept s b) b
  { s with buckets := tdel s.buckets b }

/-- A layer entry is free. -/
def dropLayer (s : State) (l : Nat) : State :=
  let s := nextMoves (endMove (clearCalls s l) (.layerPrefetch l)) (.layerWriteback l)
  let s := wr (wr s (LAYER_JNL_A l) 0) (LAYER_JNL_B l) 0
  { s with layers := tdel s.layers l }

/-- Everything a context holds is released: streams, buckets, layers, groups with their Causeway slots, program slots,
retained copies, memories, reservations. -/
def releaseCtx (s : State) (c : Nat) : State :=
  let job := BitVec.ofNat 16 (ctxJob s c)
  let s := ((s.ferries.filter (fun f => f.ctx == c)).map (fun f => f.key)).foldl (fun s k => dropFerry s k 0x30) s
  let s := ((s.buckets.filter (fun p => p.2.job == job)).map (fun p => p.1)).foldl dropBucket s
  let s := (ownLayers s c).foldl dropLayer s
  let s := (s.copies.filter (fun x => x.ctx == c)).foldl (fun s x => evictCopy s x 0x40 0x31) s
  let s := { s with
    causeway := s.causeway.filter (fun p => groupCtx s p.1 != some c)
    groups := s.groups.filter (fun p => p.2.ctx != c)
    slots := s.slots.filter (fun p => p.2.ctx != c)
    moves := s.moves.filter (fun m => match m.kind with | .emWriteback d _ _ => d != c | _ => true)
    homes := s.homes.filter (fun h => h.ctx != c)
    residues := s.residues.filter (fun r => r.1 != c)
    lates := s.lates.filter (fun r => r.ctx != c)
    finished := s.finished.filter (fun r => r.ctx != c)
    readies := s.readies.filter (fun r => r.1 != job)
    barred := s.barred.filter (fun x => x.1 != c)
    opens := s.opens.filter (fun o => o.job != job)
    steps := tdel s.steps c }
  releaseAllocs s (fun a => a.ctx == c)

/-- CTX_CLOSED (R275, R425): once no command of a CLOSING context remains its entries and charges are released, its
windows are zero, its queues' ENABLE bits read 0 and STATE becomes CLOSED. DESIGN CHOICE (log 28). -/
def execCtxClosed (c : Ctx) (s : State) : Res :=
  if ctxState s c.val ≠ 2 || ctxBusy s c.val then .next s
  else
    let s := releaseCtx s c.val
    let s := wipe s (hbmWin s c.val).1 (hbmWin s c.val).2
    let s := wipe s (lagoonWin s c.val).1 (lagoonWin s c.val).2
    let s := setF (setF s (MEM_CTX_HBM_USED_UNITS c.val) 0) (MEM_CTX_LAGOON_USED_UNITS c.val) 0
    let s := (List.range 16).foldl (fun s q => setF s (QUE_CTRL_ENABLE (qkey c.val q)) 0) s
    .next (setF s (CTX_STATE_STATE c.val) 0)

end Sys2Proof.Machine
end

