-- ==== Sys2Proof/Machine/Boundary.lean ====
section
/-! DEFINITION. The assignment of coordinates (R22, R23, R350, R370), and the host ports: links, function-level resets,
configuration requests (R281, R362 to R366, R408, R440). -/

namespace Sys2Proof.Machine

/-! ## Coordinates -/

/-- Only physical functions, the management port and the module's own cores reach the registers (R23): a virtual
function's windows do not hold them. GLOBAL_COORD.VALID goes from 1 to 0: the work that needs the torus ends as under a
fence, and the torus ports carry only discovery and management traffic. DEDUCED (log 32). -/
def withdrawCoord (s : State) : State :=
  if !coordValid s then s
  else
    let s := dropTraffic (setF s GLOBAL_COORD_VALID 0) 0x41
    (List.range 6).foldl (fun s p => flushEgress s p (fun q => q.cell.dest != 0x7FFF)) s

/-- Every axis length is from 2 to 25. -/
def dimFits (v : Nat) : Bool := (List.range 3).all (fun ax => decide (2 ≤ axisPos v ax) && decide (axisPos v ax ≤ 25))

/-- A write of GLOBAL_TORUS_DIM (R23). -/
def torusDimWrite (s : State) (v : Word) : State :=
  if v.getLsbD 31 then
    if dimValid s || !dimFits (bits v.toNat 14 0) then s
    else wr s GLOBAL_TORUS_DIM (BitVec.ofNat 32 (2 ^ 31 + bits v.toNat 14 0))
  else setF (withdrawCoord s) GLOBAL_TORUS_DIM_VALID 0

/-- A write of GLOBAL_COORD (R23): an assignment clears the fence view (R370), and ports that are up send TRAIN again
(R350); a module with too few Cays fences itself (R381). -/
def coordWrite (s : State) (v : Word) : State :=
  if v.getLsbD 31 then
    if coordValid s || !dimValid s || !coordOk s (bits v.toNat 14 0) then s
    else checkCays (retrainPorts (clearView (wr s GLOBAL_COORD (BitVec.ofNat 32 (2 ^ 31 + bits v.toNat 14 0)))))
  else withdrawCoord s

/-- GLOBAL_TORUS_DIM_WRITE (R23). -/
def execGlobalTorusDimWrite (r : Requester) (v : Word) (s : State) : Res :=
  access s r GLOBAL_TORUS_DIM (fun s => torusDimWrite s v)

/-- GLOBAL_COORD_WRITE (R23). -/
def execGlobalCoordWrite (r : Requester) (v : Word) (s : State) : Res :=
  access s r GLOBAL_COORD (fun s => coordWrite s v)

/-! ## Host ports -/

/-- The live contexts of a host port; with a function, those of that virtual function. -/
def portCtxs (s : State) (h : Nat) (fn : Option Nat) : List Nat :=
  (List.range 64).filter (fun c => ctxLive s c && ctxHost s c == h &&
    (match fn with | some n => ctxVf s c == n | none => true))

/-- The ring port of an enabled queue goes down (R281): HOST_DOWN, and fetching stops. DEDUCED (log 29). -/
def queueHostDown (s : State) (k : Nat) : State :=
  if queOn s k then stopFetch (queError s k (QUE_ERR_HOST_DOWN k)) k else s

/-- A host port's link is lost (R366): its functions return to their defaults, its queues act under R281; the other
port's PF is told with vector 3 (R365). DEDUCED (log 29). DEDUCED (log 30). -/
def hostDown (s : State) (h : Nat) : State :=
  if !flag s (HOSTIF_PORT_UP h) then s
  else
    let s := bump (wr s (HOSTIF_PORT h) 0) (HOSTIF_LOSS_COUNT_COUNT h) 1
    let s := { s with
      bme := s.bme.filter (fun b => b.1 != h)
      pcie := s.pcie.filter (fun p => p.1 / 64 != h) }
    let s := (portCtxs s h none).foldl (fun s c =>
      (List.range 16).foldl (fun s q => queueHostDown s (qkey c q)) s) s
    msix s (1 - h) 0 3

/-- A record that waited goes to the host, and its interrupt follows (R281). -/
def flushRecord (s : State) (k : Nat) (w : WaitRec) : State :=
  let h := hostPort w.addr
  let s := hostSend (poke s w.addr w.data) h w.fn w.addr w.data
  if w.irq then msix s h w.fn (k % 16) else s

/-- The records of a queue that waited for a function of a host port that has returned. A context that has been closed
meanwhile gets its records too. -/
def flushRecords (s : State) (k : Nat) : State :=
  let up := fun (w : WaitRec) => hostUp s (hostPort w.addr) w.fn
  let ws := (queueAt s k).waiting.filter up
  if ws.isEmpty then s
  else ws.foldl (fun s w => flushRecord s k w) (withQueue s k (fun q => { q with waiting := q.waiting.filter (fun w => !up w) }))

/-- A host port has returned (R281, R366): records that waited for it are written. The mirrors that are due follow with
MIRROR_WRITE. -/
def portReturned (s : State) : State := s.queues.foldl (fun s p => flushRecords s p.1) s

/-- The write-backs that a host port's return reaches are sent again (R176, R258). -/
def repeatBacks (old s : State) : State :=
  s.layers.foldl (fun s p =>
    if p.2.backing && p.2.backs.any (fun r => hostReach s p.2.ctx r.1 && !hostReach old p.2.ctx r.1) then
      sendBack (withLayer s p.1 (fun y => { y with backSent := false })) p.1
    else s) s

/-- A function's Bus Master Enable takes a value; contexts for which the port returns go on. -/
def setBme (s : State) (h fn : Nat) (b : Bool) : State :=
  let rest := s.bme.filter (fun x => x != (h, fn))
  let t := { s with bme := if b then rest ++ [(h, fn)] else rest }
  repeatBacks s (portReturned t)

/-- HOST_LINK_DOWN (R366). -/
def execHostLinkDown (h : HostPort) (s : State) : Res := .next (hostDown s h.val)

/-- PERST (R440): the host port goes down under R366. -/
def execPerst (h : HostPort) (s : State) : Res := .next (hostDown s h.val)

/-- HOST_LINK_UP (R281, R352, R365): a port that is down comes up, once the boot has begun to train the host ports. Its
functions' Bus Master Enable bits are clear until the host sets them. DEDUCED (log 30). -/
def execHostLinkUp (h : HostPort) (gen : BitVec 3) (width : BitVec 4) (s : State) : Res :=
  if getF s TRUST_STATE_STATE < 2 ∨ flag s (HOSTIF_PORT_UP h.val) ∨ gen.toNat = 0 ∨ 5 < gen.toNat ∨ 4 < width.toNat then
    .next s
  else
    let s := wr s (HOSTIF_PORT h.val) (BitVec.ofNat 32 (1 + 2 * gen.toNat + 16 * width.toNat))
    .next (emit (msix s (1 - h.val) 0 3) (.reportHost h.val width.toNat gen.toNat))

/-- A virtual function is reset (R366): ENABLE cleared and HOST_DOWN set on its context's 16 queues, its Bus Master
Enable clear. The context stays open, with its running commands. DEDUCED (log 29). -/
def vfReset (s : State) (h fn : Nat) : State :=
  let s := { s with bme := s.bme.filter (fun x => x != (h, fn)), pcie := tdel s.pcie (64 * h + fn) }
  (portCtxs s h (some fn)).foldl (fun s c =>
    (List.range 16).foldl (fun s q =>
      let k := qkey c q
      stopFetch (queError (setF s (QUE_CTRL_ENABLE k) 0) k (QUE_ERR_HOST_DOWN k)) k) s) s

/-- VF_FLR (R366). -/
def execVfFlr (h : HostPort) (n : VfNum) (s : State) : Res :=
  if flag s (HOSTIF_PORT_UP h.val) then .next (vfReset s h.val (n.val + 1)) else .next s

/-- PF_FLR (R366): as a VF FLR on every VF of the port. -/
def execPfFlr (h : HostPort) (s : State) : Res :=
  if flag s (HOSTIF_PORT_UP h.val) then
    let s := (List.range 32).foldl (fun s n => vfReset s h.val (n + 1)) s
    .next { s with bme := s.bme.filter (fun x => x != (h.val, 0)), pcie := tdel s.pcie (64 * h.val) }
  else .next s

/-- A function that a configuration request reaches: the physical one, or an enabled virtual one (R362). -/
def fnThere (s : State) (h fn : Nat) : Bool := fn == 0 || decide (fn ≤ (pcieAt s h 0).vfs)

/-- The vectors that were pending behind a mask and are no longer masked go out. PRESUMED (log 128). -/
def releaseMsix (s : State) (h fn : Nat) : State :=
  let p := pcieAt s h fn
  if p.fnMask || !p.msixOn || !hostUp s h fn then s
  else
    (p.waiting.filter p.unmasked.contains).foldl (fun s v => emit s (.msix h fn v))
      (withPcie s h fn (fun p => { p with waiting := p.waiting.filter (fun v => !p.unmasked.contains v) }))

/-- VF Enable and NumVFs of a physical function: a virtual function that is no longer enabled keeps nothing. -/
def setVfs (s : State) (h n : Nat) : State :=
  { withPcie s h 0 (fun p => { p with vfs := n }) with
    bme := s.bme.filter (fun b => !(b.1 == h && decide (n < b.2)))
    pcie := (withPcie s h 0 (fun p => { p with vfs := n })).pcie.filter (fun p => !(p.1 / 64 == h && decide (n < p.1 % 64))) }

/-- A configuration write (R362, R363). PRESUMED (log 128). -/
def cfgWrite (s : State) (h fn : Nat) (w : CfgWrite) : State :=
  match w with
  | .bme b => setBme s h fn b
  | .sriov on n => if fn = 0 then setVfs s h (if on then n.val else 0) else s
  | .msix on mask => releaseMsix (withPcie s h fn (fun p => { p with msixOn := on, fnMask := mask })) h fn
  | .vector v mask =>
    if fn = 0 ∧ 8 ≤ v.val then s
    else
      let rest := fun (p : PcieFn) => p.unmasked.filter (fun x => x != v.val)
      releaseMsix (withPcie s h fn (fun p => { p with unmasked := if mask then rest p else rest p ++ [v.val] })) h fn
  | .power d3 =>
    let t := withPcie s h fn (fun p => { p with d3hot := d3 })
    repeatBacks s (portReturned t)
  | .limits payload request => withPcie s h fn (fun p => { p with payload := payload.val, request := request.val })
  | .tags t => withPcie s h fn (fun p => { p with tenBit := t })
  | .ecrc g c => withPcie s h fn (fun p => { p with ecrcGen := g, ecrcCheck := c })
  | .timeout r => withPcie s h fn (fun p => { p with timeout := some r.val })

/-- The rails are on, or coming on. -/
def powered (s : State) : Bool := s.power.phase == .starting || s.power.phase == .running

/-- CONFIG_REQUEST (R408): the physical functions answer with retry status until the boot state is READY, RECOVERY or FAILED;
then a request of a function that
is there completes, and a write takes effect (R362, R363). Functions are the PF, 0, and the VFs, 1 to 32.
DEDUCED (log 23). DEDUCED (log 30). PRESUMED (log 128). -/
def execConfigRequest (h : HostPort) (fn : Nat) (w : Option CfgWrite) (s : State) : Res :=
  if 32 < fn then .next s
  else if getF s TRUST_STATE_STATE < 3 then
    .next (if fn = 0 && powered s then emit s (.configReply h.val fn true) else s)
  else if !flag s (HOSTIF_PORT_UP h.val) then .next s
  else if !fnThere s h.val fn then .next s
  else .next (emit ((w.map (cfgWrite s h.val fn)).getD s) (.configReply h.val fn false))

end Sys2Proof.Machine
end

