-- ==== Sys2Proof/Machine/Power.lean ====
section
/-! DEFINITION. Power (chapter 15): starts and shutdowns (R428 to R431, R441), the loop of power and voltage (R433, R434,
R442), the loss of the reference (R435), and the module's restart at reset. -/

namespace Sys2Proof.Machine

/-! ## Reset -/

/-- The voltage of STRAP_VCORE in mV; with the invalid code the rails are at the 0.80 V default (R441). -/
def strapMv (p : Straps) : Nat := if p.vcore = 0 then 750 else if p.vcore = 2 then 850 else 800

/-- POWER_VCORE of a die: TARGET, VMIN, PRESENT. -/
def vcoreWord (target vmin present : Nat) : Word := BitVec.ofNat 32 (target * 2 ^ 20 + vmin * 2 ^ 10 + present)

/-- POWER_VCORE of die A or B. -/
def vcoreReg (d : Nat) : Nat := if d = 0 then POWER_VCORE_A else POWER_VCORE_B

/-- The registers whose reset value comes from the straps or the converter controller. DESIGN CHOICE (log 15). -/
def strapped (s : State) : State :=
  let mv := strapMv s.power.straps
  let s := wr (wr s POWER_VCORE_A (vcoreWord mv 0 mv)) POWER_VCORE_B (vcoreWord mv 0 mv)
  setF (setF s GLOBAL_ID_VARIANT (if s.power.straps.variant then 1 else 0)) POWER_LAST_SHUTDOWN_CAUSE s.power.last

/-- REF_LOST is set while the reference is lost (R435), through a reset too. DEDUCED (log 112). -/
def refEvent (s : State) : State := if s.power.refLost then setF s POWER_EVENT_REF_LOST 1 else s

/-- The module in reset: everything at its reset value but the flash, its replay-protected area and the converter
controller; what has left the module, the commands that wait and the count of free values drawn are the model's own.
DEDUCED (log 112). -/
def restart (s : State) (p : PowerSt) : State :=
  refEvent (strapped { State.reset with
    pending := s.pending
    free := s.free
    out := s.out
    mem := s.mem.filter (fun c => decide (flashBase ≤ c.1))
    rpa := s.rpa
    power := p })

/-- A module reset from reset release on (R426): the converters keep running with the straps they started with.
DESIGN CHOICE (log 16). DEDUCED (log 112). -/
def moduleReset (s : State) : State :=
  restart s { phase := s.power.phase, straps := s.power.straps, last := s.power.last, low54 := s.power.low54,
              refLost := s.power.refLost, thermWarn := s.power.thermWarn, hotSensor := s.power.hotSensor }

/-! ## Starts and shutdowns -/

/-- A shutdown (R430): reset asserted, PG_OUT low, the rails off, the cause kept by the converter controller. Two causes
in the same handshake leave the lower value, and latch if either does. DEDUCED (log 97). -/
def shutdown (s : State) (cause : Nat) (latched : Bool) : State :=
  if powered s then
    restart s { phase := .off, straps := s.power.straps, latched := latched, last := cause, low54 := s.power.low54,
                thermWarn := s.power.thermWarn, hotSensor := s.power.hotSensor }
  else if s.power.phase = .off ∧ s.now = 0 ∧ s.power.last ≠ 0 then
    strapped { s with power := { s.power with last := min s.power.last cause, latched := s.power.latched || latched } }
  else s

/-- POWER_START (R429, R441): the straps are sampled; the rails come up.
DESIGN CHOICE (log 15). DESIGN CHOICE (log 116). -/
def execPowerStart (p : Straps) (s : State) : Res :=
  if s.power.phase = .off ∧ !s.power.latched then
    .next (restart s { phase := .starting, straps := p, last := s.power.last, refLost := s.power.refLost,
                       thermWarn := s.power.thermWarn, hotSensor := s.power.hotSensor })
  else .next s

/-- RAIL_GOOD_TIMEOUT (R429): a rail is not good by its time. -/
def execRailGoodTimeout (_rail : RailNum) (s : State) : Res :=
  if s.power.phase = .starting then .next (shutdown s 5 true) else .next s

/-- MOD_EN_LOW (R430, Table 15-5). -/
def execModEnLow (s : State) : Res := .next (shutdown s 1 false)

/-- INPUT_LOW (R430, Table 15-5). -/
def execInputLow (s : State) : Res := .next (shutdown s 2 false)

/-- INPUT_HIGH (R430, Table 15-5). -/
def execInputHigh (s : State) : Res := .next (shutdown s 3 true)

/-- THERMAL (R430, Table 15-5). -/
def execThermal (s : State) : Res := .next (shutdown s 4 true)

/-- CONVERTER (R430, Table 15-5). -/
def execConverter (s : State) : Res := .next (shutdown s 5 true)

/-- LATCH_RELEASE (R430): MOD_EN has been low for 10 ms. -/
def execLatchRelease (s : State) : Res :=
  if s.power.phase = .off then .next { s with power := { s.power with latched := false } } else .next s

/-- VIN_BELOW_40 (R428): the module is unpowered and keeps nothing but its flash. -/
def execVinBelow40 (s : State) : Res :=
  .next (restart s { phase := .unpowered, straps := s.power.straps })

/-- VIN_ABOVE_40 (R428): the converter controller starts; no shutdown has happened since. -/
def execVinAbove40 (s : State) : Res :=
  if s.power.phase = .unpowered then
    .next (strapped { s with power := { s.power with phase := .off, last := 0, latched := false } })
  else .next s

/-! ## Events (R431, R434) -/

/-- A POWER_EVENT bit goes to 1; PF vector 1 follows a change. -/
def powerEvent (s : State) (f : Fld) : State := if flag s f then s else pfMsix (setF s f 1) 1

/-- VIN_BELOW_56 (R431). -/
def execVinBelow56 (s : State) : Res :=
  if s.power.phase = .running then .next (powerEvent s POWER_EVENT_INPUT_LOW) else .next s

/-- VIN_BELOW_54 (R431): from now on no flash program or erase starts. -/
def execVinBelow54 (s : State) : Res := .next { s with power := { s.power with low54 := true } }

/-- A die's hottest sensor reads 100 °C or more (Table 15-13). -/
def tjHot (s : State) : Bool := decide (100 ≤ getF s POWER_TEMP_TJ_A) || decide (100 ≤ getF s POWER_TEMP_TJ_B)

/-- THERM_WARN_N is low while any sensor reads 100 °C or more (R434). -/
def driveTherm (s : State) (hot : Bool) : State :=
  { s with power := { s.power with hotSensor := hot, thermWarn := hot || tjHot s } }

/-- THERM_WARN_N (R434): a sensor crosses 100 °C. -/
def execThermWarnN (hot : Bool) (s : State) : Res :=
  if s.power.phase = .unpowered then .next s else .next (driveTherm s hot)

/-! ## The loop (R432, R433) -/

/-- VMIN of a die. -/
def vmin (s : State) (d : Nat) : Nat := bits (rd s (vcoreReg d)).toNat 19 10
/-- TARGET of a die. DEDUCED (log 98). -/
def vtarget (s : State) (d : Nat) : Nat := bits (rd s (vcoreReg d)).toNat 29 20
/-- V_L of a die. -/
def vlimit (s : State) (d : Nat) : Nat := s.power.vl.getD d 900

/-- PRESENT is the lower of TARGET and V_L. -/
def putPresent (s : State) (d : Nat) : State :=
  wr s (vcoreReg d) (vcoreWord (vtarget s d) (vmin s d) (min (vtarget s d) (vlimit s d)))

/-- The state with a die's limit set. DEDUCED (log 97). -/
def setLimit (s : State) (d v : Nat) : State :=
  putPresent { s with power := { s.power with vl := if d = 0 then [v, vlimit s 1] else [vlimit s 0, v] } } d

/-- The limit of a die lowered by a step, to VMIN at the lowest (R433). Where the boot has found no record, VMIN is not known
and the limit stays. DEDUCED (log 98). -/
def lowered (s : State) (d step : Nat) : Nat :=
  if s.boot.record = [] then vlimit s d else max (vmin s d) (vlimit s d - step)

/-- The 1 ms loop on one die. -/
def loopDie (s : State) (d watts tj : Nat) : State :=
  if s.power.cap < watts ∨ 100 ≤ tj then
    let v := lowered s d 10
    let s := setLimit s d v
    let s := if v = vmin s d then powerEvent s POWER_EVENT_CAP_SATURATED else s
    if 100 ≤ tj then powerEvent s POWER_EVENT_THERM_WARN else s
  else if watts + 40 ≤ s.power.cap ∧ tj ≤ 95 ∧ !s.power.fast then setLimit s d (min 900 (vlimit s d + 5))
  else s

/-- POWER_LOOP (R9, R433): every 156,250 ticks, both dies; the cap written since is used from the next period on.
DEDUCED (log 97). DESIGN CHOICE (log 116). -/
def execPowerLoop (watts : Nat) (tjA : Nat) (tjB : Nat) (s : State) : Res :=
  if s.power.phase ≠ .running ∨ !s.boot.released ∨ s.now < s.power.loopAt + 156250 then .next s
  else
    let s := setF s POWER_INPUT_WATTS (min 65535 watts)
    let s := setF (setF s POWER_TEMP_TJ_A (min 255 tjA)) POWER_TEMP_TJ_B (min 255 tjB)
    let s := driveTherm s s.power.hotSensor
    let s := loopDie (loopDie s 0 watts tjA) 1 watts tjB
    .next { s with power := { s.power with fast := false, cap := getF s POWER_CAP_WATTS, loopAt := s.power.loopAt + 156250 } }

/-- POWER_FAST_STEP (R433): the input power stays above 1.10 times the cap. -/
def execPowerFastStep (watts : Nat) (s : State) : Res :=
  if s.power.phase ≠ .running ∨ !s.boot.released ∨ 10 * watts ≤ 11 * s.power.cap then .next s
  else
    let s := setF s POWER_INPUT_WATTS (min 65535 watts)
    let low := fun (s : State) (d : Nat) => setLimit s d (lowered s d 50)
    let s := bump (powerEvent (low (low s 0) 1) POWER_EVENT_THROTTLE) POWER_THROTTLE_COUNT_COUNT 1
    .next { s with power := { s.power with fast := true } }

/-- A write of POWER_CAP (R442): out of range, the nearest bound. DEDUCED (log 97). -/
def capWrite (s : State) (v : Word) : State := setF s POWER_CAP_WATTS (max 800 (min 1600 (bits v.toNat 11 0)))

/-- POWER_CAP_WRITE (R442). -/
def execPowerCapWrite (r : Requester) (v : Word) (s : State) : Res := access s r POWER_CAP (fun s => capWrite s v)

/-- A write of POWER_VCORE: TARGET from VMIN to 900, in force at once through PRESENT. DEDUCED (log 98). -/
def targetWrite (s : State) (d : Nat) (v : Word) : State :=
  let t := max (vmin s d) (min 900 (bits v.toNat 29 20))
  putPresent (wr s (vcoreReg d) (vcoreWord t (vmin s d) 0)) d

/-- VCORE_TARGET_WRITE (R433, R442). -/
def execVcoreTargetWrite (r : Requester) (d : Die) (v : Word) (s : State) : Res :=
  access s r (vcoreReg d.val) (fun s => targetWrite s d.val v)

/-! ## The replay-protected area (R407) -/

/-- The fields of Table 14-3 in their order, then the flash's count of writes. DESIGN CHOICE (log 18). -/
def rpaBytes (r : Rpa) : List Byte :=
  natLe 1 r.active ++ natLe 1 (if r.trial then 1 else 0) ++ natLe 1 r.attempts ++ natLe 1 r.revoked ++ natLe 4 r.floor ++
    natLe 4 r.boots ++ natLe 1 (if r.ownerSet then 1 else 0) ++ r.ownerDigest ++ natLe 8 r.writes

/-- A write of the area: the flash counts it, and it carries an HMAC under the key of R412. None starts once the input has
fallen below 54 V (R431). DESIGN CHOICE (log 18). -/
def writeRpa (s : State) (r : Rpa) : State :=
  if s.power.low54 then s
  else
    let r := { r with writes := s.rpa.writes + 1 }
    emit { s with rpa := r } (.areaWrite (rpaBytes r) (hmac s.boot.rpaKey (rpaBytes r)))

/-! ## The reference (R435) -/

/-- A management session ends (R423): a release of the owner that it asked for takes effect. -/
def endSession (s : State) (m : Nat) : State :=
  let open_ := s.sessions.contains m
  let rel := open_ && s.releases.contains m
  let s := { s with
    sessions := s.sessions.filter (· != m)
    releases := s.releases.filter (· != m)
    image := s.image.filter (fun i => i.1 != m)
    signs := s.signs.filter (fun x => x.1 != .session m)
    replies := s.replies.filter (fun x => x.1 != m)
    shadows := s.shadows.filter (fun x => x.1 != .mgmt m) }
  if !rel then s
  else
    let s := writeRpa s { s.rpa with ownerSet := false }
    setF s TRUST_STATE_OWNER_SET (if s.rpa.ownerSet then 1 else 0)

/-- REF_LOST (R435): every torus port, access port and the management port goes down, and tick counts halt.
DEDUCED (log 98). -/
def execRefLost (s : State) : Res :=
  if s.power.refLost then .next s
  else
    let s := { s with power := { s.power with refLost := true } }
    let s := (List.range 6).foldl (fun s p => if phaseOf s p = .off then s else portDown s p dcLock) s
    let s := (List.range 16).foldl (fun s a => if getF s (ACC_STATUS_STATE a) = 0 then s else accDown s a) s
    let s := s.sessions.foldl endSession s
    .next (powerEvent s POWER_EVENT_REF_LOST)

/-- REF_RESTORED (R435): ticks resume, and the enabled ports bring themselves up again. -/
def execRefRestored (s : State) : Res :=
  if !s.power.refLost then .next s
  else
    let s := { s with power := { s.power with refLost := false } }
    let s := (List.range 6).foldl (fun s p => if flag s (LANE_PORT_CTRL_ENABLE p) then startPort s p else s) s
    .next ((List.range 16).foldl (fun s a => if flag s (ACC_CTRL_ENABLE a) then startAcc s a else s) s)

end Sys2Proof.Machine
end

