-- ==== Sys2Proof/Machine/Trust.lean ====
section
/-! DEFINITION. Boot, firmware images, identity and attestation (chapter 14): the module record (R411), slot selection (R416),
the boot (R408 to R410), updates (R417), confirmation (R418), reports (R419, R420), the owner anchor (R424). -/

namespace Sys2Proof.Machine

/-! ## The module record (R411) -/

/-- Section `i` of a record: offset and length. -/
def recSection (r : List Byte) (i : Nat) : Nat × Nat := (fieldAt r (0x30 + 8 * i) 4, fieldAt r (0x34 + 8 * i) 4)
/-- RECORD_LEN. -/
def recLen (r : List Byte) : Nat := fieldAt r 0x24 4
/-- The signed bytes of a record. -/
def recSigned (r : List Byte) : List Byte := slice r 0 0x100 ++ slice r 0x300 (recLen r - 0x300)
/-- The manufacturing modulus, section 7. -/
def recModulus (r : List Byte) : List Byte := slice r (recSection r 7).1 (recSection r 7).2

/-- The bytes of an ASCII string. -/
def ascii (l : List Nat) : List Byte := l.map (BitVec.ofNat 8)

/-- The bytes of an ASCII magic: `KCM`, three letters, `01`. -/
def magic (a b c : Nat) : List Byte := ascii [0x4B, 0x43, 0x4D, a, b, c, 0x30, 0x31]

/-- A record verifies. DEDUCED (log 99). -/
def recordOk (r : List Byte) (variant : Nat) : Bool :=
  let k := fieldAt r 0x0E 1
  let x := recSection r 7
  slice r 0 8 == magic 0x52 0x45 0x43 && fieldAt r 8 2 == 1 && fieldAt r 0x0A 2 == 0x3200 && fieldAt r 0x0C 1 == 0xB0 &&
  fieldAt r 0x0D 1 == variant && (k == 4 || k == 5) && decide (0x300 ≤ recLen r) && decide (recLen r ≤ 65536) &&
  x.2 == 512 && decide (x.1 + x.2 ≤ recLen r) && sha512 (recModulus r) == Config.romDigest k &&
  pssVerify (recModulus r) (recSigned r) (slice r 0x100 512)

/-- Bytes of the flash. -/
def flash (s : State) (off n : Nat) : List Byte := bytesAt s.mem 0 (flashBase + off) n

/-- The record of copy A, or of copy B when copy A fails. -/
def findRecord (s : State) : Option (List Byte) :=
  let v := getF s GLOBAL_ID_VARIANT
  [flash s 0 65536, flash s 0x10000 65536].find? (fun r => recordOk r v)

/-! ## Images (R415, R416) -/

/-- The first byte of a firmware slot in the flash. -/
def slotBase (k : Nat) : Nat := 0x100000 + k * 0x1000000
/-- The header of a firmware slot. -/
def slotHeader (s : State) (k : Nat) : List Byte := flash s (slotBase k) 4096
/-- STAGE1_LEN. -/
def stage1Len (h : List Byte) : Nat := fieldAt h 0x1C 4
/-- BODY_LEN. -/
def bodyLen (h : List Byte) : Nat := fieldAt h 0x20 4
/-- Where the main body begins in a slot. -/
def bodyOff (h : List Byte) : Nat := page (0x1000 + stage1Len h)
/-- KEY_SLOT. -/
def keySlot (h : List Byte) : Nat := fieldAt h 0x0A 1
/-- SVN. -/
def imgSvn (h : List Byte) : Nat := fieldAt h 0x10 4

/-- A header's lengths are in range. -/
def lengthsOk (h : List Byte) : Bool :=
  decide (4 ≤ stage1Len h) && decide (stage1Len h ≤ 1048576) && stage1Len h % 4 == 0 && decide (bodyLen h ≤ 14680064)

/-- Every byte of a range is zero. -/
def allZero (bs : List Byte) (off n : Nat) : Bool := (slice bs off n).all (fun b => b == 0)

/-- A header verifies (R415), its reserved bytes zero. -/
def headerOk (h : List Byte) : Bool :=
  let lv := fieldAt h 0x0B 1
  slice h 0 8 == magic 0x49 0x4D 0x47 && fieldAt h 8 2 == 1 && decide (keySlot h ≤ 3) && (lv == 2 || lv == 3) &&
  decide (fieldAt h 0x0C 1 ≤ 15) && decide (fieldAt h 0x14 4 ≤ imgSvn h) &&
  allZero h 0x0D 3 && allZero h 0x24 28 && allZero h 0xC0 64 && allZero h 0x500 2816 &&
  sha512 (slice h 0x100 512) == Config.romDigest (keySlot h) && pssVerify (slice h 0x100 512) (slice h 0 0x100) (slice h 0x300 512)

/-- STAGE1_DIGEST matches the slot's first stage. -/
def stage1Ok (s : State) (k : Nat) : Bool :=
  let h := slotHeader s k
  sha512 (flash s (slotBase k + 0x1000) (stage1Len h)) == slice h 0x40 64

/-- BODY_DIGEST matches the slot's main body. -/
def bodyOk (s : State) (k : Nat) : Bool :=
  let h := slotHeader s k
  sha512 (flash s (slotBase k + bodyOff h) (bodyLen h)) == slice h 0x80 64

/-- A slot is bootable (R416). -/
def bootable (s : State) (k : Nat) : Bool :=
  let h := slotHeader s k
  headerOk h && lengthsOk h && !bit s.rpa.revoked (keySlot h) && decide (s.rpa.floor ≤ imgSvn h) && stage1Ok s k

/-- Steps 1 and 2 of the slot selection (R416). -/
def countTrial (r : Rpa) : Rpa :=
  if !r.trial then r
  else if r.attempts = 3 then { r with active := 1 - r.active, trial := false, attempts := 0 }
  else { r with attempts := r.attempts + 1 }

/-- Steps 3 to 5: the slot that boots, with the replay-protected area as the ROM writes it. -/
def chooseSlot (s : State) : State × Option Nat :=
  let r := countTrial s.rpa
  if bootable s r.active then (writeRpa s r, some r.active)
  else if bootable s (1 - r.active) then (writeRpa s { r with active := 1 - r.active, trial := false }, some (1 - r.active))
  else (writeRpa s r, none)

/-! ## The boot (R408 to R410) -/

/-- TRUST_STATE shows a state and a cause; PF vector 2 follows a change (R426). -/
def trustState (s : State) (st cause : Nat) : State :=
  let old := getF s TRUST_STATE_STATE
  let s := setF (setF s TRUST_STATE_CAUSE cause) TRUST_STATE_STATE st
  if old = st then s else pfMsix s 2

/-- What the registers show of the replay-protected area (Table 14-3). -/
def showRpa (s : State) : State :=
  let s := setF s TRUST_STATE_OWNER_SET (if s.rpa.ownerSet then 1 else 0)
  let s := setF s TRUST_STATE_TRIAL (if s.rpa.trial then 1 else 0)
  wr s TRUST_FLOOR (BitVec.ofNat 32 s.rpa.floor)

/-- The module stops: FAILED with a cause. -/
def bootFail (s : State) (cause : Nat) : State := trustState s 5 cause

/-- The last step of Table 14-4: READY. -/
def bootReady (s : State) (k : Nat) : State :=
  let h := slotHeader s k
  let s := { s with boot := { s.boot with header := h }, kickAt := s.now, decayAt := s.now, lastRecover := s.now }
  let s := setF (wr (wr s TRUST_SVN (BitVec.ofNat 32 (imgSvn h))) TRUST_VERSION (BitVec.ofNat 32 (fieldAt h 0x18 4)))
    TRUST_STATE_SLOT k
  let s := trustState s 3 0
  let s := setF s HEALTH_LEVEL_OWN (fieldAt h 0x0B 1)
  (List.range 6).foldl (fun s p => startPort (setF s (LANE_PORT_CTRL_ENABLE p) 1) p) s

/-- The first stage and what follows it. DEDUCED (log 99). -/
def bootStage1 (s : State) (b : BootOutcome) (k : Nat) : State :=
  if !bodyOk s k then bootFail s 5 else if !b.initOk then bootFail s 6 else bootReady s k

/-- The ROM's steps once the record and the key are good. DEDUCED (log 99). -/
def bootSlot (s : State) (b : BootOutcome) : State :=
  if s.power.straps.recovery then trustState s 4 7
  else
    match chooseSlot s with
    | (s, some k) => bootStage1 (showRpa s) b k
    | (s, none) => trustState (showRpa s) 4 4

/-- SERIAL as the salt of R412: of the record that verifies, and before one is known of copy A. DEDUCED (log 99). -/
def saltSerial (s : State) : List Byte := slice ((findRecord s).getD (flash s 0 65536)) 0x10 8

/-- The key-encryption key of R412. -/
def kekOf (s : State) (puf : List Byte) : List Byte := hkdf puf (saltSerial s) (ascii [0x6B, 0x65, 0x6B]) 32
/-- The HMAC key of the replay-protected area (R412). -/
def rpaKeyOf (s : State) (puf : List Byte) : List Byte := hkdf puf (saltSerial s) (ascii [0x72, 0x70, 0x61]) 64

/-- The read of the replay-protected area authenticates (R407): the HMAC that came with it is the one of its content and the
flash's count. DEDUCED (log 99). -/
def areaOk (s : State) (b : BootOutcome) : Bool :=
  b.rpaMac.length == 64 && hmac (rpaKeyOf s b.puf) (rpaBytes s.rpa) == b.rpaMac

/-- The identity private key that section 4 of a record wraps (R412); none where its integrity check fails. -/
def unwrapIdentity (s : State) (r : List Byte) (puf : List Byte) : Option (List Byte) :=
  keyUnwrap (kekOf s puf) (slice r (recSection r 4).1 (recSection r 4).2)

/-- The speed data of the record give a die its VMIN (R432); TARGET is at least that. -/
def dieSpeed (s : State) (d v : Nat) : State :=
  let m := min 900 v
  putPresent (wr s (vcoreReg d) (vcoreWord (max m (vtarget s d)) m 0)) d

/-- The record is known: its bytes, and VMIN of both dies. DESIGN CHOICE (log 15). -/
def takeRecord (s : State) (r : List Byte) (b : BootOutcome) : State :=
  dieSpeed (dieSpeed { s with boot := { s.boot with record := r } } 0 b.vminA) 1 b.vminB

/-- The boot from reset release on: the trust engine keeps the keys of R412, and neither the PUF's response nor the
key-encryption key. DEDUCED (log 23). DEDUCED (log 99). -/
def bootRun (s : State) (b : BootOutcome) : State :=
  if s.power.straps.vcore = 3 then bootFail s 7
  else if !areaOk s b then bootFail s 2
  else
    let s := { s with boot := { s.boot with rpaKey := rpaKeyOf s b.puf } }
    let s := showRpa (writeRpa s { s.rpa with boots := min (2 ^ 32 - 1) (s.rpa.boots + 1) })
    match findRecord s with
    | none => bootFail s 1
    | some r =>
      let s := takeRecord s r b
      match unwrapIdentity s r b.puf with
      | none => bootFail s 3
      | some k => bootSlot { s with boot := { s.boot with identity := k } } b

/-- RESET_RELEASE (R408, R429): once after each reset, with the rails good. PG_OUT is released. -/
def execResetRelease (b : BootOutcome) (s : State) : Res :=
  if s.boot.released ∨ !powered s then .next s
  else
    .next (bootRun { s with
      boot := { s.boot with released := true, at_ := s.now }
      power := { s.power with phase := .running, pgOut := true, loopAt := s.now } } b)

/-- The running image is an unconfirmed trial. -/
def onTrial (s : State) : Bool :=
  getF s TRUST_STATE_STATE == 3 && s.rpa.trial && getF s TRUST_STATE_SLOT == s.rpa.active

/-- TRIAL_TIMEOUT (R418): 60.0 s from reset release without confirmation. DEDUCED (log 100). -/
def execTrialTimeout (s : State) : Res :=
  if onTrial s ∧ s.boot.at_ + 9375000000 ≤ s.now then .next (moduleReset s) else .next s

/-! ## TRUST_CTRL (R418, R426) -/

/-- Confirmation of the running image; it leaves ATTEMPTS 0 (Table 14-7). -/
def confirmImage (s : State) : State :=
  if getF s TRUST_STATE_STATE ≠ 3 ∨ s.power.low54 then s
  else
    let h := s.boot.header
    let own := keySlot h
    let more := ((List.range 4).map (fun k =>
      if bit s.rpa.revoked k || (bit (fieldAt h 0x0C 1) k && k != own) then 2 ^ k else 0)).foldl (· + ·) 0
    showRpa (writeRpa s { s.rpa with trial := false, attempts := 0, floor := max s.rpa.floor (fieldAt h 0x14 4), revoked := more })

/-- A write of TRUST_CTRL: CONFIRM, then RESET. A FAILED module stays FAILED until power is removed (R410). -/
def trustCtrlWrite (s : State) (v : Word) : State :=
  let s := if v.getLsbD 0 then confirmImage s else s
  if v.getLsbD 1 ∧ getF s TRUST_STATE_STATE ≠ 5 then moduleReset s else s

/-- CONFIRM (R418). -/
def execConfirm (r : Requester) (v : Word) (s : State) : Res := access s r TRUST_CTRL (fun s => trustCtrlWrite s v)

/-- MODULE_RESET (R426). -/
def execModuleReset (r : Requester) (v : Word) (s : State) : Res := access s r TRUST_CTRL (fun s => trustCtrlWrite s v)

/-! ## Updates (R417) -/

/-- The slot an update writes: the one that is not running; in RECOVERY slot 0 (R410). -/
def updateSlot (s : State) : Nat := if getF s TRUST_STATE_STATE = 4 then 0 else 1 - getF s TRUST_STATE_SLOT

/-- The header of the slot is erased. PRESUMED (log 9). -/
def eraseHeader (s : State) (k : Nat) : State :=
  { s with mem := cellsPut s.mem (flashBase + slotBase k) (List.replicate 4096 0xFF) }

/-- An image breaks its lengths: fields out of range, or bytes missing. -/
def imageLengthBad (bs : List Byte) (n : Nat) : Bool :=
  decide (0x1000000 < n) || decide (n < 4096) || !lengthsOk (slice bs 0 4096) ||
    decide (n < bodyOff (slice bs 0 4096) + bodyLen (slice bs 0 4096))

/-- Steps 2 to 5 of an update whose slot's header has been erased: the result, with the state after it.
DEDUCED (log 100). -/
def writeImage (s : State) (bs : List Byte) (flashOk : Bool) : State × Nat :=
  let k := updateSlot s
  if imageLengthBad bs bs.length then (s, 4)
  else if !flashOk || s.power.low54 then (s, 6)
  else
    let s := { s with mem := cellsPut s.mem (flashBase + slotBase k) bs }
    let h := slotHeader s k
    if !headerOk h || !stage1Ok s k || !bodyOk s k then (s, 1)
    else if bit s.rpa.revoked (keySlot h) then (s, 3)
    else if imgSvn h < s.rpa.floor then (s, 2)
    else (showRpa (writeRpa s { s.rpa with active := k, trial := true, attempts := 0 }), 0)

/-- An address as its two registers hold it. -/
def regAddr (s : State) (lo hi : Nat) : Nat := (rd s lo).toNat + (rd s hi).toNat * 2 ^ 32

/-- A read of host memory by the physical function of the port that the address selects; none where it fails. -/
def hostRead (s : State) (a n : Nat) : State × Option (List Byte) :=
  if a < hostBase ∨ 2 ^ 64 < a + n then (s, none)
  else
    match memRead s none a n with
    | (s, .ok bs) => (s, some bs)
    | (s, .error _) => (s, none)

/-- A write of TRUST_UPDATE_CTRL (R417, R426): in READY or RECOVERY, while no update is busy, the slot's header is
erased and the update runs. DEDUCED (log 100). -/
def updateGo (s : State) (v : Word) : State :=
  let st := getF s TRUST_STATE_STATE
  if !v.getLsbD 0 ∨ ¬(st = 3 ∨ st = 4) ∨ getF s TRUST_UPDATE_STATUS_STATE = 1 then s
  else
    let s := if s.power.low54 then s else eraseHeader s (updateSlot s)
    setF (setF s TRUST_UPDATE_STATUS_STATE 1) TRUST_UPDATE_STATUS_RESULT 0

/-- TRUST_UPDATE_GO (R417). -/
def execTrustUpdateGo (r : Requester) (v : Word) (s : State) : Res := access s r TRUST_UPDATE_CTRL (fun s => updateGo s v)

/-- An update has ended with a result; in RECOVERY a success resets the module (R410). DEDUCED (log 100). -/
def updateEnd (s : State) (res : Nat) : State :=
  let s := pfMsix (setF (setF s TRUST_UPDATE_STATUS_STATE 2) TRUST_UPDATE_STATUS_RESULT res) 2
  if res = 0 ∧ getF s TRUST_STATE_STATE = 4 then moduleReset s else s

/-- IMAGE_UPDATE_DONE (R417). -/
def execImageUpdateDone (hostOk : Bool) (flashOk : Bool) (s : State) : Res :=
  if getF s TRUST_UPDATE_STATUS_STATE ≠ 1 then .next s
  else
    let n := (rd s TRUST_UPDATE_LEN).toNat
    if 0x1000000 < n then .next (updateEnd s 4)
    else
      let a := regAddr s TRUST_UPDATE_ADDR_LO TRUST_UPDATE_ADDR_HI
      match if hostOk then hostRead s a n else (s, none) with
      | (s, none) => .next (updateEnd s 5)
      | (s, some bs) =>
        let r := writeImage s bs flashOk
        .next (updateEnd r.1 r.2)

/-! ## Attestation (R413, R419 to R421) -/

/-- A CHALLENGE (R419). DEDUCED (log 101). -/
def challengeOk (b : List Byte) : Bool := fieldAt b 0 1 == 1 && fieldAt b 1 1 == 1 && allZero b 2 14
/-- NONCE of a CHALLENGE. -/
def challengeNonce (b : List Byte) : List Byte := slice b 16 32

/-- The 64 bytes of an open context in CONTEXT_DIGEST (R420). -/
def contextEntry (s : State) (c : Nat) : List Byte :=
  natLe 4 c ++ ([CTX_JOB c, CTX_CFG c, CTX_SYNC c, CTX_CACHE c] ++
    (List.range 11).map (fun i => MEM_CTX_LAGOON_QUOTA c + 4 * i)).flatMap (fun o => natLe 4 (rd s o).toNat)

/-- Bytes 0x000 to 0x1FF of an IDENTITY report (Table 14-9). -/
def identityBody (s : State) (nonce : List Byte) : List Byte :=
  let ctxs := (List.range 64).filter (ctxIsOpen s)
  let b := fun (v : Bool) (k : Nat) => if v then k else 0
  natLe 1 2 ++ natLe 1 1 ++ natLe 2 (if coordValid s then ownCoord s else 0x7FFF) ++ natLe 4 (rd s GLOBAL_ID).toNat ++
    natLe 8 (ownSerial s) ++ slice nonce 0 32 ++ natLe 4 (rd s TRUST_VERSION).toNat ++ natLe 4 (rd s TRUST_SVN).toNat ++
    natLe 4 s.rpa.floor ++ natLe 1 (getF s HEALTH_LEVEL_OWN) ++
    natLe 1 (getF s TRUST_STATE_SLOT + b s.rpa.trial 2 + b s.rpa.ownerSet 4 + b (selfFenced s) 8) ++
    natLe 1 s.rpa.revoked ++ natLe 1 ctxs.length ++ sha512 (slice s.boot.header 0 0x100) ++
    sha512 (recSigned s.boot.record) ++ sha512 (ctxs.flatMap (contextEntry s)) ++ natLe 4 s.rpa.boots ++ zeros 252

/-- A report waits for its signature; the trust engine takes the requests in order (R413). -/
def askSign (s : State) (w : SignFor) (nonce : List Byte) : State :=
  { s with signs := s.signs ++ [(w, identityBody s nonce)] }

/-- The attestation of the host ends. -/
def attestEnd (s : State) : State := pfMsix (setF s TRUST_ATTEST_STATUS_STATE 2) 2

/-- A write of TRUST_ATTEST_CTRL (R419, R426): in READY, while none is busy, a CHALLENGE is read from host memory. One
that cannot be read, or is none, ends the operation without a report. DEDUCED (log 101). -/
def attestGo (s : State) (v : Word) : State :=
  if !v.getLsbD 0 ∨ getF s TRUST_STATE_STATE ≠ 3 ∨ getF s TRUST_ATTEST_STATUS_STATE = 1 then s
  else
    let a := regAddr s TRUST_ATTEST_ADDR_LO TRUST_ATTEST_ADDR_HI / 64 * 64
    match hostRead s a 48 with
    | (s, none) => attestEnd s
    | (s, some b) =>
      if challengeOk b then askSign (setF s TRUST_ATTEST_STATUS_STATE 1) (.host a) (challengeNonce b) else attestEnd s

/-- TRUST_ATTEST_GO (R419). -/
def execTrustAttestGo (r : Requester) (v : Word) (s : State) : Res := access s r TRUST_ATTEST_CTRL (fun s => attestGo s v)

/-- A message inside a session: its header of KIND, a zero and LENGTH, then its body (R423). DEDUCED (log 33). -/
def mgmtMessage (kind : Nat) (body : List Byte) : List Byte := natLe 1 kind ++ [0] ++ natLe 2 body.length ++ body

/-- Replies of a session go out in request order (R423), up to the first report that is not signed yet. -/
def flushReplies : Nat → State → Nat → State
  | 0, s, _ => s
  | n + 1, s, m =>
    match s.replies.find? (fun x => x.1 == m) with
    | some (_, some (kind, body)) =>
      flushReplies n { emit s (.mgmtReply m (mgmtMessage kind body)) with replies := s.replies.erase (m, some (kind, body)) } m
    | _ => s

/-- A reply joins its session's replies. DEDUCED (log 33). -/
def reply (s : State) (m kind : Nat) (body : List Byte) : State :=
  let s := { s with replies := s.replies ++ [(m, some (kind, body))] }
  flushReplies (s.replies.length + 1) s m

/-- The first place for a report in a list of replies filled. -/
def fillReport (m : Nat) (bs : List Byte) : List (Nat × Option (Nat × List Byte)) → List (Nat × Option (Nat × List Byte))
  | [] => []
  | x :: t => if x = (m, none) then (m, some (0x92, bs)) :: t else x :: fillReport m bs t

/-- A session's report is signed. DEDUCED (log 101). -/
def reportReply (s : State) (m : Nat) (bs : List Byte) : State :=
  let s := { s with replies := fillReport m bs s.replies }
  flushReplies (s.replies.length + 1) s m

/-- Cell `k` of a management message (R421). -/
def mgmtCell (tag k n : Nat) (bs : List Byte) : Cell :=
  { type := BitVec.ofNat 4 tMGMT, vc := 7, tag := BitVec.ofNat 16 tag, seq := BitVec.ofNat 16 k, last := k + 1 == n
    payload := slice (bs ++ zeros 64) (64 * k) 64 }

/-- A management message goes out: link-local on a port, or to a coordinate. DESIGN CHOICE (log 144). -/
def sendMgmt (s : State) (p req tag : Nat) (bs : List Byte) : State :=
  let n := max 1 ((bs.length + 63) / 64)
  (List.range n).foldl (fun s k =>
    let x := mgmtCell tag k n bs
    if 0x8000 ≤ req then injectAt s .module p false none { x with dest := 0x7FFF, src := localSrc s }
    else sendTo s .module req x) s

/-- A signed report is delivered. -/
def deliverReport (s : State) (w : SignFor) (bs : List Byte) : State :=
  match w with
  | .host a => attestEnd (memWrite s none (a + 0x40) bs).1
  | .peer p req tag =>
    sendMgmt { s with reports := s.reports.filter (fun r => !(r.1 == req && r.2.1 == tag)) ++ [(req, tag, bs)] } p req tag bs
  | .session m => reportReply s m bs

/-- The trust engine signs with the identity key, with a salt that it draws (R404, R413). DESIGN CHOICE (log 18). -/
def identitySign (s : State) (msg : List Byte) : List Byte :=
  pssSign (Config.identityKey s.boot.identity) msg ((List.range 64).map (Config.randomByte s.free))

/-- The oldest report that waits is signed with the identity key and delivered. -/
def signNext (s : State) : State :=
  match s.signs with
  | [] => s
  | (w, b) :: rest => deliverReport { s with signs := rest, free := s.free + 1 } w (b ++ identitySign s b)

/-- Every report that waits is signed, in order (R413). DEDUCED (log 34). -/
def signAll (s : State) : State := (List.range s.signs.length).foldl (fun s _ => signNext s) s

/-- ATTESTATION_COMPLETE (R413): the oldest report is signed with the identity key. -/
def execAttestationComplete (s : State) : Res := .next (signNext s)

/-- Every certificate of a chain is signed under the key of the next (R404). DESIGN CHOICE (log 137). -/
def chainSigned : List Cert → Bool
  | a :: b :: t => pssVerify b.modulus a.signed a.signature && chainSigned (b :: t)
  | _ => true

/-- The certificates the module presents (R414, R422): the device's and its CA's, sections 5 and 6 of the record. -/
def ownCerts (s : State) : List (List Byte) :=
  let r := s.boot.record
  [slice r (recSection r 5).1 (recSection r 5).2, slice r (recSection r 6).1 (recSection r 6).2]

/-! ## The owner anchor (R424) -/

/-- A write of TRUST_OWNER_CTRL: LEN is stored; SET installs the owner's root certificate while OWNER_SET is 0, in every
STATE whose boot has read the replay-protected area. Only a physical function installs it. DEDUCED (log 102). -/
def ownerWrite (s : State) (r : Requester) (v : Word) : State :=
  let n := bits v.toNat 12 1
  let s := setF s TRUST_OWNER_CTRL_LEN n
  let fromPf := match r with | .pf _ => true | _ => false
  if !v.getLsbD 0 ∨ !fromPf ∨ s.rpa.ownerSet ∨ n = 0 ∨ s.boot.rpaKey = [] ∨ s.power.low54 then s
  else
    match hostRead s (regAddr s TRUST_OWNER_ADDR_LO TRUST_OWNER_ADDR_HI) n with
    | (s, none) => s
    | (s, some bs) => showRpa (writeRpa s { s.rpa with ownerSet := true, ownerDigest := sha512 bs })

/-- TRUST_OWNER_SET (R424). -/
def execTrustOwnerSet (r : Requester) (v : Word) (s : State) : Res := access s r TRUST_OWNER_CTRL (fun s => ownerWrite s r v)

end Sys2Proof.Machine
end

