-- ==== Sys2Proof/Machine/Readmit.lean ====
section
/-! DEFINITION. Beacons that arrive (R371, R374, R378, R385), management cells between modules (R421), and re-admission (R384 to
R386, R419). -/

namespace Sys2Proof.Machine

/-! ## The verifier's exchange -/

/-- A port leads to a fenced peer, or to a link held DOWN: what re-admission over it would clear. -/
def readmitWanted (s : State) (p : Nat) : Bool := coordValid s && portUp s p && peerFenced s p

/-- 32 bytes of the random bit generator, by the number of the draw. -/
def drawNonce (r : Nat) : List Byte := (List.range 32).map (fun i => Config.randomByte r i)

/-- A CHALLENGE (R419). -/
def challengeBytes (nonce : List Byte) : List Byte := natLe 1 1 ++ natLe 1 1 ++ zeros 14 ++ slice nonce 0 32

/-- The CHALLENGE of an exchange goes out on its port. DEDUCED (log 104). -/
def sendChallenge (s : State) (p : Nat) (e : Exchange) : State := sendMgmt s p (0x8000 + p) e.tag (challengeBytes e.nonce)

/-- An exchange starts (R385 step 2): a fresh nonce and message ID. DEDUCED (log 104). -/
def startExchange (s : State) (p : Nat) : State :=
  let e : Exchange := ⟨drawNonce s.free, s.free % 65536, s.now, 1, s.now⟩
  sendChallenge (withBeacon { s with free := s.free + 1 } p (fun b => { b with exchange := some e })) p e

/-- A failed exchange (R386) leaves the fence in place, is counted, and starts again from step 1. -/
def failExchange (s : State) (p : Nat) : State :=
  bump (withBeacon s p (fun b => { b with run := 0, exchange := none })) HEALTH_READMIT_FAIL_COUNT_COUNT 1

/-- The sixteenth scheduled beacon with READMIT starts an exchange. DEDUCED (log 104). -/
def maybeExchange (s : State) (p : Nat) : State :=
  let b := beaconAt s p
  if 16 ≤ b.run ∧ b.exchange.isNone ∧ readmitWanted s p then startExchange s p else s

/-! ## BEACON -/

/-- What a good beacon does: misses start again, its records are adopted or dropped, a module that is re-admitted with too
few Cays fences itself again (R381), READMIT is counted. DEDUCED (log 78). -/
def takeBeacon (s : State) (p : Nat) (b : List Byte) : State :=
  let s := withBeacon s p (fun x => { x with heard := s.now, misses := 0 })
  let s := setF s (HEALTH_PORT_SCORE_SUSPECT p) 0
  let s := (List.range (min 7 (fieldAt b 4 1))).foldl (fun s k => adopt s (recAt b k)) s
  let s := checkCays s
  if portUp s p then maybeExchange (countReadmit s p (fieldAt b 5 1)) p else s

/-- BEACON (R371, R374, R376, R378, R385). -/
def execBeaconCell (p : TorusPort) (x : Cell) (s : State) : Res :=
  if x.type.toNat = tBEACON then receive s p.val x (fun s => some (takeBeacon s p.val (payloadOf x))) else .next s

/-! ## Management cells (R229, R421) -/

/-- Cells in the management receive buffer of a die. DEDUCED (log 104). -/
def mgmtHeld (s : State) (d : Nat) : Nat :=
  ((s.assemblies.filter (fun a => portDie a.port == d)).map (fun a => a.parts.length)).foldl (· + ·) 0

/-- A cell belongs to an assembly: same SRC, TAG and reach, and, link-local, the same port. -/
def ofAssembly (p : Nat) (x : Cell) (a : Assembly) : Bool :=
  a.src == x.src.toNat && a.tag == x.tag.toNat && a.near == (x.dest == 0x7FFF) && (!a.near || a.port == p)

/-- The bytes of an assembly. -/
def asmBytes (a : Assembly) : List Byte := a.parts.flatMap (fun q => q.2)

/-- Every cell to the last has come. -/
def asmWhole (a : Assembly) : Bool := a.total == some a.parts.length

/-- A whole message is a CHALLENGE of one cell or an IDENTITY of 16. -/
def asmKnown (a : Assembly) : Bool :=
  let b := asmBytes a
  (a.total == some 1 && challengeOk b) || (a.total == some 16 && fieldAt b 0 1 == 2 && fieldAt b 1 1 == 1)

/-- A cell joins its assembly. -/
def joinAssembly (p : Nat) (x : Cell) (now : Tick) (a : Option Assembly) : Assembly :=
  let a := a.getD { port := p, src := x.src.toNat, tag := x.tag.toNat, near := x.dest == 0x7FFF, first := now }
  { a with parts := tput a.parts x.seq.toNat (payloadOf x), total := if x.last then some (x.seq.toNat + 1) else a.total }

/-- A management cell is taken into the receive buffer, or dropped and counted where that is full. A whole message of no
known kind is dropped. -/
def takeMgmt (s : State) (p : Nat) (x : Cell) : State :=
  if 256 ≤ mgmtHeld s (portDie p) then bump s FAB_MGMT_DROP_COUNT 1
  else
    let a := joinAssembly p x s.now (s.assemblies.find? (ofAssembly p x))
    let rest := s.assemblies.filter (fun a => !ofAssembly p x a)
    { s with assemblies := if asmWhole a && !asmKnown a then rest else rest ++ [a] }

/-- MGMT (R421). -/
def execMgmtCell (p : TorusPort) (x : Cell) (s : State) : Res :=
  if x.type.toNat = tMGMT then receive s p.val x (fun s => some (takeMgmt s p.val x)) else .next s

/-- MGMT_ASSEMBLY_TIMEOUT (R421): an assembly that is incomplete 156,250 ticks after its first cell is discarded. -/
def execMgmtAssemblyTimeout (src : Coord) (tag : BitVec 16) (s : State) : Res :=
  .next { s with assemblies := s.assemblies.filter (fun a =>
    !(a.src == src.toNat && a.tag == tag.toNat && !asmWhole a && decide (a.first + 156250 ≤ s.now))) }

/-- The whole message of a kind that a port, SRC and TAG name. -/
def wholeMsg (s : State) (p : Nat) (src : Coord) (tag : BitVec 16) (cells : Nat) : Option Assembly :=
  s.assemblies.find? (fun a => a.port == p && a.src == src.toNat && a.tag == tag.toNat && asmWhole a && a.total == some cells)

/-- The requester of a message. -/
def requesterOf (a : Assembly) : Nat := if a.near then 0x8000 + a.port else a.src

/-- A link that this end owns and asks to have re-admitted: it verifies the other end in its turn (R385). -/
def ownsDownLink (s : State) (p : Nat) : Bool :=
  coordValid s && portPlus p && linkDown s (ownCoord s) (portAxis p) true && !fenced s (peerCoord s p) &&
    flag s HEALTH_READMIT_REQUEST && getF s HEALTH_READMIT_PORT == p

/-- A report, or its body before the signature, answers a nonce: it echoes it (Table 14-9). -/
def echoes (body nonce : List Byte) : Bool := slice body 0x10 32 == nonce

/-- What a CHALLENGE does: a repeat, of the same requester, message ID and nonce, is answered with the same bytes; another
one is put to the trust engine. -/
def answerChallenge (s : State) (a : Assembly) : State :=
  let rq := requesterOf a
  let nonce := challengeNonce (asmBytes a)
  let s := match s.reports.find? (fun r => r.1 == rq && r.2.1 == a.tag && echoes r.2.2 nonce) with
    | some r => sendMgmt s a.port rq a.tag r.2.2
    | none =>
      let w := SignFor.peer a.port rq a.tag
      if s.signs.any (fun x => x.1 == w && echoes x.2 nonce) then s else askSign s w nonce
  if a.near && ownsDownLink s a.port && (beaconAt s a.port).exchange.isNone then startExchange s a.port else s

/-- CHALLENGE (R419, R421). -/
def execChallenge (p : TorusPort) (src : Coord) (tag : BitVec 16) (s : State) : Res :=
  match wholeMsg s p.val src tag 1 with
  | none => .next s
  | some a => .next (answerChallenge { s with assemblies := s.assemblies.filter (fun y => y != a) } a)

/-! ## IDENTITY (R385 steps 3 and 4) -/

/-- A hexadecimal digit in ASCII, upper case. -/
def hexChar (d : Nat) : Nat := if d < 10 then 0x30 + d else 0x37 + d

/-- SERIAL as 16 upper-case hexadecimal digits (R414). DESIGN CHOICE (log 103). -/
def serialText (serial : Nat) : List Byte := ascii ((List.range 16).map (fun i => hexChar (serial / 16 ^ (15 - i) % 16)))

/-- The key of the device certificate of a serial number: its subject names that number, and its chain is checked up to the
Kearolys root (R414). DESIGN CHOICE (log 103). -/
def deviceKey (serial : Nat) (chain : List Cert) : Option (List Byte) :=
  match chain.head?, chain.getLast? with
  | some own, some root =>
    if own.subject == serialText serial && chainSigned chain && root.der == Config.kearolysRoot then some own.modulus else none
  | _, _ => none

/-- An IDENTITY is accepted: the signature verifies under the candidate's device certificate, the serial is the one of
TRAIN and the one bound to the candidate's coordinate, the nonce is the verifier's own. DESIGN CHOICE (log 103). -/
def identityOk (s : State) (p : Nat) (e : Exchange) (b : List Byte) : Bool :=
  let serial := fieldAt b 8 8
  (match deviceKey serial (Config.peerChain serial) with
    | some n => pssVerify n (slice b 0 0x200) (slice b 0x200 512)
    | none => false) &&
  serial == rd64 s (LANE_PEER_SERIAL_LO p) && serial == Config.boundSerial (peerCoord s p) && slice b 0x10 32 == e.nonce

/-- The record of Table 13-2: FENCED of the peer is cleared, or, at the end that owns the link, its DOWN bit. -/
def clearFence (s : State) (p : Nat) : State :=
  if fenced s (peerCoord s p) then originate s (peerCoord s p) bitFenced false causeReadmit
  else if portPlus p && linkDown s (ownCoord s) (portAxis p) true then
    originate s (ownCoord s) (bitDown (portAxis p)) false causeReadmit
  else s

/-- An IDENTITY that answers the exchange of its port. -/
def takeIdentity (s : State) (p : Nat) (tag : Nat) (b : List Byte) : State :=
  match (beaconAt s p).exchange with
  | none => s
  | some e =>
    if e.tag ≠ tag then s
    else if identityOk s p e b then
      clearFence (withBeacon s p (fun x => { x with run := 0, exchange := none })) p
    else failExchange s p

/-- IDENTITY (R385, R386). -/
def execIdentity (p : TorusPort) (src : Coord) (tag : BitVec 16) (s : State) : Res :=
  match wholeMsg s p.val src tag 16 with
  | none => .next s
  | some a =>
    let s := { s with assemblies := s.assemblies.filter (fun y => y != a) }
    .next (if a.near then takeIdentity s p.val tag.toNat (asmBytes a) else s)

/-- A complete IDENTITY that answers an exchange is held. -/
def identityHeld (s : State) (p tag : Nat) : Bool :=
  s.assemblies.any (fun a => a.port == p && a.near && a.tag == tag && asmWhole a && a.total == some 16)

/-- CHALLENGE_RESEND (R421): 12.0 ms without a complete IDENTITY; the same message ID, up to four times. -/
def execChallengeResend (p : TorusPort) (s : State) : Res :=
  match (beaconAt s p.val).exchange with
  | none => .next s
  | some e =>
    if 5 ≤ e.sends ∨ s.now < e.lastSend + 1875000 ∨ identityHeld s p.val e.tag then .next s
    else
      let s := withBeacon s p.val (fun b => { b with exchange := some { e with sends := e.sends + 1, lastSend := s.now } })
      .next (sendChallenge s p.val e)

/-- READMIT_TIMEOUT (R386): an exchange not complete within 50 ms of its CHALLENGE fails. DESIGN CHOICE (log 3). -/
def execReadmitTimeout (p : TorusPort) (s : State) : Res :=
  match (beaconAt s p.val).exchange with
  | none => .next s
  | some e => if e.start + 7812500 ≤ s.now then .next (failExchange s p.val) else .next s

end Sys2Proof.Machine
end

