-- ==== Sys2Proof/Machine/Scrub.lean ====
section
/-! DEFINITION. The patrol scrubber and the codes on the memory arrays (R266 to R270). -/

namespace Sys2Proof.Machine

/-- The location within the stack of an HBM offset (R257). -/
def hbmPlace (off : Nat) : Nat := bits off 11 0 + off / 32768 * 4096

/-- What a read finds (R267, R268). -/
inductive ScrubFind where
  | clean
  | corrected
  | uncorrectable
  deriving DecidableEq, Repr

/-- Whether a target of the codes of Table 9-9 is a 64-byte block; the others are 64-bit words. -/
def blockTarget : ScrubTarget → Bool
  | .lagoon _ => true
  | .hbm _ => true
  | _ => false

/-- What a read of a target with wrong symbols or bits finds (Table 9-9): of a block up to two 16-bit symbols are
corrected and three or four are not; of a word one bit is corrected and two are not. The codes give no more.
DEDUCED (log 105). -/
def finding (t : ScrubTarget) (bad : Nat) : ScrubFind :=
  if bad = 0 then .clean
  else if bad ≤ (if blockTarget t then 2 else 1) then .corrected
  else .uncorrectable

/-- The first uncorrectable error in the Lagoon, HBM or a Cay store is captured (R268); `space` as in Table 9-11. -/
def memErrLog (s : State) (space found a : Nat) : State :=
  if flag s MEM_ERR_LOG0_VALID then s
  else
    let s := setF (setF (setF s MEM_ERR_LOG0_VALID 1) MEM_ERR_LOG0_SPACE space) MEM_ERR_LOG0_FOUND_BY found
    wr64 s MEM_ERR_LOG1 a

/-- A block is marked poisoned and logged (R268), with what found it (1 work, 2 the scrubber); one already marked counts
no further. -/
def poisonBlock (s : State) (space found a : Nat) (count : State → State) : State :=
  if s.poison.contains (a / 64) then s
  else memErrLog (count { s with poison := s.poison ++ [a / 64] }) space found (64 * (a / 64))

/-- A block of a Lagoon slice (R267, R268, R270); a slice that is out of service is never read. -/
def scrubLagoon (s : State) (found block : Nat) (f : ScrubFind) : State :=
  let a := lagoonBase + 64 * block
  let n := addrCay a
  if 128 ≤ n ∨ !cayUp s n then s
  else match f with
    | .clean => s
    | .corrected => scoreCay (bump s (MEM_ECC_LAGOON_CORRECTED n) 1) n 8
    | .uncorrectable =>
      poisonBlock s 1 found a (fun s => scoreCay (bump s (MEM_ECC_LAGOON_UNCORRECTED n) 1) n 2048)

/-- A block of HBM. -/
def scrubHbm (s : State) (found block : Nat) (f : ScrubFind) : State :=
  let a := hbmBase + 64 * block
  let k := hbmStack (64 * block)
  if spaceOf a ≠ some .hbm then s
  else match f with
    | .clean => s
    | .corrected => scoreModule (bump s (MEM_ECC_HBM_CORRECTED k) 1) 1
    | .uncorrectable =>
      poisonBlock s 2 found a (fun s => scoreModule (bump s (MEM_ECC_HBM_UNCORRECTED k) 1) 1024)

/-- A word of a Cay store, which has no counter of its own. -/
def scrubStore (s : State) (found a : Nat) (f : ScrubFind) : State :=
  let n := addrCay a
  if spaceOf a ≠ some .cay ∨ !cayUp s n then s
  else match f with
    | .clean => s
    | .corrected => scoreCay s n 8
    | .uncorrectable => poisonBlock s 3 found a (fun s => scoreCay s n 2048)

/-- A waiting cell becomes a poisoned cell where it stands in a pool cell (R269). DEDUCED (log 76). -/
def poisonQueued (a : Nat) (q : QCell) : QCell :=
  if q.pool = some a ∨ q.place = some a then { q with cell := { q.cell with poison := true } } else q

/-- A bucket whose kept cells include the pool cell: the cell is poisoned, the bucket's outcome takes ECC_UNCORRECTED. -/
def poisonBucket (a : Nat) (e : Bucket) : Bucket :=
  if e.kept.any (fun k => k.pool == a) then
    { e with
      kept := e.kept.map (fun k => if k.pool = a then { k with cell := { k.cell with poison := true } } else k)
      codes := e.codes ++ [0x22] }
  else e

/-- The streams whose window holds a pool cell. -/
def ferriesOf (s : State) (a : Nat) : List Nat :=
  (s.ferries.filter (fun f => f.window.any (fun w => w.pool == some a))).map (fun f => f.key)

/-- A pool cell's memory (R267, R269). DEDUCED (log 105). -/
def scrubPoolCell (s : State) (a : Nat) (f : ScrubFind) : State :=
  match f with
  | .clean => s
  | .corrected => bump s POOL_ECC_COUNT_CORRECTED 1
  | .uncorrectable =>
    let s := bump s POOL_ECC_COUNT_UNCORRECTED 1
    let s := { s with
      cells := s.cells.map (poisonQueued a)
      buckets := s.buckets.map (fun p => (p.1, poisonBucket a p.2)) }
    (ferriesOf s a).foldl (fun t k => dropFerry t k 0x22) s

/-- The free count of a die's shared part (Table 9-10). -/
def poolFreeFld (d : Nat) : Fld := if d = 0 then POOL_FREE_A_COUNT else POOL_FREE_B_COUNT

/-- A descriptor with an uncorrectable error: its cell is quarantined, once (R269). DEDUCED (log 105). -/
def quarantine (s : State) (a : Nat) : State :=
  let d := descAt s a
  let k := cellDie a
  if d.quarantined then s
  else
    let s := bump s POOL_ECC_COUNT_UNCORRECTED 1
    let s := if d.state ∨ drawnCells ≤ a % poolCells then s else setF s (poolFreeFld k) (getF s (poolFreeFld k) - 1)
    let s := { s with freeList := lmod s.freeList k (fun l => l.filter (· != a)) }
    let s := bump (setDesc s a { d with quarantined := true }) POOL_QUARANTINE_COUNT 1
    scoreModule (poolLog s 4 a 0 d.last.toNat) 2048

/-- A pool cell's descriptor. DEDUCED (log 105). -/
def scrubPoolDesc (s : State) (a : Nat) (f : ScrubFind) : State :=
  match f with
  | .clean => s
  | .corrected => bump s POOL_ECC_COUNT_CORRECTED 1
  | .uncorrectable => quarantine s a

/-- A reservation holds what a bucket works on: its areas, or the memories of its number. Its home is read only by its
prefetch (R118). -/
def holdsWorkOf (b : Nat) (e : Bucket) (x : Alloc) : Bool :=
  match x.use with
  | .bucket k => k == b
  | .residue g num => e.ctx == some x.ctx && e.group == g && bNumber e == num
  | _ => false

/-- A poisoned block in a bucket's own memory stops the work that reads it: the bucket's outcome takes ECC_UNCORRECTED
(R268). The areas of a bucket are read before it ends. DEDUCED (log 105). -/
def hurtBuckets (s : State) (a : Nat) : State :=
  if s.poison.contains (a / 64) then
    { s with buckets := s.buckets.map (fun p =>
      (p.1, if s.allocs.any (fun x => decide (x.base ≤ a) && decide (a < x.base + x.len) && holdsWorkOf p.1 p.2 x) then
        { p.2 with codes := p.2.codes ++ [0x22] } else p.2)) }
  else s

/-- A read of a block or a word that meets wrong symbols or bits (R267 to R269), by work (1) or by the scrubber (2). A
corrected word of the tables is written back and has no counter; the spec names no consequence of an uncorrectable one. -/
def readError (s : State) (found : Nat) (t : ScrubTarget) (bad : Nat) : State :=
  match t with
  | .lagoon b => hurtBuckets (scrubLagoon s found b (finding t bad)) (lagoonBase + 64 * b)
  | .hbm b => scrubHbm s found b (finding t bad)
  | .cayStore a => scrubStore s found a (finding t bad)
  | .poolCell a => scrubPoolCell s a.toNat (finding t bad)
  | .poolDesc a => scrubPoolDesc s a.toNat (finding t bad)
  | .table => s

/-- PATROL_SCRUB (R270): the scrubber's read of a block or a word, in which so many symbols or bits are wrong. With
MEM_SCRUB.HOURS 0 it is off. DEDUCED (log 105). -/
def execPatrolScrub (t : ScrubTarget) (bad : WrongSymbols) (s : State) : Res :=
  if getF s MEM_SCRUB_HOURS = 0 then .next s else .next (readError s 2 t bad.val)

end Sys2Proof.Machine
end

