-- ==== Sys2Proof/Machine/Slots.lean ====
section
/-! DEFINITION. The slots of the egress ports: one block time of a torus or access egress (R221 to R229), and what moves
on once an egress has room again. -/

namespace Sys2Proof.Machine

/-- A cell is consumed by what its type and operation do (Table 7-3); an ADMIT that finds no entry and an OPEN that finds no
place in the queue stay where they are (R229). -/
def consume (s : State) (p : Nat) (x : Cell) : Option State :=
  let ty := x.type.toNat
  if ty = tADMIT then admitArrives s p x
  else if isOp x tREQ 0x01 then openArrives s p x
  else some (
    if isGrant x .admitted then grantAdmitted s p x
    else if isGrant x .refused then grantRefused s p x
    else if isGrant x .release then grantRelease s p x
    else if isGrant x .done then grantDone s p x
    else if isGrant x .resend then grantResend s p x
    else if ty = tCAUSEWAY then cwFromArm s p x
    else if ty = tDATA_W32 ∨ ty = tDATA_S1 then armData s p x
    else if ty = tTRAILER then armTrailer s p x
    else if ty = tDATA_PARAM then (if isPlanCell s x then planTaken s p x else dataTaken s p x)
    else if ty = tPERMUTE then permCellTaken s p x
    else if ty = tBEACON then takeBeacon s p (payloadOf x)
    else if ty = tMGMT then takeMgmt s p x
    else if ty = tRSP ∧ x.echo then echoTaken s p x
    else if isOp x tREQ 0x02 then ferryAborted s p x
    else if isOp x tRSP 0x81 then ferryAccepted s p x
    else if isOp x tRSP 0x82 then ferryBusied s p x
    else if isOp x tRSP 0x83 then ferryWindowed s p x
    else if isOp x tRSP 0x84 then childFinished s p x
    else if isOp x tRSP 0x85 then readyTaken s p x
    else if isOp x tRSP 0x86 then completeTaken s p x
    else s)

/-- The head of an ejection queue, taken if it is on the die of its unit and can be; its ingress credit returns unless the link session it came by has
ended. -/
def ejectHead (s : State) (q : QCell) : State :=
  match q.src with
  | .ingress p =>
    match (if s.cells.contains q && (!crosses s q || q.bridged) then consume s p q.cell else none) with
    | none => s
    | some t => ejectedFrom { t with cells := unqueue t.now q t.cells } p q.sub q.owed q.bridged q.cell
  | _ => s

/-- The heads of the ejection queues, each tried once. -/
def ejectHeads (s : State) : State := (heads s ejectQ).foldl ejectHead s

/-- The cells that wait at ejection are consumed in their order, as far as they can be. -/
def ejectGo (s : State) : State :=
  (s.cells.filter (fun q => q.egress == ejectQ)).foldl (fun s _ => bridgeGo (ejectHeads s)) s

/-- One slot of an egress. Afterwards the streams and the COPYs use what has become free, and the
cells that wait at ejection are tried. -/
def egressSlot (e : EgressPort) (s : State) : Res :=
  if e.val < 6 then
    if portUp s e.val then .next (ejectGo (streamsGo (torusSlot s e.val))) else .next s
  else .next (ejectGo (copyGo (streamsGo (accSlot s (e.val - 6)))))

/-- EGRESS_SLOT (R92, R221), with the folds and conversions that it lets go on. -/
def execEgressSlot (e : EgressPort) (s : State) : Res := underUpsets s (egressSlot e)

end Sys2Proof.Machine
end

