-- ==== Sys2Proof/Machine/Bus.lean ====
section
/-! DEFINITION. Accesses to the register map (R13 to R19): the access codes of Table 0-7, register pairs and their shadows,
counters, computed reads, and the registers whose write has a meaning of its own. -/

namespace Sys2Proof.Machine

/-! ## Where an access goes -/

/-- The physical offset that an offset of a requester's own BAR0 names: a virtual function's windows are those of
Table 12-12; none where the function's BAR0 maps nothing there. -/
def physOff (s : State) (r : Requester) (off : Nat) : Option Nat :=
  match r with
  | .vf h n =>
    if off < 4 then some off
    else
      match vfCtx s h.val (n.val + 1) with
      | none => none
      | some c =>
        if 0x1000 ≤ off ∧ off < 0x1100 then some (CTX_JOB c + (off - 0x1000))
        else if 0x10000 ≤ off ∧ off < 0x11000 then some (QUE_RING_LO (16 * c) + (off - 0x10000))
        else
          let k := (off - 0x20000) / 0x20
          if 0x20000 ≤ off ∧ k < getF s (CTX_SYNC_COUNT c) then
            some (SYNC_VALUE_LO (getF s (CTX_SYNC_BASE c) + k) + (off - 0x20000) % 0x20)
          else none
  | _ => some off

/-- What an access meets at an offset of the requester's BAR0, and the physical offset. An offset that no block defines is
unmapped (R18); nothing lies past the 64 MiB of BAR0 (R13). DEDUCED (log 19). -/
def meets (s : State) (r : Requester) (off : Nat) : Reach × Nat :=
  match physOff s r off with
  | none => (if reach s r 0 = .absent then .absent else .unmapped, 0)
  | some p =>
    if 0x4000000 ≤ p then (.absent, p)
    else match reach s r p with
    | .yes => (if (regAt (p / 4 * 4)).isSome then .yes else .unmapped, p)
    | x => (x, p)

/-! ## Writes by access code (R16, R17) -/

/-- A write of one field: the state with the field's part of the value taken. -/
def writeField (off : Nat) (v : Word) (i j : Nat) (s : State) (f : RegField) : State :=
  let fld : Fld := ⟨off, f.hi, f.lo⟩
  let x := bits v.toNat f.hi f.lo
  match f.acc with
  | .ro => s
  | .wo => s
  | .rw => setF s fld x
  | .flag => setF s fld (getF s fld - (getF s fld &&& x))
  | .count => setF s fld (getF s fld - x)
  | .countLo => wr64 s off (rd64 s off - x)
  | .countHi => wr64 s (off - 4) (rd64 s (off - 4) - x * 2 ^ 32)
  | .qmax => if x = 0 then s else setF s fld (min (fldMax fld) (vcDepth s i j))

/-- A write by the access codes of a register's fields. -/
def writeFields (s : State) (off : Nat) (r : RegRow) (i j : Nat) (v : Word) : State :=
  r.fields.foldl (writeField off v i j) s

/-- A register of Table 10-11 that takes writes only while its context is CLOSED (R273). -/
def ctxSetting (b : Nat) : Bool :=
  [CTX_JOB 0, CTX_CFG 0, CTX_SYNC 0, CTX_CACHE 0, CTX_STEPREC_LO 0, CTX_STEPREC_HI 0].contains b

/-- A window register of a context (R260). -/
def windowReg (b : Nat) : Bool :=
  [MEM_CTX_HBM_WIN_BASE 0, MEM_CTX_HBM_WIN_SIZE 0, MEM_CTX_LAGOON_WIN 0, MEM_HOSTWIN_BASE_LO 0 0, MEM_HOSTWIN_BASE_HI 0 0,
   MEM_HOSTWIN_SIZE 0 0, MEM_HOSTWIN_CTRL 0 0].contains b

/-- A ring or mirror register of a queue (R300). -/
def ringReg (b : Nat) : Bool :=
  [QUE_RING_LO 0, QUE_RING_HI 0, QUE_SIZE 0, QUE_CPL_LO 0, QUE_CPL_HI 0, QUE_MIRROR_LO 0, QUE_MIRROR_HI 0].contains b

/-- A launch register of a Cay other than CAY_KL_CTRL (R330). -/
def launchReg (b : Nat) : Bool :=
  [CAY_KL_CTX 0, CAY_KL_IMAGE_LO 0, CAY_KL_IMAGE_HI 0, CAY_KL_CONST_LO 0, CAY_KL_CONST_HI 0, CAY_KL_ARG_LO 0 0,
   CAY_KL_ARG_HI 0 0].contains b

/-- A register of a context's page (Table 10-11). -/
def ctxPage (b : Nat) : Bool := decide (CTX_JOB 0 ≤ b) && decide (b < CTX_JOB 0 + 0x100)

/-- Whether the state lets a requester write a register, given by the base of its row and its first index. -/
def writable (s : State) (r : Requester) (b i : Nat) : Bool :=
  if isVf r && ctxPage b then b == CTX_EVENT 0
  else if ctxSetting b || windowReg b then !ctxLive s i
  else if ringReg b then !queOn s i && queActive s i == 0
  else if launchReg b then getF s (CAY_KL_STATE_STATE i) == 0 || getF s (CAY_KL_STATE_STATE i) == 3
  else true

/-- A write of FAB_RATE_LIMIT (R231): a cost of 0 stores 1. -/
def rateWrite (s : State) (v : Word) : State :=
  let s := wr s FAB_RATE_LIMIT v
  let s := if getF s FAB_RATE_LIMIT_VC0_COST = 0 then setF s FAB_RATE_LIMIT_VC0_COST 1 else s
  if getF s FAB_RATE_LIMIT_VC7_COST = 0 then setF s FAB_RATE_LIMIT_VC7_COST 1 else s

/-- The registers of the GLOBAL, QUEUE, SYNC, FABRIC, CAY and LANE blocks whose write has a meaning of its own. -/
def ownWrite (s : State) (r : Requester) (b i j : Nat) (v : Word) : Option State :=
  if b = GLOBAL_TORUS_DIM then some (torusDimWrite s v)
  else if b = GLOBAL_COORD then some (coordWrite s v)
  else if b = CTX_CTRL 0 then some (ctxCloseWrite (ctxOpenWrite s r i v) r i v)
  else if b = QUE_CTRL 0 then some (writeQueCtrl s i v)
  else if b = QUE_TAIL 0 then some (doorbell s i v)
  else if b = QUE_COMPAT_HOLD 0 then some (wr s (QUE_COMPAT_HOLD i) (BitVec.ofNat 32 (min 7500 v.toNat)))
  else if b = SYNC_POST 0 then some (post s i .add v.toNat 0)
  else if b = CAY_KL_CTRL 0 then some (klWrite s i v)
  else if b = LANE_PORT_CTRL 0 then some (lanePortWrite s i v)
  else if b = LANE_EYE_CTRL 0 0 then some (eyeWrite s i j v)
  else if b = FAB_RATE_LIMIT then some (rateWrite s v)
  else if b = ACC_CTRL 0 then some (accCtrlWrite s i v)
  else none

/-- The same for the HEALTH, POWER and TRUST blocks. -/
def ownWriteLate (s : State) (r : Requester) (b i : Nat) (v : Word) : Option State :=
  if b = HEALTH_KICK then some (if v.getLsbD 0 then kick s else s)
  else if b = HEALTH_CTRL then some (healthCtrlWrite s v)
  else if b = HEALTH_SELF_FENCE then some (selfFenceWrite s v)
  else if b = HEALTH_READMIT then some (readmitWrite s v)
  else if b = HEALTH_BEACON then some (beaconWrite s v)
  else if b = HEALTH_LEVEL then some (levelWrite s v)
  else if b = HEALTH_PORT_OWNER 0 then some (ownerNextWrite s i v)
  else if b = POWER_CAP then some (capWrite s v)
  else if b = POWER_VCORE_A then some (targetWrite s 0 v)
  else if b = POWER_VCORE_B then some (targetWrite s 1 v)
  else if b = TRUST_CTRL then some (trustCtrlWrite s v)
  else if b = TRUST_UPDATE_CTRL then some (updateGo s v)
  else if b = TRUST_ATTEST_CTRL then some (attestGo s v)
  else if b = TRUST_OWNER_CTRL then some (ownerWrite s r v)
  else none

/-- A write that reaches the register at a physical offset. DEDUCED (log 22). -/
def regWriteAt (s : State) (r : Requester) (off : Nat) (v : Word) : State :=
  match regAt off with
  | none => s
  | some (row, i, j) =>
    if off < HEALTH_CTRL then
      (ownWrite s r row.base i j v).getD (if writable s r row.base i then writeFields s off row i j v else s)
    else (ownWriteLate s r row.base i v).getD (writeFields s off row i j v)

/-- One 32-bit write: its effect where the register is reached, else the count of R18. -/
def writeWord (r : Requester) (off : Nat) (v : Word) (s : State) : State :=
  match meets s r off with
  | (.yes, p) => regWriteAt s r p v
  | (.unmapped, _) => bump s GLOBAL_UNMAPPED_COUNT_COUNT 1
  | (.absent, _) => s

/-- An access that R14 completes without effect, at an offset: counted where no block defines it (R18). -/
def idlePart (s : State) (r : Requester) (off : Nat) : State :=
  if (meets s r off).1 = .unmapped then bump s GLOBAL_UNMAPPED_COUNT_COUNT 1 else s

/-- The parts of a wide write, in ascending order; a part whose bytes are not all enabled has no effect (R14), and counts
at an offset that no block defines (R18). DEDUCED (log 21). -/
def writeWords (r : Requester) : Nat → List (Option Word) → State → State
  | _, [], s => s
  | off, some v :: vs, s => writeWords r (off + 4) vs (writeWord r off v s)
  | off, none :: vs, s => writeWords r (off + 4) vs (idlePart s r off)

/-! ## Reads -/

/-- The link of a port is its axis's dateline (R210): the one between positions L − 1 and 0. -/
def isDateline (s : State) (p : Nat) : Bool :=
  coordValid s && dimValid s &&
    (if portPlus p then axisPos (ownCoord s) (portAxis p) + 1 == axisLen s (portAxis p)
     else axisPos (ownCoord s) (portAxis p) == 0)

/-- The entries of the fence view with a bit set. -/
def viewCount (s : State) (bit_ : Nat) : Nat :=
  (s.regs.filter (fun p => decide (HEALTH_VIEW 0 ≤ p.1) && decide (p.1 < HEALTH_VIEW 0 + 0x20000) &&
    bit p.2.toNat bit_)).length

/-- CAY_RUN (Table 11-22): the Cay's work and its active streams. -/
def cayRun (s : State) (n : Nat) : Nat :=
  let m := cayAt s n
  let work := match m.call with | none => 0 | some c => if c.kernel then 2 else 1
  16 * (m.streams.filter (fun x => x.active)).length + work

/-- Moves of a die's prefetch engines (Table 9-11): waiting and active. -/
def prefetchWord (s : State) (d : Nat) : Nat :=
  let n := fun a => (s.moves.filter (fun m => m.die == d && m.active == a)).length
  65536 * min 65535 (n false) + n true

/-- Registers whose value is computed from the state. DESIGN CHOICE (log 13). -/
def computed (s : State) (b i j : Nat) (w : Nat) : Option Nat :=
  if b = QUE_FREE 0 then some (queFree s i % 2 ^ 17)
  else if b = QUE_ACTIVE 0 then some (queActive s i)
  else if b = CTX_ACTIVE 0 then some (ctxActive s i)
  else if b = FAB_RED_OPEN then some s.buckets.length
  else if b = FAB_PORT_QDEPTH 0 0 then some (w + min 2047 (vcDepth s i j))
  else if b = FAB_PORT_STATE 0 then
    some (w + (if peerFenced s i then 2 else 0) + (if isDateline s i then 4 else 0))
  else if b = FAB_CREDIT_STATUS then some (if creditsOk (ownCredits s) then 0 else 1)
  else if b = MEM_PREFETCH_A then some (prefetchWord s 0)
  else if b = MEM_PREFETCH_B then some (prefetchWord s 1)
  else if b = CAY_RUN 0 then some (cayRun s i)
  else if b = LAYER_USED then some s.layers.length
  else if b = LAYER_INCONSISTENT then some (s.layers.filter (fun p => jBroken s p.1)).length
  else if b = HEALTH_VIEW_SUMMARY then
    some (65536 * min 65535 (viewCount s 28 + viewCount s 29 + viewCount s 30) + viewCount s 31)
  else if b = HEALTH_SELF then
    some (if coordValid s then
      let e := (rd s (HEALTH_VIEW (ownCoord s))).toNat
      bits e 15 0 + bits e 27 24 * 2 ^ 24 + bits e 31 31 * 2 ^ 31
      else 0)
  else if b = HEALTH_BUDGET then some (w + 16 * min 15 (softUsed s))
  else none

/-- Bits that a sensor fills while the module has power (R428, Table 15-13): their range in the register.
DESIGN CHOICE (log 25). -/
def sensed (b : Nat) : Option (Nat × Nat) :=
  if b = POWER_INPUT then some (15, 0)
  else if b = POWER_TEMP then some (23, 16)
  else if b = POWER_RAIL 0 then some (31, 0)
  else none

/-- The low words of the 64-bit quantities (R15), by the base of their row. DEDUCED (log 20). -/
def pairLow (b : Nat) : Bool :=
  [FAB_PORT_TX_CELLS 0 0, FAB_PORT_RX_CELLS 0 0, FAB_PORT_STALL 0 0, MEM_ERR_LOG1, CTX_STEPREC_LO 0, QUE_RING_LO 0, QUE_CPL_LO 0,
   QUE_MIRROR_LO 0, SYNC_VALUE_LO 0, SYNC_NADDR_LO 0, CAY_TRAP2 0, CAY_KL_IMAGE_LO 0, CAY_KL_CONST_LO 0, CAY_KL_ARG_LO 0 0,
   LANE_PEER_SERIAL_LO 0, TEL_REFUSE_LOG1, TRUST_UPDATE_ADDR_LO, TRUST_ATTEST_ADDR_LO, TRUST_OWNER_ADDR_LO].contains b

/-- The shadow of a requester for the pair whose low word is at an offset. DEDUCED (log 20). -/
def shadowAt (s : State) (r : Requester) (off : Nat) : Option Word :=
  (s.shadows.find? (fun x => x.1 == r && x.2.1 == off)).map (fun x => x.2.2)

/-- A shadow filled anew. -/
def setShadow (s : State) (r : Requester) (off : Nat) (w : Word) : State :=
  { s with shadows := (r, off, w) :: s.shadows.filter (fun x => !(x.1 == r && x.2.1 == off)) }

/-- What the rails of Table 15-3 hold in mV, by rail from 2 on: their nominal values. -/
def railNominal : List Nat := [850, 850, 1100, 750, 1200, 1800, 1100, 400, 800, 1800, 3300]

/-- The lowest and the highest voltage of a rail (R428): PRESENT within 10 mV, or the nominal value within 2 %.
DESIGN CHOICE (log 25). -/
def railRange (s : State) (n : Nat) : Nat × Nat :=
  if n < 2 then
    let v := bits (rd s (vcoreReg n)).toNat 9 0
    (v - 10, v + 10)
  else
    let v := railNominal.getD (n - 2) 0
    (v * 98 / 100, v * 102 / 100)

/-- What POWER_RAIL_n reads: a free current, and a free voltage in the rail's range. DESIGN CHOICE (log 25). -/
def railWord (s : State) (n reading : Nat) : Word :=
  let r := railRange s n
  BitVec.ofNat 32 (bits reading 31 16 * 65536 + r.1 + reading % (r.2 + 1 - r.1))

/-- The present word of a register, computed where the state gives it. A sensor's bits are a free value.
DESIGN CHOICE (log 25). -/
def liveWord (s : State) (off : Nat) (row : RegRow) (i j : Nat) : State × Word :=
  let w := rd s off
  match sensed row.base with
  | some (hi, lo) =>
    let x := Config.reading s.free off
    ({ s with free := s.free + 1 }, if row.base = POWER_RAIL 0 then railWord s i x else putBits w hi lo x)
  | none => (s, match computed s row.base i j w.toNat with | some n => BitVec.ofNat 32 n | none => w)

/-- A read that reaches the register at a physical offset: a low word fills the requester's shadow of the high word, a
high word comes from the shadow where there is one (R15). DEDUCED (log 20). -/
def regReadAt (s : State) (r : Requester) (off : Nat) : State × Word :=
  match regAt off with
  | none => (s, 0)
  | some (row, i, j) =>
    let p := liveWord s off row i j
    if pairLow row.base then (setShadow p.1 r off (rd s (off + 4)), p.2)
    else
      match regAt (off - 4) with
      | some (low, _, _) => if pairLow low.base then (p.1, (shadowAt s r (off - 4)).getD p.2) else p
      | none => p

/-- One 32-bit read: what it returns, 0 where nothing is mapped. -/
def readWord (r : Requester) (off : Nat) (s : State) : State × Word :=
  match meets s r off with
  | (.yes, p) => regReadAt s r p
  | (.unmapped, _) => (bump s GLOBAL_UNMAPPED_COUNT_COUNT 1, 0)
  | (.absent, _) => (s, 0)

/-- The queue whose QUE_COMPAT_WAIT an access meets. DEDUCED (log 24). -/
def waitRead (s : State) (r : Requester) (off : Nat) : Option Nat :=
  match meets s r off with
  | (.yes, p) =>
    match regAt p with
    | some (row, i, _) => if row.base = QUE_COMPAT_WAIT 0 then some i else none
    | none => none
  | _ => none

/-- The parts of a wide read in ascending order, by whether all their bytes are enabled, and the words they return: a part
whose bytes are not all enabled returns 0 and has no effect (R14). A part that falls on QUE_COMPAT_WAIT is answered by
itself (R299). DEDUCED (log 21). DEDUCED (log 24). -/
def readWords (r : Requester) : Nat → List Bool → State → State × List Word
  | _, [], s => (s, [])
  | off, false :: en, s =>
    let q := readWords r (off + 4) en (idlePart s r off)
    (q.1, 0 :: q.2)
  | off, true :: en, s =>
    match waitRead s r off with
    | some k => readWords r (off + 4) en (compatRead s k r)
    | none =>
      let p := readWord r off s
      let q := readWords r (off + 4) en p.1
      (q.1, p.2 :: q.2)

/-- A read's data goes back to the requester. -/
def answerRead (r : Requester) (p : State × List Word) : State := if p.2.isEmpty then p.1 else emit p.1 (.readData r p.2)

/-! ## The rows -/

/-- An access is decoded at all: a host's from READY on, a session's while it is open (R408, R423).
DEDUCED (log 23). -/
def decoded (s : State) (r : Requester) : Bool := reach s r 0 != .absent

/-- A read of one 32-bit word for each part; not decoded, nothing answers. -/
def readParts (s : State) (r : Requester) (off : Nat) (en : List Bool) : State :=
  if decoded s r then answerRead r (readWords r off en s) else s

/-- REGISTER_WRITE (R14, R16): an aligned write of 32 bits or more. An unaligned one is a NARROW_ACCESS.
DEDUCED (log 19). -/
def execRegisterWrite (r : Requester) (off : Word) (vs : List (Option Word)) (s : State) : Res :=
  if off.toNat % 4 ≠ 0 then .next s else .next (writeWords r off.toNat vs s)

/-- REGISTER_PAIR_LOW_READ (R14, R15): an aligned read of 32-bit words, with their byte enables. -/
def execRegisterPairLowRead (r : Requester) (off : Word) (en : List Bool) (s : State) : Res :=
  if off.toNat % 4 ≠ 0 then .next s else .next (readParts s r off.toNat en)

/-- UNMAPPED_ACCESS (R18): a 32-bit access, counted where no block defines its offset. -/
def execUnmappedAccess (r : Requester) (off : Word) (v : Option Word) (s : State) : Res :=
  if off.toNat % 4 ≠ 0 then .next s
  else
    match v with
    | some w => .next (writeWord r off.toNat w s)
    | none => .next (readParts s r off.toNat [true])

/-- NARROW_ACCESS (R14, R18): a host access narrower than 32 bits or not aligned has no effect, a read returns 0; at an
offset that no block defines it is counted once. DEDUCED (log 21). -/
def execNarrowAccess (r : Requester) (off : Word) (len : Nat) (wr : Bool) (s : State) : Res :=
  if off.toNat % 4 = 0 ∧ len % 4 = 0 ∧ 0 < len then .next s
  else if !decoded s r then .next s
  else
    let s := idlePart s r off.toNat
    .next (if wr then s else emit s (.readData r [0]))

end Sys2Proof.Machine
end

