-- ==== Sys2Proof/Machine/Manage.lean ====
section
/-! DEFINITION. The management port: sessions and their messages (R422 to R424). -/

namespace Sys2Proof.Machine

/-- What a CertificateVerify signs (RFC 8446): 64 spaces, `TLS 1.3, client CertificateVerify` or the same with `server`, a
zero and the transcript hash. DESIGN CHOICE (log 137). -/
def verifyContent (server : Bool) (hash : List Byte) : List Byte :=
  List.replicate 64 0x20 ++ ascii [0x54, 0x4C, 0x53, 0x20, 0x31, 0x2E, 0x33, 0x2C, 0x20] ++
    ascii (if server then [0x73, 0x65, 0x72, 0x76, 0x65, 0x72] else [0x63, 0x6C, 0x69, 0x65, 0x6E, 0x74]) ++
    ascii [0x20, 0x43, 0x65, 0x72, 0x74, 0x69, 0x66, 0x69, 0x63, 0x61, 0x74, 0x65, 0x56, 0x65, 0x72, 0x69, 0x66, 0x79, 0] ++ hash

/-- What a cluster manager's handshake must show (R422): TLS 1.3 with the parameters supported, a chain that ends in the
owner's root certificate, and a signature of the transcript under its own certificate's key (R404).
DESIGN CHOICE (log 137). -/
def offerOk (s : State) (t : TlsOffer) : Bool :=
  t.tls13 && t.suiteOk && t.groupOk && t.schemeOk && s.rpa.ownerSet && chainSigned t.chain &&
    (match t.chain.head?, t.chain.getLast? with
      | some own, some root =>
        sha512 root.der == s.rpa.ownerDigest && pssVerify own.modulus (verifyContent false t.clientHash) t.verify
      | _, _ => false)

/-- TLS_HANDSHAKE (R422): the management port runs in READY while the reference does; the module presents its
certificates and signs its own CertificateVerify, after the reports asked for before it (R413). DEDUCED (log 34). -/
def execTlsHandshake (m : Nat) (t : TlsOffer) (s : State) : Res :=
  if s.sessions.contains m ∨ getF s TRUST_STATE_STATE ≠ 3 ∨ s.power.refLost then .next s
  else if offerOk s t then
    let s := signAll s
    let s := emit { s with sessions := s.sessions ++ [m] }
      (.certVerify m (ownCerts s) (identitySign s (verifyContent true t.serverHash)))
    .next (emit { s with free := s.free + 1 } (.session m true))
  else .next (emit s (.session m false))

/-- The session is open. -/
def inSession (s : State) (m : Nat) (f : State → State) : Res := if s.sessions.contains m then .next (f s) else .next s

/-- One write of a session: as the physical function's, and none at an unaligned offset (R14). -/
def sessionWrite (m : Nat) (s : State) (x : Word × Word) : State :=
  if x.1.toNat % 4 = 0 then writeWord (.mgmt m) x.1.toNat x.2 s
  else idlePart s (.mgmt m) x.1.toNat

/-- REG_WRITE (R423): the writes in order, then the reply. -/
def execRegWrite (m : Nat) (ws : List (Word × Word)) (s : State) : Res :=
  inSession s m (fun s =>
    let s := ws.foldl (sessionWrite m) s
    if s.sessions.contains m then reply s m 0x90 [] else s)

/-- One read of a session. -/
def sessionRead (m : Nat) (s : State) (off : Word) : State × Word :=
  if off.toNat % 4 = 0 then readWord (.mgmt m) off.toNat s
  else (idlePart s (.mgmt m) off.toNat, 0)

/-- The reads of a message in order, and their bytes. -/
def sessionReads (m : Nat) : List Word → State → State × List Byte
  | [], s => (s, [])
  | o :: os, s =>
    let p := sessionRead m s o
    let q := sessionReads m os p.1
    (q.1, natLe 4 p.2.toNat ++ q.2)

/-- REG_READ (R423). -/
def execRegRead (m : Nat) (offs : List Word) (s : State) : Res :=
  inSession s m (fun s =>
    let p := sessionReads m offs s
    reply p.1 m 0x91 p.2)

/-- ATTEST (R423): a CHALLENGE; the reply is the report, once it is signed. A body that is no CHALLENGE is answered with an
empty one. DEDUCED (log 33). -/
def execAttest (m : Nat) (ch : List Byte) (s : State) : Res :=
  inSession s m (fun s =>
    if challengeOk ch && ch.length == 48 then
      askSign { s with replies := s.replies ++ [(m, none)] } (.session m) (challengeNonce ch)
    else reply s m 0x92 [])

/-- IMAGE (R423): bytes of an image at an offset; more than 16,384 are not kept. DEDUCED (log 33). -/
def execImageData (m : Nat) (off : Word) (data : List Byte) (s : State) : Res :=
  inSession s m (fun s =>
    if 16384 < data.length then reply s m 0x93 []
    else reply { s with image := s.image ++ [(m, off.toNat, data)] } m 0x93 [])

/-- A byte of an image: of the last message that carried it. -/
def imageByte (ps : List (Nat × List Byte)) (i : Nat) : Option Byte :=
  match ps.reverse.find? (fun p => decide (p.1 ≤ i) && decide (i < p.1 + p.2.length)) with
  | some p => p.2[i - p.1]?
  | none => none

/-- The image of a session, none where a byte has not come. -/
def imageOf (s : State) (m n : Nat) : Option (List Byte) :=
  let ps := (s.image.filter (fun x => x.1 == m)).map (fun x => x.2)
  (List.range n).mapM (imageByte ps)

/-- The update that IMAGE_END asks for: its result, and the state after it. DEDUCED (log 33). -/
def imageUpdate (s : State) (m n : Nat) (flashOk : Bool) : State × Nat :=
  if getF s TRUST_UPDATE_STATUS_STATE = 1 then (s, 6)
  else if 0x1000000 < n then (s, 4)
  else
    match imageOf s m n with
    | none => (s, 4)
    | some bs =>
      let s := if s.power.low54 then s else eraseHeader s (updateSlot s)
      let r := writeImage s bs flashOk
      (updateEnd r.1 r.2, r.2)

/-- IMAGE_END (R417, R423): the image is whole; the update runs, and the reply carries its result. -/
def execImageEnd (m : Nat) (len : Word) (flashOk : Bool) (s : State) : Res :=
  inSession s m (fun s =>
    let r := imageUpdate s m len.toNat flashOk
    reply { r.1 with image := r.1.image.filter (fun x => x.1 != m) } m 0x94 (natLe 1 r.2))

/-- RELEASE_OWNER (R423): OWNER_SET becomes 0 when the session closes. DEDUCED (log 102). -/
def execReleaseOwner (m : Nat) (s : State) : Res :=
  inSession s m (fun s => reply (if s.releases.contains m then s else { s with releases := s.releases ++ [m] }) m 0x95 [])

/-- MGMT_SESSION_CLOSE (R423). -/
def execMgmtSessionClose (m : Nat) (s : State) : Res := inSession s m (fun s => endSession s m)

end Sys2Proof.Machine
end

