-- ==== Sys2Proof/Machine/Dispatch.lean ====
section
/-! DEFINITION. The machine's one match: each command's meaning is called directly. -/

namespace Sys2Proof.Machine

/-- What a command does to everything but the queue of waiting commands. DEDUCED (log 6). -/
def exec (i : Instr) (s : State) : Host.Outcome State Fault Refusal :=
  match i with
  | .bucketOpen c q ix => Sys2Proof.Machine.execBucketOpen c q ix s
  | .reduce c q ix => Sys2Proof.Machine.execReduce c q ix s
  | .gather c q ix => Sys2Proof.Machine.execGather c q ix s
  | .ferrySend c q ix => Sys2Proof.Machine.execFerrySend c q ix s
  | .permute c q ix => Sys2Proof.Machine.execPermute c q ix s
  | .causewayOp c q ix => Sys2Proof.Machine.execCausewayOp c q ix s
  | .layerBind c q ix => Sys2Proof.Machine.execLayerBind c q ix s
  | .updateProgramLoad c q ix => Sys2Proof.Machine.execUpdateProgramLoad c q ix s
  | .retain c q ix => Sys2Proof.Machine.execRetain c q ix s
  | .release c q ix => Sys2Proof.Machine.execRelease c q ix s
  | .signalWait c q ix => Sys2Proof.Machine.execSignalWait c q ix s
  | .signalPost c q ix => Sys2Proof.Machine.execSignalPost c q ix s
  | .fenceQuery c q ix => Sys2Proof.Machine.execFenceQuery c q ix s
  | .stepClose c q ix => Sys2Proof.Machine.execStepClose c q ix s
  | .copy c q ix => Sys2Proof.Machine.execCopy c q ix s
  | .doorbell r c q v => Sys2Proof.Machine.execDoorbell r c q v s
  | .commandFetch c q gen data => Sys2Proof.Machine.execCommandFetch c q gen data s
  | .commandStart c q ix => Sys2Proof.Machine.execCommandStart c q ix s
  | .commandComplete c q ix => Sys2Proof.Machine.execCommandComplete c q ix s
  | .mirrorWrite c q => Sys2Proof.Machine.execMirrorWrite c q s
  | .compatBlockingDoorbell r c q => Sys2Proof.Machine.execCompatBlockingDoorbell r c q s
  | .compatHoldExpiry c q => Sys2Proof.Machine.execCompatHoldExpiry c q s
  | .queueEnable r c q v => Sys2Proof.Machine.execQueueEnable r c q v s
  | .queueDisable r c q v => Sys2Proof.Machine.execQueueDisable r c q v s
  | .mirrorEnable r c q v => Sys2Proof.Machine.execMirrorEnable r c q v s
  | .ctxOpen r c v => Sys2Proof.Machine.execCtxOpen r c v s
  | .ctxClose r c v => Sys2Proof.Machine.execCtxClose r c v s
  | .ctxClosed c => Sys2Proof.Machine.execCtxClosed c s
  | .syncPost r o v => Sys2Proof.Machine.execSyncPost r o v s
  | .syncNotify o => Sys2Proof.Machine.execSyncNotify o s
  | .globalTorusDimWrite r v => Sys2Proof.Machine.execGlobalTorusDimWrite r v s
  | .globalCoordWrite r v => Sys2Proof.Machine.execGlobalCoordWrite r v s
  | .registerWrite r off vs => Sys2Proof.Machine.execRegisterWrite r off vs s
  | .registerPairLowRead r off en => Sys2Proof.Machine.execRegisterPairLowRead r off en s
  | .unmappedAccess r off wr => Sys2Proof.Machine.execUnmappedAccess r off wr s
  | .narrowAccess r off len wr => Sys2Proof.Machine.execNarrowAccess r off len wr s
  | .cayKlStart r n v => Sys2Proof.Machine.execCayKlStart r n v s
  | .cayKlAbort r n v => Sys2Proof.Machine.execCayKlAbort r n v s
  | .kernelRun n => Sys2Proof.Machine.execKernelRun n s
  | .laneEyeStart r p l v => Sys2Proof.Machine.execLaneEyeStart r p l v s
  | .eyeScanDone p l count => Sys2Proof.Machine.execEyeScanDone p l count s
  | .lanePortEnable r p v => Sys2Proof.Machine.execLanePortEnable r p v s
  | .accEnable r a v => Sys2Proof.Machine.execAccEnable r a v s
  | .healthKick r v => Sys2Proof.Machine.execHealthKick r v s
  | .selfFenceSelf r v => Sys2Proof.Machine.execSelfFenceSelf r v s
  | .selfFenceManager r v => Sys2Proof.Machine.execSelfFenceManager r v s
  | .healthReadmitRequest r v => Sys2Proof.Machine.execHealthReadmitRequest r v s
  | .healthPortOwnerWrite r a v => Sys2Proof.Machine.execHealthPortOwnerWrite r a v s
  | .portSwitch a => Sys2Proof.Machine.execPortSwitch a s
  | .healthBeaconWrite r v => Sys2Proof.Machine.execHealthBeaconWrite r v s
  | .healthLevelWrite r v => Sys2Proof.Machine.execHealthLevelWrite r v s
  | .confirm r v => Sys2Proof.Machine.execConfirm r v s
  | .moduleReset r v => Sys2Proof.Machine.execModuleReset r v s
  | .trustUpdateGo r v => Sys2Proof.Machine.execTrustUpdateGo r v s
  | .imageUpdateDone hostOk flashOk => Sys2Proof.Machine.execImageUpdateDone hostOk flashOk s
  | .trustAttestGo r v => Sys2Proof.Machine.execTrustAttestGo r v s
  | .attestationComplete => Sys2Proof.Machine.execAttestationComplete s
  | .trustOwnerSet r v => Sys2Proof.Machine.execTrustOwnerSet r v s
  | .powerCapWrite r v => Sys2Proof.Machine.execPowerCapWrite r v s
  | .vcoreTargetWrite r d v => Sys2Proof.Machine.execVcoreTargetWrite r d v s
  | .poolAllocate d u charge => Sys2Proof.Machine.execPoolAllocate d u charge s
  | .poolShare a u k l => Sys2Proof.Machine.execPoolShare a u k l s
  | .poolDrop a u => Sys2Proof.Machine.execPoolDrop a u s
  | .poolFree a u chain => Sys2Proof.Machine.execPoolFree a u chain s
  | .cellForward p x => Sys2Proof.Machine.execCellForward p x s
  | .dataW32 p x => Sys2Proof.Machine.execDataW32 p x s
  | .dataS1 p x => Sys2Proof.Machine.execDataS1 p x s
  | .trailerCell p x => Sys2Proof.Machine.execTrailerCell p x s
  | .admitCell p x => Sys2Proof.Machine.execAdmitCell p x s
  | .grantAdmitted p x => Sys2Proof.Machine.execGrantAdmitted p x s
  | .grantRefused p x => Sys2Proof.Machine.execGrantRefused p x s
  | .grantRelease p x => Sys2Proof.Machine.execGrantRelease p x s
  | .grantDone p x => Sys2Proof.Machine.execGrantDone p x s
  | .grantResend p x => Sys2Proof.Machine.execGrantResend p x s
  | .causewayCell p x => Sys2Proof.Machine.execCausewayCell p x s
  | .ferryOpen p x => Sys2Proof.Machine.execFerryOpen p x s
  | .streamSlotTaken d k => Sys2Proof.Machine.execStreamSlotTaken d k s
  | .ferryAbort p x => Sys2Proof.Machine.execFerryAbort p x s
  | .ferryAccept p x => Sys2Proof.Machine.execFerryAccept p x s
  | .ferryBusy p x => Sys2Proof.Machine.execFerryBusy p x s
  | .ferryWindow p x => Sys2Proof.Machine.execFerryWindow p x s
  | .ferryFinished p x => Sys2Proof.Machine.execFerryFinished p x s
  | .dataParam p x => Sys2Proof.Machine.execDataParam p x s
  | .permuteReady p x => Sys2Proof.Machine.execPermuteReady p x s
  | .permuteCell p x => Sys2Proof.Machine.execPermuteCell p x s
  | .permuteComplete p x => Sys2Proof.Machine.execPermuteComplete p x s
  | .ecnEcho p x => Sys2Proof.Machine.execEcnEcho p x s
  | .creditCell p x => Sys2Proof.Machine.execCreditCell p x s
  | .beaconCell p x => Sys2Proof.Machine.execBeaconCell p x s
  | .mgmtCell p x => Sys2Proof.Machine.execMgmtCell p x s
  | .echoGap d src job vc => Sys2Proof.Machine.execEchoGap d src job vc s
  | .limiterRecover => Sys2Proof.Machine.execLimiterRecover s
  | .cellAged e => Sys2Proof.Machine.execCellAged e s
  | .creditDue p => Sys2Proof.Machine.execCreditDue p s
  | .ferryBusyRetry k => Sys2Proof.Machine.execFerryBusyRetry k s
  | .admitTimeout b => Sys2Proof.Machine.execAdmitTimeout b s
  | .deadline b => Sys2Proof.Machine.execDeadline b s
  | .armDeadline b p => Sys2Proof.Machine.execArmDeadline b p s
  | .errorMemoryPrefetchDone b => Sys2Proof.Machine.execErrorMemoryPrefetchDone b s
  | .errorMemoryWritebackDone c k => Sys2Proof.Machine.execErrorMemoryWritebackDone c k s
  | .updateStart l => Sys2Proof.Machine.execUpdateStart l s
  | .taskApply l t => Sys2Proof.Machine.execTaskApply l t s
  | .matrixPhaseDone l => Sys2Proof.Machine.execMatrixPhaseDone l s
  | .layerStatePresent l => Sys2Proof.Machine.execLayerStatePresent l s
  | .layerStateTimeout l => Sys2Proof.Machine.execLayerStateTimeout l s
  | .layerWritebackDone l => Sys2Proof.Machine.execLayerWritebackDone l s
  | .streamComplete n k => Sys2Proof.Machine.execStreamComplete n k s
  | .klimitExceeded n => Sys2Proof.Machine.execKlimitExceeded n s
  | .addD n w => Sys2Proof.Machine.execAddD n w s
  | .subD n w => Sys2Proof.Machine.execSubD n w s
  | .addW n w => Sys2Proof.Machine.execAddW n w s
  | .subW n w => Sys2Proof.Machine.execSubW n w s
  | .sAnd n w => Sys2Proof.Machine.execSAnd n w s
  | .sOr n w => Sys2Proof.Machine.execSOr n w s
  | .sXor n w => Sys2Proof.Machine.execSXor n w s
  | .mulD n w => Sys2Proof.Machine.execMulD n w s
  | .mulW n w => Sys2Proof.Machine.execMulW n w s
  | .shlD n w => Sys2Proof.Machine.execShlD n w s
  | .shrD n w => Sys2Proof.Machine.execShrD n w s
  | .sarD n w => Sys2Proof.Machine.execSarD n w s
  | .shliD n w => Sys2Proof.Machine.execShliD n w s
  | .shriD n w => Sys2Proof.Machine.execShriD n w s
  | .sariD n w => Sys2Proof.Machine.execSariD n w s
  | .minD n w => Sys2Proof.Machine.execMinD n w s
  | .maxD n w => Sys2Proof.Machine.execMaxD n w s
  | .minuD n w => Sys2Proof.Machine.execMinuD n w s
  | .maxuD n w => Sys2Proof.Machine.execMaxuD n w s
  | .pselD n w => Sys2Proof.Machine.execPselD n w s
  | .addiD n w => Sys2Proof.Machine.execAddiD n w s
  | .addiW n w => Sys2Proof.Machine.execAddiW n w s
  | .andi n w => Sys2Proof.Machine.execAndi n w s
  | .ori n w => Sys2Proof.Machine.execOri n w s
  | .xori n w => Sys2Proof.Machine.execXori n w s
  | .lui n w => Sys2Proof.Machine.execLui n w s
  | .ceq n w => Sys2Proof.Machine.execCeq n w s
  | .cne n w => Sys2Proof.Machine.execCne n w s
  | .clt n w => Sys2Proof.Machine.execClt n w s
  | .cge n w => Sys2Proof.Machine.execCge n w s
  | .cltu n w => Sys2Proof.Machine.execCltu n w s
  | .cgeu n w => Sys2Proof.Machine.execCgeu n w s
  | .pand n w => Sys2Proof.Machine.execPand n w s
  | .por n w => Sys2Proof.Machine.execPor n w s
  | .pxor n w => Sys2Proof.Machine.execPxor n w s
  | .pnot n w => Sys2Proof.Machine.execPnot n w s
  | .beqD n w => Sys2Proof.Machine.execBeqD n w s
  | .bneD n w => Sys2Proof.Machine.execBneD n w s
  | .bltD n w => Sys2Proof.Machine.execBltD n w s
  | .bgeD n w => Sys2Proof.Machine.execBgeD n w s
  | .bltuD n w => Sys2Proof.Machine.execBltuD n w s
  | .bgeuD n w => Sys2Proof.Machine.execBgeuD n w s
  | .bp n w => Sys2Proof.Machine.execBp n w s
  | .bnp n w => Sys2Proof.Machine.execBnp n w s
  | .jal n w => Sys2Proof.Machine.execJal n w s
  | .jalr n w => Sys2Proof.Machine.execJalr n w s
  | .nop n w => Sys2Proof.Machine.execNop n w s
  | .ret n w => Sys2Proof.Machine.execRet n w s
  | .rdkc n w => Sys2Proof.Machine.execRdkc n w s
  | .wrkc n w => Sys2Proof.Machine.execWrkc n w s
  | .trap n w => Sys2Proof.Machine.execTrap n w s
  | .ld n w => Sys2Proof.Machine.execLd n w s
  | .ldu n w => Sys2Proof.Machine.execLdu n w s
  | .st n w => Sys2Proof.Machine.execSt n w s
  | .vld n w => Sys2Proof.Machine.execVld n w s
  | .vst n w => Sys2Proof.Machine.execVst n w s
  | .ald n w => Sys2Proof.Machine.execAld n w s
  | .ast n w => Sys2Proof.Machine.execAst n w s
  | .vfadd n w => Sys2Proof.Machine.execVfadd n w s
  | .vfsub n w => Sys2Proof.Machine.execVfsub n w s
  | .vfmul n w => Sys2Proof.Machine.execVfmul n w s
  | .vfdiv n w => Sys2Proof.Machine.execVfdiv n w s
  | .vfsqrt n w => Sys2Proof.Machine.execVfsqrt n w s
  | .vffma n w => Sys2Proof.Machine.execVffma n w s
  | .vfmin n w => Sys2Proof.Machine.execVfmin n w s
  | .vfmax n w => Sys2Proof.Machine.execVfmax n w s
  | .vfabs n w => Sys2Proof.Machine.execVfabs n w s
  | .vfneg n w => Sys2Proof.Machine.execVfneg n w s
  | .vfeq n w => Sys2Proof.Machine.execVfeq n w s
  | .vflt n w => Sys2Proof.Machine.execVflt n w s
  | .vfle n w => Sys2Proof.Machine.execVfle n w s
  | .vadd n w => Sys2Proof.Machine.execVadd n w s
  | .vsub n w => Sys2Proof.Machine.execVsub n w s
  | .vmul n w => Sys2Proof.Machine.execVmul n w s
  | .vand n w => Sys2Proof.Machine.execVand n w s
  | .vor n w => Sys2Proof.Machine.execVor n w s
  | .vxor n w => Sys2Proof.Machine.execVxor n w s
  | .vshl n w => Sys2Proof.Machine.execVshl n w s
  | .vshr n w => Sys2Proof.Machine.execVshr n w s
  | .vsar n w => Sys2Proof.Machine.execVsar n w s
  | .vmin n w => Sys2Proof.Machine.execVmin n w s
  | .vmax n w => Sys2Proof.Machine.execVmax n w s
  | .vminu n w => Sys2Proof.Machine.execVminu n w s
  | .vmaxu n w => Sys2Proof.Machine.execVmaxu n w s
  | .veq n w => Sys2Proof.Machine.execVeq n w s
  | .vlt n w => Sys2Proof.Machine.execVlt n w s
  | .vsel n w => Sys2Proof.Machine.execVsel n w s
  | .vbcast n w => Sys2Proof.Machine.execVbcast n w s
  | .vext n w => Sys2Proof.Machine.execVext n w s
  | .vins n w => Sys2Proof.Machine.execVins n w s
  | .vmov n w => Sys2Proof.Machine.execVmov n w s
  | .vcvt n w => Sys2Proof.Machine.execVcvt n w s
  | .vcvtw n w => Sys2Proof.Machine.execVcvtw n w s
  | .vcvtn n w => Sys2Proof.Machine.execVcvtn n w s
  | .aclr n w => Sys2Proof.Machine.execAclr n w s
  | .vacc n w => Sys2Proof.Machine.execVacc n w s
  | .vsqacc n w => Sys2Proof.Machine.execVsqacc n w s
  | .aadd n w => Sys2Proof.Machine.execAadd n w s
  | .afcvtW n w => Sys2Proof.Machine.execAfcvtW n w s
  | .afcvtD n w => Sys2Proof.Machine.execAfcvtD n w s
  | .tclrL8 n w => Sys2Proof.Machine.execTclrL8 n w s
  | .tclrL16 n w => Sys2Proof.Machine.execTclrL16 n w s
  | .tmacL8 n w => Sys2Proof.Machine.execTmacL8 n w s
  | .tmacL16 n w => Sys2Proof.Machine.execTmacL16 n w s
  | .tmovA n w => Sys2Proof.Machine.execTmovA n w s
  | .tmovW n w => Sys2Proof.Machine.execTmovW n w s
  | .tmovD n w => Sys2Proof.Machine.execTmovD n w s
  | .tnormA n w => Sys2Proof.Machine.execTnormA n w s
  | .xgather n w => Sys2Proof.Machine.execXgather n w s
  | .xscatter n w => Sys2Proof.Machine.execXscatter n w s
  | .xcopy n w => Sys2Proof.Machine.execXcopy n w s
  | .xpref n w => Sys2Proof.Machine.execXpref n w s
  | .xwait n w => Sys2Proof.Machine.execXwait n w s
  | .cayHang n => Sys2Proof.Machine.execCayHang n s
  | .spareInService n => Sys2Proof.Machine.execSpareInService n s
  | .scoreDecay => Sys2Proof.Machine.execScoreDecay s
  | .beaconDue p => Sys2Proof.Machine.execBeaconDue p s
  | .beaconMiss p => Sys2Proof.Machine.execBeaconMiss p s
  | .watchdogExpiry => Sys2Proof.Machine.execWatchdogExpiry s
  | .challenge p src tag => Sys2Proof.Machine.execChallenge p src tag s
  | .identity p src tag => Sys2Proof.Machine.execIdentity p src tag s
  | .challengeResend p => Sys2Proof.Machine.execChallengeResend p s
  | .mgmtAssemblyTimeout src tag => Sys2Proof.Machine.execMgmtAssemblyTimeout src tag s
  | .readmitTimeout p => Sys2Proof.Machine.execReadmitTimeout p s
  | .dieBridgeFail => Sys2Proof.Machine.execDieBridgeFail s
  | .linkIdle p ack => Sys2Proof.Machine.execLinkIdle p ack s
  | .linkNak p ack idx => Sys2Proof.Machine.execLinkNak p ack idx s
  | .linkTrain p u => Sys2Proof.Machine.execLinkTrain p u s
  | .linkStep p rate => Sys2Proof.Machine.execLinkStep p rate s
  | .linkDown p cause => Sys2Proof.Machine.execLinkDown p cause s
  | .idleRow p act laneOrder => Sys2Proof.Machine.execIdleRow p act laneOrder s
  | .idleRowDue p => Sys2Proof.Machine.execIdleRowDue p s
  | .controlUnitDue p => Sys2Proof.Machine.execControlUnitDue p s
  | .laneRetryTimeout p => Sys2Proof.Machine.execLaneRetryTimeout p s
  | .lockLoss p l badBlock => Sys2Proof.Machine.execLockLoss p l badBlock s
  | .bringupPhaseTimeout p => Sys2Proof.Machine.execBringupPhaseTimeout p s
  | .qualifyDone p => Sys2Proof.Machine.execQualifyDone p s
  | .lanePortUp p => Sys2Proof.Machine.execLanePortUp p s
  | .lanePortDown p cause => Sys2Proof.Machine.execLanePortDown p cause s
  | .cellsFrame a h cells => Sys2Proof.Machine.execCellsFrame a h cells s
  | .memData a h tag ok data => Sys2Proof.Machine.execMemData a h tag ok data s
  | .memWrite a f => Sys2Proof.Machine.execMemWrite a f s
  | .memRead a h => Sys2Proof.Machine.execMemRead a h s
  | .paceFrame a h => Sys2Proof.Machine.execPaceFrame a h s
  | .neighborSolicitation a peer target => Sys2Proof.Machine.execNeighborSolicitation a peer target s
  | .echoRequest a peer target body => Sys2Proof.Machine.execEchoRequest a peer target body s
  | .lldpFrame a peer chassis => Sys2Proof.Machine.execLldpFrame a peer chassis s
  | .foreignFrame a badFcs => Sys2Proof.Machine.execForeignFrame a badFcs s
  | .frameAckDue a => Sys2Proof.Machine.execFrameAckDue a s
  | .accRto a => Sys2Proof.Machine.execAccRto a s
  | .accMemTimeout a tag => Sys2Proof.Machine.execAccMemTimeout a tag s
  | .accessLinkUp a rate => Sys2Proof.Machine.execAccessLinkUp a rate s
  | .hostLinkDown h => Sys2Proof.Machine.execHostLinkDown h s
  | .hostLinkUp h gen width => Sys2Proof.Machine.execHostLinkUp h gen width s
  | .vfFlr h n => Sys2Proof.Machine.execVfFlr h n s
  | .pfFlr h => Sys2Proof.Machine.execPfFlr h s
  | .perst h => Sys2Proof.Machine.execPerst h s
  | .configRequest h fn w => Sys2Proof.Machine.execConfigRequest h fn w s
  | .tlsHandshake m t => Sys2Proof.Machine.execTlsHandshake m t s
  | .regWrite m ws => Sys2Proof.Machine.execRegWrite m ws s
  | .regRead m offs => Sys2Proof.Machine.execRegRead m offs s
  | .attest m ch => Sys2Proof.Machine.execAttest m ch s
  | .imageData m off data => Sys2Proof.Machine.execImageData m off data s
  | .imageEnd m len flashOk => Sys2Proof.Machine.execImageEnd m len flashOk s
  | .releaseOwner m => Sys2Proof.Machine.execReleaseOwner m s
  | .mgmtSessionClose m => Sys2Proof.Machine.execMgmtSessionClose m s
  | .resetRelease b => Sys2Proof.Machine.execResetRelease b s
  | .trialTimeout => Sys2Proof.Machine.execTrialTimeout s
  | .rangeZeroed base => Sys2Proof.Machine.execRangeZeroed base s
  | .patrolScrub t f => Sys2Proof.Machine.execPatrolScrub t f s
  | .powerStart st => Sys2Proof.Machine.execPowerStart st s
  | .railGoodTimeout rail => Sys2Proof.Machine.execRailGoodTimeout rail s
  | .modEnLow => Sys2Proof.Machine.execModEnLow s
  | .inputLow => Sys2Proof.Machine.execInputLow s
  | .inputHigh => Sys2Proof.Machine.execInputHigh s
  | .thermal => Sys2Proof.Machine.execThermal s
  | .converter => Sys2Proof.Machine.execConverter s
  | .vinBelow56 => Sys2Proof.Machine.execVinBelow56 s
  | .vinBelow54 => Sys2Proof.Machine.execVinBelow54 s
  | .vinBelow40 => Sys2Proof.Machine.execVinBelow40 s
  | .powerLoop watts tjA tjB => Sys2Proof.Machine.execPowerLoop watts tjA tjB s
  | .powerFastStep watts => Sys2Proof.Machine.execPowerFastStep watts s
  | .refLost => Sys2Proof.Machine.execRefLost s
  | .refRestored => Sys2Proof.Machine.execRefRestored s
  | .linkCheckFail p f => Sys2Proof.Machine.execLinkCheckFail p f s
  | .egressSlot e => Sys2Proof.Machine.execEgressSlot e s
  | .planCell p x => Sys2Proof.Machine.execPlanCell p x s
  | .accessLinkDown a => Sys2Proof.Machine.execAccessLinkDown a s
  | .blockLock p => Sys2Proof.Machine.execBlockLock p s
  | .trainExchangeEnd p => Sys2Proof.Machine.execTrainExchangeEnd p s
  | .vinAbove40 => Sys2Proof.Machine.execVinAbove40 s
  | .latchRelease => Sys2Proof.Machine.execLatchRelease s
  | .thermWarnN hot => Sys2Proof.Machine.execThermWarnN hot s

end Sys2Proof.Machine
end

