-- ==== Sys2Proof/Machine/Tick.lean ====
section
/-! DEFINITION. The passing of time: one tick of the 156.25 MHz reference (R9). -/

namespace Sys2Proof.Machine

/-- An upset by its code. -/
def upsetOf (k : Nat) : Upset :=
  match k % 4 with
  | 0 => .repeated
  | 1 => .failed
  | 2 => .corrected
  | _ => .uncorrected

/-- An upset strikes one of the 128 Cays, or none (R92, R93). DESIGN CHOICE (log 113). -/
def strike (s : State) : Option (Nat × Nat) → State
  | some (n, k) => { s with upsets := if n < 128 then tput s.upsets n (upsetOf k) else s.upsets }
  | none => s

/-- The place of an error of a memory array. DESIGN CHOICE (log 135). -/
def errorPlace (kind a : Nat) : ScrubTarget :=
  match kind with
  | 0 => .lagoon a
  | 1 => .hbm a
  | 2 => .cayStore a
  | 3 => .poolCell (BitVec.ofNat 20 a)
  | 4 => .poolDesc (BitVec.ofNat 20 a)
  | _ => .table

/-- Work reads a block or a word with an error, or none does (R267 to R269). DESIGN CHOICE (log 135). -/
def meetError (s : State) : Option (Nat × Nat × Nat) → State
  | some (kind, a, bad) => readError s 1 (errorPlace kind a) bad
  | none => s

/-- One tick passes, and what befalls a Cay and the memories in it is free; a row of every
active stream moves. While the reference is lost the count holds (R435).
DESIGN CHOICE (log 2). DESIGN CHOICE (log 113). DESIGN CHOICE (log 114). -/
def tick (s : State) : State :=
  if s.power.refLost then s else 
    moveStreams (meetError (strike { s with now := s.now + 1, free := s.free + 1 } (Config.upset s.free)) (Config.memError s.free))

end Sys2Proof.Machine
end

