-- ==== Sys2Proof/Laws/State.lean ====
section
/-! SUPPORT. What each update of the state leaves alone, one lemma per field per update, and what the tables, registers
and queues read after a write. -/

namespace Sys2Proof.Machine

/-! ## Tables -/

@[simp] theorem tget_tput_same {α : Type} (t : Table α) (k : Nat) (v : α) : tget (tput t k v) k = some v := by
  induction t with
  | nil => simp [tput, tget]
  | cons h t ih =>
    obtain ⟨j, w⟩ := h
    simp only [tput]
    split
    · simp [tget]
    · split
      · simp [tget]
      · rename_i h2
        simp [tget, h2, ih]

theorem tget_tput_ne {α : Type} (t : Table α) {k j : Nat} (v : α) (h : k ≠ j) : tget (tput t k v) j = tget t j := by
  induction t with
  | nil => simp [tput, tget, h]
  | cons x t ih =>
    obtain ⟨i, w⟩ := x
    simp only [tput]
    split
    · simp [tget, h]
    · split
      · rename_i h2
        subst h2
        simp [tget, h]
      · simp only [tget, ih]

@[simp] theorem tget_tdel_same {α : Type} (t : Table α) (k : Nat) : tget (tdel t k) k = none := by
  induction t with
  | nil => rfl
  | cons x t ih =>
    obtain ⟨i, w⟩ := x
    unfold tdel at ih ⊢
    by_cases h : i = k
    · simp [h, ih]
    · simp [h, tget, ih]

theorem tget_tdel_ne {α : Type} (t : Table α) {k j : Nat} (h : k ≠ j) : tget (tdel t k) j = tget t j := by
  induction t with
  | nil => rfl
  | cons x t ih =>
    obtain ⟨i, w⟩ := x
    unfold tdel at ih ⊢
    by_cases hi : i = k
    · subst hi
      simp [tget, h, ih]
    · simp [hi, tget, ih]

theorem tget_tmod_same {α : Type} (t : Table α) (k : Nat) (f : α → α) : tget (tmod t k f) k = (tget t k).map f := by
  unfold tmod
  cases h : tget t k <;> simp [h]

theorem tget_tmod_ne {α : Type} (t : Table α) {k j : Nat} (f : α → α) (h : k ≠ j) : tget (tmod t k f) j = tget t j := by
  unfold tmod
  split
  · exact tget_tput_ne _ _ h
  · rfl

/-! ## Registers -/

@[simp] theorem rd_wr_same (s : State) (o : Nat) (w : Word) : rd (wr s o w) o = w := by
  unfold wr rd
  split
  · rename_i h; simp [h]
  · simp

theorem rd_wr_ne (s : State) {o j : Nat} (w : Word) (h : o ≠ j) : rd (wr s o w) j = rd s j := by
  unfold wr rd
  split
  · simp [tget_tdel_ne _ h]
  · simp [tget_tput_ne _ _ h]

@[simp] theorem rd_emit (s : State) (o : Out) (j : Nat) : rd (emit s o) j = rd s j := rfl
@[simp] theorem rd_poke (s : State) (a : Nat) (bs : List Byte) (j : Nat) : rd (poke s a bs) j = rd s j := rfl
@[simp] theorem rd_putCay (s : State) (n : Nat) (m : Milar) (j : Nat) : rd (putCay s n m) j = rd s j := rfl
@[simp] theorem rd_withQueue (s : State) (k : Nat) (f : QueueSt → QueueSt) (j : Nat) : rd (withQueue s k f) j = rd s j := rfl
@[simp] theorem rd_withTorus (s : State) (p : Nat) (f : TorusSt → TorusSt) (j : Nat) : rd (withTorus s p f) j = rd s j := rfl
@[simp] theorem rd_withEgress (s : State) (e : Nat) (f : EgressSt → EgressSt) (j : Nat) : rd (withEgress s e f) j = rd s j := rfl
@[simp] theorem rd_withBeacon (s : State) (p : Nat) (f : BeaconSt → BeaconSt) (j : Nat) : rd (withBeacon s p f) j = rd s j := rfl
@[simp] theorem rd_withAcc (s : State) (a : Nat) (f : AccSt → AccSt) (j : Nat) : rd (withAcc s a f) j = rd s j := rfl
@[simp] theorem rd_withBucket (s : State) (b : Nat) (f : Bucket → Bucket) (j : Nat) : rd (withBucket s b f) j = rd s j := rfl
@[simp] theorem rd_withLayer (s : State) (l : Nat) (f : Layer → Layer) (j : Nat) : rd (withLayer s l f) j = rd s j := rfl

/-- A write of a register is a change of the registers alone. -/
theorem wr_eq (s : State) (o : Nat) (w : Word) : wr s o w = { s with regs := (wr s o w).regs } := by
  unfold wr
  split <;> rfl

/-- Bits above a field and below it stay. -/
theorem bits_lt (n h l : Nat) : bits n h l < 2 ^ (h + 1 - l) := Nat.mod_lt _ (Nat.two_pow_pos _)

/-! ## Fields of a register -/

/-- A word with a field replaced, as a number: what lies above the field, the new field, what lies below. -/
theorem putBits_toNat (w : Word) {hi lo : Nat} (v : Nat) (h : hi < 32) (hl : lo ≤ hi) :
    (putBits w hi lo v).toNat =
      2 ^ lo * (2 ^ (hi + 1 - lo) * (w.toNat / 2 ^ (hi + 1)) + v % 2 ^ (hi + 1 - lo)) + w.toNat % 2 ^ lo := by
  have e2 : 2 ^ lo * 2 ^ (hi + 1 - lo) = 2 ^ (hi + 1) := by rw [← Nat.pow_add]; congr 1; omega
  have e1 := Nat.div_add_mod w.toNat (2 ^ lo)
  have e3 := Nat.div_add_mod (w.toNat / 2 ^ lo) (2 ^ (hi + 1 - lo))
  rw [Nat.div_div_eq_div_mul, e2] at e3
  have hv : v % 2 ^ (hi + 1 - lo) < 2 ^ (hi + 1 - lo) := Nat.mod_lt _ (Nat.two_pow_pos _)
  have hc : w.toNat % 2 ^ lo < 2 ^ lo := Nat.mod_lt _ (Nat.two_pow_pos _)
  have e4 : 2 ^ 32 = 2 ^ (hi + 1) * 2 ^ (31 - hi) := by rw [← Nat.pow_add]; congr 1; omega
  have ha : w.toNat / 2 ^ (hi + 1) < 2 ^ (31 - hi) := by
    rw [Nat.div_lt_iff_lt_mul (Nat.two_pow_pos _), Nat.mul_comm, ← e4]; exact w.isLt
  unfold putBits bits
  simp only [BitVec.toNat_ofNat, Nat.shiftRight_eq_div_pow]
  generalize w.toNat / 2 ^ (hi + 1) = A at *
  generalize v % 2 ^ (hi + 1 - lo) = V at *
  generalize w.toNat % 2 ^ lo = C at *
  generalize (w.toNat / 2 ^ lo) % 2 ^ (hi + 1 - lo) = B at *
  have e5 : w.toNat - B * 2 ^ lo + V * 2 ^ lo = 2 ^ lo * (2 ^ (hi + 1 - lo) * A + V) + C := by
    rw [← e1, ← e3, Nat.mul_add, Nat.mul_add]
    generalize 2 ^ lo * (2 ^ (hi + 1 - lo) * A) = Q
    rw [Nat.mul_comm B, Nat.mul_comm V]; omega
  rw [e5, Nat.mod_eq_of_lt]
  calc 2 ^ lo * (2 ^ (hi + 1 - lo) * A + V) + C < 2 ^ lo * (2 ^ (hi + 1 - lo) * A + V) + 2 ^ lo := by omega
    _ = 2 ^ lo * (2 ^ (hi + 1 - lo) * A + V + 1) := (Nat.mul_succ _ _).symm
    _ ≤ 2 ^ lo * (2 ^ (hi + 1 - lo) * A + 2 ^ (hi + 1 - lo)) := Nat.mul_le_mul_left _ (by omega)
    _ = 2 ^ (hi + 1) * (A + 1) := by rw [← e2, ← Nat.mul_succ, Nat.mul_assoc]
    _ ≤ 2 ^ (hi + 1) * 2 ^ (31 - hi) := Nat.mul_le_mul_left _ ha
    _ = 2 ^ 32 := e4.symm

/-- Bit by bit: inside the field the new value, outside it the word. -/
theorem testBit_putBits (w : Word) {hi lo : Nat} (v i : Nat) (h : hi < 32) (hl : lo ≤ hi) :
    (putBits w hi lo v).toNat.testBit i =
      if lo ≤ i ∧ i ≤ hi then v.testBit (i - lo) else w.toNat.testBit i := by
  rw [putBits_toNat w v h hl, Nat.testBit_two_pow_mul_add _ (Nat.mod_lt _ (Nat.two_pow_pos _))]
  split
  · rename_i h1
    rw [if_neg (by omega), Nat.testBit_mod_two_pow]; simp [h1]
  · rename_i h1
    rw [Nat.testBit_two_pow_mul_add _ (Nat.mod_lt _ (Nat.two_pow_pos _))]
    split
    · rename_i h2
      rw [if_pos (by omega), Nat.testBit_mod_two_pow]; simp [h2]
    · rename_i h2
      rw [if_neg (by omega), Nat.testBit_div_two_pow]; congr 1; omega

/-- Numbers that agree on a field's bits have the same field. -/
theorem bits_congr {n m hi lo : Nat} (h : ∀ i, lo ≤ i → i ≤ hi → n.testBit i = m.testBit i) : bits n hi lo = bits m hi lo := by
  apply Nat.eq_of_testBit_eq
  intro i
  simp only [bits, Nat.testBit_mod_two_pow, Nat.testBit_shiftRight]
  by_cases h1 : i < hi + 1 - lo
  · rw [h (lo + i) (by omega) (by omega)]
  · simp [h1]

@[simp] theorem getF_setF_same (s : State) (f : Fld) (v : Nat) (h : f.hi < 32) (hl : f.lo ≤ f.hi) :
    getF (setF s f v) f = v % 2 ^ (f.hi + 1 - f.lo) := by
  unfold getF setF
  rw [rd_wr_same]
  apply Nat.eq_of_testBit_eq
  intro i
  simp only [bits, Nat.testBit_mod_two_pow, Nat.testBit_shiftRight, testBit_putBits _ _ _ h hl]
  by_cases h1 : i < f.hi + 1 - f.lo
  · rw [if_pos (by omega)]; simp [h1]
  · simp [h1]

/-- A field that shares no bit with the one written. -/
theorem getF_setF_ne (s : State) (f g : Fld) (v : Nat) (h : f.hi < 32) (hl : f.lo ≤ f.hi)
    (hd : f.off ≠ g.off ∨ f.hi < g.lo ∨ g.hi < f.lo) : getF (setF s f v) g = getF s g := by
  unfold getF setF
  by_cases ho : f.off = g.off
  · rw [← ho, rd_wr_same]
    apply bits_congr
    intro i h1 h2
    rw [testBit_putBits _ _ _ h hl, if_neg (by omega)]
  · rw [rd_wr_ne _ _ ho]

/-! ## Queues -/

@[simp] theorem queueAt_withQueue_same (s : State) (k : Nat) (f : QueueSt → QueueSt) :
    queueAt (withQueue s k f) k = f (queueAt s k) := by
  simp [queueAt, withQueue]

theorem queueAt_withQueue_ne (s : State) {k j : Nat} (f : QueueSt → QueueSt) (h : k ≠ j) :
    queueAt (withQueue s k f) j = queueAt s j := by
  simp [queueAt, withQueue, tget_tput_ne _ _ h]

@[simp] theorem queueAt_wr (s : State) (o : Nat) (w : Word) (k : Nat) : queueAt (wr s o w) k = queueAt s k := by
  rw [wr_eq]; rfl

@[simp] theorem cayAt_putCay_same (s : State) (n : Nat) (m : Milar) : cayAt (putCay s n m) n = m := by
  simp [cayAt, putCay]

theorem cayAt_putCay_ne (s : State) {n j : Nat} (m : Milar) (h : n ≠ j) : cayAt (putCay s n m) j = cayAt s j := by
  simp [cayAt, putCay, tget_tput_ne _ _ h]

@[simp] theorem cayAt_wr (s : State) (o : Nat) (w : Word) (n : Nat) : cayAt (wr s o w) n = cayAt s n := by
  rw [wr_eq]; rfl

/-! ## Frames -/

@[simp] theorem wr_pending (s : State) (o : Nat) (w : Word) : (wr s o w).pending = s.pending := by unfold wr; split <;> rfl
@[simp] theorem wr_now (s : State) (o : Nat) (w : Word) : (wr s o w).now = s.now := by unfold wr; split <;> rfl
@[simp] theorem wr_free (s : State) (o : Nat) (w : Word) : (wr s o w).free = s.free := by unfold wr; split <;> rfl
@[simp] theorem wr_out (s : State) (o : Nat) (w : Word) : (wr s o w).out = s.out := by unfold wr; split <;> rfl
@[simp] theorem wr_shadows (s : State) (o : Nat) (w : Word) : (wr s o w).shadows = s.shadows := by unfold wr; split <;> rfl
@[simp] theorem wr_mem (s : State) (o : Nat) (w : Word) : (wr s o w).mem = s.mem := by unfold wr; split <;> rfl
@[simp] theorem wr_poison (s : State) (o : Nat) (w : Word) : (wr s o w).poison = s.poison := by unfold wr; split <;> rfl
@[simp] theorem wr_allocs (s : State) (o : Nat) (w : Word) : (wr s o w).allocs = s.allocs := by unfold wr; split <;> rfl
@[simp] theorem wr_zeroing (s : State) (o : Nat) (w : Word) : (wr s o w).zeroing = s.zeroing := by unfold wr; split <;> rfl
@[simp] theorem wr_moves (s : State) (o : Nat) (w : Word) : (wr s o w).moves = s.moves := by unfold wr; split <;> rfl
@[simp] theorem wr_descs (s : State) (o : Nat) (w : Word) : (wr s o w).descs = s.descs := by unfold wr; split <;> rfl
@[simp] theorem wr_freeList (s : State) (o : Nat) (w : Word) : (wr s o w).freeList = s.freeList := by unfold wr; split <;> rfl
@[simp] theorem wr_freshCell (s : State) (o : Nat) (w : Word) : (wr s o w).freshCell = s.freshCell := by unfold wr; split <;> rfl
@[simp] theorem wr_cells (s : State) (o : Nat) (w : Word) : (wr s o w).cells = s.cells := by unfold wr; split <;> rfl
@[simp] theorem wr_torus (s : State) (o : Nat) (w : Word) : (wr s o w).torus = s.torus := by unfold wr; split <;> rfl
@[simp] theorem wr_egress (s : State) (o : Nat) (w : Word) : (wr s o w).egress = s.egress := by unfold wr; split <;> rfl
@[simp] theorem wr_echo (s : State) (o : Nat) (w : Word) : (wr s o w).echo = s.echo := by unfold wr; split <;> rfl
@[simp] theorem wr_lastRecover (s : State) (o : Nat) (w : Word) : (wr s o w).lastRecover = s.lastRecover := by unfold wr; split <;> rfl
@[simp] theorem wr_queues (s : State) (o : Nat) (w : Word) : (wr s o w).queues = s.queues := by unfold wr; split <;> rfl
@[simp] theorem wr_notify (s : State) (o : Nat) (w : Word) : (wr s o w).notify = s.notify := by unfold wr; split <;> rfl
@[simp] theorem wr_bme (s : State) (o : Nat) (w : Word) : (wr s o w).bme = s.bme := by unfold wr; split <;> rfl
@[simp] theorem wr_pcie (s : State) (o : Nat) (w : Word) : (wr s o w).pcie = s.pcie := by unfold wr; split <;> rfl
@[simp] theorem wr_sessions (s : State) (o : Nat) (w : Word) : (wr s o w).sessions = s.sessions := by unfold wr; split <;> rfl
@[simp] theorem wr_groups (s : State) (o : Nat) (w : Word) : (wr s o w).groups = s.groups := by unfold wr; split <;> rfl
@[simp] theorem wr_buckets (s : State) (o : Nat) (w : Word) : (wr s o w).buckets = s.buckets := by unfold wr; split <;> rfl
@[simp] theorem wr_homes (s : State) (o : Nat) (w : Word) : (wr s o w).homes = s.homes := by unfold wr; split <;> rfl
@[simp] theorem wr_causeway (s : State) (o : Nat) (w : Word) : (wr s o w).causeway = s.causeway := by unfold wr; split <;> rfl
@[simp] theorem wr_lates (s : State) (o : Nat) (w : Word) : (wr s o w).lates = s.lates := by unfold wr; split <;> rfl
@[simp] theorem wr_residues (s : State) (o : Nat) (w : Word) : (wr s o w).residues = s.residues := by unfold wr; split <;> rfl
@[simp] theorem wr_layers (s : State) (o : Nat) (w : Word) : (wr s o w).layers = s.layers := by unfold wr; split <;> rfl
@[simp] theorem wr_slots (s : State) (o : Nat) (w : Word) : (wr s o w).slots = s.slots := by unfold wr; split <;> rfl
@[simp] theorem wr_steps (s : State) (o : Nat) (w : Word) : (wr s o w).steps = s.steps := by unfold wr; split <;> rfl
@[simp] theorem wr_ferries (s : State) (o : Nat) (w : Word) : (wr s o w).ferries = s.ferries := by unfold wr; split <;> rfl
@[simp] theorem wr_opens (s : State) (o : Nat) (w : Word) : (wr s o w).opens = s.opens := by unfold wr; split <;> rfl
@[simp] theorem wr_begun (s : State) (o : Nat) (w : Word) : (wr s o w).begun = s.begun := by unfold wr; split <;> rfl
@[simp] theorem wr_gathers (s : State) (o : Nat) (w : Word) : (wr s o w).gathers = s.gathers := by unfold wr; split <;> rfl
@[simp] theorem wr_finished (s : State) (o : Nat) (w : Word) : (wr s o w).finished = s.finished := by unfold wr; split <;> rfl
@[simp] theorem wr_copies (s : State) (o : Nat) (w : Word) : (wr s o w).copies = s.copies := by unfold wr; split <;> rfl
@[simp] theorem wr_permutes (s : State) (o : Nat) (w : Word) : (wr s o w).permutes = s.permutes := by unfold wr; split <;> rfl
@[simp] theorem wr_readies (s : State) (o : Nat) (w : Word) : (wr s o w).readies = s.readies := by unfold wr; split <;> rfl
@[simp] theorem wr_cays (s : State) (o : Nat) (w : Word) : (wr s o w).cays = s.cays := by unfold wr; split <;> rfl
@[simp] theorem wr_folds (s : State) (o : Nat) (w : Word) : (wr s o w).folds = s.folds := by unfold wr; split <;> rfl
@[simp] theorem wr_upsets (s : State) (o : Nat) (w : Word) : (wr s o w).upsets = s.upsets := by unfold wr; split <;> rfl
@[simp] theorem wr_kickAt (s : State) (o : Nat) (w : Word) : (wr s o w).kickAt = s.kickAt := by unfold wr; split <;> rfl
@[simp] theorem wr_wdStopped (s : State) (o : Nat) (w : Word) : (wr s o w).wdStopped = s.wdStopped := by unfold wr; split <;> rfl
@[simp] theorem wr_beacons (s : State) (o : Nat) (w : Word) : (wr s o w).beacons = s.beacons := by unfold wr; split <;> rfl
@[simp] theorem wr_origins (s : State) (o : Nat) (w : Word) : (wr s o w).origins = s.origins := by unfold wr; split <;> rfl
@[simp] theorem wr_barred (s : State) (o : Nat) (w : Word) : (wr s o w).barred = s.barred := by unfold wr; split <;> rfl
@[simp] theorem wr_softAt (s : State) (o : Nat) (w : Word) : (wr s o w).softAt = s.softAt := by unfold wr; split <;> rfl
@[simp] theorem wr_decayAt (s : State) (o : Nat) (w : Word) : (wr s o w).decayAt = s.decayAt := by unfold wr; split <;> rfl
@[simp] theorem wr_access (s : State) (o : Nat) (w : Word) : (wr s o w).access = s.access := by unfold wr; split <;> rfl
@[simp] theorem wr_copying (s : State) (o : Nat) (w : Word) : (wr s o w).copying = s.copying := by unfold wr; split <;> rfl
@[simp] theorem wr_eyes (s : State) (o : Nat) (w : Word) : (wr s o w).eyes = s.eyes := by unfold wr; split <;> rfl
@[simp] theorem wr_assemblies (s : State) (o : Nat) (w : Word) : (wr s o w).assemblies = s.assemblies := by unfold wr; split <;> rfl
@[simp] theorem wr_reports (s : State) (o : Nat) (w : Word) : (wr s o w).reports = s.reports := by unfold wr; split <;> rfl
@[simp] theorem wr_signs (s : State) (o : Nat) (w : Word) : (wr s o w).signs = s.signs := by unfold wr; split <;> rfl
@[simp] theorem wr_releases (s : State) (o : Nat) (w : Word) : (wr s o w).releases = s.releases := by unfold wr; split <;> rfl
@[simp] theorem wr_replies (s : State) (o : Nat) (w : Word) : (wr s o w).replies = s.replies := by unfold wr; split <;> rfl
@[simp] theorem wr_image (s : State) (o : Nat) (w : Word) : (wr s o w).image = s.image := by unfold wr; split <;> rfl
@[simp] theorem wr_rpa (s : State) (o : Nat) (w : Word) : (wr s o w).rpa = s.rpa := by unfold wr; split <;> rfl
@[simp] theorem wr_boot (s : State) (o : Nat) (w : Word) : (wr s o w).boot = s.boot := by unfold wr; split <;> rfl
@[simp] theorem wr_power (s : State) (o : Nat) (w : Word) : (wr s o w).power = s.power := by unfold wr; split <;> rfl

@[simp] theorem setF_pending (s : State) (f : Fld) (v : Nat) : (setF s f v).pending = s.pending := wr_pending ..
@[simp] theorem setF_now (s : State) (f : Fld) (v : Nat) : (setF s f v).now = s.now := wr_now ..
@[simp] theorem setF_free (s : State) (f : Fld) (v : Nat) : (setF s f v).free = s.free := wr_free ..
@[simp] theorem setF_out (s : State) (f : Fld) (v : Nat) : (setF s f v).out = s.out := wr_out ..
@[simp] theorem setF_shadows (s : State) (f : Fld) (v : Nat) : (setF s f v).shadows = s.shadows := wr_shadows ..
@[simp] theorem setF_mem (s : State) (f : Fld) (v : Nat) : (setF s f v).mem = s.mem := wr_mem ..
@[simp] theorem setF_poison (s : State) (f : Fld) (v : Nat) : (setF s f v).poison = s.poison := wr_poison ..
@[simp] theorem setF_allocs (s : State) (f : Fld) (v : Nat) : (setF s f v).allocs = s.allocs := wr_allocs ..
@[simp] theorem setF_zeroing (s : State) (f : Fld) (v : Nat) : (setF s f v).zeroing = s.zeroing := wr_zeroing ..
@[simp] theorem setF_moves (s : State) (f : Fld) (v : Nat) : (setF s f v).moves = s.moves := wr_moves ..
@[simp] theorem setF_descs (s : State) (f : Fld) (v : Nat) : (setF s f v).descs = s.descs := wr_descs ..
@[simp] theorem setF_freeList (s : State) (f : Fld) (v : Nat) : (setF s f v).freeList = s.freeList := wr_freeList ..
@[simp] theorem setF_freshCell (s : State) (f : Fld) (v : Nat) : (setF s f v).freshCell = s.freshCell := wr_freshCell ..
@[simp] theorem setF_cells (s : State) (f : Fld) (v : Nat) : (setF s f v).cells = s.cells := wr_cells ..
@[simp] theorem setF_torus (s : State) (f : Fld) (v : Nat) : (setF s f v).torus = s.torus := wr_torus ..
@[simp] theorem setF_egress (s : State) (f : Fld) (v : Nat) : (setF s f v).egress = s.egress := wr_egress ..
@[simp] theorem setF_echo (s : State) (f : Fld) (v : Nat) : (setF s f v).echo = s.echo := wr_echo ..
@[simp] theorem setF_lastRecover (s : State) (f : Fld) (v : Nat) : (setF s f v).lastRecover = s.lastRecover := wr_lastRecover ..
@[simp] theorem setF_queues (s : State) (f : Fld) (v : Nat) : (setF s f v).queues = s.queues := wr_queues ..
@[simp] theorem setF_notify (s : State) (f : Fld) (v : Nat) : (setF s f v).notify = s.notify := wr_notify ..
@[simp] theorem setF_bme (s : State) (f : Fld) (v : Nat) : (setF s f v).bme = s.bme := wr_bme ..
@[simp] theorem setF_pcie (s : State) (f : Fld) (v : Nat) : (setF s f v).pcie = s.pcie := wr_pcie ..
@[simp] theorem setF_sessions (s : State) (f : Fld) (v : Nat) : (setF s f v).sessions = s.sessions := wr_sessions ..
@[simp] theorem setF_groups (s : State) (f : Fld) (v : Nat) : (setF s f v).groups = s.groups := wr_groups ..
@[simp] theorem setF_buckets (s : State) (f : Fld) (v : Nat) : (setF s f v).buckets = s.buckets := wr_buckets ..
@[simp] theorem setF_homes (s : State) (f : Fld) (v : Nat) : (setF s f v).homes = s.homes := wr_homes ..
@[simp] theorem setF_causeway (s : State) (f : Fld) (v : Nat) : (setF s f v).causeway = s.causeway := wr_causeway ..
@[simp] theorem setF_lates (s : State) (f : Fld) (v : Nat) : (setF s f v).lates = s.lates := wr_lates ..
@[simp] theorem setF_residues (s : State) (f : Fld) (v : Nat) : (setF s f v).residues = s.residues := wr_residues ..
@[simp] theorem setF_layers (s : State) (f : Fld) (v : Nat) : (setF s f v).layers = s.layers := wr_layers ..
@[simp] theorem setF_slots (s : State) (f : Fld) (v : Nat) : (setF s f v).slots = s.slots := wr_slots ..
@[simp] theorem setF_steps (s : State) (f : Fld) (v : Nat) : (setF s f v).steps = s.steps := wr_steps ..
@[simp] theorem setF_ferries (s : State) (f : Fld) (v : Nat) : (setF s f v).ferries = s.ferries := wr_ferries ..
@[simp] theorem setF_opens (s : State) (f : Fld) (v : Nat) : (setF s f v).opens = s.opens := wr_opens ..
@[simp] theorem setF_begun (s : State) (f : Fld) (v : Nat) : (setF s f v).begun = s.begun := wr_begun ..
@[simp] theorem setF_gathers (s : State) (f : Fld) (v : Nat) : (setF s f v).gathers = s.gathers := wr_gathers ..
@[simp] theorem setF_finished (s : State) (f : Fld) (v : Nat) : (setF s f v).finished = s.finished := wr_finished ..
@[simp] theorem setF_copies (s : State) (f : Fld) (v : Nat) : (setF s f v).copies = s.copies := wr_copies ..
@[simp] theorem setF_permutes (s : State) (f : Fld) (v : Nat) : (setF s f v).permutes = s.permutes := wr_permutes ..
@[simp] theorem setF_readies (s : State) (f : Fld) (v : Nat) : (setF s f v).readies = s.readies := wr_readies ..
@[simp] theorem setF_cays (s : State) (f : Fld) (v : Nat) : (setF s f v).cays = s.cays := wr_cays ..
@[simp] theorem setF_folds (s : State) (f : Fld) (v : Nat) : (setF s f v).folds = s.folds := wr_folds ..
@[simp] theorem setF_upsets (s : State) (f : Fld) (v : Nat) : (setF s f v).upsets = s.upsets := wr_upsets ..
@[simp] theorem setF_kickAt (s : State) (f : Fld) (v : Nat) : (setF s f v).kickAt = s.kickAt := wr_kickAt ..
@[simp] theorem setF_wdStopped (s : State) (f : Fld) (v : Nat) : (setF s f v).wdStopped = s.wdStopped := wr_wdStopped ..
@[simp] theorem setF_beacons (s : State) (f : Fld) (v : Nat) : (setF s f v).beacons = s.beacons := wr_beacons ..
@[simp] theorem setF_origins (s : State) (f : Fld) (v : Nat) : (setF s f v).origins = s.origins := wr_origins ..
@[simp] theorem setF_barred (s : State) (f : Fld) (v : Nat) : (setF s f v).barred = s.barred := wr_barred ..
@[simp] theorem setF_softAt (s : State) (f : Fld) (v : Nat) : (setF s f v).softAt = s.softAt := wr_softAt ..
@[simp] theorem setF_decayAt (s : State) (f : Fld) (v : Nat) : (setF s f v).decayAt = s.decayAt := wr_decayAt ..
@[simp] theorem setF_access (s : State) (f : Fld) (v : Nat) : (setF s f v).access = s.access := wr_access ..
@[simp] theorem setF_copying (s : State) (f : Fld) (v : Nat) : (setF s f v).copying = s.copying := wr_copying ..
@[simp] theorem setF_eyes (s : State) (f : Fld) (v : Nat) : (setF s f v).eyes = s.eyes := wr_eyes ..
@[simp] theorem setF_assemblies (s : State) (f : Fld) (v : Nat) : (setF s f v).assemblies = s.assemblies := wr_assemblies ..
@[simp] theorem setF_reports (s : State) (f : Fld) (v : Nat) : (setF s f v).reports = s.reports := wr_reports ..
@[simp] theorem setF_signs (s : State) (f : Fld) (v : Nat) : (setF s f v).signs = s.signs := wr_signs ..
@[simp] theorem setF_releases (s : State) (f : Fld) (v : Nat) : (setF s f v).releases = s.releases := wr_releases ..
@[simp] theorem setF_replies (s : State) (f : Fld) (v : Nat) : (setF s f v).replies = s.replies := wr_replies ..
@[simp] theorem setF_image (s : State) (f : Fld) (v : Nat) : (setF s f v).image = s.image := wr_image ..
@[simp] theorem setF_rpa (s : State) (f : Fld) (v : Nat) : (setF s f v).rpa = s.rpa := wr_rpa ..
@[simp] theorem setF_boot (s : State) (f : Fld) (v : Nat) : (setF s f v).boot = s.boot := wr_boot ..
@[simp] theorem setF_power (s : State) (f : Fld) (v : Nat) : (setF s f v).power = s.power := wr_power ..

@[simp] theorem bump_pending (s : State) (f : Fld) (k : Nat) : (bump s f k).pending = s.pending := wr_pending ..
@[simp] theorem bump_now (s : State) (f : Fld) (k : Nat) : (bump s f k).now = s.now := wr_now ..
@[simp] theorem bump_free (s : State) (f : Fld) (k : Nat) : (bump s f k).free = s.free := wr_free ..
@[simp] theorem bump_out (s : State) (f : Fld) (k : Nat) : (bump s f k).out = s.out := wr_out ..
@[simp] theorem bump_shadows (s : State) (f : Fld) (k : Nat) : (bump s f k).shadows = s.shadows := wr_shadows ..
@[simp] theorem bump_mem (s : State) (f : Fld) (k : Nat) : (bump s f k).mem = s.mem := wr_mem ..
@[simp] theorem bump_poison (s : State) (f : Fld) (k : Nat) : (bump s f k).poison = s.poison := wr_poison ..
@[simp] theorem bump_allocs (s : State) (f : Fld) (k : Nat) : (bump s f k).allocs = s.allocs := wr_allocs ..
@[simp] theorem bump_zeroing (s : State) (f : Fld) (k : Nat) : (bump s f k).zeroing = s.zeroing := wr_zeroing ..
@[simp] theorem bump_moves (s : State) (f : Fld) (k : Nat) : (bump s f k).moves = s.moves := wr_moves ..
@[simp] theorem bump_descs (s : State) (f : Fld) (k : Nat) : (bump s f k).descs = s.descs := wr_descs ..
@[simp] theorem bump_freeList (s : State) (f : Fld) (k : Nat) : (bump s f k).freeList = s.freeList := wr_freeList ..
@[simp] theorem bump_freshCell (s : State) (f : Fld) (k : Nat) : (bump s f k).freshCell = s.freshCell := wr_freshCell ..
@[simp] theorem bump_cells (s : State) (f : Fld) (k : Nat) : (bump s f k).cells = s.cells := wr_cells ..
@[simp] theorem bump_torus (s : State) (f : Fld) (k : Nat) : (bump s f k).torus = s.torus := wr_torus ..
@[simp] theorem bump_egress (s : State) (f : Fld) (k : Nat) : (bump s f k).egress = s.egress := wr_egress ..
@[simp] theorem bump_echo (s : State) (f : Fld) (k : Nat) : (bump s f k).echo = s.echo := wr_echo ..
@[simp] theorem bump_lastRecover (s : State) (f : Fld) (k : Nat) : (bump s f k).lastRecover = s.lastRecover := wr_lastRecover ..
@[simp] theorem bump_queues (s : State) (f : Fld) (k : Nat) : (bump s f k).queues = s.queues := wr_queues ..
@[simp] theorem bump_notify (s : State) (f : Fld) (k : Nat) : (bump s f k).notify = s.notify := wr_notify ..
@[simp] theorem bump_bme (s : State) (f : Fld) (k : Nat) : (bump s f k).bme = s.bme := wr_bme ..
@[simp] theorem bump_pcie (s : State) (f : Fld) (k : Nat) : (bump s f k).pcie = s.pcie := wr_pcie ..
@[simp] theorem bump_sessions (s : State) (f : Fld) (k : Nat) : (bump s f k).sessions = s.sessions := wr_sessions ..
@[simp] theorem bump_groups (s : State) (f : Fld) (k : Nat) : (bump s f k).groups = s.groups := wr_groups ..
@[simp] theorem bump_buckets (s : State) (f : Fld) (k : Nat) : (bump s f k).buckets = s.buckets := wr_buckets ..
@[simp] theorem bump_homes (s : State) (f : Fld) (k : Nat) : (bump s f k).homes = s.homes := wr_homes ..
@[simp] theorem bump_causeway (s : State) (f : Fld) (k : Nat) : (bump s f k).causeway = s.causeway := wr_causeway ..
@[simp] theorem bump_lates (s : State) (f : Fld) (k : Nat) : (bump s f k).lates = s.lates := wr_lates ..
@[simp] theorem bump_residues (s : State) (f : Fld) (k : Nat) : (bump s f k).residues = s.residues := wr_residues ..
@[simp] theorem bump_layers (s : State) (f : Fld) (k : Nat) : (bump s f k).layers = s.layers := wr_layers ..
@[simp] theorem bump_slots (s : State) (f : Fld) (k : Nat) : (bump s f k).slots = s.slots := wr_slots ..
@[simp] theorem bump_steps (s : State) (f : Fld) (k : Nat) : (bump s f k).steps = s.steps := wr_steps ..
@[simp] theorem bump_ferries (s : State) (f : Fld) (k : Nat) : (bump s f k).ferries = s.ferries := wr_ferries ..
@[simp] theorem bump_opens (s : State) (f : Fld) (k : Nat) : (bump s f k).opens = s.opens := wr_opens ..
@[simp] theorem bump_begun (s : State) (f : Fld) (k : Nat) : (bump s f k).begun = s.begun := wr_begun ..
@[simp] theorem bump_gathers (s : State) (f : Fld) (k : Nat) : (bump s f k).gathers = s.gathers := wr_gathers ..
@[simp] theorem bump_finished (s : State) (f : Fld) (k : Nat) : (bump s f k).finished = s.finished := wr_finished ..
@[simp] theorem bump_copies (s : State) (f : Fld) (k : Nat) : (bump s f k).copies = s.copies := wr_copies ..
@[simp] theorem bump_permutes (s : State) (f : Fld) (k : Nat) : (bump s f k).permutes = s.permutes := wr_permutes ..
@[simp] theorem bump_readies (s : State) (f : Fld) (k : Nat) : (bump s f k).readies = s.readies := wr_readies ..
@[simp] theorem bump_cays (s : State) (f : Fld) (k : Nat) : (bump s f k).cays = s.cays := wr_cays ..
@[simp] theorem bump_folds (s : State) (f : Fld) (k : Nat) : (bump s f k).folds = s.folds := wr_folds ..
@[simp] theorem bump_upsets (s : State) (f : Fld) (k : Nat) : (bump s f k).upsets = s.upsets := wr_upsets ..
@[simp] theorem bump_kickAt (s : State) (f : Fld) (k : Nat) : (bump s f k).kickAt = s.kickAt := wr_kickAt ..
@[simp] theorem bump_wdStopped (s : State) (f : Fld) (k : Nat) : (bump s f k).wdStopped = s.wdStopped := wr_wdStopped ..
@[simp] theorem bump_beacons (s : State) (f : Fld) (k : Nat) : (bump s f k).beacons = s.beacons := wr_beacons ..
@[simp] theorem bump_origins (s : State) (f : Fld) (k : Nat) : (bump s f k).origins = s.origins := wr_origins ..
@[simp] theorem bump_barred (s : State) (f : Fld) (k : Nat) : (bump s f k).barred = s.barred := wr_barred ..
@[simp] theorem bump_softAt (s : State) (f : Fld) (k : Nat) : (bump s f k).softAt = s.softAt := wr_softAt ..
@[simp] theorem bump_decayAt (s : State) (f : Fld) (k : Nat) : (bump s f k).decayAt = s.decayAt := wr_decayAt ..
@[simp] theorem bump_access (s : State) (f : Fld) (k : Nat) : (bump s f k).access = s.access := wr_access ..
@[simp] theorem bump_copying (s : State) (f : Fld) (k : Nat) : (bump s f k).copying = s.copying := wr_copying ..
@[simp] theorem bump_eyes (s : State) (f : Fld) (k : Nat) : (bump s f k).eyes = s.eyes := wr_eyes ..
@[simp] theorem bump_assemblies (s : State) (f : Fld) (k : Nat) : (bump s f k).assemblies = s.assemblies := wr_assemblies ..
@[simp] theorem bump_reports (s : State) (f : Fld) (k : Nat) : (bump s f k).reports = s.reports := wr_reports ..
@[simp] theorem bump_signs (s : State) (f : Fld) (k : Nat) : (bump s f k).signs = s.signs := wr_signs ..
@[simp] theorem bump_releases (s : State) (f : Fld) (k : Nat) : (bump s f k).releases = s.releases := wr_releases ..
@[simp] theorem bump_replies (s : State) (f : Fld) (k : Nat) : (bump s f k).replies = s.replies := wr_replies ..
@[simp] theorem bump_image (s : State) (f : Fld) (k : Nat) : (bump s f k).image = s.image := wr_image ..
@[simp] theorem bump_rpa (s : State) (f : Fld) (k : Nat) : (bump s f k).rpa = s.rpa := wr_rpa ..
@[simp] theorem bump_boot (s : State) (f : Fld) (k : Nat) : (bump s f k).boot = s.boot := wr_boot ..
@[simp] theorem bump_power (s : State) (f : Fld) (k : Nat) : (bump s f k).power = s.power := wr_power ..

@[simp] theorem emit_pending (s : State) (o : Out) : (emit s o).pending = s.pending := rfl
@[simp] theorem emit_now (s : State) (o : Out) : (emit s o).now = s.now := rfl
@[simp] theorem emit_free (s : State) (o : Out) : (emit s o).free = s.free := rfl
@[simp] theorem emit_regs (s : State) (o : Out) : (emit s o).regs = s.regs := rfl
@[simp] theorem emit_shadows (s : State) (o : Out) : (emit s o).shadows = s.shadows := rfl
@[simp] theorem emit_mem (s : State) (o : Out) : (emit s o).mem = s.mem := rfl
@[simp] theorem emit_poison (s : State) (o : Out) : (emit s o).poison = s.poison := rfl
@[simp] theorem emit_allocs (s : State) (o : Out) : (emit s o).allocs = s.allocs := rfl
@[simp] theorem emit_zeroing (s : State) (o : Out) : (emit s o).zeroing = s.zeroing := rfl
@[simp] theorem emit_moves (s : State) (o : Out) : (emit s o).moves = s.moves := rfl
@[simp] theorem emit_descs (s : State) (o : Out) : (emit s o).descs = s.descs := rfl
@[simp] theorem emit_freeList (s : State) (o : Out) : (emit s o).freeList = s.freeList := rfl
@[simp] theorem emit_freshCell (s : State) (o : Out) : (emit s o).freshCell = s.freshCell := rfl
@[simp] theorem emit_cells (s : State) (o : Out) : (emit s o).cells = s.cells := rfl
@[simp] theorem emit_torus (s : State) (o : Out) : (emit s o).torus = s.torus := rfl
@[simp] theorem emit_egress (s : State) (o : Out) : (emit s o).egress = s.egress := rfl
@[simp] theorem emit_echo (s : State) (o : Out) : (emit s o).echo = s.echo := rfl
@[simp] theorem emit_lastRecover (s : State) (o : Out) : (emit s o).lastRecover = s.lastRecover := rfl
@[simp] theorem emit_queues (s : State) (o : Out) : (emit s o).queues = s.queues := rfl
@[simp] theorem emit_notify (s : State) (o : Out) : (emit s o).notify = s.notify := rfl
@[simp] theorem emit_bme (s : State) (o : Out) : (emit s o).bme = s.bme := rfl
@[simp] theorem emit_pcie (s : State) (o : Out) : (emit s o).pcie = s.pcie := rfl
@[simp] theorem emit_sessions (s : State) (o : Out) : (emit s o).sessions = s.sessions := rfl
@[simp] theorem emit_groups (s : State) (o : Out) : (emit s o).groups = s.groups := rfl
@[simp] theorem emit_buckets (s : State) (o : Out) : (emit s o).buckets = s.buckets := rfl
@[simp] theorem emit_homes (s : State) (o : Out) : (emit s o).homes = s.homes := rfl
@[simp] theorem emit_causeway (s : State) (o : Out) : (emit s o).causeway = s.causeway := rfl
@[simp] theorem emit_lates (s : State) (o : Out) : (emit s o).lates = s.lates := rfl
@[simp] theorem emit_residues (s : State) (o : Out) : (emit s o).residues = s.residues := rfl
@[simp] theorem emit_layers (s : State) (o : Out) : (emit s o).layers = s.layers := rfl
@[simp] theorem emit_slots (s : State) (o : Out) : (emit s o).slots = s.slots := rfl
@[simp] theorem emit_steps (s : State) (o : Out) : (emit s o).steps = s.steps := rfl
@[simp] theorem emit_ferries (s : State) (o : Out) : (emit s o).ferries = s.ferries := rfl
@[simp] theorem emit_opens (s : State) (o : Out) : (emit s o).opens = s.opens := rfl
@[simp] theorem emit_begun (s : State) (o : Out) : (emit s o).begun = s.begun := rfl
@[simp] theorem emit_gathers (s : State) (o : Out) : (emit s o).gathers = s.gathers := rfl
@[simp] theorem emit_finished (s : State) (o : Out) : (emit s o).finished = s.finished := rfl
@[simp] theorem emit_copies (s : State) (o : Out) : (emit s o).copies = s.copies := rfl
@[simp] theorem emit_permutes (s : State) (o : Out) : (emit s o).permutes = s.permutes := rfl
@[simp] theorem emit_readies (s : State) (o : Out) : (emit s o).readies = s.readies := rfl
@[simp] theorem emit_cays (s : State) (o : Out) : (emit s o).cays = s.cays := rfl
@[simp] theorem emit_folds (s : State) (o : Out) : (emit s o).folds = s.folds := rfl
@[simp] theorem emit_upsets (s : State) (o : Out) : (emit s o).upsets = s.upsets := rfl
@[simp] theorem emit_kickAt (s : State) (o : Out) : (emit s o).kickAt = s.kickAt := rfl
@[simp] theorem emit_wdStopped (s : State) (o : Out) : (emit s o).wdStopped = s.wdStopped := rfl
@[simp] theorem emit_beacons (s : State) (o : Out) : (emit s o).beacons = s.beacons := rfl
@[simp] theorem emit_origins (s : State) (o : Out) : (emit s o).origins = s.origins := rfl
@[simp] theorem emit_barred (s : State) (o : Out) : (emit s o).barred = s.barred := rfl
@[simp] theorem emit_softAt (s : State) (o : Out) : (emit s o).softAt = s.softAt := rfl
@[simp] theorem emit_decayAt (s : State) (o : Out) : (emit s o).decayAt = s.decayAt := rfl
@[simp] theorem emit_access (s : State) (o : Out) : (emit s o).access = s.access := rfl
@[simp] theorem emit_copying (s : State) (o : Out) : (emit s o).copying = s.copying := rfl
@[simp] theorem emit_eyes (s : State) (o : Out) : (emit s o).eyes = s.eyes := rfl
@[simp] theorem emit_assemblies (s : State) (o : Out) : (emit s o).assemblies = s.assemblies := rfl
@[simp] theorem emit_reports (s : State) (o : Out) : (emit s o).reports = s.reports := rfl
@[simp] theorem emit_signs (s : State) (o : Out) : (emit s o).signs = s.signs := rfl
@[simp] theorem emit_releases (s : State) (o : Out) : (emit s o).releases = s.releases := rfl
@[simp] theorem emit_replies (s : State) (o : Out) : (emit s o).replies = s.replies := rfl
@[simp] theorem emit_image (s : State) (o : Out) : (emit s o).image = s.image := rfl
@[simp] theorem emit_rpa (s : State) (o : Out) : (emit s o).rpa = s.rpa := rfl
@[simp] theorem emit_boot (s : State) (o : Out) : (emit s o).boot = s.boot := rfl
@[simp] theorem emit_power (s : State) (o : Out) : (emit s o).power = s.power := rfl

@[simp] theorem poke_pending (s : State) (a : Nat) (bs : List Byte) : (poke s a bs).pending = s.pending := rfl
@[simp] theorem poke_now (s : State) (a : Nat) (bs : List Byte) : (poke s a bs).now = s.now := rfl
@[simp] theorem poke_free (s : State) (a : Nat) (bs : List Byte) : (poke s a bs).free = s.free := rfl
@[simp] theorem poke_out (s : State) (a : Nat) (bs : List Byte) : (poke s a bs).out = s.out := rfl
@[simp] theorem poke_regs (s : State) (a : Nat) (bs : List Byte) : (poke s a bs).regs = s.regs := rfl
@[simp] theorem poke_shadows (s : State) (a : Nat) (bs : List Byte) : (poke s a bs).shadows = s.shadows := rfl
@[simp] theorem poke_allocs (s : State) (a : Nat) (bs : List Byte) : (poke s a bs).allocs = s.allocs := rfl
@[simp] theorem poke_zeroing (s : State) (a : Nat) (bs : List Byte) : (poke s a bs).zeroing = s.zeroing := rfl
@[simp] theorem poke_moves (s : State) (a : Nat) (bs : List Byte) : (poke s a bs).moves = s.moves := rfl
@[simp] theorem poke_descs (s : State) (a : Nat) (bs : List Byte) : (poke s a bs).descs = s.descs := rfl
@[simp] theorem poke_freeList (s : State) (a : Nat) (bs : List Byte) : (poke s a bs).freeList = s.freeList := rfl
@[simp] theorem poke_freshCell (s : State) (a : Nat) (bs : List Byte) : (poke s a bs).freshCell = s.freshCell := rfl
@[simp] theorem poke_cells (s : State) (a : Nat) (bs : List Byte) : (poke s a bs).cells = s.cells := rfl
@[simp] theorem poke_torus (s : State) (a : Nat) (bs : List Byte) : (poke s a bs).torus = s.torus := rfl
@[simp] theorem poke_egress (s : State) (a : Nat) (bs : List Byte) : (poke s a bs).egress = s.egress := rfl
@[simp] theorem poke_echo (s : State) (a : Nat) (bs : List Byte) : (poke s a bs).echo = s.echo := rfl
@[simp] theorem poke_lastRecover (s : State) (a : Nat) (bs : List Byte) : (poke s a bs).lastRecover = s.lastRecover := rfl
@[simp] theorem poke_queues (s : State) (a : Nat) (bs : List Byte) : (poke s a bs).queues = s.queues := rfl
@[simp] theorem poke_notify (s : State) (a : Nat) (bs : List Byte) : (poke s a bs).notify = s.notify := rfl
@[simp] theorem poke_bme (s : State) (a : Nat) (bs : List Byte) : (poke s a bs).bme = s.bme := rfl
@[simp] theorem poke_pcie (s : State) (a : Nat) (bs : List Byte) : (poke s a bs).pcie = s.pcie := rfl
@[simp] theorem poke_sessions (s : State) (a : Nat) (bs : List Byte) : (poke s a bs).sessions = s.sessions := rfl
@[simp] theorem poke_groups (s : State) (a : Nat) (bs : List Byte) : (poke s a bs).groups = s.groups := rfl
@[simp] theorem poke_buckets (s : State) (a : Nat) (bs : List Byte) : (poke s a bs).buckets = s.buckets := rfl
@[simp] theorem poke_homes (s : State) (a : Nat) (bs : List Byte) : (poke s a bs).homes = s.homes := rfl
@[simp] theorem poke_causeway (s : State) (a : Nat) (bs : List Byte) : (poke s a bs).causeway = s.causeway := rfl
@[simp] theorem poke_lates (s : State) (a : Nat) (bs : List Byte) : (poke s a bs).lates = s.lates := rfl
@[simp] theorem poke_residues (s : State) (a : Nat) (bs : List Byte) : (poke s a bs).residues = s.residues := rfl
@[simp] theorem poke_layers (s : State) (a : Nat) (bs : List Byte) : (poke s a bs).layers = s.layers := rfl
@[simp] theorem poke_slots (s : State) (a : Nat) (bs : List Byte) : (poke s a bs).slots = s.slots := rfl
@[simp] theorem poke_steps (s : State) (a : Nat) (bs : List Byte) : (poke s a bs).steps = s.steps := rfl
@[simp] theorem poke_ferries (s : State) (a : Nat) (bs : List Byte) : (poke s a bs).ferries = s.ferries := rfl
@[simp] theorem poke_opens (s : State) (a : Nat) (bs : List Byte) : (poke s a bs).opens = s.opens := rfl
@[simp] theorem poke_begun (s : State) (a : Nat) (bs : List Byte) : (poke s a bs).begun = s.begun := rfl
@[simp] theorem poke_gathers (s : State) (a : Nat) (bs : List Byte) : (poke s a bs).gathers = s.gathers := rfl
@[simp] theorem poke_finished (s : State) (a : Nat) (bs : List Byte) : (poke s a bs).finished = s.finished := rfl
@[simp] theorem poke_copies (s : State) (a : Nat) (bs : List Byte) : (poke s a bs).copies = s.copies := rfl
@[simp] theorem poke_permutes (s : State) (a : Nat) (bs : List Byte) : (poke s a bs).permutes = s.permutes := rfl
@[simp] theorem poke_readies (s : State) (a : Nat) (bs : List Byte) : (poke s a bs).readies = s.readies := rfl
@[simp] theorem poke_cays (s : State) (a : Nat) (bs : List Byte) : (poke s a bs).cays = s.cays := rfl
@[simp] theorem poke_folds (s : State) (a : Nat) (bs : List Byte) : (poke s a bs).folds = s.folds := rfl
@[simp] theorem poke_upsets (s : State) (a : Nat) (bs : List Byte) : (poke s a bs).upsets = s.upsets := rfl
@[simp] theorem poke_kickAt (s : State) (a : Nat) (bs : List Byte) : (poke s a bs).kickAt = s.kickAt := rfl
@[simp] theorem poke_wdStopped (s : State) (a : Nat) (bs : List Byte) : (poke s a bs).wdStopped = s.wdStopped := rfl
@[simp] theorem poke_beacons (s : State) (a : Nat) (bs : List Byte) : (poke s a bs).beacons = s.beacons := rfl
@[simp] theorem poke_origins (s : State) (a : Nat) (bs : List Byte) : (poke s a bs).origins = s.origins := rfl
@[simp] theorem poke_barred (s : State) (a : Nat) (bs : List Byte) : (poke s a bs).barred = s.barred := rfl
@[simp] theorem poke_softAt (s : State) (a : Nat) (bs : List Byte) : (poke s a bs).softAt = s.softAt := rfl
@[simp] theorem poke_decayAt (s : State) (a : Nat) (bs : List Byte) : (poke s a bs).decayAt = s.decayAt := rfl
@[simp] theorem poke_access (s : State) (a : Nat) (bs : List Byte) : (poke s a bs).access = s.access := rfl
@[simp] theorem poke_copying (s : State) (a : Nat) (bs : List Byte) : (poke s a bs).copying = s.copying := rfl
@[simp] theorem poke_eyes (s : State) (a : Nat) (bs : List Byte) : (poke s a bs).eyes = s.eyes := rfl
@[simp] theorem poke_assemblies (s : State) (a : Nat) (bs : List Byte) : (poke s a bs).assemblies = s.assemblies := rfl
@[simp] theorem poke_reports (s : State) (a : Nat) (bs : List Byte) : (poke s a bs).reports = s.reports := rfl
@[simp] theorem poke_signs (s : State) (a : Nat) (bs : List Byte) : (poke s a bs).signs = s.signs := rfl
@[simp] theorem poke_releases (s : State) (a : Nat) (bs : List Byte) : (poke s a bs).releases = s.releases := rfl
@[simp] theorem poke_replies (s : State) (a : Nat) (bs : List Byte) : (poke s a bs).replies = s.replies := rfl
@[simp] theorem poke_image (s : State) (a : Nat) (bs : List Byte) : (poke s a bs).image = s.image := rfl
@[simp] theorem poke_rpa (s : State) (a : Nat) (bs : List Byte) : (poke s a bs).rpa = s.rpa := rfl
@[simp] theorem poke_boot (s : State) (a : Nat) (bs : List Byte) : (poke s a bs).boot = s.boot := rfl
@[simp] theorem poke_power (s : State) (a : Nat) (bs : List Byte) : (poke s a bs).power = s.power := rfl

@[simp] theorem putCay_pending (s : State) (n : Nat) (m : Milar) : (putCay s n m).pending = s.pending := rfl
@[simp] theorem putCay_now (s : State) (n : Nat) (m : Milar) : (putCay s n m).now = s.now := rfl
@[simp] theorem putCay_free (s : State) (n : Nat) (m : Milar) : (putCay s n m).free = s.free := rfl
@[simp] theorem putCay_out (s : State) (n : Nat) (m : Milar) : (putCay s n m).out = s.out := rfl
@[simp] theorem putCay_regs (s : State) (n : Nat) (m : Milar) : (putCay s n m).regs = s.regs := rfl
@[simp] theorem putCay_shadows (s : State) (n : Nat) (m : Milar) : (putCay s n m).shadows = s.shadows := rfl
@[simp] theorem putCay_mem (s : State) (n : Nat) (m : Milar) : (putCay s n m).mem = s.mem := rfl
@[simp] theorem putCay_poison (s : State) (n : Nat) (m : Milar) : (putCay s n m).poison = s.poison := rfl
@[simp] theorem putCay_allocs (s : State) (n : Nat) (m : Milar) : (putCay s n m).allocs = s.allocs := rfl
@[simp] theorem putCay_zeroing (s : State) (n : Nat) (m : Milar) : (putCay s n m).zeroing = s.zeroing := rfl
@[simp] theorem putCay_moves (s : State) (n : Nat) (m : Milar) : (putCay s n m).moves = s.moves := rfl
@[simp] theorem putCay_descs (s : State) (n : Nat) (m : Milar) : (putCay s n m).descs = s.descs := rfl
@[simp] theorem putCay_freeList (s : State) (n : Nat) (m : Milar) : (putCay s n m).freeList = s.freeList := rfl
@[simp] theorem putCay_freshCell (s : State) (n : Nat) (m : Milar) : (putCay s n m).freshCell = s.freshCell := rfl
@[simp] theorem putCay_cells (s : State) (n : Nat) (m : Milar) : (putCay s n m).cells = s.cells := rfl
@[simp] theorem putCay_torus (s : State) (n : Nat) (m : Milar) : (putCay s n m).torus = s.torus := rfl
@[simp] theorem putCay_egress (s : State) (n : Nat) (m : Milar) : (putCay s n m).egress = s.egress := rfl
@[simp] theorem putCay_echo (s : State) (n : Nat) (m : Milar) : (putCay s n m).echo = s.echo := rfl
@[simp] theorem putCay_lastRecover (s : State) (n : Nat) (m : Milar) : (putCay s n m).lastRecover = s.lastRecover := rfl
@[simp] theorem putCay_queues (s : State) (n : Nat) (m : Milar) : (putCay s n m).queues = s.queues := rfl
@[simp] theorem putCay_notify (s : State) (n : Nat) (m : Milar) : (putCay s n m).notify = s.notify := rfl
@[simp] theorem putCay_bme (s : State) (n : Nat) (m : Milar) : (putCay s n m).bme = s.bme := rfl
@[simp] theorem putCay_pcie (s : State) (n : Nat) (m : Milar) : (putCay s n m).pcie = s.pcie := rfl
@[simp] theorem putCay_sessions (s : State) (n : Nat) (m : Milar) : (putCay s n m).sessions = s.sessions := rfl
@[simp] theorem putCay_groups (s : State) (n : Nat) (m : Milar) : (putCay s n m).groups = s.groups := rfl
@[simp] theorem putCay_buckets (s : State) (n : Nat) (m : Milar) : (putCay s n m).buckets = s.buckets := rfl
@[simp] theorem putCay_homes (s : State) (n : Nat) (m : Milar) : (putCay s n m).homes = s.homes := rfl
@[simp] theorem putCay_causeway (s : State) (n : Nat) (m : Milar) : (putCay s n m).causeway = s.causeway := rfl
@[simp] theorem putCay_lates (s : State) (n : Nat) (m : Milar) : (putCay s n m).lates = s.lates := rfl
@[simp] theorem putCay_residues (s : State) (n : Nat) (m : Milar) : (putCay s n m).residues = s.residues := rfl
@[simp] theorem putCay_layers (s : State) (n : Nat) (m : Milar) : (putCay s n m).layers = s.layers := rfl
@[simp] theorem putCay_slots (s : State) (n : Nat) (m : Milar) : (putCay s n m).slots = s.slots := rfl
@[simp] theorem putCay_steps (s : State) (n : Nat) (m : Milar) : (putCay s n m).steps = s.steps := rfl
@[simp] theorem putCay_ferries (s : State) (n : Nat) (m : Milar) : (putCay s n m).ferries = s.ferries := rfl
@[simp] theorem putCay_opens (s : State) (n : Nat) (m : Milar) : (putCay s n m).opens = s.opens := rfl
@[simp] theorem putCay_begun (s : State) (n : Nat) (m : Milar) : (putCay s n m).begun = s.begun := rfl
@[simp] theorem putCay_gathers (s : State) (n : Nat) (m : Milar) : (putCay s n m).gathers = s.gathers := rfl
@[simp] theorem putCay_finished (s : State) (n : Nat) (m : Milar) : (putCay s n m).finished = s.finished := rfl
@[simp] theorem putCay_copies (s : State) (n : Nat) (m : Milar) : (putCay s n m).copies = s.copies := rfl
@[simp] theorem putCay_permutes (s : State) (n : Nat) (m : Milar) : (putCay s n m).permutes = s.permutes := rfl
@[simp] theorem putCay_readies (s : State) (n : Nat) (m : Milar) : (putCay s n m).readies = s.readies := rfl
@[simp] theorem putCay_folds (s : State) (n : Nat) (m : Milar) : (putCay s n m).folds = s.folds := rfl
@[simp] theorem putCay_upsets (s : State) (n : Nat) (m : Milar) : (putCay s n m).upsets = s.upsets := rfl
@[simp] theorem putCay_kickAt (s : State) (n : Nat) (m : Milar) : (putCay s n m).kickAt = s.kickAt := rfl
@[simp] theorem putCay_wdStopped (s : State) (n : Nat) (m : Milar) : (putCay s n m).wdStopped = s.wdStopped := rfl
@[simp] theorem putCay_beacons (s : State) (n : Nat) (m : Milar) : (putCay s n m).beacons = s.beacons := rfl
@[simp] theorem putCay_origins (s : State) (n : Nat) (m : Milar) : (putCay s n m).origins = s.origins := rfl
@[simp] theorem putCay_barred (s : State) (n : Nat) (m : Milar) : (putCay s n m).barred = s.barred := rfl
@[simp] theorem putCay_softAt (s : State) (n : Nat) (m : Milar) : (putCay s n m).softAt = s.softAt := rfl
@[simp] theorem putCay_decayAt (s : State) (n : Nat) (m : Milar) : (putCay s n m).decayAt = s.decayAt := rfl
@[simp] theorem putCay_access (s : State) (n : Nat) (m : Milar) : (putCay s n m).access = s.access := rfl
@[simp] theorem putCay_copying (s : State) (n : Nat) (m : Milar) : (putCay s n m).copying = s.copying := rfl
@[simp] theorem putCay_eyes (s : State) (n : Nat) (m : Milar) : (putCay s n m).eyes = s.eyes := rfl
@[simp] theorem putCay_assemblies (s : State) (n : Nat) (m : Milar) : (putCay s n m).assemblies = s.assemblies := rfl
@[simp] theorem putCay_reports (s : State) (n : Nat) (m : Milar) : (putCay s n m).reports = s.reports := rfl
@[simp] theorem putCay_signs (s : State) (n : Nat) (m : Milar) : (putCay s n m).signs = s.signs := rfl
@[simp] theorem putCay_releases (s : State) (n : Nat) (m : Milar) : (putCay s n m).releases = s.releases := rfl
@[simp] theorem putCay_replies (s : State) (n : Nat) (m : Milar) : (putCay s n m).replies = s.replies := rfl
@[simp] theorem putCay_image (s : State) (n : Nat) (m : Milar) : (putCay s n m).image = s.image := rfl
@[simp] theorem putCay_rpa (s : State) (n : Nat) (m : Milar) : (putCay s n m).rpa = s.rpa := rfl
@[simp] theorem putCay_boot (s : State) (n : Nat) (m : Milar) : (putCay s n m).boot = s.boot := rfl
@[simp] theorem putCay_power (s : State) (n : Nat) (m : Milar) : (putCay s n m).power = s.power := rfl

@[simp] theorem withQueue_pending (s : State) (k : Nat) (f : QueueSt → QueueSt) : (withQueue s k f).pending = s.pending := rfl
@[simp] theorem withQueue_now (s : State) (k : Nat) (f : QueueSt → QueueSt) : (withQueue s k f).now = s.now := rfl
@[simp] theorem withQueue_free (s : State) (k : Nat) (f : QueueSt → QueueSt) : (withQueue s k f).free = s.free := rfl
@[simp] theorem withQueue_out (s : State) (k : Nat) (f : QueueSt → QueueSt) : (withQueue s k f).out = s.out := rfl
@[simp] theorem withQueue_regs (s : State) (k : Nat) (f : QueueSt → QueueSt) : (withQueue s k f).regs = s.regs := rfl
@[simp] theorem withQueue_shadows (s : State) (k : Nat) (f : QueueSt → QueueSt) : (withQueue s k f).shadows = s.shadows := rfl
@[simp] theorem withQueue_mem (s : State) (k : Nat) (f : QueueSt → QueueSt) : (withQueue s k f).mem = s.mem := rfl
@[simp] theorem withQueue_poison (s : State) (k : Nat) (f : QueueSt → QueueSt) : (withQueue s k f).poison = s.poison := rfl
@[simp] theorem withQueue_allocs (s : State) (k : Nat) (f : QueueSt → QueueSt) : (withQueue s k f).allocs = s.allocs := rfl
@[simp] theorem withQueue_zeroing (s : State) (k : Nat) (f : QueueSt → QueueSt) : (withQueue s k f).zeroing = s.zeroing := rfl
@[simp] theorem withQueue_moves (s : State) (k : Nat) (f : QueueSt → QueueSt) : (withQueue s k f).moves = s.moves := rfl
@[simp] theorem withQueue_descs (s : State) (k : Nat) (f : QueueSt → QueueSt) : (withQueue s k f).descs = s.descs := rfl
@[simp] theorem withQueue_freeList (s : State) (k : Nat) (f : QueueSt → QueueSt) : (withQueue s k f).freeList = s.freeList := rfl
@[simp] theorem withQueue_freshCell (s : State) (k : Nat) (f : QueueSt → QueueSt) : (withQueue s k f).freshCell = s.freshCell := rfl
@[simp] theorem withQueue_cells (s : State) (k : Nat) (f : QueueSt → QueueSt) : (withQueue s k f).cells = s.cells := rfl
@[simp] theorem withQueue_torus (s : State) (k : Nat) (f : QueueSt → QueueSt) : (withQueue s k f).torus = s.torus := rfl
@[simp] theorem withQueue_egress (s : State) (k : Nat) (f : QueueSt → QueueSt) : (withQueue s k f).egress = s.egress := rfl
@[simp] theorem withQueue_echo (s : State) (k : Nat) (f : QueueSt → QueueSt) : (withQueue s k f).echo = s.echo := rfl
@[simp] theorem withQueue_lastRecover (s : State) (k : Nat) (f : QueueSt → QueueSt) : (withQueue s k f).lastRecover = s.lastRecover := rfl
@[simp] theorem withQueue_notify (s : State) (k : Nat) (f : QueueSt → QueueSt) : (withQueue s k f).notify = s.notify := rfl
@[simp] theorem withQueue_bme (s : State) (k : Nat) (f : QueueSt → QueueSt) : (withQueue s k f).bme = s.bme := rfl
@[simp] theorem withQueue_pcie (s : State) (k : Nat) (f : QueueSt → QueueSt) : (withQueue s k f).pcie = s.pcie := rfl
@[simp] theorem withQueue_sessions (s : State) (k : Nat) (f : QueueSt → QueueSt) : (withQueue s k f).sessions = s.sessions := rfl
@[simp] theorem withQueue_groups (s : State) (k : Nat) (f : QueueSt → QueueSt) : (withQueue s k f).groups = s.groups := rfl
@[simp] theorem withQueue_buckets (s : State) (k : Nat) (f : QueueSt → QueueSt) : (withQueue s k f).buckets = s.buckets := rfl
@[simp] theorem withQueue_homes (s : State) (k : Nat) (f : QueueSt → QueueSt) : (withQueue s k f).homes = s.homes := rfl
@[simp] theorem withQueue_causeway (s : State) (k : Nat) (f : QueueSt → QueueSt) : (withQueue s k f).causeway = s.causeway := rfl
@[simp] theorem withQueue_lates (s : State) (k : Nat) (f : QueueSt → QueueSt) : (withQueue s k f).lates = s.lates := rfl
@[simp] theorem withQueue_residues (s : State) (k : Nat) (f : QueueSt → QueueSt) : (withQueue s k f).residues = s.residues := rfl
@[simp] theorem withQueue_layers (s : State) (k : Nat) (f : QueueSt → QueueSt) : (withQueue s k f).layers = s.layers := rfl
@[simp] theorem withQueue_slots (s : State) (k : Nat) (f : QueueSt → QueueSt) : (withQueue s k f).slots = s.slots := rfl
@[simp] theorem withQueue_steps (s : State) (k : Nat) (f : QueueSt → QueueSt) : (withQueue s k f).steps = s.steps := rfl
@[simp] theorem withQueue_ferries (s : State) (k : Nat) (f : QueueSt → QueueSt) : (withQueue s k f).ferries = s.ferries := rfl
@[simp] theorem withQueue_opens (s : State) (k : Nat) (f : QueueSt → QueueSt) : (withQueue s k f).opens = s.opens := rfl
@[simp] theorem withQueue_begun (s : State) (k : Nat) (f : QueueSt → QueueSt) : (withQueue s k f).begun = s.begun := rfl
@[simp] theorem withQueue_gathers (s : State) (k : Nat) (f : QueueSt → QueueSt) : (withQueue s k f).gathers = s.gathers := rfl
@[simp] theorem withQueue_finished (s : State) (k : Nat) (f : QueueSt → QueueSt) : (withQueue s k f).finished = s.finished := rfl
@[simp] theorem withQueue_copies (s : State) (k : Nat) (f : QueueSt → QueueSt) : (withQueue s k f).copies = s.copies := rfl
@[simp] theorem withQueue_permutes (s : State) (k : Nat) (f : QueueSt → QueueSt) : (withQueue s k f).permutes = s.permutes := rfl
@[simp] theorem withQueue_readies (s : State) (k : Nat) (f : QueueSt → QueueSt) : (withQueue s k f).readies = s.readies := rfl
@[simp] theorem withQueue_cays (s : State) (k : Nat) (f : QueueSt → QueueSt) : (withQueue s k f).cays = s.cays := rfl
@[simp] theorem withQueue_folds (s : State) (k : Nat) (f : QueueSt → QueueSt) : (withQueue s k f).folds = s.folds := rfl
@[simp] theorem withQueue_upsets (s : State) (k : Nat) (f : QueueSt → QueueSt) : (withQueue s k f).upsets = s.upsets := rfl
@[simp] theorem withQueue_kickAt (s : State) (k : Nat) (f : QueueSt → QueueSt) : (withQueue s k f).kickAt = s.kickAt := rfl
@[simp] theorem withQueue_wdStopped (s : State) (k : Nat) (f : QueueSt → QueueSt) : (withQueue s k f).wdStopped = s.wdStopped := rfl
@[simp] theorem withQueue_beacons (s : State) (k : Nat) (f : QueueSt → QueueSt) : (withQueue s k f).beacons = s.beacons := rfl
@[simp] theorem withQueue_origins (s : State) (k : Nat) (f : QueueSt → QueueSt) : (withQueue s k f).origins = s.origins := rfl
@[simp] theorem withQueue_barred (s : State) (k : Nat) (f : QueueSt → QueueSt) : (withQueue s k f).barred = s.barred := rfl
@[simp] theorem withQueue_softAt (s : State) (k : Nat) (f : QueueSt → QueueSt) : (withQueue s k f).softAt = s.softAt := rfl
@[simp] theorem withQueue_decayAt (s : State) (k : Nat) (f : QueueSt → QueueSt) : (withQueue s k f).decayAt = s.decayAt := rfl
@[simp] theorem withQueue_access (s : State) (k : Nat) (f : QueueSt → QueueSt) : (withQueue s k f).access = s.access := rfl
@[simp] theorem withQueue_copying (s : State) (k : Nat) (f : QueueSt → QueueSt) : (withQueue s k f).copying = s.copying := rfl
@[simp] theorem withQueue_eyes (s : State) (k : Nat) (f : QueueSt → QueueSt) : (withQueue s k f).eyes = s.eyes := rfl
@[simp] theorem withQueue_assemblies (s : State) (k : Nat) (f : QueueSt → QueueSt) : (withQueue s k f).assemblies = s.assemblies := rfl
@[simp] theorem withQueue_reports (s : State) (k : Nat) (f : QueueSt → QueueSt) : (withQueue s k f).reports = s.reports := rfl
@[simp] theorem withQueue_signs (s : State) (k : Nat) (f : QueueSt → QueueSt) : (withQueue s k f).signs = s.signs := rfl
@[simp] theorem withQueue_releases (s : State) (k : Nat) (f : QueueSt → QueueSt) : (withQueue s k f).releases = s.releases := rfl
@[simp] theorem withQueue_replies (s : State) (k : Nat) (f : QueueSt → QueueSt) : (withQueue s k f).replies = s.replies := rfl
@[simp] theorem withQueue_image (s : State) (k : Nat) (f : QueueSt → QueueSt) : (withQueue s k f).image = s.image := rfl
@[simp] theorem withQueue_rpa (s : State) (k : Nat) (f : QueueSt → QueueSt) : (withQueue s k f).rpa = s.rpa := rfl
@[simp] theorem withQueue_boot (s : State) (k : Nat) (f : QueueSt → QueueSt) : (withQueue s k f).boot = s.boot := rfl
@[simp] theorem withQueue_power (s : State) (k : Nat) (f : QueueSt → QueueSt) : (withQueue s k f).power = s.power := rfl

@[simp] theorem withTorus_pending (s : State) (p : Nat) (f : TorusSt → TorusSt) : (withTorus s p f).pending = s.pending := rfl
@[simp] theorem withTorus_now (s : State) (p : Nat) (f : TorusSt → TorusSt) : (withTorus s p f).now = s.now := rfl
@[simp] theorem withTorus_free (s : State) (p : Nat) (f : TorusSt → TorusSt) : (withTorus s p f).free = s.free := rfl
@[simp] theorem withTorus_out (s : State) (p : Nat) (f : TorusSt → TorusSt) : (withTorus s p f).out = s.out := rfl
@[simp] theorem withTorus_regs (s : State) (p : Nat) (f : TorusSt → TorusSt) : (withTorus s p f).regs = s.regs := rfl
@[simp] theorem withTorus_shadows (s : State) (p : Nat) (f : TorusSt → TorusSt) : (withTorus s p f).shadows = s.shadows := rfl
@[simp] theorem withTorus_mem (s : State) (p : Nat) (f : TorusSt → TorusSt) : (withTorus s p f).mem = s.mem := rfl
@[simp] theorem withTorus_poison (s : State) (p : Nat) (f : TorusSt → TorusSt) : (withTorus s p f).poison = s.poison := rfl
@[simp] theorem withTorus_allocs (s : State) (p : Nat) (f : TorusSt → TorusSt) : (withTorus s p f).allocs = s.allocs := rfl
@[simp] theorem withTorus_zeroing (s : State) (p : Nat) (f : TorusSt → TorusSt) : (withTorus s p f).zeroing = s.zeroing := rfl
@[simp] theorem withTorus_moves (s : State) (p : Nat) (f : TorusSt → TorusSt) : (withTorus s p f).moves = s.moves := rfl
@[simp] theorem withTorus_descs (s : State) (p : Nat) (f : TorusSt → TorusSt) : (withTorus s p f).descs = s.descs := rfl
@[simp] theorem withTorus_freeList (s : State) (p : Nat) (f : TorusSt → TorusSt) : (withTorus s p f).freeList = s.freeList := rfl
@[simp] theorem withTorus_freshCell (s : State) (p : Nat) (f : TorusSt → TorusSt) : (withTorus s p f).freshCell = s.freshCell := rfl
@[simp] theorem withTorus_cells (s : State) (p : Nat) (f : TorusSt → TorusSt) : (withTorus s p f).cells = s.cells := rfl
@[simp] theorem withTorus_egress (s : State) (p : Nat) (f : TorusSt → TorusSt) : (withTorus s p f).egress = s.egress := rfl
@[simp] theorem withTorus_echo (s : State) (p : Nat) (f : TorusSt → TorusSt) : (withTorus s p f).echo = s.echo := rfl
@[simp] theorem withTorus_lastRecover (s : State) (p : Nat) (f : TorusSt → TorusSt) : (withTorus s p f).lastRecover = s.lastRecover := rfl
@[simp] theorem withTorus_queues (s : State) (p : Nat) (f : TorusSt → TorusSt) : (withTorus s p f).queues = s.queues := rfl
@[simp] theorem withTorus_notify (s : State) (p : Nat) (f : TorusSt → TorusSt) : (withTorus s p f).notify = s.notify := rfl
@[simp] theorem withTorus_bme (s : State) (p : Nat) (f : TorusSt → TorusSt) : (withTorus s p f).bme = s.bme := rfl
@[simp] theorem withTorus_pcie (s : State) (p : Nat) (f : TorusSt → TorusSt) : (withTorus s p f).pcie = s.pcie := rfl
@[simp] theorem withTorus_sessions (s : State) (p : Nat) (f : TorusSt → TorusSt) : (withTorus s p f).sessions = s.sessions := rfl
@[simp] theorem withTorus_groups (s : State) (p : Nat) (f : TorusSt → TorusSt) : (withTorus s p f).groups = s.groups := rfl
@[simp] theorem withTorus_buckets (s : State) (p : Nat) (f : TorusSt → TorusSt) : (withTorus s p f).buckets = s.buckets := rfl
@[simp] theorem withTorus_homes (s : State) (p : Nat) (f : TorusSt → TorusSt) : (withTorus s p f).homes = s.homes := rfl
@[simp] theorem withTorus_causeway (s : State) (p : Nat) (f : TorusSt → TorusSt) : (withTorus s p f).causeway = s.causeway := rfl
@[simp] theorem withTorus_lates (s : State) (p : Nat) (f : TorusSt → TorusSt) : (withTorus s p f).lates = s.lates := rfl
@[simp] theorem withTorus_residues (s : State) (p : Nat) (f : TorusSt → TorusSt) : (withTorus s p f).residues = s.residues := rfl
@[simp] theorem withTorus_layers (s : State) (p : Nat) (f : TorusSt → TorusSt) : (withTorus s p f).layers = s.layers := rfl
@[simp] theorem withTorus_slots (s : State) (p : Nat) (f : TorusSt → TorusSt) : (withTorus s p f).slots = s.slots := rfl
@[simp] theorem withTorus_steps (s : State) (p : Nat) (f : TorusSt → TorusSt) : (withTorus s p f).steps = s.steps := rfl
@[simp] theorem withTorus_ferries (s : State) (p : Nat) (f : TorusSt → TorusSt) : (withTorus s p f).ferries = s.ferries := rfl
@[simp] theorem withTorus_opens (s : State) (p : Nat) (f : TorusSt → TorusSt) : (withTorus s p f).opens = s.opens := rfl
@[simp] theorem withTorus_begun (s : State) (p : Nat) (f : TorusSt → TorusSt) : (withTorus s p f).begun = s.begun := rfl
@[simp] theorem withTorus_gathers (s : State) (p : Nat) (f : TorusSt → TorusSt) : (withTorus s p f).gathers = s.gathers := rfl
@[simp] theorem withTorus_finished (s : State) (p : Nat) (f : TorusSt → TorusSt) : (withTorus s p f).finished = s.finished := rfl
@[simp] theorem withTorus_copies (s : State) (p : Nat) (f : TorusSt → TorusSt) : (withTorus s p f).copies = s.copies := rfl
@[simp] theorem withTorus_permutes (s : State) (p : Nat) (f : TorusSt → TorusSt) : (withTorus s p f).permutes = s.permutes := rfl
@[simp] theorem withTorus_readies (s : State) (p : Nat) (f : TorusSt → TorusSt) : (withTorus s p f).readies = s.readies := rfl
@[simp] theorem withTorus_cays (s : State) (p : Nat) (f : TorusSt → TorusSt) : (withTorus s p f).cays = s.cays := rfl
@[simp] theorem withTorus_folds (s : State) (p : Nat) (f : TorusSt → TorusSt) : (withTorus s p f).folds = s.folds := rfl
@[simp] theorem withTorus_upsets (s : State) (p : Nat) (f : TorusSt → TorusSt) : (withTorus s p f).upsets = s.upsets := rfl
@[simp] theorem withTorus_kickAt (s : State) (p : Nat) (f : TorusSt → TorusSt) : (withTorus s p f).kickAt = s.kickAt := rfl
@[simp] theorem withTorus_wdStopped (s : State) (p : Nat) (f : TorusSt → TorusSt) : (withTorus s p f).wdStopped = s.wdStopped := rfl
@[simp] theorem withTorus_beacons (s : State) (p : Nat) (f : TorusSt → TorusSt) : (withTorus s p f).beacons = s.beacons := rfl
@[simp] theorem withTorus_origins (s : State) (p : Nat) (f : TorusSt → TorusSt) : (withTorus s p f).origins = s.origins := rfl
@[simp] theorem withTorus_barred (s : State) (p : Nat) (f : TorusSt → TorusSt) : (withTorus s p f).barred = s.barred := rfl
@[simp] theorem withTorus_softAt (s : State) (p : Nat) (f : TorusSt → TorusSt) : (withTorus s p f).softAt = s.softAt := rfl
@[simp] theorem withTorus_decayAt (s : State) (p : Nat) (f : TorusSt → TorusSt) : (withTorus s p f).decayAt = s.decayAt := rfl
@[simp] theorem withTorus_access (s : State) (p : Nat) (f : TorusSt → TorusSt) : (withTorus s p f).access = s.access := rfl
@[simp] theorem withTorus_copying (s : State) (p : Nat) (f : TorusSt → TorusSt) : (withTorus s p f).copying = s.copying := rfl
@[simp] theorem withTorus_eyes (s : State) (p : Nat) (f : TorusSt → TorusSt) : (withTorus s p f).eyes = s.eyes := rfl
@[simp] theorem withTorus_assemblies (s : State) (p : Nat) (f : TorusSt → TorusSt) : (withTorus s p f).assemblies = s.assemblies := rfl
@[simp] theorem withTorus_reports (s : State) (p : Nat) (f : TorusSt → TorusSt) : (withTorus s p f).reports = s.reports := rfl
@[simp] theorem withTorus_signs (s : State) (p : Nat) (f : TorusSt → TorusSt) : (withTorus s p f).signs = s.signs := rfl
@[simp] theorem withTorus_releases (s : State) (p : Nat) (f : TorusSt → TorusSt) : (withTorus s p f).releases = s.releases := rfl
@[simp] theorem withTorus_replies (s : State) (p : Nat) (f : TorusSt → TorusSt) : (withTorus s p f).replies = s.replies := rfl
@[simp] theorem withTorus_image (s : State) (p : Nat) (f : TorusSt → TorusSt) : (withTorus s p f).image = s.image := rfl
@[simp] theorem withTorus_rpa (s : State) (p : Nat) (f : TorusSt → TorusSt) : (withTorus s p f).rpa = s.rpa := rfl
@[simp] theorem withTorus_boot (s : State) (p : Nat) (f : TorusSt → TorusSt) : (withTorus s p f).boot = s.boot := rfl
@[simp] theorem withTorus_power (s : State) (p : Nat) (f : TorusSt → TorusSt) : (withTorus s p f).power = s.power := rfl

@[simp] theorem withEgress_pending (s : State) (e : Nat) (f : EgressSt → EgressSt) : (withEgress s e f).pending = s.pending := rfl
@[simp] theorem withEgress_now (s : State) (e : Nat) (f : EgressSt → EgressSt) : (withEgress s e f).now = s.now := rfl
@[simp] theorem withEgress_free (s : State) (e : Nat) (f : EgressSt → EgressSt) : (withEgress s e f).free = s.free := rfl
@[simp] theorem withEgress_out (s : State) (e : Nat) (f : EgressSt → EgressSt) : (withEgress s e f).out = s.out := rfl
@[simp] theorem withEgress_regs (s : State) (e : Nat) (f : EgressSt → EgressSt) : (withEgress s e f).regs = s.regs := rfl
@[simp] theorem withEgress_shadows (s : State) (e : Nat) (f : EgressSt → EgressSt) : (withEgress s e f).shadows = s.shadows := rfl
@[simp] theorem withEgress_mem (s : State) (e : Nat) (f : EgressSt → EgressSt) : (withEgress s e f).mem = s.mem := rfl
@[simp] theorem withEgress_poison (s : State) (e : Nat) (f : EgressSt → EgressSt) : (withEgress s e f).poison = s.poison := rfl
@[simp] theorem withEgress_allocs (s : State) (e : Nat) (f : EgressSt → EgressSt) : (withEgress s e f).allocs = s.allocs := rfl
@[simp] theorem withEgress_zeroing (s : State) (e : Nat) (f : EgressSt → EgressSt) : (withEgress s e f).zeroing = s.zeroing := rfl
@[simp] theorem withEgress_moves (s : State) (e : Nat) (f : EgressSt → EgressSt) : (withEgress s e f).moves = s.moves := rfl
@[simp] theorem withEgress_descs (s : State) (e : Nat) (f : EgressSt → EgressSt) : (withEgress s e f).descs = s.descs := rfl
@[simp] theorem withEgress_freeList (s : State) (e : Nat) (f : EgressSt → EgressSt) : (withEgress s e f).freeList = s.freeList := rfl
@[simp] theorem withEgress_freshCell (s : State) (e : Nat) (f : EgressSt → EgressSt) : (withEgress s e f).freshCell = s.freshCell := rfl
@[simp] theorem withEgress_cells (s : State) (e : Nat) (f : EgressSt → EgressSt) : (withEgress s e f).cells = s.cells := rfl
@[simp] theorem withEgress_torus (s : State) (e : Nat) (f : EgressSt → EgressSt) : (withEgress s e f).torus = s.torus := rfl
@[simp] theorem withEgress_echo (s : State) (e : Nat) (f : EgressSt → EgressSt) : (withEgress s e f).echo = s.echo := rfl
@[simp] theorem withEgress_lastRecover (s : State) (e : Nat) (f : EgressSt → EgressSt) : (withEgress s e f).lastRecover = s.lastRecover := rfl
@[simp] theorem withEgress_queues (s : State) (e : Nat) (f : EgressSt → EgressSt) : (withEgress s e f).queues = s.queues := rfl
@[simp] theorem withEgress_notify (s : State) (e : Nat) (f : EgressSt → EgressSt) : (withEgress s e f).notify = s.notify := rfl
@[simp] theorem withEgress_bme (s : State) (e : Nat) (f : EgressSt → EgressSt) : (withEgress s e f).bme = s.bme := rfl
@[simp] theorem withEgress_pcie (s : State) (e : Nat) (f : EgressSt → EgressSt) : (withEgress s e f).pcie = s.pcie := rfl
@[simp] theorem withEgress_sessions (s : State) (e : Nat) (f : EgressSt → EgressSt) : (withEgress s e f).sessions = s.sessions := rfl
@[simp] theorem withEgress_groups (s : State) (e : Nat) (f : EgressSt → EgressSt) : (withEgress s e f).groups = s.groups := rfl
@[simp] theorem withEgress_buckets (s : State) (e : Nat) (f : EgressSt → EgressSt) : (withEgress s e f).buckets = s.buckets := rfl
@[simp] theorem withEgress_homes (s : State) (e : Nat) (f : EgressSt → EgressSt) : (withEgress s e f).homes = s.homes := rfl
@[simp] theorem withEgress_causeway (s : State) (e : Nat) (f : EgressSt → EgressSt) : (withEgress s e f).causeway = s.causeway := rfl
@[simp] theorem withEgress_lates (s : State) (e : Nat) (f : EgressSt → EgressSt) : (withEgress s e f).lates = s.lates := rfl
@[simp] theorem withEgress_residues (s : State) (e : Nat) (f : EgressSt → EgressSt) : (withEgress s e f).residues = s.residues := rfl
@[simp] theorem withEgress_layers (s : State) (e : Nat) (f : EgressSt → EgressSt) : (withEgress s e f).layers = s.layers := rfl
@[simp] theorem withEgress_slots (s : State) (e : Nat) (f : EgressSt → EgressSt) : (withEgress s e f).slots = s.slots := rfl
@[simp] theorem withEgress_steps (s : State) (e : Nat) (f : EgressSt → EgressSt) : (withEgress s e f).steps = s.steps := rfl
@[simp] theorem withEgress_ferries (s : State) (e : Nat) (f : EgressSt → EgressSt) : (withEgress s e f).ferries = s.ferries := rfl
@[simp] theorem withEgress_opens (s : State) (e : Nat) (f : EgressSt → EgressSt) : (withEgress s e f).opens = s.opens := rfl
@[simp] theorem withEgress_begun (s : State) (e : Nat) (f : EgressSt → EgressSt) : (withEgress s e f).begun = s.begun := rfl
@[simp] theorem withEgress_gathers (s : State) (e : Nat) (f : EgressSt → EgressSt) : (withEgress s e f).gathers = s.gathers := rfl
@[simp] theorem withEgress_finished (s : State) (e : Nat) (f : EgressSt → EgressSt) : (withEgress s e f).finished = s.finished := rfl
@[simp] theorem withEgress_copies (s : State) (e : Nat) (f : EgressSt → EgressSt) : (withEgress s e f).copies = s.copies := rfl
@[simp] theorem withEgress_permutes (s : State) (e : Nat) (f : EgressSt → EgressSt) : (withEgress s e f).permutes = s.permutes := rfl
@[simp] theorem withEgress_readies (s : State) (e : Nat) (f : EgressSt → EgressSt) : (withEgress s e f).readies = s.readies := rfl
@[simp] theorem withEgress_cays (s : State) (e : Nat) (f : EgressSt → EgressSt) : (withEgress s e f).cays = s.cays := rfl
@[simp] theorem withEgress_folds (s : State) (e : Nat) (f : EgressSt → EgressSt) : (withEgress s e f).folds = s.folds := rfl
@[simp] theorem withEgress_upsets (s : State) (e : Nat) (f : EgressSt → EgressSt) : (withEgress s e f).upsets = s.upsets := rfl
@[simp] theorem withEgress_kickAt (s : State) (e : Nat) (f : EgressSt → EgressSt) : (withEgress s e f).kickAt = s.kickAt := rfl
@[simp] theorem withEgress_wdStopped (s : State) (e : Nat) (f : EgressSt → EgressSt) : (withEgress s e f).wdStopped = s.wdStopped := rfl
@[simp] theorem withEgress_beacons (s : State) (e : Nat) (f : EgressSt → EgressSt) : (withEgress s e f).beacons = s.beacons := rfl
@[simp] theorem withEgress_origins (s : State) (e : Nat) (f : EgressSt → EgressSt) : (withEgress s e f).origins = s.origins := rfl
@[simp] theorem withEgress_barred (s : State) (e : Nat) (f : EgressSt → EgressSt) : (withEgress s e f).barred = s.barred := rfl
@[simp] theorem withEgress_softAt (s : State) (e : Nat) (f : EgressSt → EgressSt) : (withEgress s e f).softAt = s.softAt := rfl
@[simp] theorem withEgress_decayAt (s : State) (e : Nat) (f : EgressSt → EgressSt) : (withEgress s e f).decayAt = s.decayAt := rfl
@[simp] theorem withEgress_access (s : State) (e : Nat) (f : EgressSt → EgressSt) : (withEgress s e f).access = s.access := rfl
@[simp] theorem withEgress_copying (s : State) (e : Nat) (f : EgressSt → EgressSt) : (withEgress s e f).copying = s.copying := rfl
@[simp] theorem withEgress_eyes (s : State) (e : Nat) (f : EgressSt → EgressSt) : (withEgress s e f).eyes = s.eyes := rfl
@[simp] theorem withEgress_assemblies (s : State) (e : Nat) (f : EgressSt → EgressSt) : (withEgress s e f).assemblies = s.assemblies := rfl
@[simp] theorem withEgress_reports (s : State) (e : Nat) (f : EgressSt → EgressSt) : (withEgress s e f).reports = s.reports := rfl
@[simp] theorem withEgress_signs (s : State) (e : Nat) (f : EgressSt → EgressSt) : (withEgress s e f).signs = s.signs := rfl
@[simp] theorem withEgress_releases (s : State) (e : Nat) (f : EgressSt → EgressSt) : (withEgress s e f).releases = s.releases := rfl
@[simp] theorem withEgress_replies (s : State) (e : Nat) (f : EgressSt → EgressSt) : (withEgress s e f).replies = s.replies := rfl
@[simp] theorem withEgress_image (s : State) (e : Nat) (f : EgressSt → EgressSt) : (withEgress s e f).image = s.image := rfl
@[simp] theorem withEgress_rpa (s : State) (e : Nat) (f : EgressSt → EgressSt) : (withEgress s e f).rpa = s.rpa := rfl
@[simp] theorem withEgress_boot (s : State) (e : Nat) (f : EgressSt → EgressSt) : (withEgress s e f).boot = s.boot := rfl
@[simp] theorem withEgress_power (s : State) (e : Nat) (f : EgressSt → EgressSt) : (withEgress s e f).power = s.power := rfl

@[simp] theorem withBeacon_pending (s : State) (p : Nat) (f : BeaconSt → BeaconSt) : (withBeacon s p f).pending = s.pending := rfl
@[simp] theorem withBeacon_now (s : State) (p : Nat) (f : BeaconSt → BeaconSt) : (withBeacon s p f).now = s.now := rfl
@[simp] theorem withBeacon_free (s : State) (p : Nat) (f : BeaconSt → BeaconSt) : (withBeacon s p f).free = s.free := rfl
@[simp] theorem withBeacon_out (s : State) (p : Nat) (f : BeaconSt → BeaconSt) : (withBeacon s p f).out = s.out := rfl
@[simp] theorem withBeacon_regs (s : State) (p : Nat) (f : BeaconSt → BeaconSt) : (withBeacon s p f).regs = s.regs := rfl
@[simp] theorem withBeacon_shadows (s : State) (p : Nat) (f : BeaconSt → BeaconSt) : (withBeacon s p f).shadows = s.shadows := rfl
@[simp] theorem withBeacon_mem (s : State) (p : Nat) (f : BeaconSt → BeaconSt) : (withBeacon s p f).mem = s.mem := rfl
@[simp] theorem withBeacon_poison (s : State) (p : Nat) (f : BeaconSt → BeaconSt) : (withBeacon s p f).poison = s.poison := rfl
@[simp] theorem withBeacon_allocs (s : State) (p : Nat) (f : BeaconSt → BeaconSt) : (withBeacon s p f).allocs = s.allocs := rfl
@[simp] theorem withBeacon_zeroing (s : State) (p : Nat) (f : BeaconSt → BeaconSt) : (withBeacon s p f).zeroing = s.zeroing := rfl
@[simp] theorem withBeacon_moves (s : State) (p : Nat) (f : BeaconSt → BeaconSt) : (withBeacon s p f).moves = s.moves := rfl
@[simp] theorem withBeacon_descs (s : State) (p : Nat) (f : BeaconSt → BeaconSt) : (withBeacon s p f).descs = s.descs := rfl
@[simp] theorem withBeacon_freeList (s : State) (p : Nat) (f : BeaconSt → BeaconSt) : (withBeacon s p f).freeList = s.freeList := rfl
@[simp] theorem withBeacon_freshCell (s : State) (p : Nat) (f : BeaconSt → BeaconSt) : (withBeacon s p f).freshCell = s.freshCell := rfl
@[simp] theorem withBeacon_cells (s : State) (p : Nat) (f : BeaconSt → BeaconSt) : (withBeacon s p f).cells = s.cells := rfl
@[simp] theorem withBeacon_torus (s : State) (p : Nat) (f : BeaconSt → BeaconSt) : (withBeacon s p f).torus = s.torus := rfl
@[simp] theorem withBeacon_egress (s : State) (p : Nat) (f : BeaconSt → BeaconSt) : (withBeacon s p f).egress = s.egress := rfl
@[simp] theorem withBeacon_echo (s : State) (p : Nat) (f : BeaconSt → BeaconSt) : (withBeacon s p f).echo = s.echo := rfl
@[simp] theorem withBeacon_lastRecover (s : State) (p : Nat) (f : BeaconSt → BeaconSt) : (withBeacon s p f).lastRecover = s.lastRecover := rfl
@[simp] theorem withBeacon_queues (s : State) (p : Nat) (f : BeaconSt → BeaconSt) : (withBeacon s p f).queues = s.queues := rfl
@[simp] theorem withBeacon_notify (s : State) (p : Nat) (f : BeaconSt → BeaconSt) : (withBeacon s p f).notify = s.notify := rfl
@[simp] theorem withBeacon_bme (s : State) (p : Nat) (f : BeaconSt → BeaconSt) : (withBeacon s p f).bme = s.bme := rfl
@[simp] theorem withBeacon_pcie (s : State) (p : Nat) (f : BeaconSt → BeaconSt) : (withBeacon s p f).pcie = s.pcie := rfl
@[simp] theorem withBeacon_sessions (s : State) (p : Nat) (f : BeaconSt → BeaconSt) : (withBeacon s p f).sessions = s.sessions := rfl
@[simp] theorem withBeacon_groups (s : State) (p : Nat) (f : BeaconSt → BeaconSt) : (withBeacon s p f).groups = s.groups := rfl
@[simp] theorem withBeacon_buckets (s : State) (p : Nat) (f : BeaconSt → BeaconSt) : (withBeacon s p f).buckets = s.buckets := rfl
@[simp] theorem withBeacon_homes (s : State) (p : Nat) (f : BeaconSt → BeaconSt) : (withBeacon s p f).homes = s.homes := rfl
@[simp] theorem withBeacon_causeway (s : State) (p : Nat) (f : BeaconSt → BeaconSt) : (withBeacon s p f).causeway = s.causeway := rfl
@[simp] theorem withBeacon_lates (s : State) (p : Nat) (f : BeaconSt → BeaconSt) : (withBeacon s p f).lates = s.lates := rfl
@[simp] theorem withBeacon_residues (s : State) (p : Nat) (f : BeaconSt → BeaconSt) : (withBeacon s p f).residues = s.residues := rfl
@[simp] theorem withBeacon_layers (s : State) (p : Nat) (f : BeaconSt → BeaconSt) : (withBeacon s p f).layers = s.layers := rfl
@[simp] theorem withBeacon_slots (s : State) (p : Nat) (f : BeaconSt → BeaconSt) : (withBeacon s p f).slots = s.slots := rfl
@[simp] theorem withBeacon_steps (s : State) (p : Nat) (f : BeaconSt → BeaconSt) : (withBeacon s p f).steps = s.steps := rfl
@[simp] theorem withBeacon_ferries (s : State) (p : Nat) (f : BeaconSt → BeaconSt) : (withBeacon s p f).ferries = s.ferries := rfl
@[simp] theorem withBeacon_opens (s : State) (p : Nat) (f : BeaconSt → BeaconSt) : (withBeacon s p f).opens = s.opens := rfl
@[simp] theorem withBeacon_begun (s : State) (p : Nat) (f : BeaconSt → BeaconSt) : (withBeacon s p f).begun = s.begun := rfl
@[simp] theorem withBeacon_gathers (s : State) (p : Nat) (f : BeaconSt → BeaconSt) : (withBeacon s p f).gathers = s.gathers := rfl
@[simp] theorem withBeacon_finished (s : State) (p : Nat) (f : BeaconSt → BeaconSt) : (withBeacon s p f).finished = s.finished := rfl
@[simp] theorem withBeacon_copies (s : State) (p : Nat) (f : BeaconSt → BeaconSt) : (withBeacon s p f).copies = s.copies := rfl
@[simp] theorem withBeacon_permutes (s : State) (p : Nat) (f : BeaconSt → BeaconSt) : (withBeacon s p f).permutes = s.permutes := rfl
@[simp] theorem withBeacon_readies (s : State) (p : Nat) (f : BeaconSt → BeaconSt) : (withBeacon s p f).readies = s.readies := rfl
@[simp] theorem withBeacon_cays (s : State) (p : Nat) (f : BeaconSt → BeaconSt) : (withBeacon s p f).cays = s.cays := rfl
@[simp] theorem withBeacon_folds (s : State) (p : Nat) (f : BeaconSt → BeaconSt) : (withBeacon s p f).folds = s.folds := rfl
@[simp] theorem withBeacon_upsets (s : State) (p : Nat) (f : BeaconSt → BeaconSt) : (withBeacon s p f).upsets = s.upsets := rfl
@[simp] theorem withBeacon_kickAt (s : State) (p : Nat) (f : BeaconSt → BeaconSt) : (withBeacon s p f).kickAt = s.kickAt := rfl
@[simp] theorem withBeacon_wdStopped (s : State) (p : Nat) (f : BeaconSt → BeaconSt) : (withBeacon s p f).wdStopped = s.wdStopped := rfl
@[simp] theorem withBeacon_origins (s : State) (p : Nat) (f : BeaconSt → BeaconSt) : (withBeacon s p f).origins = s.origins := rfl
@[simp] theorem withBeacon_barred (s : State) (p : Nat) (f : BeaconSt → BeaconSt) : (withBeacon s p f).barred = s.barred := rfl
@[simp] theorem withBeacon_softAt (s : State) (p : Nat) (f : BeaconSt → BeaconSt) : (withBeacon s p f).softAt = s.softAt := rfl
@[simp] theorem withBeacon_decayAt (s : State) (p : Nat) (f : BeaconSt → BeaconSt) : (withBeacon s p f).decayAt = s.decayAt := rfl
@[simp] theorem withBeacon_access (s : State) (p : Nat) (f : BeaconSt → BeaconSt) : (withBeacon s p f).access = s.access := rfl
@[simp] theorem withBeacon_copying (s : State) (p : Nat) (f : BeaconSt → BeaconSt) : (withBeacon s p f).copying = s.copying := rfl
@[simp] theorem withBeacon_eyes (s : State) (p : Nat) (f : BeaconSt → BeaconSt) : (withBeacon s p f).eyes = s.eyes := rfl
@[simp] theorem withBeacon_assemblies (s : State) (p : Nat) (f : BeaconSt → BeaconSt) : (withBeacon s p f).assemblies = s.assemblies := rfl
@[simp] theorem withBeacon_reports (s : State) (p : Nat) (f : BeaconSt → BeaconSt) : (withBeacon s p f).reports = s.reports := rfl
@[simp] theorem withBeacon_signs (s : State) (p : Nat) (f : BeaconSt → BeaconSt) : (withBeacon s p f).signs = s.signs := rfl
@[simp] theorem withBeacon_releases (s : State) (p : Nat) (f : BeaconSt → BeaconSt) : (withBeacon s p f).releases = s.releases := rfl
@[simp] theorem withBeacon_replies (s : State) (p : Nat) (f : BeaconSt → BeaconSt) : (withBeacon s p f).replies = s.replies := rfl
@[simp] theorem withBeacon_image (s : State) (p : Nat) (f : BeaconSt → BeaconSt) : (withBeacon s p f).image = s.image := rfl
@[simp] theorem withBeacon_rpa (s : State) (p : Nat) (f : BeaconSt → BeaconSt) : (withBeacon s p f).rpa = s.rpa := rfl
@[simp] theorem withBeacon_boot (s : State) (p : Nat) (f : BeaconSt → BeaconSt) : (withBeacon s p f).boot = s.boot := rfl
@[simp] theorem withBeacon_power (s : State) (p : Nat) (f : BeaconSt → BeaconSt) : (withBeacon s p f).power = s.power := rfl

@[simp] theorem withAcc_pending (s : State) (a : Nat) (f : AccSt → AccSt) : (withAcc s a f).pending = s.pending := rfl
@[simp] theorem withAcc_now (s : State) (a : Nat) (f : AccSt → AccSt) : (withAcc s a f).now = s.now := rfl
@[simp] theorem withAcc_free (s : State) (a : Nat) (f : AccSt → AccSt) : (withAcc s a f).free = s.free := rfl
@[simp] theorem withAcc_out (s : State) (a : Nat) (f : AccSt → AccSt) : (withAcc s a f).out = s.out := rfl
@[simp] theorem withAcc_regs (s : State) (a : Nat) (f : AccSt → AccSt) : (withAcc s a f).regs = s.regs := rfl
@[simp] theorem withAcc_shadows (s : State) (a : Nat) (f : AccSt → AccSt) : (withAcc s a f).shadows = s.shadows := rfl
@[simp] theorem withAcc_mem (s : State) (a : Nat) (f : AccSt → AccSt) : (withAcc s a f).mem = s.mem := rfl
@[simp] theorem withAcc_poison (s : State) (a : Nat) (f : AccSt → AccSt) : (withAcc s a f).poison = s.poison := rfl
@[simp] theorem withAcc_allocs (s : State) (a : Nat) (f : AccSt → AccSt) : (withAcc s a f).allocs = s.allocs := rfl
@[simp] theorem withAcc_zeroing (s : State) (a : Nat) (f : AccSt → AccSt) : (withAcc s a f).zeroing = s.zeroing := rfl
@[simp] theorem withAcc_moves (s : State) (a : Nat) (f : AccSt → AccSt) : (withAcc s a f).moves = s.moves := rfl
@[simp] theorem withAcc_descs (s : State) (a : Nat) (f : AccSt → AccSt) : (withAcc s a f).descs = s.descs := rfl
@[simp] theorem withAcc_freeList (s : State) (a : Nat) (f : AccSt → AccSt) : (withAcc s a f).freeList = s.freeList := rfl
@[simp] theorem withAcc_freshCell (s : State) (a : Nat) (f : AccSt → AccSt) : (withAcc s a f).freshCell = s.freshCell := rfl
@[simp] theorem withAcc_cells (s : State) (a : Nat) (f : AccSt → AccSt) : (withAcc s a f).cells = s.cells := rfl
@[simp] theorem withAcc_torus (s : State) (a : Nat) (f : AccSt → AccSt) : (withAcc s a f).torus = s.torus := rfl
@[simp] theorem withAcc_egress (s : State) (a : Nat) (f : AccSt → AccSt) : (withAcc s a f).egress = s.egress := rfl
@[simp] theorem withAcc_echo (s : State) (a : Nat) (f : AccSt → AccSt) : (withAcc s a f).echo = s.echo := rfl
@[simp] theorem withAcc_lastRecover (s : State) (a : Nat) (f : AccSt → AccSt) : (withAcc s a f).lastRecover = s.lastRecover := rfl
@[simp] theorem withAcc_queues (s : State) (a : Nat) (f : AccSt → AccSt) : (withAcc s a f).queues = s.queues := rfl
@[simp] theorem withAcc_notify (s : State) (a : Nat) (f : AccSt → AccSt) : (withAcc s a f).notify = s.notify := rfl
@[simp] theorem withAcc_bme (s : State) (a : Nat) (f : AccSt → AccSt) : (withAcc s a f).bme = s.bme := rfl
@[simp] theorem withAcc_pcie (s : State) (a : Nat) (f : AccSt → AccSt) : (withAcc s a f).pcie = s.pcie := rfl
@[simp] theorem withAcc_sessions (s : State) (a : Nat) (f : AccSt → AccSt) : (withAcc s a f).sessions = s.sessions := rfl
@[simp] theorem withAcc_groups (s : State) (a : Nat) (f : AccSt → AccSt) : (withAcc s a f).groups = s.groups := rfl
@[simp] theorem withAcc_buckets (s : State) (a : Nat) (f : AccSt → AccSt) : (withAcc s a f).buckets = s.buckets := rfl
@[simp] theorem withAcc_homes (s : State) (a : Nat) (f : AccSt → AccSt) : (withAcc s a f).homes = s.homes := rfl
@[simp] theorem withAcc_causeway (s : State) (a : Nat) (f : AccSt → AccSt) : (withAcc s a f).causeway = s.causeway := rfl
@[simp] theorem withAcc_lates (s : State) (a : Nat) (f : AccSt → AccSt) : (withAcc s a f).lates = s.lates := rfl
@[simp] theorem withAcc_residues (s : State) (a : Nat) (f : AccSt → AccSt) : (withAcc s a f).residues = s.residues := rfl
@[simp] theorem withAcc_layers (s : State) (a : Nat) (f : AccSt → AccSt) : (withAcc s a f).layers = s.layers := rfl
@[simp] theorem withAcc_slots (s : State) (a : Nat) (f : AccSt → AccSt) : (withAcc s a f).slots = s.slots := rfl
@[simp] theorem withAcc_steps (s : State) (a : Nat) (f : AccSt → AccSt) : (withAcc s a f).steps = s.steps := rfl
@[simp] theorem withAcc_ferries (s : State) (a : Nat) (f : AccSt → AccSt) : (withAcc s a f).ferries = s.ferries := rfl
@[simp] theorem withAcc_opens (s : State) (a : Nat) (f : AccSt → AccSt) : (withAcc s a f).opens = s.opens := rfl
@[simp] theorem withAcc_begun (s : State) (a : Nat) (f : AccSt → AccSt) : (withAcc s a f).begun = s.begun := rfl
@[simp] theorem withAcc_gathers (s : State) (a : Nat) (f : AccSt → AccSt) : (withAcc s a f).gathers = s.gathers := rfl
@[simp] theorem withAcc_finished (s : State) (a : Nat) (f : AccSt → AccSt) : (withAcc s a f).finished = s.finished := rfl
@[simp] theorem withAcc_copies (s : State) (a : Nat) (f : AccSt → AccSt) : (withAcc s a f).copies = s.copies := rfl
@[simp] theorem withAcc_permutes (s : State) (a : Nat) (f : AccSt → AccSt) : (withAcc s a f).permutes = s.permutes := rfl
@[simp] theorem withAcc_readies (s : State) (a : Nat) (f : AccSt → AccSt) : (withAcc s a f).readies = s.readies := rfl
@[simp] theorem withAcc_cays (s : State) (a : Nat) (f : AccSt → AccSt) : (withAcc s a f).cays = s.cays := rfl
@[simp] theorem withAcc_folds (s : State) (a : Nat) (f : AccSt → AccSt) : (withAcc s a f).folds = s.folds := rfl
@[simp] theorem withAcc_upsets (s : State) (a : Nat) (f : AccSt → AccSt) : (withAcc s a f).upsets = s.upsets := rfl
@[simp] theorem withAcc_kickAt (s : State) (a : Nat) (f : AccSt → AccSt) : (withAcc s a f).kickAt = s.kickAt := rfl
@[simp] theorem withAcc_wdStopped (s : State) (a : Nat) (f : AccSt → AccSt) : (withAcc s a f).wdStopped = s.wdStopped := rfl
@[simp] theorem withAcc_beacons (s : State) (a : Nat) (f : AccSt → AccSt) : (withAcc s a f).beacons = s.beacons := rfl
@[simp] theorem withAcc_origins (s : State) (a : Nat) (f : AccSt → AccSt) : (withAcc s a f).origins = s.origins := rfl
@[simp] theorem withAcc_barred (s : State) (a : Nat) (f : AccSt → AccSt) : (withAcc s a f).barred = s.barred := rfl
@[simp] theorem withAcc_softAt (s : State) (a : Nat) (f : AccSt → AccSt) : (withAcc s a f).softAt = s.softAt := rfl
@[simp] theorem withAcc_decayAt (s : State) (a : Nat) (f : AccSt → AccSt) : (withAcc s a f).decayAt = s.decayAt := rfl
@[simp] theorem withAcc_copying (s : State) (a : Nat) (f : AccSt → AccSt) : (withAcc s a f).copying = s.copying := rfl
@[simp] theorem withAcc_eyes (s : State) (a : Nat) (f : AccSt → AccSt) : (withAcc s a f).eyes = s.eyes := rfl
@[simp] theorem withAcc_assemblies (s : State) (a : Nat) (f : AccSt → AccSt) : (withAcc s a f).assemblies = s.assemblies := rfl
@[simp] theorem withAcc_reports (s : State) (a : Nat) (f : AccSt → AccSt) : (withAcc s a f).reports = s.reports := rfl
@[simp] theorem withAcc_signs (s : State) (a : Nat) (f : AccSt → AccSt) : (withAcc s a f).signs = s.signs := rfl
@[simp] theorem withAcc_releases (s : State) (a : Nat) (f : AccSt → AccSt) : (withAcc s a f).releases = s.releases := rfl
@[simp] theorem withAcc_replies (s : State) (a : Nat) (f : AccSt → AccSt) : (withAcc s a f).replies = s.replies := rfl
@[simp] theorem withAcc_image (s : State) (a : Nat) (f : AccSt → AccSt) : (withAcc s a f).image = s.image := rfl
@[simp] theorem withAcc_rpa (s : State) (a : Nat) (f : AccSt → AccSt) : (withAcc s a f).rpa = s.rpa := rfl
@[simp] theorem withAcc_boot (s : State) (a : Nat) (f : AccSt → AccSt) : (withAcc s a f).boot = s.boot := rfl
@[simp] theorem withAcc_power (s : State) (a : Nat) (f : AccSt → AccSt) : (withAcc s a f).power = s.power := rfl

@[simp] theorem withBucket_pending (s : State) (b : Nat) (f : Bucket → Bucket) : (withBucket s b f).pending = s.pending := rfl
@[simp] theorem withBucket_now (s : State) (b : Nat) (f : Bucket → Bucket) : (withBucket s b f).now = s.now := rfl
@[simp] theorem withBucket_free (s : State) (b : Nat) (f : Bucket → Bucket) : (withBucket s b f).free = s.free := rfl
@[simp] theorem withBucket_out (s : State) (b : Nat) (f : Bucket → Bucket) : (withBucket s b f).out = s.out := rfl
@[simp] theorem withBucket_regs (s : State) (b : Nat) (f : Bucket → Bucket) : (withBucket s b f).regs = s.regs := rfl
@[simp] theorem withBucket_shadows (s : State) (b : Nat) (f : Bucket → Bucket) : (withBucket s b f).shadows = s.shadows := rfl
@[simp] theorem withBucket_mem (s : State) (b : Nat) (f : Bucket → Bucket) : (withBucket s b f).mem = s.mem := rfl
@[simp] theorem withBucket_poison (s : State) (b : Nat) (f : Bucket → Bucket) : (withBucket s b f).poison = s.poison := rfl
@[simp] theorem withBucket_allocs (s : State) (b : Nat) (f : Bucket → Bucket) : (withBucket s b f).allocs = s.allocs := rfl
@[simp] theorem withBucket_zeroing (s : State) (b : Nat) (f : Bucket → Bucket) : (withBucket s b f).zeroing = s.zeroing := rfl
@[simp] theorem withBucket_moves (s : State) (b : Nat) (f : Bucket → Bucket) : (withBucket s b f).moves = s.moves := rfl
@[simp] theorem withBucket_descs (s : State) (b : Nat) (f : Bucket → Bucket) : (withBucket s b f).descs = s.descs := rfl
@[simp] theorem withBucket_freeList (s : State) (b : Nat) (f : Bucket → Bucket) : (withBucket s b f).freeList = s.freeList := rfl
@[simp] theorem withBucket_freshCell (s : State) (b : Nat) (f : Bucket → Bucket) : (withBucket s b f).freshCell = s.freshCell := rfl
@[simp] theorem withBucket_cells (s : State) (b : Nat) (f : Bucket → Bucket) : (withBucket s b f).cells = s.cells := rfl
@[simp] theorem withBucket_torus (s : State) (b : Nat) (f : Bucket → Bucket) : (withBucket s b f).torus = s.torus := rfl
@[simp] theorem withBucket_egress (s : State) (b : Nat) (f : Bucket → Bucket) : (withBucket s b f).egress = s.egress := rfl
@[simp] theorem withBucket_echo (s : State) (b : Nat) (f : Bucket → Bucket) : (withBucket s b f).echo = s.echo := rfl
@[simp] theorem withBucket_lastRecover (s : State) (b : Nat) (f : Bucket → Bucket) : (withBucket s b f).lastRecover = s.lastRecover := rfl
@[simp] theorem withBucket_queues (s : State) (b : Nat) (f : Bucket → Bucket) : (withBucket s b f).queues = s.queues := rfl
@[simp] theorem withBucket_notify (s : State) (b : Nat) (f : Bucket → Bucket) : (withBucket s b f).notify = s.notify := rfl
@[simp] theorem withBucket_bme (s : State) (b : Nat) (f : Bucket → Bucket) : (withBucket s b f).bme = s.bme := rfl
@[simp] theorem withBucket_pcie (s : State) (b : Nat) (f : Bucket → Bucket) : (withBucket s b f).pcie = s.pcie := rfl
@[simp] theorem withBucket_sessions (s : State) (b : Nat) (f : Bucket → Bucket) : (withBucket s b f).sessions = s.sessions := rfl
@[simp] theorem withBucket_groups (s : State) (b : Nat) (f : Bucket → Bucket) : (withBucket s b f).groups = s.groups := rfl
@[simp] theorem withBucket_homes (s : State) (b : Nat) (f : Bucket → Bucket) : (withBucket s b f).homes = s.homes := rfl
@[simp] theorem withBucket_causeway (s : State) (b : Nat) (f : Bucket → Bucket) : (withBucket s b f).causeway = s.causeway := rfl
@[simp] theorem withBucket_lates (s : State) (b : Nat) (f : Bucket → Bucket) : (withBucket s b f).lates = s.lates := rfl
@[simp] theorem withBucket_residues (s : State) (b : Nat) (f : Bucket → Bucket) : (withBucket s b f).residues = s.residues := rfl
@[simp] theorem withBucket_layers (s : State) (b : Nat) (f : Bucket → Bucket) : (withBucket s b f).layers = s.layers := rfl
@[simp] theorem withBucket_slots (s : State) (b : Nat) (f : Bucket → Bucket) : (withBucket s b f).slots = s.slots := rfl
@[simp] theorem withBucket_steps (s : State) (b : Nat) (f : Bucket → Bucket) : (withBucket s b f).steps = s.steps := rfl
@[simp] theorem withBucket_ferries (s : State) (b : Nat) (f : Bucket → Bucket) : (withBucket s b f).ferries = s.ferries := rfl
@[simp] theorem withBucket_opens (s : State) (b : Nat) (f : Bucket → Bucket) : (withBucket s b f).opens = s.opens := rfl
@[simp] theorem withBucket_begun (s : State) (b : Nat) (f : Bucket → Bucket) : (withBucket s b f).begun = s.begun := rfl
@[simp] theorem withBucket_gathers (s : State) (b : Nat) (f : Bucket → Bucket) : (withBucket s b f).gathers = s.gathers := rfl
@[simp] theorem withBucket_finished (s : State) (b : Nat) (f : Bucket → Bucket) : (withBucket s b f).finished = s.finished := rfl
@[simp] theorem withBucket_copies (s : State) (b : Nat) (f : Bucket → Bucket) : (withBucket s b f).copies = s.copies := rfl
@[simp] theorem withBucket_permutes (s : State) (b : Nat) (f : Bucket → Bucket) : (withBucket s b f).permutes = s.permutes := rfl
@[simp] theorem withBucket_readies (s : State) (b : Nat) (f : Bucket → Bucket) : (withBucket s b f).readies = s.readies := rfl
@[simp] theorem withBucket_cays (s : State) (b : Nat) (f : Bucket → Bucket) : (withBucket s b f).cays = s.cays := rfl
@[simp] theorem withBucket_folds (s : State) (b : Nat) (f : Bucket → Bucket) : (withBucket s b f).folds = s.folds := rfl
@[simp] theorem withBucket_upsets (s : State) (b : Nat) (f : Bucket → Bucket) : (withBucket s b f).upsets = s.upsets := rfl
@[simp] theorem withBucket_kickAt (s : State) (b : Nat) (f : Bucket → Bucket) : (withBucket s b f).kickAt = s.kickAt := rfl
@[simp] theorem withBucket_wdStopped (s : State) (b : Nat) (f : Bucket → Bucket) : (withBucket s b f).wdStopped = s.wdStopped := rfl
@[simp] theorem withBucket_beacons (s : State) (b : Nat) (f : Bucket → Bucket) : (withBucket s b f).beacons = s.beacons := rfl
@[simp] theorem withBucket_origins (s : State) (b : Nat) (f : Bucket → Bucket) : (withBucket s b f).origins = s.origins := rfl
@[simp] theorem withBucket_barred (s : State) (b : Nat) (f : Bucket → Bucket) : (withBucket s b f).barred = s.barred := rfl
@[simp] theorem withBucket_softAt (s : State) (b : Nat) (f : Bucket → Bucket) : (withBucket s b f).softAt = s.softAt := rfl
@[simp] theorem withBucket_decayAt (s : State) (b : Nat) (f : Bucket → Bucket) : (withBucket s b f).decayAt = s.decayAt := rfl
@[simp] theorem withBucket_access (s : State) (b : Nat) (f : Bucket → Bucket) : (withBucket s b f).access = s.access := rfl
@[simp] theorem withBucket_copying (s : State) (b : Nat) (f : Bucket → Bucket) : (withBucket s b f).copying = s.copying := rfl
@[simp] theorem withBucket_eyes (s : State) (b : Nat) (f : Bucket → Bucket) : (withBucket s b f).eyes = s.eyes := rfl
@[simp] theorem withBucket_assemblies (s : State) (b : Nat) (f : Bucket → Bucket) : (withBucket s b f).assemblies = s.assemblies := rfl
@[simp] theorem withBucket_reports (s : State) (b : Nat) (f : Bucket → Bucket) : (withBucket s b f).reports = s.reports := rfl
@[simp] theorem withBucket_signs (s : State) (b : Nat) (f : Bucket → Bucket) : (withBucket s b f).signs = s.signs := rfl
@[simp] theorem withBucket_releases (s : State) (b : Nat) (f : Bucket → Bucket) : (withBucket s b f).releases = s.releases := rfl
@[simp] theorem withBucket_replies (s : State) (b : Nat) (f : Bucket → Bucket) : (withBucket s b f).replies = s.replies := rfl
@[simp] theorem withBucket_image (s : State) (b : Nat) (f : Bucket → Bucket) : (withBucket s b f).image = s.image := rfl
@[simp] theorem withBucket_rpa (s : State) (b : Nat) (f : Bucket → Bucket) : (withBucket s b f).rpa = s.rpa := rfl
@[simp] theorem withBucket_boot (s : State) (b : Nat) (f : Bucket → Bucket) : (withBucket s b f).boot = s.boot := rfl
@[simp] theorem withBucket_power (s : State) (b : Nat) (f : Bucket → Bucket) : (withBucket s b f).power = s.power := rfl

@[simp] theorem withLayer_pending (s : State) (l : Nat) (f : Layer → Layer) : (withLayer s l f).pending = s.pending := rfl
@[simp] theorem withLayer_now (s : State) (l : Nat) (f : Layer → Layer) : (withLayer s l f).now = s.now := rfl
@[simp] theorem withLayer_free (s : State) (l : Nat) (f : Layer → Layer) : (withLayer s l f).free = s.free := rfl
@[simp] theorem withLayer_out (s : State) (l : Nat) (f : Layer → Layer) : (withLayer s l f).out = s.out := rfl
@[simp] theorem withLayer_regs (s : State) (l : Nat) (f : Layer → Layer) : (withLayer s l f).regs = s.regs := rfl
@[simp] theorem withLayer_shadows (s : State) (l : Nat) (f : Layer → Layer) : (withLayer s l f).shadows = s.shadows := rfl
@[simp] theorem withLayer_mem (s : State) (l : Nat) (f : Layer → Layer) : (withLayer s l f).mem = s.mem := rfl
@[simp] theorem withLayer_poison (s : State) (l : Nat) (f : Layer → Layer) : (withLayer s l f).poison = s.poison := rfl
@[simp] theorem withLayer_allocs (s : State) (l : Nat) (f : Layer → Layer) : (withLayer s l f).allocs = s.allocs := rfl
@[simp] theorem withLayer_zeroing (s : State) (l : Nat) (f : Layer → Layer) : (withLayer s l f).zeroing = s.zeroing := rfl
@[simp] theorem withLayer_moves (s : State) (l : Nat) (f : Layer → Layer) : (withLayer s l f).moves = s.moves := rfl
@[simp] theorem withLayer_descs (s : State) (l : Nat) (f : Layer → Layer) : (withLayer s l f).descs = s.descs := rfl
@[simp] theorem withLayer_freeList (s : State) (l : Nat) (f : Layer → Layer) : (withLayer s l f).freeList = s.freeList := rfl
@[simp] theorem withLayer_freshCell (s : State) (l : Nat) (f : Layer → Layer) : (withLayer s l f).freshCell = s.freshCell := rfl
@[simp] theorem withLayer_cells (s : State) (l : Nat) (f : Layer → Layer) : (withLayer s l f).cells = s.cells := rfl
@[simp] theorem withLayer_torus (s : State) (l : Nat) (f : Layer → Layer) : (withLayer s l f).torus = s.torus := rfl
@[simp] theorem withLayer_egress (s : State) (l : Nat) (f : Layer → Layer) : (withLayer s l f).egress = s.egress := rfl
@[simp] theorem withLayer_echo (s : State) (l : Nat) (f : Layer → Layer) : (withLayer s l f).echo = s.echo := rfl
@[simp] theorem withLayer_lastRecover (s : State) (l : Nat) (f : Layer → Layer) : (withLayer s l f).lastRecover = s.lastRecover := rfl
@[simp] theorem withLayer_queues (s : State) (l : Nat) (f : Layer → Layer) : (withLayer s l f).queues = s.queues := rfl
@[simp] theorem withLayer_notify (s : State) (l : Nat) (f : Layer → Layer) : (withLayer s l f).notify = s.notify := rfl
@[simp] theorem withLayer_bme (s : State) (l : Nat) (f : Layer → Layer) : (withLayer s l f).bme = s.bme := rfl
@[simp] theorem withLayer_pcie (s : State) (l : Nat) (f : Layer → Layer) : (withLayer s l f).pcie = s.pcie := rfl
@[simp] theorem withLayer_sessions (s : State) (l : Nat) (f : Layer → Layer) : (withLayer s l f).sessions = s.sessions := rfl
@[simp] theorem withLayer_groups (s : State) (l : Nat) (f : Layer → Layer) : (withLayer s l f).groups = s.groups := rfl
@[simp] theorem withLayer_buckets (s : State) (l : Nat) (f : Layer → Layer) : (withLayer s l f).buckets = s.buckets := rfl
@[simp] theorem withLayer_homes (s : State) (l : Nat) (f : Layer → Layer) : (withLayer s l f).homes = s.homes := rfl
@[simp] theorem withLayer_causeway (s : State) (l : Nat) (f : Layer → Layer) : (withLayer s l f).causeway = s.causeway := rfl
@[simp] theorem withLayer_lates (s : State) (l : Nat) (f : Layer → Layer) : (withLayer s l f).lates = s.lates := rfl
@[simp] theorem withLayer_residues (s : State) (l : Nat) (f : Layer → Layer) : (withLayer s l f).residues = s.residues := rfl
@[simp] theorem withLayer_slots (s : State) (l : Nat) (f : Layer → Layer) : (withLayer s l f).slots = s.slots := rfl
@[simp] theorem withLayer_steps (s : State) (l : Nat) (f : Layer → Layer) : (withLayer s l f).steps = s.steps := rfl
@[simp] theorem withLayer_ferries (s : State) (l : Nat) (f : Layer → Layer) : (withLayer s l f).ferries = s.ferries := rfl
@[simp] theorem withLayer_opens (s : State) (l : Nat) (f : Layer → Layer) : (withLayer s l f).opens = s.opens := rfl
@[simp] theorem withLayer_begun (s : State) (l : Nat) (f : Layer → Layer) : (withLayer s l f).begun = s.begun := rfl
@[simp] theorem withLayer_gathers (s : State) (l : Nat) (f : Layer → Layer) : (withLayer s l f).gathers = s.gathers := rfl
@[simp] theorem withLayer_finished (s : State) (l : Nat) (f : Layer → Layer) : (withLayer s l f).finished = s.finished := rfl
@[simp] theorem withLayer_copies (s : State) (l : Nat) (f : Layer → Layer) : (withLayer s l f).copies = s.copies := rfl
@[simp] theorem withLayer_permutes (s : State) (l : Nat) (f : Layer → Layer) : (withLayer s l f).permutes = s.permutes := rfl
@[simp] theorem withLayer_readies (s : State) (l : Nat) (f : Layer → Layer) : (withLayer s l f).readies = s.readies := rfl
@[simp] theorem withLayer_cays (s : State) (l : Nat) (f : Layer → Layer) : (withLayer s l f).cays = s.cays := rfl
@[simp] theorem withLayer_folds (s : State) (l : Nat) (f : Layer → Layer) : (withLayer s l f).folds = s.folds := rfl
@[simp] theorem withLayer_upsets (s : State) (l : Nat) (f : Layer → Layer) : (withLayer s l f).upsets = s.upsets := rfl
@[simp] theorem withLayer_kickAt (s : State) (l : Nat) (f : Layer → Layer) : (withLayer s l f).kickAt = s.kickAt := rfl
@[simp] theorem withLayer_wdStopped (s : State) (l : Nat) (f : Layer → Layer) : (withLayer s l f).wdStopped = s.wdStopped := rfl
@[simp] theorem withLayer_beacons (s : State) (l : Nat) (f : Layer → Layer) : (withLayer s l f).beacons = s.beacons := rfl
@[simp] theorem withLayer_origins (s : State) (l : Nat) (f : Layer → Layer) : (withLayer s l f).origins = s.origins := rfl
@[simp] theorem withLayer_barred (s : State) (l : Nat) (f : Layer → Layer) : (withLayer s l f).barred = s.barred := rfl
@[simp] theorem withLayer_softAt (s : State) (l : Nat) (f : Layer → Layer) : (withLayer s l f).softAt = s.softAt := rfl
@[simp] theorem withLayer_decayAt (s : State) (l : Nat) (f : Layer → Layer) : (withLayer s l f).decayAt = s.decayAt := rfl
@[simp] theorem withLayer_access (s : State) (l : Nat) (f : Layer → Layer) : (withLayer s l f).access = s.access := rfl
@[simp] theorem withLayer_copying (s : State) (l : Nat) (f : Layer → Layer) : (withLayer s l f).copying = s.copying := rfl
@[simp] theorem withLayer_eyes (s : State) (l : Nat) (f : Layer → Layer) : (withLayer s l f).eyes = s.eyes := rfl
@[simp] theorem withLayer_assemblies (s : State) (l : Nat) (f : Layer → Layer) : (withLayer s l f).assemblies = s.assemblies := rfl
@[simp] theorem withLayer_reports (s : State) (l : Nat) (f : Layer → Layer) : (withLayer s l f).reports = s.reports := rfl
@[simp] theorem withLayer_signs (s : State) (l : Nat) (f : Layer → Layer) : (withLayer s l f).signs = s.signs := rfl
@[simp] theorem withLayer_releases (s : State) (l : Nat) (f : Layer → Layer) : (withLayer s l f).releases = s.releases := rfl
@[simp] theorem withLayer_replies (s : State) (l : Nat) (f : Layer → Layer) : (withLayer s l f).replies = s.replies := rfl
@[simp] theorem withLayer_image (s : State) (l : Nat) (f : Layer → Layer) : (withLayer s l f).image = s.image := rfl
@[simp] theorem withLayer_rpa (s : State) (l : Nat) (f : Layer → Layer) : (withLayer s l f).rpa = s.rpa := rfl
@[simp] theorem withLayer_boot (s : State) (l : Nat) (f : Layer → Layer) : (withLayer s l f).boot = s.boot := rfl
@[simp] theorem withLayer_power (s : State) (l : Nat) (f : Layer → Layer) : (withLayer s l f).power = s.power := rfl

end Sys2Proof.Machine
end

