-- ==== Sys2Proof/Safety.lean ====
section
/-! DEFINITION. What counts as a safe run, in the terms claims use: steps that end in a next state, properties that every
step keeps, and the conditions on a state alone under which a command has its own effect. -/

namespace Sys2Proof.Safety

open Sys2Proof.Machine

/-- A step of the state ends in a next state. -/
def Goes (s : State) : Prop := ∃ t, step s = .next t

/-- A run of `k` steps ends in a next state. -/
def Runs (k : Nat) (s : State) : Prop := ∃ t, Host.Core.run Sys2Proof.core k s = .next t

/-- Every step keeps a property: from any state that has it, not only from reset. -/
def Kept (P : State → Prop) : Prop := ∀ s t, P s → step s = .next t → P t

/-- Every step relates a state to the next one. -/
def Steps (R : State → State → Prop) : Prop := ∀ s t, step s = .next t → R s t

/-- Every register but those of a list reads as before. -/
def RegsBut (s t : State) (l : List Nat) : Prop := ∀ off, off ∉ l → rd t off = rd s off

/-! ## Commands of queues -/

/-- A fetched command with these bytes has started and its effect has not happened yet. -/
def Running (s : State) (c : Ctx) (q : QNum) (i : Word) (op : Nat) (b : List Byte) : Prop :=
  ∃ m, cmdAt s (qkey c.val q.val) i.toNat = some m ∧ m.bytes = b ∧ m.started = true ∧ m.ran = false ∧ m.status = none ∧
    cOp b = op

/-- The state in which a command's effect begins: the command is marked as run. -/
def begun (s : State) (c : Ctx) (q : QNum) (i : Word) : State :=
  withCmd s (qkey c.val q.val) i.toNat (fun x => { x with ran := true })

/-! ## Cells -/

/-- A cell that comes in on a torus port is for this module and passes every check, and no cell of its sub-channel waits at
ejection before it (R211); `u` is the state then, its link index taken and the arrival counted. -/
abbrev Lands (s : State) (p : TorusPort) (x : Cell) (u : State) : Prop :=
  arrive s p.val x = .here u ∧ behindAtEject u p.val x = false

/-! ## Access ports -/

/-- The state after the receipt of a frame of `n` units: addresses, ACK and CREDIT used, its number and units counted, an
acknowledgement due. -/
def frameTaken (s : State) (a : Nat) (h : FrameHead) (n : Nat) : State :=
  withAcc (accHead s a h) a (fun t => { t with
    rxSeq := (t.rxSeq + 1) % 65536, rxUnits := (t.rxUnits + n) % 65536, ackDue := some (t.ackDue.getD (accHead s a h).now) })

/-! ## Milar programs -/

/-- A Cay runs the call `c` and its PC names the word `w`: within CAY_KLIMIT, the PC inside the code (R326), the word not
poisoned (R268), no upset before it (R92, R93). -/
abbrev Executing (s : State) (n : CayNum) (c : MCall) (w : Word) : Prop :=
  (cayAt s n.val).call = some c ∧ (cayAt s n.val).count < (rd s (CAY_KLIMIT n.val)).toNat ∧
    (cayAt s n.val).pc < c.codeLen ∧ codeWord s n.val (cayAt s n.val).pc = w ∧
    accessFault s (some c.ctx) (cayStore n.val + 4 * (cayAt s n.val).pc) 4 false = none ∧ tget s.upsets n.val = none

/-- The program state in which an instruction works: the PC at the next word, the instruction counted. -/
def fetched (s : State) (n : CayNum) : Milar :=
  { cayAt s n.val with pc := ((cayAt s n.val).pc + 1) % 2 ^ 19, count := (cayAt s n.val).count + 1, since := s.now }

/-- A load or a store of a range waits for no stream and meets no fault of its bytes. -/
abbrev Clear (s : State) (m : Milar) (c : MCall) (a len : Nat) (write : Bool) : Prop :=
  blockingStream m a len write = none ∧ byteFault s c a len write = none

/-- The state after an instruction that writes lanes with their flags into a vector register: flags, locator and counts
of `raise`, the lanes of width `wd`, the tag (none in a kernel). -/
def vectorWritten (s : State) (n : CayNum) (c : MCall) (vd : Nat) (tag : Option Nat) (per wd : Nat)
    (rs : List (Nat × Flags)) : State :=
  let r := raise s (fetched s n) c n.val tag per (rs.map (fun x => x.2))
  putCay r.1 n.val (setV r.2 vd (ofLanes wd (rs.map (fun x => x.1))) (if c.kernel then none else tag))

/-- The state after an instruction that writes an accumulator and raises flags. -/
def accWritten (s : State) (n : CayNum) (c : MCall) (ad : Nat) (tag : Option Nat) (per : Nat) (fs : List Flags)
    (x : List Lanes) : State :=
  let r := raise s (fetched s n) c n.val tag per fs
  putCay r.1 n.val (setA r.2 ad x)

end Sys2Proof.Safety
end

