-- ==== Sys2Proof/WellFormed.lean ====
section
/-! DEFINITION. Which commands are well formed: what the boundary guarantees of a command's operands beyond their types. -/

namespace Sys2Proof

/-- A cell carries 64 payload bytes (R202). -/
def cellOk (x : Cell) : Bool := x.payload.length == 64

/-- An offset aligned to 4 bytes (R14). -/
def alignedOff (off : Word) : Bool := off.toNat % 4 == 0

/-- The return of a read of up to 8 commands of 64 bytes (R279). -/
def fetchOk : Option (List Byte) → Bool
  | none => true
  | some bs => bs.length % 64 == 0 && decide (0 < bs.length) && decide (bs.length ≤ 512)

/-- MEM_DATA carries 1 to 8,192 bytes, or none with an error STATUS (Table 12-10). -/
def dataOk (ok : Bool) (bs : List Byte) : Bool := if ok then decide (1 ≤ bs.length) && decide (bs.length ≤ 8192) else bs.isEmpty

/-- The cells of a CELLS frame (Table 12-10): 1 to 108, each of 64 payload bytes. -/
def cellsOk (xs : List Cell) : Bool :=
  decide (1 ≤ xs.length) && decide (xs.length ≤ 108) && xs.all cellOk

/-- The wrong symbols of a block, or the wrong bits of a word, that Table 9-9's codes see: up to four, up to two. -/
def scrubOk (t : ScrubTarget) (bad : WrongSymbols) : Bool :=
  match t with
  | .lagoon _ => true
  | .hbm _ => true
  | _ => decide (bad.val ≤ 2)

/-- The command is well formed. -/
def Instr.wellFormed : Instr → Bool
  | .commandFetch _ _ _ data => fetchOk data
  | .registerWrite _ off vs => alignedOff off && !vs.isEmpty
  | .registerPairLowRead _ off en => alignedOff off && decide (0 < en.length)
  | .unmappedAccess _ off _ => alignedOff off
  | .narrowAccess _ off len _ => decide (0 < len) && !(alignedOff off && len % 4 == 0)
  | .poolShare _ _ k _ => decide (k ≤ 31)
  | .cellForward _ x => cellOk x
  | .dataW32 _ x => cellOk x
  | .dataS1 _ x => cellOk x
  | .trailerCell _ x => cellOk x
  | .admitCell _ x => cellOk x
  | .grantAdmitted _ x => cellOk x
  | .grantRefused _ x => cellOk x
  | .grantRelease _ x => cellOk x
  | .grantDone _ x => cellOk x
  | .grantResend _ x => cellOk x
  | .causewayCell _ x => cellOk x
  | .ferryOpen _ x => cellOk x
  | .ferryAbort _ x => cellOk x
  | .ferryAccept _ x => cellOk x
  | .ferryBusy _ x => cellOk x
  | .ferryWindow _ x => cellOk x
  | .ferryFinished _ x => cellOk x
  | .dataParam _ x => cellOk x
  | .permuteReady _ x => cellOk x
  | .permuteCell _ x => cellOk x
  | .permuteComplete _ x => cellOk x
  | .ecnEcho _ x => cellOk x
  | .creditCell _ x => cellOk x
  | .beaconCell _ x => cellOk x
  | .mgmtCell _ x => cellOk x
  | .cellsFrame _ _ cells => cellsOk cells
  | .memData _ _ _ ok data => dataOk ok data
  | .memWrite _ f => decide (1 ≤ f.bytes) && decide (f.bytes ≤ 8192)
  | .patrolScrub t bad => scrubOk t bad
  | .configRequest _ fn _ => decide (fn ≤ 32)
  | .attest _ ch => ch.length == 48
  | .imageData _ _ data => decide (data.length ≤ 16384)
  | .planCell _ x => cellOk x
  | .bucketOpen _ _ _ | .reduce _ _ _ | .gather _ _ _ | .ferrySend _ _ _ | .permute _ _ _ | .causewayOp _ _ _
  | .layerBind _ _ _ | .updateProgramLoad _ _ _ | .retain _ _ _ | .release _ _ _ | .signalWait _ _ _
  | .signalPost _ _ _ | .fenceQuery _ _ _ | .stepClose _ _ _ | .copy _ _ _ | .doorbell _ _ _ _ | .commandStart _ _ _
  | .commandComplete _ _ _ | .mirrorWrite _ _ | .compatBlockingDoorbell _ _ _ | .compatHoldExpiry _ _
  | .queueEnable _ _ _ _ | .queueDisable _ _ _ _ | .mirrorEnable _ _ _ _ | .ctxOpen _ _ _ | .ctxClose _ _ _
  | .ctxClosed _ | .syncPost _ _ _ | .syncNotify _ | .globalTorusDimWrite _ _ | .globalCoordWrite _ _
  | .cayKlStart _ _ _ | .cayKlAbort _ _ _ | .kernelRun _ | .laneEyeStart _ _ _ _ | .eyeScanDone _ _ _
  | .lanePortEnable _ _ _ | .accEnable _ _ _ | .healthKick _ _ | .selfFenceSelf _ _ | .selfFenceManager _ _
  | .healthReadmitRequest _ _ | .healthPortOwnerWrite _ _ _ | .portSwitch _ | .healthBeaconWrite _ _
  | .healthLevelWrite _ _ | .confirm _ _ | .moduleReset _ _ | .trustUpdateGo _ _ | .imageUpdateDone _ _
  | .trustAttestGo _ _ | .attestationComplete | .trustOwnerSet _ _ | .powerCapWrite _ _ | .vcoreTargetWrite _ _ _
  | .poolAllocate _ _ _ | .poolDrop _ _ | .poolFree _ _ _ | .streamSlotTaken _ _ | .echoGap _ _ _ _ | .limiterRecover
  | .cellAged _ | .creditDue _ | .ferryBusyRetry _ | .admitTimeout _ | .deadline _ | .armDeadline _ _
  | .errorMemoryPrefetchDone _ | .errorMemoryWritebackDone _ _ | .updateStart _ | .taskApply _ _ | .matrixPhaseDone _
  | .layerStatePresent _ | .layerStateTimeout _ | .layerWritebackDone _ | .streamComplete _ _ | .klimitExceeded _
  | .addD _ _ | .subD _ _ | .addW _ _ | .subW _ _ | .sAnd _ _ | .sOr _ _ | .sXor _ _ | .mulD _ _ | .mulW _ _
  | .shlD _ _ | .shrD _ _ | .sarD _ _ | .shliD _ _ | .shriD _ _ | .sariD _ _ | .minD _ _ | .maxD _ _ | .minuD _ _
  | .maxuD _ _ | .pselD _ _ | .addiD _ _ | .addiW _ _ | .andi _ _ | .ori _ _ | .xori _ _ | .lui _ _ | .ceq _ _
  | .cne _ _ | .clt _ _ | .cge _ _ | .cltu _ _ | .cgeu _ _ | .pand _ _ | .por _ _ | .pxor _ _ | .pnot _ _ | .beqD _ _
  | .bneD _ _ | .bltD _ _ | .bgeD _ _ | .bltuD _ _ | .bgeuD _ _ | .bp _ _ | .bnp _ _ | .jal _ _ | .jalr _ _
  | .nop _ _ | .ret _ _ | .rdkc _ _ | .wrkc _ _ | .trap _ _ | .ld _ _ | .ldu _ _ | .st _ _ | .vld _ _ | .vst _ _
  | .ald _ _ | .ast _ _ | .vfadd _ _ | .vfsub _ _ | .vfmul _ _ | .vfdiv _ _ | .vfsqrt _ _ | .vffma _ _ | .vfmin _ _
  | .vfmax _ _ | .vfabs _ _ | .vfneg _ _ | .vfeq _ _ | .vflt _ _ | .vfle _ _ | .vadd _ _ | .vsub _ _ | .vmul _ _
  | .vand _ _ | .vor _ _ | .vxor _ _ | .vshl _ _ | .vshr _ _ | .vsar _ _ | .vmin _ _ | .vmax _ _ | .vminu _ _
  | .vmaxu _ _ | .veq _ _ | .vlt _ _ | .vsel _ _ | .vbcast _ _ | .vext _ _ | .vins _ _ | .vmov _ _ | .vcvt _ _
  | .vcvtw _ _ | .vcvtn _ _ | .aclr _ _ | .vacc _ _ | .vsqacc _ _ | .aadd _ _ | .afcvtW _ _ | .afcvtD _ _
  | .tclrL8 _ _ | .tclrL16 _ _ | .tmacL8 _ _ | .tmacL16 _ _ | .tmovA _ _ | .tmovW _ _ | .tmovD _ _ | .tnormA _ _
  | .xgather _ _ | .xscatter _ _ | .xcopy _ _ | .xpref _ _ | .xwait _ _ | .cayHang _ | .spareInService _
  | .scoreDecay | .beaconDue _ | .beaconMiss _ | .watchdogExpiry | .challenge _ _ _ | .identity _ _ _
  | .challengeResend _ | .mgmtAssemblyTimeout _ _ | .readmitTimeout _ | .dieBridgeFail | .linkIdle _ _
  | .linkNak _ _ _ | .linkTrain _ _ | .linkStep _ _ | .linkDown _ _ | .idleRow _ _ _ | .idleRowDue _
  | .controlUnitDue _ | .laneRetryTimeout _ | .lockLoss _ _ _ | .bringupPhaseTimeout _ | .qualifyDone _
  | .lanePortUp _ | .lanePortDown _ _ | .memRead _ _ | .paceFrame _ _ | .neighborSolicitation _ _ _
  | .echoRequest _ _ _ _ | .lldpFrame _ _ _ | .foreignFrame _ _ | .frameAckDue _ | .accRto _ | .accMemTimeout _ _
  | .accessLinkUp _ _ | .hostLinkDown _ | .hostLinkUp _ _ _ | .vfFlr _ _ | .pfFlr _ | .perst _ | .tlsHandshake _ _
  | .regWrite _ _ | .regRead _ _ | .imageEnd _ _ _ | .releaseOwner _ | .mgmtSessionClose _ | .resetRelease _
  | .trialTimeout | .rangeZeroed _ | .powerStart _ | .railGoodTimeout _ | .modEnLow | .inputLow
  | .inputHigh | .thermal | .converter | .vinBelow56 | .vinBelow54 | .vinBelow40 | .powerLoop _ _ _
  | .powerFastStep _ | .refLost | .refRestored | .linkCheckFail _ _ | .egressSlot _ | .accessLinkDown _
  | .blockLock _ | .trainExchangeEnd _ | .vinAbove40 | .latchRelease | .thermWarnN _ => true

end Sys2Proof
end

