-- ==== Sys2Proof/Certificates/Slice0/Obligations.lean ====
section
/-! DEFINITION. The statements for the provers. -/

open Sys2Proof Sys2Proof.Machine Sys2Proof.Safety

/-- The register functions of Table 11-7: `to x` is the state with rd written to `x` (`setG` discards a write to g0), the
PC at the next word, and everything else as it was. -/
def Obligations.ScalarRegisterRowsWriteTheirResult : Prop :=
  ∀ (s : State) (n : CayNum) (c : MCall) (w : Word), Executing s n c w →
    let m := fetched s n
    let a := getG m (wRa w)
    let b := getG m (wRb w)
    let low := fun (x : BitVec 64) => (x.truncate 32).signExtend 64
    let goes := fun (x : BitVec 64) => putCay s n.val (setG m (wRd w) x)
    let is := fun (fn : Nat) => encodes w 0x01 (some (5, 0, fn)) [(10, 6)] = true
    let sh := fun (fn : Nat) => encodes w 0x01 (some (5, 0, fn)) [(10, 7)] = true
    let k := wb w 15 11 + 32 * wb w 6 6
    (is 0x00 → exec (.addD n w) s = .next (goes (a + b))) ∧
    (is 0x01 → exec (.subD n w) s = .next (goes (a - b))) ∧
    (is 0x02 → exec (.addW n w) s = .next (goes (low (a + b)))) ∧
    (is 0x03 → exec (.subW n w) s = .next (goes (low (a - b)))) ∧
    (is 0x04 → exec (.sAnd n w) s = .next (goes (a &&& b))) ∧
    (is 0x05 → exec (.sOr n w) s = .next (goes (a ||| b))) ∧
    (is 0x06 → exec (.sXor n w) s = .next (goes (a ^^^ b))) ∧
    (is 0x07 → exec (.mulD n w) s = .next (goes (a * b))) ∧
    (is 0x08 → exec (.mulW n w) s = .next (goes (low (a * b)))) ∧
    (is 0x09 → exec (.shlD n w) s = .next (goes (a <<< (b.toNat % 64)))) ∧
    (is 0x0A → exec (.shrD n w) s = .next (goes (a >>> (b.toNat % 64)))) ∧
    (is 0x0B → exec (.sarD n w) s = .next (goes (a.sshiftRight (b.toNat % 64)))) ∧
    (sh 0x0C → exec (.shliD n w) s = .next (goes (a <<< k))) ∧
    (sh 0x0D → exec (.shriD n w) s = .next (goes (a >>> k))) ∧
    (sh 0x0E → exec (.sariD n w) s = .next (goes (a.sshiftRight k))) ∧
    (is 0x0F → exec (.minD n w) s = .next (goes (if a.slt b then a else b))) ∧
    (is 0x10 → exec (.maxD n w) s = .next (goes (if a.slt b then b else a))) ∧
    (is 0x11 → exec (.minuD n w) s = .next (goes (if a.ult b then a else b))) ∧
    (is 0x12 → exec (.maxuD n w) s = .next (goes (if a.ult b then b else a))) ∧
    (encodes w 0x01 (some (5, 0, 0x13)) [(10, 9)] = true →
      exec (.pselD n w) s = .next (goes (if getP m (wb w 8 6) then a else b)))

/-- The immediates of Table 11-6 (sign-extended for the additions, zero-extended for the logic), rdkc, wrkc and nop. -/
def Obligations.ImmediateAndControlRowsWriteTheirResult : Prop :=
  ∀ (s : State) (n : CayNum) (c : MCall) (w : Word), Executing s n c w →
    let m := fetched s n
    let a := getG m (wRa w)
    let low := fun (x : BitVec 64) => (x.truncate 32).signExtend 64
    let imm := wb w 15 0
    let sx := (BitVec.ofNat 16 imm).signExtend 64
    let goes := fun (x : BitVec 64) => putCay s n.val (setG m (wRd w) x)
    (encodes w 0x02 none [] = true → exec (.addiD n w) s = .next (goes (a + sx))) ∧
    (encodes w 0x03 none [] = true → exec (.addiW n w) s = .next (goes (low (a + sx)))) ∧
    (encodes w 0x04 none [] = true → exec (.andi n w) s = .next (goes (a &&& BitVec.ofNat 64 imm))) ∧
    (encodes w 0x05 none [] = true → exec (.ori n w) s = .next (goes (a ||| BitVec.ofNat 64 imm))) ∧
    (encodes w 0x06 none [] = true → exec (.xori n w) s = .next (goes (a ^^^ BitVec.ofNat 64 imm))) ∧
    (encodes w 0x07 none [(20, 16)] = true →
      exec (.lui n w) s = .next (goes ((BitVec.ofNat 32 (imm * 65536)).signExtend 64))) ∧
    (encodes w 0x14 (some (5, 0, 2)) [(10, 6)] = true → exec (.rdkc n w) s = .next (goes m.kc)) ∧
    (encodes w 0x14 (some (5, 0, 3)) [(10, 6)] = true → ∃ k : BitVec 64,
      exec (.wrkc n w) s = .next (putCay s n.val { m with kc := k }) ∧ bits k.toNat 1 0 = bits a.toNat 1 0 ∧
        bits k.toNat 63 2 = bits m.kc.toNat 63 2) ∧
    (encodes w 0x14 (some (5, 0, 0)) [(25, 6)] = true → exec (.nop n w) s = .next (putCay s n.val m))

/-- The compares and the predicate logic of Table 11-8, both widths of each compare. -/
def Obligations.CompareAndPredicateRowsWriteTheirPredicate : Prop :=
  ∀ (s : State) (n : CayNum) (c : MCall) (w : Word), Executing s n c w →
    let m := fetched s n
    let a := getG m (wRa w)
    let b := getG m (wRb w)
    let la : BitVec 32 := a.truncate 32
    let lb : BitVec 32 := b.truncate 32
    let goes := fun (x : Bool) => putCay s n.val (setP m (wb w 23 21) x)
    let is := fun (fn : Nat) => encodes w 0x09 (some (5, 0, fn)) [(25, 24), (10, 6)] = true
    let pr := fun (fn : Nat) (z : Nat × Nat) => encodes w 0x09 (some (5, 0, fn)) [(25, 24), (20, 19), (10, 6), z] = true
    let pa := getP m (wb w 18 16)
    let pb := getP m (wb w 13 11)
    (is 0 → exec (.ceq n w) s = .next (goes (a == b))) ∧ (is 8 → exec (.ceq n w) s = .next (goes (la == lb))) ∧
    (is 1 → exec (.cne n w) s = .next (goes (a != b))) ∧ (is 9 → exec (.cne n w) s = .next (goes (la != lb))) ∧
    (is 2 → exec (.clt n w) s = .next (goes (a.slt b))) ∧ (is 10 → exec (.clt n w) s = .next (goes (la.slt lb))) ∧
    (is 3 → exec (.cge n w) s = .next (goes (!a.slt b))) ∧ (is 11 → exec (.cge n w) s = .next (goes (!la.slt lb))) ∧
    (is 4 → exec (.cltu n w) s = .next (goes (a.ult b))) ∧ (is 12 → exec (.cltu n w) s = .next (goes (la.ult lb))) ∧
    (is 5 → exec (.cgeu n w) s = .next (goes (!a.ult b))) ∧ (is 13 → exec (.cgeu n w) s = .next (goes (!la.ult lb))) ∧
    (pr 0x10 (15, 14) → exec (.pand n w) s = .next (goes (pa && pb))) ∧
    (pr 0x11 (15, 14) → exec (.por n w) s = .next (goes (pa || pb))) ∧
    (pr 0x12 (15, 14) → exec (.pxor n w) s = .next (goes (pa != pb))) ∧
    (pr 0x13 (15, 11) → exec (.pnot n w) s = .next (goes (!pa)))

/-- The branches of Table 11-6; `pc` is the PC of the branch itself, `by16` and `by21` its targets, modulo 2^19. -/
def Obligations.BranchesAndJumpsMoveTheProgramCounter : Prop :=
  ∀ (s : State) (n : CayNum) (c : MCall) (w : Word), Executing s n c w → (cayAt s n.val).pc < 2 ^ 19 →
    let m := fetched s n
    let pc := (cayAt s n.val).pc
    let by16 := (BitVec.ofNat 19 pc + (BitVec.ofNat 16 (wb w 15 0)).signExtend 19).toNat
    let by21 := (BitVec.ofNat 19 pc + (BitVec.ofNat 21 (wb w 20 0)).signExtend 19).toNat
    let x := getG m (wb w 25 21)
    let y := getG m (wb w 20 16)
    let go := fun (b : Bool) => putCay s n.val (if b then { m with pc := by16 } else m)
    let link := setG m (wRd w) (BitVec.ofNat 64 (0x200000 * n.val + 4 * ((pc + 1) % 2 ^ 19)))
    let is := fun (op : Nat) => encodes w op none [] = true
    let pb := fun (sense : Nat) => encodes w 0x10 (some (20, 20, sense)) [(25, 24), (19, 16)] = true
    (is 0x0A → exec (.beqD n w) s = .next (go (x == y))) ∧
    (is 0x0B → exec (.bneD n w) s = .next (go (x != y))) ∧
    (is 0x0C → exec (.bltD n w) s = .next (go (x.slt y))) ∧
    (is 0x0D → exec (.bgeD n w) s = .next (go (!x.slt y))) ∧
    (is 0x0E → exec (.bltuD n w) s = .next (go (x.ult y))) ∧
    (is 0x0F → exec (.bgeuD n w) s = .next (go (!x.ult y))) ∧
    (pb 0 → exec (.bp n w) s = .next (go (getP m (wb w 23 21)))) ∧
    (pb 1 → exec (.bnp n w) s = .next (go (!getP m (wb w 23 21)))) ∧
    (is 0x12 → exec (.jal n w) s = .next (putCay s n.val { link with pc := by21 })) ∧
    (is 0x13 → exec (.jalr n w) s = .next (putCay s n.val { link with
      pc := (getG m (wRa w) + (BitVec.ofNat 16 (wb w 15 0)).signExtend 64).toNat / 4 % 2 ^ 19 }))

/-- The memory instructions: `readable` and `writable` are the checks of R306 and R307 on the address alone, `Clear` says
that no stream and no fault is in the way; a store goes to memory for a kernel and is held for an update entry
(`putBytes`). -/
def Obligations.LoadsAndStoresMoveTheirBytes : Prop :=
  ∀ (s : State) (n : CayNum) (c : MCall) (w : Word), Executing s n c w →
    let m := fetched s n
    let a := (getG m (wRa w) + (BitVec.ofNat 16 (wb w 15 0)).signExtend 64).toNat
    let k := 2 ^ (wMajor w % 4)
    let readable := fun (al len : Nat) => a % al = 0 ∧ allIn (loadRanges s n.val c) a len = true ∧ Clear s m c a len false
    let writable := fun (al len : Nat) => a % al = 0 ∧ allIn (storeReach s n.val c) a len = true ∧
      allIn (storeRanges s n.val c) a len = true ∧ Clear s m c a len true
    let got := fun (len : Nat) => loadBytes s c a len
    let ad := wb w 22 21
    let g := wb w 24 23
    let group := wideBytes ((getA m ad).getD g (clearLanes 16 floorW96))
    (0x18 ≤ wMajor w ∧ wMajor w ≤ 0x1B ∧ readable k k →
      exec (.ld n w) s = .next (putCay s n.val (setG m (wRd w) ((BitVec.ofNat (8 * k) (leNat (got k))).signExtend 64)))) ∧
    (0x1C ≤ wMajor w ∧ wMajor w ≤ 0x1E ∧ readable k k →
      exec (.ldu n w) s = .next (putCay s n.val (setG m (wRd w) (BitVec.ofNat 64 (leNat (got k)))))) ∧
    (0x20 ≤ wMajor w ∧ wMajor w ≤ 0x23 ∧ writable k k →
      exec (.st n w) s = .next (putCay (putBytes s c a (natLe k (getG m (wRd w)).toNat)) n.val m)) ∧
    (0x24 ≤ wMajor w ∧ wMajor w ≤ 0x27 ∧ readable k 256 →
      exec (.vld n w) s = .next (putCay s n.val (setV m (wRd w) (BitVec.ofNat 2048 (leNat (got 256))) (loadTag c a)))) ∧
    (0x28 ≤ wMajor w ∧ wMajor w ≤ 0x2B ∧ writable k 256 →
      exec (.vst n w) s = .next (putCay (putBytes s c a (natLe 256 (getV m (wRd w)).toNat)) n.val m)) ∧
    (encodes w 0x2C none [(25, 25)] = true ∧ readable 16 208 →
      exec (.ald n w) s = .next (putCay s n.val (setA m ad (lmod (getA m ad) g (fun _ => groupOf (got 208)))))) ∧
    (encodes w 0x2D none [(25, 25)] = true ∧ writable 16 group.length →
      exec (.ast n w) s = .next (putCay (putBytes s c a group) n.val m))

/-- The rows of Table 11-10: `r k xs f` says that the row with function `k`, its zero fields `z` and sources `xs` writes
each lane by `f` from the settings in KC and the sources' lanes. -/
def Obligations.VectorFloatRowsWriteEveryLane : Prop :=
  ∀ (s : State) (n : CayNum) (c : MCall) (w : Word), Executing s n c w →
    let m := fetched s n
    let fmt : FloatFmt := if wb w 5 5 = 1 then .fp64 else .fp32
    let wd := floatWidth fmt
    let r := fun (i : Instr) (k : Nat) (z : List (Nat × Nat)) (xs : List Nat) (f : FEnv → List Nat → Nat × Flags) =>
      encodes w 0x30 (some (4, 0, k)) z = true →
        exec i s = .next (vectorWritten s n c (wRd w) (xs.findSome? (getTag m)) (512 / wd) wd
          ((List.range (2048 / wd)).map (fun i => f (kcEnv m) (xs.map (fun v => lane wd i (getV m v))))))
    let two := [wRa w, wRb w]
    let x := fun (l : List Nat) => l.getD 0 0
    let y := fun (l : List Nat) => l.getD 1 0
    let cmp := fun (k : FCmp) (v : FEnv) (l : List Nat) =>
      let a := fCompare k fmt v (x l) (y l)
      (if a.1 then 2 ^ wd - 1 else 0, a.2)
    r (.vfadd n w) 0x00 [(10, 6)] two (fun v l => fAdd fmt v (x l) (y l)) ∧
    r (.vfsub n w) 0x01 [(10, 6)] two (fun v l => fSub fmt v (x l) (y l)) ∧
    r (.vfmul n w) 0x02 [(10, 6)] two (fun v l => fMul fmt v (x l) (y l)) ∧
    r (.vfdiv n w) 0x03 [(10, 6)] two (fun v l => fDiv fmt v (x l) (y l)) ∧
    r (.vfsqrt n w) 0x04 [(15, 6)] [wRa w] (fun v l => fSqrt fmt v (x l)) ∧
    r (.vffma n w) 0x05 [] [wRa w, wRb w, wVc w] (fun v l => fFma fmt v (x l) (y l) (l.getD 2 0)) ∧
    r (.vfmin n w) 0x06 [(10, 6)] two (fun v l => fMinMax false fmt v (x l) (y l)) ∧
    r (.vfmax n w) 0x07 [(10, 6)] two (fun v l => fMinMax true fmt v (x l) (y l)) ∧
    r (.vfabs n w) 0x08 [(15, 6)] [wRa w] (fun v l => fSign false fmt v (x l)) ∧
    r (.vfneg n w) 0x09 [(15, 6)] [wRa w] (fun v l => fSign true fmt v (x l)) ∧
    r (.vfeq n w) 0x0A [(10, 6)] two (cmp .eq) ∧
    r (.vflt n w) 0x0B [(10, 6)] two (cmp .lt) ∧
    r (.vfle n w) 0x0C [(10, 6)] two (cmp .le)

/-- The rows of Table 11-11: `wd` is the lane width of function bits [5:4], `sx` the signed value of a lane. -/
def Obligations.VectorIntegerRowsWriteEveryLane : Prop :=
  ∀ (s : State) (n : CayNum) (c : MCall) (w : Word), Executing s n c w →
    let m := fetched s n
    let wd := 8 * 2 ^ (wb w 5 4)
    let sx := toSigned wd
    let ends := fun (xs : List Nat) (f : List Nat → Nat) =>
      putCay s n.val (setV m (wRd w)
        (ofLanes wd ((List.range (2048 / wd)).map (fun i => f (xs.map (fun v => lane wd i (getV m v))))))
        (if c.kernel then none else xs.findSome? (getTag m)))
    let r := fun (i : Instr) (k : Nat) (f : Nat → Nat → Nat) => encodes w 0x31 (some (3, 0, k)) [] = true →
      exec i s = .next (ends [wRa w, wRb w] (fun l => f (l.getD 0 0) (l.getD 1 0)))
    let mask := fun (b : Bool) => if b then 2 ^ wd - 1 else 0
    r (.vadd n w) 0 (fun x y => (x + y) % 2 ^ wd) ∧
    r (.vsub n w) 1 (fun x y => (x + 2 ^ wd - y) % 2 ^ wd) ∧
    r (.vmul n w) 2 (fun x y => x * y % 2 ^ wd) ∧
    r (.vand n w) 3 (fun x y => x &&& y) ∧
    r (.vor n w) 4 (fun x y => x ||| y) ∧
    r (.vxor n w) 5 (fun x y => x ^^^ y) ∧
    r (.vshl n w) 6 (fun x y => x * 2 ^ (y % wd) % 2 ^ wd) ∧
    r (.vshr n w) 7 (fun x y => x / 2 ^ (y % wd)) ∧
    r (.vsar n w) 8 (fun x y => ofSigned wd ((sx x).fdiv (2 ^ (y % wd)))) ∧
    r (.vmin n w) 9 (fun x y => if decide (sx x < sx y) then x else y) ∧
    r (.vmax n w) 10 (fun x y => if decide (sx x < sx y) then y else x) ∧
    r (.vminu n w) 11 (fun x y => min x y) ∧
    r (.vmaxu n w) 12 (fun x y => max x y) ∧
    r (.veq n w) 13 (fun x y => mask (x == y)) ∧
    r (.vlt n w) 14 (fun x y => mask (decide (sx x < sx y))) ∧
    (encodes w 0x31 (some (3, 0, 15)) [] = true → exec (.vsel n w) s = .next (ends [wRa w, wRb w, wVc w]
      (fun l => if l.getD 2 0 ≠ 0 then l.getD 0 0 else l.getD 1 0)))

/-- The rows of Table 11-12 and the conversions. That VMOV copies va's tag is the model's choice, log 73 (DEDUCED).
Here `wd` is the lane width of function bits [1:0]; `convPair` the formats of
a conversion word where R316 admits them. -/
def Obligations.LaneMovesAndConversionsWriteTheirLanes : Prop :=
  ∀ (s : State) (n : CayNum) (c : MCall) (w : Word), Executing s n c w →
    let m := fetched s n
    let wd := 8 * 2 ^ (wb w 1 0)
    let at_ := (getG m (wRb w)).toNat
    let va := getV m (wRa w)
    let is := fun (k : Nat) (z : List (Nat × Nat)) => encodes w 0x33 (some (5, 2, k)) z = true
    (is 0 [] → exec (.vbcast n w) s = .next (putCay s n.val (setV m (wRd w)
      (ofLanes wd (List.replicate (2048 / wd) (getG m (wRa w)).toNat)) none))) ∧
    (is 1 [] ∧ at_ < 2048 / wd → exec (.vext n w) s = .next (putCay s n.val
      (setG m (wRd w) (BitVec.ofNat 64 (lane wd at_ va))))) ∧
    (is 2 [] ∧ at_ < 2048 / wd → exec (.vins n w) s = .next (putCay s n.val (setV m (wRd w)
      (ofLanes wd (lmod (lanesOf wd (getV m (wRd w))) at_ (fun _ => (getG m (wRa w)).toNat))) none))) ∧
    (encodes w 0x33 (some (5, 0, 0xF)) [] = true →
      exec (.vmov n w) s = .next (putCay s n.val (setV m (wRd w) va (getTag m (wRa w))))) ∧
    (∀ a b, convPair w = some (a, b) → encodes w 0x32 none [(0, 0)] = true →
      let la := lanesOf (laneWidth a) va
      let lb := lanesOf (laneWidth a) (getV m (wRb w))
      let cv := laneConvert a b (kcIeee m)
      let part := wb w 10 9
      let per := 512 / laneWidth a
      let ld := 2048 / laneWidth b
      let ls := 2048 / laneWidth a
      (laneWidth a = laneWidth b ∧ wb w 15 9 = 0 →
        exec (.vcvt n w) s = .next (vectorWritten s n c (wRd w) (getTag m (wRa w)) per (laneWidth b) (la.map cv))) ∧
      (laneWidth a < laneWidth b ∧ part < laneWidth b / laneWidth a →
        exec (.vcvtw n w) s = .next (vectorWritten s n c (wRd w) ((getTag m (wRa w)).map (fun t => t + part * ld)) per
          (laneWidth b) (((la.drop (part * ld)).take ld).map cv))) ∧
      (laneWidth b < laneWidth a ∧ 2 * part < laneWidth a / laneWidth b →
        let rs := (la ++ lb).map cv
        let old := lanesOf (laneWidth b) (getV m (wRd w))
        let r := raise s m c n.val (getTag m (wRa w)) per
          (List.replicate (2 * ls * part) noFlags ++ rs.map (fun x => x.2))
        exec (.vcvtn n w) s = .next (putCay r.1 n.val (setV r.2 (wRd w)
          (ofLanes (laneWidth b) (old.take (2 * ls * part) ++ rs.map (fun x => x.1) ++ old.drop (2 * ls * (part + 1))))
          (if c.kernel then none else getTag m (wRa w))))))

/-- The rows of Tables 11-14 and 11-15. `gs` and `as` are the two accumulators an accumulator row names, `t` the tile. -/
def Obligations.AccumulatorAndTileRowsDoTheirCombine : Prop :=
  ∀ (s : State) (n : CayNum) (c : MCall) (w : Word), Executing s n c w →
    let m := fetched s n
    let ad := wb w 25 24
    let v := getV m (wRa w)
    let gs := getA m ad
    let src := accValues (getA m (wb w 23 22))
    let part := wb w 11 10
    let ieee := kcIeee m
    let acc := fun (k : Nat) (z : List (Nat × Nat)) => encodes w 0x34 (some (5, 0, k)) z = true
    let takes := fun (i : Instr) (wd : Nat) (conv : Nat → Wide × Flags) =>
      let lanes := 2048 / wd
      let first := if lanes < 64 then 0 else 64 * part
      let rs := (((lanesOf wd v).drop first).take 64).map conv
      let xs := if lanes < 64 then
          List.replicate (32 * part) (some dyZero) ++ rs.map (fun r => r.1) ++ List.replicate (32 - 32 * part) (some dyZero)
        else rs.map (fun r => r.1)
      part < accParts lanes → exec i s = .next (accWritten s n c ad (getTag m (wRa w)) (512 / wd)
        (List.replicate first noFlags ++ rs.map (fun r => r.2) ++ [(combineAcc gs xs).2]) (combineAcc gs xs).1)
    let tl := wb w 25 23
    let t := getT m tl
    let ta := wb w 22 18
    let tb := wb w 17 13
    let row := wb w 10 6
    let tile := fun (k : Nat) => encodes w 0x38 (some (5, 0, k)) [] = true
    let mac := fun (i : Instr) (f : LogFmt) =>
      ta % (logWidth f / 2) = 0 ∧ tb % (logWidth f / 2) = 0 ∧ t.fmt = f →
        let z := combine 80 t.lanes (sliceSums m f ta tb)
        let r := raise s m c n.val none 1 [z.flags]
        exec i s = .next (putCay r.1 n.val (setT r.2 tl ⟨f, z.lanes⟩))
    (acc 0 [(23, 6)] → exec (.aclr n w) s = .next (putCay s n.val (setA m ad (List.replicate 4 (clearLanes 16 floorW96))))) ∧
    (∀ f, acc 1 [(23, 21), (9, 6)] → laneFmt (wb w 15 12) = some f → takes (.vacc n w) (laneWidth f) (laneToWide f)) ∧
    (∀ f, acc 2 [(23, 21), (9, 6)] → laneFmt (wb w 15 12) = some (.lg f) →
      takes (.vsqacc n w) (logWidth f) (fun x => (logSquare f x, noFlags))) ∧
    (acc 3 [(21, 6)] → exec (.aadd n w) s = .next
      (accWritten s n c ad none 1 [(combineAcc gs src).2] (combineAcc gs src).1)) ∧
    (acc 4 [(25, 24), (21, 21), (15, 6)] → exec (.afcvtW n w) s = .next
      (vectorWritten s n c (wRa w) none 16 32 (src.map (wideToFloat .fp32 ieee)))) ∧
    (acc 5 [(25, 24), (21, 21), (15, 12), (9, 6)] ∧ part < 2 → exec (.afcvtD n w) s = .next
      (vectorWritten s n c (wRa w) none 8 64 (((src.drop (32 * part)).take 32).map (wideToFloat .fp64 ieee)))) ∧
    (tile 0 → exec (.tclrL8 n w) s = .next (putCay s n.val (setT m tl ⟨.l8, clearLanes 1024 (-45)⟩))) ∧
    (tile 1 → exec (.tclrL16 n w) s = .next (putCay s n.val (setT m tl ⟨.l16, clearLanes 1024 (-157)⟩))) ∧
    (tile 2 → mac (.tmacL8 n w) .l8) ∧
    (tile 3 → mac (.tmacL16 n w) .l16) ∧
    (tile 4 ∧ row < 16 → exec (.tmovA n w) s = .next (putCay s n.val (setA m (wb w 12 11)
      ((List.range 4).map (fun g => ⟨(t.lanes.q.drop (64 * row + 16 * g)).take 16, t.lanes.e⟩))))) ∧
    (tile 5 ∧ row < 16 → exec (.tmovW n w) s = .next (vectorWritten s n c ta none 16 32
      ((((lanesValues t.lanes).drop (64 * row)).take 64).map (wideToFloat .fp32 ieee)))) ∧
    (tile 6 → exec (.tmovD n w) s = .next (vectorWritten s n c ta none 8 64
      ((((lanesValues t.lanes).drop (32 * row)).take 32).map (wideToFloat .fp64 ieee)))) ∧
    (tile 7 →
      let z := combineAcc (getA m (wb w 12 11)) (tileNorm t.lanes :: List.replicate 63 (some dyZero))
      exec (.tnormA n w) s = .next (accWritten s n c (wb w 12 11) none 1 [z.2] z.1))

/-- The rows of Table 11-17: `xRows` are the rows of R321 in ascending order as they would move at the issue (the model's
choice, log 74), `xEnds` what their end leaves in the stream. -/
def Obligations.StreamRowsMoveTheirRows : Prop :=
  (∀ (s : State) (n : CayNum) (c : MCall) (w : Word), Executing s n c w →
    let m := fetched s n
    let k := wb w 15 14
    let a := (getG m (wRd w)).toNat
    let d := xDesc (bytesAt s.mem s.free a 64)
    let moves := fun (i : Instr) (fn : Nat) (op : XOp) =>
      encodes w 0x3C (some (5, 0, fn)) [(20, 16), (13, 6)] = true →
      (c.kernel = false → exec i s = .next (trapCall s n.val c (cayAt s n.val).pc 1 0 0)) ∧
      (∀ t x st e, c.kernel = true →
        m.streams[k]? = some st → st.active = false → st.fault = none → a % 64 = 0 →
        allIn [codeRange n.val, scratchRange n.val] a 64 = true → Clear s m c a 64 false → xBad op d = false →
        xRows n.val c.ctx op d d.count 0 s {} = (t, x, e) →
        (xIndexed op d = true → earlierStream m [(d.index, d.count * d.idxW)] [] = none) →
        earlierStream m x.reads x.writes = none →
        let u := { s with free := t.free }
        exec i s = .next (putCay (if xIndexed op d = true then askHost u (some c.ctx) d.index (d.count * d.idxW) else u) n.val
          (setStream m k { xEnds x e with active := d.count != 0, rows := x.rows.reverse, prefetch := op == .prefetch })))
    moves (.xgather n w) 0 .gather ∧ moves (.xscatter n w) 1 .scatter ∧ moves (.xcopy n w) 2 .copy ∧
    moves (.xpref n w) 3 .prefetch ∧
    (encodes w 0x3C (some (5, 0, 4)) [(25, 16), (13, 6)] = true →
      (c.kernel = false → exec (.xwait n w) s = .next (trapCall s n.val c (cayAt s n.val).pc 1 0 0)) ∧
      (∀ st, c.kernel = true → m.streams[k]? = some st → st.active = false →
        st.fault = none → exec (.xwait n w) s = .next (putCay s n.val m)))) ∧
  (∀ (s : State) (c : Nat) (t : StreamSt) (a b len : Nat) (rows : List (Nat × Nat × Nat)), t.rows = (a, b, len) :: rows →
    let fault := (accessFault s (some c) a len false).or (if t.prefetch then none else accessFault s (some c) b len true)
    (fault = none → t.prefetch = false →
      moveRow c (s, t) = (streamWrite (streamRead s c a len).1 c b (bytesAt s.mem s.free a len), { t with rows := rows })) ∧
    (fault = none → t.prefetch = true → moveRow c (s, t) =
      ((streamRead s c a len).1, { t with rows := rows, buffer := t.buffer ++ [(a, bytesAt s.mem s.free a len)] })) ∧
    (∀ st, fault = some st →
      moveRow c (s, t) = (s, { t with rows := [], fault := none, stop := some st }))) ∧
  (∀ (s : State) (n : CayNum) (k : StreamNum) (c : MCall) (st : StreamSt), (cayAt s n.val).call = some c →
    (cayAt s n.val).streams[k.val]? = some st → st.active = true →
    let z := moveRows c.ctx st.rows.length (s, st)
    let u := putCay z.1 n.val (setStream (cayAt s n.val) k.val z.2)
    (z.2.stop = none → exec (.streamComplete n k) s = .next (putCay u n.val
      { setStream (cayAt u n.val) k.val { z.2 with active := false } with since := u.now })) ∧
    (∀ e, z.2.stop = some e → exec (.streamComplete n k) s = .next (stopCall u n.val c e)))

/-- The ends of a call and what they leave: `endCall` and `trapCall` are the shared operations of R331 and R327, `pump` the
start of tasks that wait for a Cay (R157). -/
def Obligations.CallsEndByReturnOrTrap : Prop :=
  (∀ (s : State) (n : CayNum) (c : MCall) (w : Word), Executing s n c w →
    let m := fetched s n
    let pc := (cayAt s n.val).pc
    (encodes w 0x14 (some (5, 0, 1)) [(10, 6)] = true ∧ (∀ t ∈ m.streams, t.active = false ∧ t.fault = none) →
      exec (.ret n w) s = .next (endCall (putCay s n.val m) n.val c)) ∧
    (encodes w 0x14 (some (5, 0, 4)) [(10, 6)] = true →
      exec (.trap n w) s = .next (trapCall s n.val c pc 7 (wb w 15 11) 0))) ∧
  (∀ (s : State) (n : CayNum) (c : MCall), (cayAt s n.val).call = some c →
    (rd s (CAY_KLIMIT n.val)).toNat ≤ (cayAt s n.val).count →
    exec (.klimitExceeded n) s = .next (trapCall s n.val c (cayAt s n.val).pc 6 0 0)) ∧
  (∀ (s : State) (n : CayNum) (c : MCall), (cayAt s n.val).call = some c → c.kernel = true →
    ∃ v, endCall s n.val c = pump v ∧ (cayAt v n.val).call = none ∧ (cayAt v n.val).streams = List.replicate 4 {} ∧
      getF v (CAY_KL_STATE_STATE n.val) = 3 ∧
      getF v (CAY_KL_STATE_STATUS n.val) = (if (cayAt s n.val).nv then 0x50 else 0) ∧ v.mem = s.mem ∧ v.layers = s.layers) ∧
  (∀ (s : State) (n : CayNum) (c : MCall) (x : Layer) (u : UpdateSt) (k : TaskSt), c.kernel = false →
    tget s.layers c.layer = some x → x.upd = some u → u.tasks.find? (fun k => k.t == c.task) = some k →
    ∃ v, v = withTask (putCay s n.val { cayAt s n.val with call := none }) c.layer c.task (fun _ => { k with run := k.run + 1 }) ∧
      (cayAt v n.val).call = none ∧
      let w := if (cayAt s n.val).nv then withUpd v c.layer (fun u => { u with nv := true }) else v
      endCall s n.val c = (if k.run + 1 < (taskRuns x.desc c.task).length then startRun w c.layer { k with run := k.run + 1 }
        else pump (withTask w c.layer c.task (fun k => { k with done := true })))) ∧
  (∀ (s : State) (n : CayNum) (c : MCall) (pc cause arg addr : Nat), (cayAt s n.val).call = some c → cause < 256 →
    ∃ v, trapCall s n.val c pc cause arg addr = pump (if c.kernel then v else stopUpdate v c.layer 0x13) ∧ v.mem = s.mem ∧
      getF v (CAY_TRAP_COUNT_COUNT n.val) = min (2 ^ 32 - 1) (getF s (CAY_TRAP_COUNT_COUNT n.val) + 1) ∧
      (flag s (CAY_TRAP0_VALID n.val) = true → rd v (CAY_TRAP0 n.val) = rd s (CAY_TRAP0 n.val) ∧
        rd v (CAY_TRAP1 n.val) = rd s (CAY_TRAP1 n.val) ∧ rd v (CAY_TRAP2 n.val) = rd s (CAY_TRAP2 n.val) ∧
        rd v (CAY_TRAP3 n.val) = rd s (CAY_TRAP3 n.val)) ∧
      (flag s (CAY_TRAP0_VALID n.val) = false → flag v (CAY_TRAP0_VALID n.val) = true ∧
        getF v (CAY_TRAP0_KIND n.val) = (if c.kernel then 4 else 2) ∧ getF v (CAY_TRAP0_CAUSE n.val) = cause ∧
        getF v (CAY_TRAP0_JOB n.val) = c.job % 2 ^ 16 ∧ getF v (CAY_TRAP1_PC n.val) = pc % 2 ^ 19 ∧
        getF v (CAY_TRAP1_ARG n.val) = arg % 2 ^ 9 ∧ rd v (CAY_TRAP2 n.val) = BitVec.ofNat 32 addr ∧
        rd v (CAY_TRAP3 n.val) = BitVec.ofNat 32 (addr / 2 ^ 32)) ∧
      (c.kernel = true → (cayAt v n.val).call = none ∧ (cayAt v n.val).streams = List.replicate 4 {} ∧
        getF v (CAY_KL_STATE_STATE n.val) = 3 ∧ getF v (CAY_KL_STATE_STATUS n.val) = 0x13) ∧
      (c.kernel = false → ∀ p ∈ v.cays, ∀ d, p.2.call = some d → d.kernel = true ∨ d.layer ≠ c.layer)) ∧
  (∀ s : State, (∀ p ∈ s.layers, p.2.upd = none) → pump s = s)

/-- R278. Differences of indices are taken modulo 2^32; `d` is the depth TAIL − RETIRE. -/
def Obligations.DoorbellMovesTailForwardOrIsIgnored : Prop :=
  ∀ (s : State) (r : Requester) (c : Ctx) (q : QNum) (v : Word),
    let k := qkey c.val q.val
    let tail := rd s (QUE_TAIL k)
    let n := 2 ^ getF s (QUE_SIZE_LOG2 k)
    let d := (tail - rd s (QUE_RETIRE k)).toNat
    let goes := fun t => exec (.doorbell r c q v) s = .next t
    reach s r (QUE_TAIL k) = .yes →
    (flag s (QUE_CTRL_ENABLE k) = false → goes s) ∧
    (flag s (QUE_CTRL_ENABLE k) = true →
      (v = tail → goes s) ∧
      (1 ≤ (v - tail).toNat → (v - tail).toNat ≤ n - d → goes (wr s (QUE_TAIL k) v)) ∧
      (n - d < (v - tail).toNat → 1 ≤ (tail - v).toNat → (tail - v).toNat ≤ d →
        goes (queError s k (QUE_ERR_REWIND k))) ∧
      (n - d < (v - tail).toNat → d < (tail - v).toNat → goes (queError s k (QUE_ERR_OVERRUN k))))

/-- R279 with the slots of R277, R284's check of the objects a command names, R281's FETCH_FAIL and the discards of R275 and
R276. That the read's requests leave with its return is the model's choice, log 145 (DESIGN CHOICE). -/
def Obligations.FetchMovesHeadPastTheCommandsOfItsRead : Prop :=
  ∀ (s : State) (c : Ctx) (q : QNum) (gen : Nat),
    let k := qkey c.val q.val
    let head := rd s (QUE_HEAD k)
    let live := flag s (QUE_CTRL_ENABLE k) = true ∧ ctxState s c.val = 1 ∧ ctxHostUp s c.val = true
    (∀ bs : List Byte, live → gen = (queueAt s k).run → flag s (QUE_ERR_FETCH_FAIL k) = false →
      fetchOk (some bs) = true →
      let j := min (bs.length / 64) (fetchRoom s k)
      ∃ t, exec (.commandFetch c q gen (some bs)) s = .next t ∧
        rd t (QUE_HEAD k) = head + BitVec.ofNat 32 j ∧
        (∀ x, x < j → ∃ m, cmdAt t k (head + BitVec.ofNat 32 x).toNat = some m ∧ m.bytes = slice bs (64 * x) 64 ∧
          m.started = false ∧ m.ran = false ∧
          m.status = if (cObjects m.bytes).all (inSyncRange s c.val) then none else some 0x13) ∧
        (∀ i, (∀ x, x < j → i ≠ (head + BitVec.ofNat 32 x).toNat) → cmdAt t k i = cmdAt s k i) ∧
        (∀ k', k' ≠ k → queueAt t k' = queueAt s k') ∧ RegsBut s t [QUE_HEAD k] ∧
        t = { s with regs := t.regs, queues := t.queues, out := (readSlots s k j).out }) ∧
    (∀ j, 0 < j → hostBase ≤ queRing s k →
      let n := 2 ^ getF s (QUE_SIZE_LOG2 k)
      let a := queRing s k + 64 * (head.toNat % n)
      let ask := fun (s : State) (a j : Nat) => hostAsk s (hostPort a) (ctxVf s c.val) a (64 * j)
      (head.toNat % n + j ≤ n → readSlots s k j = ask s a j) ∧
      (n < head.toNat % n + j → readSlots s k j = ask (ask s a (n - head.toNat % n)) (queRing s k) (j - (n - head.toNat % n)))) ∧
    (live → gen = (queueAt s k).run → flag s (QUE_ERR_FETCH_FAIL k) = false →
      exec (.commandFetch c q gen none) s = .next (queError (readSlots s k (fetchRoom s k)) k (QUE_ERR_FETCH_FAIL k))) ∧
    (∀ data, gen ≠ (queueAt s k).run ∨ flag s (QUE_ERR_FETCH_FAIL k) = true →
      exec (.commandFetch c q gen data) s = .next s)

/-- R283 and R292. `w` is the status with which the header wait is satisfied now, if it is (R291). -/
def Obligations.ACommandStartsInItsTurn : Prop :=
  ∀ (s : State) (c : Ctx) (q : QNum) (i : Word) (m : CmdSt),
    let k := qkey c.val q.val
    let w := (latchCmd s m).waits.getD 0 none
    let turn := ((cBarrier m.bytes || queCompat s k) = true → queRetire s k = i.toNat) ∧
      (cOp m.bytes = 0x0E → stepCloseActive s c.val k i.toNat = false)
    let wf := (headerBad m.bytes || payloadBad m.bytes) = false
    let goes := fun t => exec (.commandStart c q i) s = .next t
    let started := withCmd s k i.toNat (fun x => latchCmd s { x with started := true })
    cmdAt s k i.toNat = some m → m.started = false → m.status = none →
    (¬ turn → goes s) ∧
    (turn → cOp m.bytes = 0x0B ∨ cWait m.bytes = false →
      (wf → goes started) ∧ (¬ wf → goes (endCmd s k i.toNat 0x13))) ∧
    (turn → cOp m.bytes ≠ 0x0B → cWait m.bytes = true →
      (w = none → goes s) ∧
      (∀ st, w = some st → rank st ≤ 7 → goes (endCmd s k i.toNat 0x14)) ∧
      (∀ st, w = some st → 7 < rank st →
        (wf → goes started) ∧ (¬ wf → goes (endCmd s k i.toNat 0x13))))

/-- R287 with the indices of R277, the waiting records of R281 and the Tide of R296. That only a STEP_CLOSE that ran advances
the Tide is the model's choice, log 91 (DEDUCED). -/
def Obligations.ACompletionPostsRecordsAndMovesTheIndices : Prop :=
  (∀ (s : State) (c : Ctx) (q : QNum) (i : Word) (m : CmdSt) (st : Nat),
    let k := qkey c.val q.val
    let a := queCpl s k + 16 * (i.toNat % 2 ^ getF s (QUE_SIZE_LOG2 k))
    let sig := cPostSig m.bytes
    let posts := cPost m.bytes = true ∧ inSyncRange s c.val sig = true
    let bytes := natLe 4 i.toNat ++ natLe 1 (cOp m.bytes) ++ natLe 1 st ++ natLe 2 (cCookie m.bytes) ++ natLe 8 m.detail
    let record := Out.hostWrite (bits a 62 62) (ctxVf s c.val) a bytes
    cmdAt s k i.toNat = some m → m.status = some st → st < 256 →
    ∃ t, exec (.commandComplete c q i) s = .next t ∧
      cmdAt t k i.toNat = none ∧
      rd t (QUE_DONE k) = rd s (QUE_DONE k) + 1 ∧
      (rd s (QUE_RETIRE k) = i → (i + 1).toNat ∉ (queueAt s k).done → rd t (QUE_RETIRE k) = i + 1) ∧
      (rd s (QUE_RETIRE k) ≠ i → (rd s (QUE_RETIRE k)).toNat ∉ (queueAt s k).done →
        rd t (QUE_RETIRE k) = rd s (QUE_RETIRE k)) ∧
      (posts → syncValue t sig = (syncValue s sig + 1) % 2 ^ 64 ∧ syncStatus t sig = st) ∧
      (∀ o, o < 16384 → ¬ (posts ∧ o = sig) → syncValue t o = syncValue s o ∧ syncStatus t o = syncStatus s o) ∧
      (ctxHostUp s c.val = true → hostBase ≤ a → a < 2 ^ 64 → hostUp s (bits a 62 62) (ctxVf s c.val) = true →
        record ∈ t.out ∧
        let x := pcieAt s (ctxHost s c.val) (ctxVf s c.val)
        (bit (fieldAt m.bytes 1 1) 1 = true → x.msixOn = true → x.fnMask = false → q.val ∈ x.unmasked →
          ∃ l r, t.out = l ++ .msix (ctxHost s c.val) (ctxVf s c.val) q.val :: record :: r)) ∧
      (ctxHostUp s c.val = false →
        (queueAt t k).waiting = (queueAt s k).waiting ++ [⟨ctxVf s c.val, a, bytes, bit (fieldAt m.bytes 1 1) 1⟩]) ∧
      rd t (CTX_TIDE c.val) =
        if cOp m.bytes = 0x0E ∧ m.ran = true then rd s (CTX_TIDE c.val) + 1 else rd s (CTX_TIDE c.val)) ∧
  (∀ (s : State) (h : HostPort) (fn : Nat), flag s (HOSTIF_PORT_UP h.val) = true → fn ≤ 32 → 3 ≤ getF s TRUST_STATE_STATE →
    fn = 0 ∨ fn ≤ (pcieAt s h.val 0).vfs →
    let u := { s with bme := s.bme.filter (fun x => x != (h.val, fn)) ++ [(h.val, fn)] }
    ∃ t, exec (.configRequest h fn (some (.bme true))) s = .next t ∧
      ∀ k, ∀ w ∈ (queueAt s k).waiting, hostUp u (bits w.addr 62 62) w.fn = true → w ∉ (queueAt t k).waiting ∧
        (w.addr % 16 = 0 → w.data.length = 16 → .hostWrite (bits w.addr 62 62) w.fn w.addr w.data ∈ t.out) ∧
        let x := pcieAt s (bits w.addr 62 62) w.fn
        (w.irq = true → x.msixOn = true → x.fnMask = false → k % 16 ∈ x.unmasked → .msix (bits w.addr 62 62) w.fn (k % 16) ∈ t.out))

/-- R280, R298 and R299. `free` is ENTRIES less TAIL − RETIRE; the words of the answers are those of Table 10-12. -/
def Obligations.MirrorAndBlockingDoorbellReportTheQueue : Prop :=
  ∀ (s : State) (r : Requester) (c : Ctx) (q : QNum),
    let k := qkey c.val q.val
    let a := queMirror s k
    let w := fun off => natLe 4 (rd s off).toNat
    let free := 2 ^ getF s (QUE_SIZE_LOG2 k) - (rd s (QUE_TAIL k) - rd s (QUE_RETIRE k)).toNat
    let seq := (queueAt s k).seq + 1
    let due := (queueAt s k).held.filter (fun x => decide (x.2 + (rd s (QUE_COMPAT_HOLD k)).toNat ≤ s.now))
    let answer := fun (t : State) (x : Requester) (v : Word) => emit t (.readData x [v])
    ((queueAt s k).mirrorDue = true → flag s (QUE_CTRL_MIRROR k) = true → ctxHostUp s c.val = true →
      (flag s (QUE_CTRL_COMPAT k) = true → exec (.mirrorWrite c q) s = .next s) ∧
      (flag s (QUE_CTRL_COMPAT k) = false → hostBase ≤ a → a < 2 ^ 64 →
        hostUp s (bits a 62 62) (ctxVf s c.val) = true → 0 < (queueAt s k).run →
        let bs := w (QUE_HEAD k) ++ w (QUE_RETIRE k) ++ w (QUE_DONE k) ++ natLe 4 free ++ w (CTX_TIDE c.val) ++
          natLe 4 seq ++ natLe 2 (queueAt s k).cmds.length ++ zeros 38
        exec (.mirrorWrite c q) s =
          .next (emit (poke (withQueue s k (fun q => { q with mirrorDue := false, seq := q.seq + 1 })) a bs)
            (.hostWrite (bits a 62 62) (ctxVf s c.val) a bs)) ∧
        ∃ t, exec (.mirrorWrite c q) s = .next t ∧ (queueAt t k).mirrorDue = false ∧ (queueAt t k).seq = seq ∧
          (queueAt t k).cmds = (queueAt s k).cmds ∧ t.out = .hostWrite (bits a 62 62) (ctxVf s c.val) a bs :: s.out)) ∧
    (reach s r (QUE_COMPAT_WAIT k) = .yes → 0 < (queueAt s k).run →
      (flag s (QUE_CTRL_ENABLE k) = false →
        exec (.compatBlockingDoorbell r c q) s = .next (answer s r 0x80000000)) ∧
      (flag s (QUE_CTRL_ENABLE k) = true → 0 < free →
        exec (.compatBlockingDoorbell r c q) s = .next (answer s r (BitVec.ofNat 32 (min 512 free)))) ∧
      (flag s (QUE_CTRL_ENABLE k) = true → free = 0 →
        exec (.compatBlockingDoorbell r c q) s =
          .next (withQueue s k (fun q => { q with held := q.held ++ [(r, s.now)] })))) ∧
    (due = [] → exec (.compatHoldExpiry c q) s = .next s) ∧
    (due ≠ [] → exec (.compatHoldExpiry c q) s = .next (due.foldl (fun t x => answer t x.1 0x80000000)
        (withQueue s k (fun q => { q with held := q.held.filter (fun x => !due.contains x) })))) ∧
    (∀ i m st, cmdAt s k i.toNat = some m → m.status = some st → 0 < (queueAt s k).run →
      ∃ t, exec (.commandComplete c q i) s = .next t ∧
        let free := 2 ^ getF t (QUE_SIZE_LOG2 k) - (rd t (QUE_TAIL k) - rd t (QUE_RETIRE k)).toNat
        (free = 0 → (queueAt t k).held = (queueAt s k).held) ∧
        (0 < free → (queueAt t k).held = [] ∧ ∃ r, t.out =
          ((queueAt s k).held.map (fun x => Out.readData x.1 [BitVec.ofNat 32 (min 512 free)])).reverse ++ r))

/-- R276. `runOn` reads: a ring of `n` bytes lies on the port of the context's function inside a window with the access. -/
def Obligations.QueuesAreEnabledUnderTheirConditionsAndDisabledAtOnce : Prop :=
  ∀ (s : State) (r : Requester) (c : Ctx) (q : QNum) (v : Word),
    let k := qkey c.val q.val
    let l := getF s (QUE_SIZE_LOG2 k)
    let ring := fun (a n : Nat) (write : Bool) =>
      hostBase ≤ a ∧ bits a 62 62 = getF s (CTX_CFG_PORT c.val) ∧ inHostWin s c.val a n write = true
    let mirror := ring (queMirror s k) 64 true
    let active := (queueAt s k).cmds.length
    let compat := if active = 0 then v.getLsbD 1 else flag s (QUE_CTRL_COMPAT k)
    reach s r (QUE_CTRL k) = .yes →
    (v.getLsbD 0 = true → flag s (QUE_CTRL_ENABLE k) = false → ∃ t, exec (.queueEnable r c q v) s = .next t ∧
      flag t (QUE_CTRL_COMPAT k) = compat ∧ flag t (QUE_CTRL_MIRROR k) = v.getLsbD 2 ∧
      (let ok := ctxState s c.val = 1 ∧ (if compat then l = 9 else 6 ≤ l ∧ l ≤ 16) ∧
          ring (queRing s k) (64 * 2 ^ l) false ∧ ring (queCpl s k) (16 * 2 ^ l) true ∧
          (v.getLsbD 2 = true → mirror) ∧ active = 0
       (ok → flag t (QUE_CTRL_ENABLE k) = true ∧ rd t (QUE_TAIL k) = 0 ∧ rd t (QUE_HEAD k) = 0 ∧
          rd t (QUE_RETIRE k) = 0 ∧ rd t (QUE_DONE k) = 0 ∧ (queueAt t k).run = (queueAt s k).run + 1 ∧
          (queueAt t k).seq = 0 ∧
          RegsBut s t [QUE_CTRL k, QUE_TAIL k, QUE_HEAD k, QUE_RETIRE k, QUE_DONE k]) ∧
       (¬ ok → flag t (QUE_CTRL_ENABLE k) = false ∧ flag t (QUE_ERR_CONFIG k) = true ∧
          flag t (CTX_EVENT_QUEUE_ERROR c.val) = true ∧ queueAt t k = queueAt s k ∧
          RegsBut s t [QUE_CTRL k, QUE_ERR k, CTX_EVENT c.val]))) ∧
    (v.getLsbD 0 = false → flag s (QUE_CTRL_ENABLE k) = true → 0 < (queueAt s k).run →
      ∃ t, exec (.queueDisable r c q v) s = .next t ∧ flag t (QUE_CTRL_ENABLE k) = false ∧
        (queueAt t k).run = (queueAt s k).run + 1 ∧ (queueAt t k).cmds = (queueAt s k).cmds ∧
        RegsBut s t [QUE_CTRL k, QUE_ERR k, CTX_EVENT c.val]) ∧
    (v.getLsbD 2 = true → v.getLsbD 0 = true → flag s (QUE_CTRL_ENABLE k) = true → flag s (QUE_CTRL_MIRROR k) = false →
      (mirror → exec (.mirrorEnable r c q v) s = .next (setF s (QUE_CTRL_MIRROR k) 1)) ∧
      (¬ mirror → exec (.mirrorEnable r c q v) s = .next (queError s k (QUE_ERR_CONFIG k))))

/-- R274 and R275 with the conditions of R260. A virtual function's write changes nothing (R300). The model's choices: a CLOSING
context among the open ones and a host window outside the bus, log 27 (DEDUCED); what a close ends happens in CTX_CLOSED's one
event, log 28 (DESIGN CHOICE); a window over a reservation, log 134 (DESIGN CHOICE). -/
def Obligations.ContextsOpenCloseAndEnd : Prop :=
  ∀ (s : State) (r : Requester) (c : Ctx) (v : Word),
    let others := fun (P : Nat → Prop) => ∃ d, d < 64 ∧ d ≠ c.val ∧ ctxLive s d = true ∧ P d
    let illegal := ctxState s c.val ≠ 0 ∨ others (fun d => ctxJob s d = ctxJob s c.val)
    let axis := fun k => bits (getF s (CTX_CFG_AXES c.val)) (2 * k + 1) (2 * k)
    let hw := hbmWin s c.val
    let lw := lagoonWin s c.val
    let base := getF s (CTX_SYNC_BASE c.val)
    let count := getF s (CTX_SYNC_COUNT c.val)
    let bad := ctxJob s c.val = 0 ∨ axis 0 = axis 1 ∨ axis 1 = axis 2 ∨ axis 0 = axis 2 ∨ axis 0 = 3 ∨ axis 1 = 3 ∨ axis 2 = 3 ∨
      6 < getF s (CTX_CFG_PFMT c.val) ∨ (0 < hw.2 ∧ hbmBase + 0xA000000000 < hw.1 + hw.2) ∨
      (0 < lw.2 ∧ lagoonBase + 0x400000000 < lw.1 + lw.2) ∨
      (∃ a ∈ s.allocs, overlap hw.1 hw.2 a.base a.len = true ∨ overlap lw.1 lw.2 a.base a.len = true) ∨
      (∃ k, k < 8 ∧ (hostWin s c.val k).2.2.1 = true ∧
        hostBase + (getF s (MEM_HOSTWIN_BASE_HI_PORT c.val k) + 1) * 2 ^ 62 < (hostWin s c.val k).1 + (hostWin s c.val k).2.1) ∨
      others (fun d => overlap hw.1 hw.2 (hbmWin s d).1 (hbmWin s d).2 = true ∨
        overlap lw.1 lw.2 (lagoonWin s d).1 (lagoonWin s d).2 = true ∨
        overlap base count (getF s (CTX_SYNC_BASE d)) (getF s (CTX_SYNC_COUNT d)) = true ∨
        (ctxHost s d = ctxHost s c.val ∧ ctxVf s d = ctxVf s c.val)) ∨
      16384 < base + count ∨ ctxVf s c.val = 0 ∨ 32 < ctxVf s c.val ∨
      inHostWin s c.val (getF s (CTX_STEPREC_LO_ADDR c.val) * 64 + (rd s (CTX_STEPREC_HI c.val)).toNat * 2 ^ 32) 327680 true = false
    let units := fun n => (n + 65535) / 65536
    let quota := 16 * getF s (MEM_CTX_HBM_QUOTA_MIB c.val) < units hw.2 + units 2621440 + units (getF s (CTX_CACHE_MIB c.val) * 2 ^ 20) ∨
      16 * getF s (MEM_CTX_LAGOON_QUOTA_MIB c.val) < units lw.2
    (reach s r (CTX_CTRL c.val) = .yes →
      (isVf r = true → exec (.ctxOpen r c v) s = .next s ∧ exec (.ctxClose r c v) s = .next s) ∧
      (isVf r = false → v.getLsbD 0 = true → v.getLsbD 1 = false →
        (illegal → exec (.ctxOpen r c v) s = .next (setF s (CTX_STATE_OPEN_STATUS c.val) 0x12)) ∧
        (¬ illegal → bad → exec (.ctxOpen r c v) s = .next (setF s (CTX_STATE_OPEN_STATUS c.val) 0x13)) ∧
        (¬ illegal → ¬ bad → quota → exec (.ctxOpen r c v) s =
          .next (setF (bump s (MEM_CTX_REFUSE_COUNT_COUNT c.val) 1) (CTX_STATE_OPEN_STATUS c.val) 0x40)) ∧
        (¬ illegal → ¬ bad → ¬ quota → (openCtx s c.val).2 ≠ 0 → exec (.ctxOpen r c v) s =
          .next (setF (bump s MEM_SPACE_SHORT_COUNT_COUNT 1) (CTX_STATE_OPEN_STATUS c.val) 0x40)) ∧
        (¬ illegal → ¬ bad → ¬ quota → (openCtx s c.val).2 = 0 → ∃ t, exec (.ctxOpen r c v) s = .next t ∧ ctxState t c.val = 1 ∧
          getF t (CTX_STATE_OPEN_STATUS c.val) = 0 ∧ ctxTide t c.val = 0 ∧
          ∀ o, o < 16384 → inSyncRange t c.val o = true → syncValue t o = 0 ∧ syncStatus t o = 0)) ∧
      (isVf r = false → v.getLsbD 1 = true → v.getLsbD 0 = false → ctxState s c.val = 1 →
        ∃ t, exec (.ctxClose r c v) s = .next t ∧ ctxState t c.val = 2 ∧
          ∀ (q : QNum) (i : Nat), cmdAt t (qkey c.val q.val) i = (cmdAt s (qkey c.val q.val) i).map (fun m =>
            if m.started || m.status.isSome then m else { m with status := some 0x12 }))) ∧
    (ctxState s c.val = 2 → ctxBusy s c.val = false → ∃ t, exec (.ctxClosed c) s = .next t ∧ ctxState t c.val = 0 ∧
      (∀ g ∈ t.groups, g.2.ctx ≠ c.val) ∧ (∀ l ∈ t.layers, l.2.ctx ≠ c.val) ∧ (∀ x ∈ t.slots, x.2.ctx ≠ c.val) ∧
      (∀ x ∈ t.copies, x.ctx ≠ c.val) ∧ (∀ a ∈ t.allocs, a.ctx ≠ c.val) ∧ tget t.steps c.val = none ∧
      (∀ r a, (within a 1 (hbmWin s c.val) = true ∨ within a 1 (lagoonWin s c.val) = true) → byteAt t.mem r a = 0) ∧
      getF t (MEM_CTX_HBM_USED_UNITS c.val) = 0 ∧ getF t (MEM_CTX_LAGOON_USED_UNITS c.val) = 0 ∧
      ∀ q : QNum, flag t (QUE_CTRL_ENABLE (qkey c.val q.val)) = false)

/-- R286, R289, R291 and R293. `posted s t o n st`: of all objects only `o` moves, to counter `n` and STATUS `st`. -/
def Obligations.PostsWaitsAndNotificationsFollowTheObjects : Prop :=
  let posted := fun (s t : State) (o n st : Nat) => syncValue t o = n ∧ syncStatus t o = st ∧
    (∀ o', o' < 16384 → o' ≠ o → syncValue t o' = syncValue s o' ∧ syncStatus t o' = syncStatus s o') ∧
    (getF s (SYNC_NOTIFY_KIND o) ≠ 0 → o ∈ t.notify)
  (∀ (s : State) (r : Requester) (o : SyncObj) (v : Word), reach s r (SYNC_POST o.val) = .yes →
    (objCtx s o.val = none → exec (.syncPost r o v) s = .next s) ∧
    (objCtx s o.val ≠ none → ∃ t, exec (.syncPost r o v) s = .next t ∧
      posted s t o.val ((syncValue s o.val + v.toNat) % 2 ^ 64) 0 ∧
      ∀ k i, cmdAt t k i = (cmdAt s k i).map (latchCmd t))) ∧
  (∀ (s : State) (c : Ctx) (q : QNum) (i : Word) (m : CmdSt),
    let k := qkey c.val q.val
    let b := m.bytes
    let o := bits (fieldAt b 0x10 2) 13 0
    cmdAt s k i.toNat = some m → m.started = true → m.status = none →
    (m.ran = false → cOp b = 0x0C →
      (fieldAt b 0x12 1 ≤ 1 ∧ (fieldAt b 0x13 1 = 0 ∨ rank (fieldAt b 0x13 1) < 11) → objCtx s o ≠ none →
        ∃ t, exec (.signalPost c q i) s = .next t ∧
          posted s t o (if fieldAt b 0x12 1 = 0 then (syncValue s o + fieldAt b 0x18 8) % 2 ^ 64 else fieldAt b 0x18 8)
            (fieldAt b 0x13 1) ∧
          (cmdAt t k i.toNat).map (fun m => m.status) = some (some 0)) ∧
      (¬ (fieldAt b 0x12 1 ≤ 1 ∧ (fieldAt b 0x13 1 = 0 ∨ rank (fieldAt b 0x13 1) < 11)) →
        exec (.signalPost c q i) s = .next (endCmd (withCmd s k i.toNat (fun x => { x with ran := true })) k i.toNat 0x13))) ∧
    (cOp b = 0x0B →
      let w := (latchCmd s m).waits
      let all := ∀ p ∈ (cWaits b).zip w, p.1 = none ∨ p.2 ≠ none
      (¬ all → exec (.signalWait c q i) s = .next s) ∧
      (all → ∃ t, exec (.signalWait c q i) s = .next t ∧
        (cmdAt t k i.toNat).map (fun m => m.status) = some (some (worst (w.filterMap id)))))) ∧
  (∀ (s : State) (o : SyncObj) (c : Nat),
    let a := notifyAddr s o.val
    let bs := natLe 8 (syncValue s o.val) ++ natLe 1 (syncStatus s o.val) ++ zeros 7
    let p := getF s (SYNC_NOTIFY_PORT o.val)
    let u := { s with notify := s.notify.filter (· != o.val) }
    o.val ∈ s.notify → objCtx s o.val = some c →
    (getF s (SYNC_NOTIFY_KIND o.val) = 1 → inHostWin s c a 16 true = true → a < 2 ^ 64 →
      hostUp s (bits a 62 62) (ctxVf s c) = true →
      exec (.syncNotify o) s = .next (emit (poke u a bs) (.hostWrite (bits a 62 62) (ctxVf s c) a bs))) ∧
    (getF s (SYNC_NOTIFY_KIND o.val) = 1 → inHostWin s c a 16 true = false → exec (.syncNotify o) s = .next u) ∧
    (getF s (SYNC_NOTIFY_KIND o.val) = 2 → exec (.syncNotify o) s =
      .next (msix u (ctxHost s c) (ctxVf s c) (getF s (SYNC_NOTIFY_VECTOR o.val)))) ∧
    (getF s (SYNC_NOTIFY_KIND o.val) = 3 →
      (accUp s p = false → exec (.syncNotify o) s = .next u) ∧
      (accUp s p = true → notifyWaits s p a = false → exec (.syncNotify o) s =
        .next (withAcc u p (fun x => { x with mem := x.mem ++ [.memWrite a 0 bs none] }))))) ∧
  (∀ (s : State) (ps : List Post) (o : Nat), (∀ p ∈ ps, p.obj < 16384 ∧ p.status < 256) → o < 16384 →
    let mine := ps.filter (fun p => p.obj == o)
    let t := postAll s ps
    let sets := (mine.filter (fun p => p.kind == .set)).map (fun p => p.value % 2 ^ 64)
    let adds := (mine.filter (fun p => p.kind == .add)).map (fun p => p.value)
    (mine = [] ∨ objCtx s o = none → syncValue t o = syncValue s o ∧ syncStatus t o = syncStatus s o) ∧
    (mine ≠ [] → objCtx s o ≠ none →
      syncValue t o = ((if sets = [] then syncValue s o else sets.foldl max 0) + adds.sum) % 2 ^ 64 ∧
      syncStatus t o = worst (mine.map (fun p => p.status)) ∧ (getF s (SYNC_NOTIFY_KIND o) ≠ 0 → o ∈ t.notify)) ∧
    ∀ k i, cmdAt t k i = (cmdAt s k i).map (latchCmd t))

/-- R354 to R360. `frameTaken` is the receipt; `accCell` handles one cell. The model's choices: what a frame out of its order
leaves, log 92 (DEDUCED), and a MEM_DATA of wrong length, log 95 (DEDUCED). -/
def Obligations.AccessPortsTakeFramesInOrder : Prop :=
  ∀ (s : State) (a : AccPort) (h : FrameHead), accUp s a.val = true →
    let cells := fun (cs : List Cell) => cs ≠ [] ∧ cs.length ≤ 108 ∧ s.upsets = []
    let ok := h.hopOk = true ∧ h.udpOk = true
    let next := h.fseq.toNat = (accAt s a.val).rxSeq
    let u := frameTaken s a.val h
    (∀ n, (accAt (u n) a.val).rxSeq = ((accAt s a.val).rxSeq + 1) % 65536 ∧
      (accAt (u n) a.val).rxUnits = ((accAt s a.val).rxUnits + n) % 65536 ∧
      (accAt (u n) a.val).peerCredit = h.credit.toNat ∧ (accAt (u n) a.val).ackDue ≠ none) ∧
    (∀ i, ((∃ n, i = .memWrite a ⟨h, n⟩) ∨ i = .memRead a h ∨ (∃ cs, cells cs ∧ i = .cellsFrame a h cs) ∨
        ∃ g k d, i = .memData a h g k d) →
      (¬ ok → exec i s = .next (accDrop s a.val)) ∧ (ok → ¬ next → exec i s = .next s)) ∧
    (ok → next → (∀ n, exec (.memWrite a ⟨h, n⟩) s = .next (accDrop (u ((16 + n + 79) / 80)) a.val)) ∧
      exec (.memRead a h) s = .next (accDrop (u 1) a.val) ∧
      (∀ cs, cells cs → exec (.cellsFrame a h cs) s = .next (cs.foldl (accCell a.val) (u cs.length))) ∧
      (∀ g k d x r, let v := u ((16 + d.length + 79) / 80)
        (accAt v a.val).reads.find? (fun r => r.tag == g.toNat && r.sent.isSome) = some x →
        let w := withAcc v a.val (fun t => { t with reads := t.reads.filter (fun r => r.tag != g.toNat) })
        runOf w x.cmd = some r →
        (k = false ∨ d.length ≠ x.len → exec (.memData a h g k d) s = .next (endRunCopy w x.cmd 0x13)) ∧
        (k = true → d.length = x.len → r.dstAcc = none → accessFault w (some r.ctx) (r.dst + x.off) d.length true = none →
          r.dst + x.off < hostBase →
          exec (.memData a h g k d) s = .next (copyGo (copyLanded (poke w (r.dst + x.off) d) r.cmd d.length))))) ∧
    (∀ (v : State) (x : Cell),
      let c := getF v (HEALTH_PORT_OWNER_CONTEXT a.val)
      let taken := crcField x = crc16 (headerBytes x) ∧ flag v (HEALTH_PORT_OWNER_VALID a.val) = true ∧ ctxState v c ≠ 0 ∧
        ctxJob v c = x.job.toNat ∧ ((x.vc = 1 ∧ (x.type.toNat = tDATA_G8 ∨ x.type.toNat = tTRAILER)) ∨
          (x.vc = 0 ∧ x.type.toNat = tCAUSEWAY))
      (¬ taken → accCell a.val v x = accDrop v a.val) ∧
      (taken → accCell a.val v x = if x.type.toNat = tTRAILER then portTrailer v a.val x
        else if x.type.toNat = tCAUSEWAY then cwFromPort v a.val x else portData v a.val x)) ∧
    (ok → exec (.paceFrame a h) s = .next (accHead s a.val h)) ∧
    (∀ peer target body, target.toNat = linkLocal (accMac s a.val) →
      exec (.neighborSolicitation a peer target) s = .next (emit (learnAcc s a.val peer none) (.neighbourAdvert a.val target)) ∧
      exec (.echoRequest a peer target body) s = .next (emit (learnAcc s a.val peer none) (.echoReply a.val body))) ∧
    (∀ peer target body, target.toNat ≠ linkLocal (accMac s a.val) →
      exec (.neighborSolicitation a peer target) s = .next (accDrop s a.val) ∧
      exec (.echoRequest a peer target body) s = .next (accDrop s a.val)) ∧
    (∀ peer ch, exec (.lldpFrame a peer ch) s = .next (emit (learnAcc s a.val peer (some ch)) (.lldp a.val))) ∧
    exec (.foreignFrame a false) s = .next (bump s (ACC_DROP_COUNT_COUNT a.val) 1) ∧
    exec (.foreignFrame a true) s = .next (scorePort (bump s (ACC_FCS_COUNT_COUNT a.val) 1) (6 + a.val) 4)

/-- R353, R358, R360, R365 and R396; `accDown` after a stop trains again while ENABLE is 1. The model's choices: the advertised
CREDIT, log 93 (DEDUCED); RATE 0 when stopped, log 94 (DEDUCED); TRAINING passed inside ACCESS_LINK_UP, log 136 (DEDUCED). -/
def Obligations.AccessPortsStartStopResendAndSwitch : Prop :=
  ∀ (s : State) (r : Requester) (a : AccPort),
    let t := accAt s a.val
    let st := getF s (ACC_STATUS_STATE a.val)
    (∀ v : Word, reach s r (ACC_CTRL a.val) = .yes → s.power.refLost = false →
      let u := setF (setF (setF s (ACC_CTRL_MAXRATE a.val) (bits v.toNat 3 2)) (ACC_CTRL_AN a.val) (bits v.toNat 1 1))
        (ACC_CTRL_ENABLE a.val) (bits v.toNat 0 0)
      (flag s (ACC_CTRL_ENABLE a.val) = v.getLsbD 0 → exec (.accEnable r a v) s = .next u) ∧
      (flag s (ACC_CTRL_ENABLE a.val) = false → v.getLsbD 0 = true → st = 0 →
        exec (.accEnable r a v) s =
          .next (pfMsix (setF u (ACC_STATUS_STATE a.val) (if v.getLsbD 1 then 1 else 2)) 3)) ∧
      (flag s (ACC_CTRL_ENABLE a.val) = true → v.getLsbD 0 = false →
        exec (.accEnable r a v) s = .next (streamsGo (stopAcc u a.val)))) ∧
    (getF (stopAcc s a.val) (ACC_STATUS_STATE a.val) = 0 ∧ getF (stopAcc s a.val) (ACC_STATUS_RATE a.val) = 0 ∧
      tget (stopAcc s a.val).access a.val = none ∧ (∀ x ∈ (stopAcc s a.val).cells, x.egress ≠ 6 + a.val) ∧
      ∀ x ∈ (stopAcc s a.val).copying, x.srcAcc ≠ some a.val ∧ x.dstAcc ≠ some a.val) ∧
    (∀ rate : BitVec 2, (st = 1 ∨ st = 2) → s.power.refLost = false → rate.toNat ≤ 2 → getF s (ACC_CTRL_MAXRATE a.val) ≤ rate.toNat →
      (flag s (ACC_CTRL_AN a.val) = false → rate.toNat = getF s (ACC_CTRL_MAXRATE a.val)) →
      let u := withAcc s a.val (fun _ => { lastAck := s.now, ackDue := some s.now })
      exec (.accessLinkUp a rate) s = .next (emit (setF (pfMsix (setF
        (if st = 1 then pfMsix (setF u (ACC_STATUS_STATE a.val) 2) 3 else u)
        (ACC_STATUS_STATE a.val) 3) 3) (ACC_STATUS_RATE a.val) rate.toNat) (.reportAccess a.val none []))) ∧
    (st = 3 →
      let down := streamsGo (if flag (stopAcc s a.val) (ACC_CTRL_ENABLE a.val) then startAcc (stopAcc s a.val) a.val
        else stopAcc s a.val)
      exec (.accessLinkDown a) s = .next down ∧
      (t.ackDue ≠ none → exec (.frameAckDue a) s =
        .next (emit (withAcc s a.val (fun t => { t with ackDue := none }))
          (.frame a.val t.txSeq t.rxSeq ((t.rxUnits + 1024) % 65536) .pace))) ∧
      (t.kept ≠ [] → t.lastAck + (rd s (ACC_RTO a.val)).toNat ≤ s.now →
        (7 ≤ t.timeouts → exec (.accRto a) s = .next down) ∧
        (t.timeouts < 7 → ∃ v, exec (.accRto a) s = .next v ∧ (accAt v a.val).timeouts = t.timeouts + 1 ∧
          (accAt v a.val).kept = t.kept ∧ (accAt v a.val).lastAck = s.now ∧
          (∀ k ∈ t.kept, .frame a.val k.1 t.rxSeq ((t.rxUnits + 1024) % 65536) k.2 ∈ v.out) ∧
          getF v (ACC_RESEND_COUNT_COUNT a.val) =
            min (2 ^ 32 - 1) (getF s (ACC_RESEND_COUNT_COUNT a.val) + t.kept.length)))) ∧
    (∀ (g : BitVec 16) (x : AccRead) (t0 : Tick), t.reads.find? (fun r => r.tag == g.toNat) = some x → x.sent = some t0 →
      (t0 + (rd s ACC_MEM_TIMEOUT).toNat ≤ s.now → exec (.accMemTimeout a g) s = .next (endRunCopy s x.cmd 0x60)) ∧
      (s.now < t0 + (rd s ACC_MEM_TIMEOUT).toNat → exec (.accMemTimeout a g) s = .next s)) ∧
    (∀ v : Word, reach s r (HEALTH_PORT_OWNER a.val) = .yes → exec (.healthPortOwnerWrite r a v) s =
      .next (setF (setF s (HEALTH_PORT_OWNER_NEXT_VALID a.val) (bits v.toNat 15 15))
        (HEALTH_PORT_OWNER_NEXT_CONTEXT a.val) (bits v.toNat 5 0))) ∧
    (switchWanted s a.val = true →
      (portUsed s a.val = true → exec (.portSwitch a) s = .next s) ∧
      (portUsed s a.val = false → exec (.portSwitch a) s =
        .next (setF (setF s (HEALTH_PORT_OWNER_VALID a.val) (getF s (HEALTH_PORT_OWNER_NEXT_VALID a.val)))
          (HEALTH_PORT_OWNER_CONTEXT a.val) (getF s (HEALTH_PORT_OWNER_NEXT_CONTEXT a.val)))))

/-- R249 to R251, with R269's quarantine. `rejected` is the state after a reject: a counter, the log of the first, the
score. The model's choices: a free list is taken from and added to at its front, last in, first out (log 106); which
reservation a charged draw lowers, the first of the context's buckets that has one on the die (log 106). -/
def Obligations.PoolCellsObeyTheirNamedOwner : Prop :=
  ∀ (s : State) (a : CellAddr) (u : OwnerId),
    let n := a.toNat
    let d := descAt s n
    let die := n / 524288
    let only := fun (t : State) (e : PoolDesc) => descAt t n = e ∧ (∀ b, b ≠ n → descAt t b = descAt s b) ∧
      t.freeList = s.freeList
    let rejected := fun (i : Instr) (f : Fld) => ∃ t, exec i s = .next t ∧ t.descs = s.descs ∧ t.freeList = s.freeList ∧
      getF t f = min (2 ^ (f.hi + 1 - f.lo) - 1) (getF s f + 1) ∧ flag t POOL_ERR_LOG0_VALID = true
    (∀ i : Die, setAside i.val u ≤ cellsHeld s i.val u → exec (.poolAllocate i u none) s = .next s) ∧
    (∀ (i : Die) (c : Ctx), reservingBucket s i.val c.val = none → exec (.poolAllocate i u (some c)) s = .next s) ∧
    (∀ (i : Die) l, s.freeList.getD i.val [] = n :: l → i.val < s.freeList.length →
      (cellsHeld s i.val u < setAside i.val u →
        ∃ t, exec (.poolAllocate i u none) s = .next t ∧ t.freeList.getD i.val [] = l ∧ t.buckets = s.buckets ∧
          descAt t n = { state := true, count := 1, last := u, use := u } ∧ ∀ b, b ≠ n → descAt t b = descAt s b) ∧
      (∀ (c : Ctx) b, reservingBucket s i.val c.val = some b →
        ∃ t, exec (.poolAllocate i u (some c)) s = .next t ∧ t.freeList.getD i.val [] = l ∧
          t.buckets = s.buckets.map (fun p => if p.1 = b then (b, { p.2 with poolLeft := p.2.poolLeft - 1 }) else p) ∧
          descAt t n = { state := true, count := 1, last := u, use := u, charged := true, ctx := c.val } ∧
          ∀ b, b ≠ n → descAt t b = descAt s b)) ∧
    (d.quarantined = true → ∀ k l ch, exec (.poolShare a u k l) s = .next s ∧ exec (.poolDrop a u) s = .next s ∧
      exec (.poolFree a u ch) s = .next s) ∧
    (d.quarantined = false →
      (d.state = false → (∀ k l, rejected (.poolShare a u k l) POOL_DFREE_COUNT_COUNT) ∧
        rejected (.poolDrop a u) POOL_DFREE_COUNT_COUNT ∧ ∀ ch, rejected (.poolFree a u ch) POOL_DFREE_COUNT_COUNT) ∧
      (d.state = true →
        (∀ k l, u = d.last → d.count + k ≤ 31 →
          ∃ t, exec (.poolShare a u k l) s = .next t ∧ only t { d with count := d.count + k, last := l }) ∧
        (∀ k l, u ≠ d.last ∨ 31 < d.count + k → rejected (.poolShare a u k l) POOL_OWNER_ERR_COUNT_COUNT) ∧
        (u = d.last ∨ d.count = 1 → rejected (.poolDrop a u) POOL_OWNER_ERR_COUNT_COUNT) ∧
        (u ≠ d.last → 1 < d.count →
          (d.pending = true ∧ d.count = 2 →
            exec (.poolDrop a u) s = .next (poolRelease (setDesc s n { d with count := 1 }) n)) ∧
          (¬ (d.pending = true ∧ d.count = 2) →
            ∃ t, exec (.poolDrop a u) s = .next t ∧ only t { d with count := d.count - 1 })) ∧
        (∀ ch, u ≠ d.last → rejected (.poolFree a u ch) POOL_OWNER_ERR_COUNT_COUNT) ∧
        (u = d.last → d.count = 1 → exec (.poolFree a u false) s = .next (poolRelease s n)) ∧
        (u = d.last → d.count ≠ 1 →
          ∃ t, exec (.poolFree a u false) s = .next t ∧ only t { d with pending := true }))) ∧
    (let t := poolRelease s n
     descAt t n = {} ∧ (∀ b, b ≠ n → descAt t b = descAt s b) ∧
      (die < s.freeList.length → t.freeList.getD die [] = n :: s.freeList.getD die []) ∧
      (d.charged = true → getF t (poolUsed die d.ctx) = getF s (poolUsed die d.ctx) - 1)) ∧
    (∀ l : List Nat, l.length ≤ 1048576 → l.Nodup → l.head? = some n →
      (∀ j b, l[j]? = some b → (descAt s b).state = true ∧ (descAt s b).last = u ∧ (descAt s b).quarantined = false ∧
        (descAt s b).endc = decide (j + 1 = l.length) ∧ ∀ b', l[j + 1]? = some b' → (descAt s b).next = b') →
      exec (.poolFree a u true) s = .next (l.foldl (fun t b => (poolFree t b u).1) s))

/-- R209 to R216. `drops`: no cell of the queues moves and the credit of the cell's sub-channel is to be returned. The
model's choices: which cell without an index is taken, while discarding only one with RETRY set (log 109); when a cell
crosses the die bridge, `bridgeGo` (log 84). -/
def Obligations.ArrivingCellsGoOnOrAreDiscarded : Prop :=
  ∀ (s : State) (p : TorusPort) (x : Cell),
    let t0 := torusAt s p.val
    let sub := 2 * x.vc.toNat + x.dateline.toNat
    let hop := nextHop s (ownCoord s) x.dest.toNat x.dateline (some (portAxis p.val))
    let named := coordValid s = true ∧ coordOk s x.dest.toNat = true
    let drops := fun (f : Fld) => ∃ t, exec (.cellForward p x) s = .next t ∧ t.cells = s.cells ∧
      getF t f = min (2 ^ (f.hi + 1 - f.lo) - 1) (getF s f + 1) ∧
      (torusAt t p.val).rxIdx = (t0.rxIdx + 1) % 65536 ∧ (torusAt t p.val).returns = lmod t0.returns sub (· + 1)
    let failed := cellFails s p.val t0.rxIdx true none
    portUp s p.val = true →
    (unitExpected t0 x = false → exec (.cellForward p x) s = .next s) ∧
    (∀ i, x.idx = some i → (unitExpected t0 x = true ↔ i.toNat = t0.rxIdx)) ∧
    (x.idx = none → (unitExpected t0 x = true ↔ t0.discarding = false ∨ x.retry = true)) ∧
    (unitExpected t0 x = true → headerGood x = false → exec (.cellForward p x) s = .next failed) ∧
    (getF failed (LANE_CHECK_FAIL_COUNT p.val) = min (fldMax (LANE_CHECK_FAIL_COUNT p.val)) (getF s (LANE_CHECK_FAIL_COUNT p.val) + 1) ∧
      getF failed (FAB_PORT_HDR_CRC_COUNT p.val) = min (fldMax (FAB_PORT_HDR_CRC_COUNT p.val)) (getF s (FAB_PORT_HDR_CRC_COUNT p.val) + 1) ∧
      (torusAt failed p.val).discarding = true ∧ (torusAt failed p.val).nakDue = some t0.rxIdx ∧ failed.cells = s.cells) ∧
    (unitExpected t0 x = true → headerGood x = true → x.type.toNat ≠ tCREDIT →
      (x.poison = true → drops (FAB_PORT_POISON_RX_COUNT p.val)) ∧
      (x.poison = false → torusVcOk x = false → drops (FAB_PORT_DROP_TYPE_COUNT p.val)) ∧
      (x.poison = false → torusVcOk x = true → x.type.toNat ≠ tBEACON → ¬ (x.type.toNat = tMGMT ∧ x.dest = 0x7FFF) →
        (¬ named → drops (FAB_PORT_DROP_ROUTE_COUNT p.val)) ∧
        (named →
          (∀ e dl, hop = some (e, dl) → portBlocked s e = true → drops (FAB_PORT_DROP_ROUTE_COUNT p.val)) ∧
          (∀ e dl, hop = some (e, dl) → portBlocked s e = false → ∃ u, exec (.cellForward p x) s = .next (bridgeGo u) ∧
            u.cells = s.cells ++ [{
              cell := { x with dateline := dl, retry := false, crc := none, idx := none }, src := .ingress p.val, sub := sub, egress := e
              since := s.now }] ∧
            (torusAt u p.val).rxIdx = (t0.rxIdx + 1) % 65536 ∧ (torusAt u p.val).returns = t0.returns) ∧
          (hop = none → x.type.toNat ≠ tMGMT → jobCtx s x.job.toNat = none → drops (FAB_PORT_DROP_JOB_COUNT p.val))))) ∧
    (unitExpected t0 x = true → headerGood x = true → x.type.toNat = tCREDIT → x.poison = true →
      ∃ t, exec (.creditCell p x) s = .next t ∧ (torusAt t p.val).credits = t0.credits ∧ (torusAt t p.val).returns = t0.returns ∧
        getF t (FAB_PORT_POISON_RX_COUNT p.val) = min (fldMax (FAB_PORT_POISON_RX_COUNT p.val)) (getF s (FAB_PORT_POISON_RX_COUNT p.val) + 1)) ∧
    (unitExpected t0 x = true → headerGood x = true → x.type.toNat = tCREDIT → x.poison = false → x.retry = false → exec (.creditCell p x) s =
      .next (withTorus s p.val (fun t => { t with
        discarding := false, rxIdx := (t.rxIdx + 1) % 65536, sinceUnit := t.sinceUnit + 1
        unitAt := if t.sinceUnit = 0 then s.now else t.unitAt
        credits := (t.credits.zipIdx).map (fun c => c.1 + fieldAt (payloadOf x) (2 * c.2) 2) }))) ∧
    (creditIsDue s p.val = true ↔ (∃ n ∈ t0.returns, 8 ≤ n) ∨ ((∃ n ∈ t0.returns, 0 < n) ∧ t0.lastCredit < s.now)) ∧
    exec (.creditDue p) s = .next (if creditIsDue s p.val then torusSlot s p.val else s) ∧
    (t0.store.length < 512 → t0.resend = [] → controlDue s p.val = false → creditIsDue s p.val = true →
      ∃ t, exec (.creditDue p) s = .next t ∧ (torusAt t p.val).returns = List.replicate 16 0 ∧
        (torusAt t p.val).lastCredit = s.now ∧ (torusAt t p.val).txIdx = (t0.txIdx + 1) % 65536 ∧
        ∃ c, t.out = .cell p.val c false :: s.out ∧ c.type.toNat = tCREDIT ∧ c.dest = 0x7FFF ∧
          c.payload = t0.returns.flatMap (natLe 2) ++ zeros 32 ∧ (torusAt t p.val).store = t0.store ++ [(t0.txIdx, c)])

/-- R221. `u` is the slot's state once counters have gained and stalls have been counted. -/
def Obligations.EgressSlotsFollowTheOrderOfGrants : Prop :=
  (∀ (s : State) (e : EgressPort),
    (s.upsets = [] → e.val < 6 → portUp s e.val = true → exec (.egressSlot e) s = .next (ejectGo (streamsGo (torusSlot s e.val)))) ∧
    (s.upsets = [] → 6 ≤ e.val → exec (.egressSlot e) s = .next (ejectGo (copyGo (streamsGo (accSlot s (e.val - 6)))))) ∧
    (exec (.cellAged e) s = .next { s with cells := s.cells.map (fun q =>
      if ((heads s e.val).filter (isAged s)).contains q then { q with aged := true } else q) })) ∧
  (∀ (s : State) (e : Nat), e < 6 →
    let u := countStalls (slotGains s e) e
    let t := torusSlot s e
    (controlDue s e = true → t = sendControl u e ∧
      (∀ i, (torusAt s e).nakDue = some i → t.out = .control e (.nak (torusAt s e).rxIdx i) :: s.out ∧ (torusAt t e).nakDue = none) ∧
      ((torusAt s e).nakDue = none → t.out = .control e (.idle (torusAt s e).rxIdx) :: s.out) ∧ (torusAt t e).sinceUnit = 0 ∧
      t.cells = s.cells) ∧
    (controlDue s e = false → ∀ i x l, (torusAt s e).resend = (i, x) :: l →
      t.out = .cell e { x with retry := true } true :: s.out ∧ (torusAt t e).resend = l ∧ t.cells = s.cells) ∧
    (controlDue s e = false → (torusAt s e).resend = [] → 512 ≤ (torusAt s e).store.length → t = u) ∧
    (controlDue s e = false → (torusAt s e).resend = [] → (torusAt s e).store.length < 512 →
      (creditIsDue s e = true → t = sendCredit u e) ∧
      (creditIsDue s e = false → (chooseGrant u e).1 = none → t = withEgress u e (fun _ => (chooseGrant u e).2)) ∧
      (creditIsDue s e = false → ∀ q aged, (chooseGrant u e).1 = some (q, aged) →
        (∃ m, t.out = .cell e { q.cell with mark := q.cell.mark || m } false :: s.out) ∧
        (torusAt t e).credits = lmod (torusAt s e).credits (subOf q.cell) (· - 1) ∧
        ∃ v, t = bridgeGo v ∧ v.cells = unqueue s.now q s.cells)) ∧
    (∀ q aged, (chooseGrant u e).1 = some (q, aged) →
      let allowed := fun (h : QCell) => grantable u h = true ∧ rateOk u h = true
      q ∈ heads u e ∧ grantable u q = true ∧
      (aged = false → ∀ h ∈ heads u e, isAged u h = true → ¬ allowed h) ∧
      (aged = false → q.cell.vc ≠ 0 → ∀ h ∈ heads u e, h.cell.vc = 0 → ¬ allowed h) ∧
      (aged = false → q.cell.vc ≠ 0 → q.cell.vc ≠ 7 → ∀ h ∈ heads u e, h.cell.vc = 7 → ¬ allowed h)))

/-- R227 and R228; `taken` are the conditions under which the cell is for this module and the link takes it. -/
def Obligations.EchoesCutLimitersThatRecover : Prop :=
  (∀ (s : State) (p : TorusPort) (x : Cell) (e : Nat) (dl : Bool),
    let taken := portUp s p.val = true ∧ unitExpected (torusAt s p.val) x = true ∧ headerGood x = true ∧ x.poison = false ∧
      behindAtEject s p.val x = false ∧ x.type.toNat = tRSP ∧ x.echo = true ∧ x.vc = 0 ∧ coordValid s = true ∧ coordOk s x.dest.toNat = true ∧
      x.dest.toNat = ownCoord s ∧ jobCtx s x.job.toNat ≠ none
    let c := (jobCtx s x.job.toNat).getD 64
    let v := fieldAt (payloadOf x) 1 1
    let l := limiterAt s e c v
    let cut := fun (t : State) (n : Nat) => (limiterAt t e c v).rate = n
    taken → nextHop s (ownCoord s) x.src.toNat false none = some (e, dl) →
    ∃ t, exec (.ecnEcho p x) s = .next t ∧
      ((∀ k, l.cutAt = some k → k + getF s FAB_ECN_TIMING_CUT_GAP ≤ s.now) →
        cut t (max (getF s FAB_ECN_CTRL_RMIN) (l.rate - (l.rate * getF s FAB_ECN_CTRL_CUT + 255) / 256)) ∧
        (limiterAt t e c v).cutAt = some s.now ∧
        getF t (FAB_PORT_CUTS_COUNT e) = min (fldMax (FAB_PORT_CUTS_COUNT e)) (getF s (FAB_PORT_CUTS_COUNT e) + 1)) ∧
      (∀ k, l.cutAt = some k → s.now < k + getF s FAB_ECN_TIMING_CUT_GAP → t.egress = s.egress)) ∧
  (∀ s : State,
    (s.lastRecover + getF s FAB_ECN_TIMING_RECOVER ≤ s.now → exec .limiterRecover s = .next { s with
      lastRecover := s.now
      egress := s.egress.map (fun p => (p.1, { p.2 with limiters := p.2.limiters.map (fun l =>
        { l with rate := min 1024 (l.rate + getF s FAB_ECN_CTRL_ADD) }) })) }) ∧
    (s.now < s.lastRecover + getF s FAB_ECN_TIMING_RECOVER → exec .limiterRecover s = .next s)) ∧
  (∀ (s : State) (d : Die) (src : Coord) (job : BitVec 16) (vc : BitVec 3) (e : EchoEntry),
    let here := fun e : EchoEntry => e.src == src && e.job == job && e.vc == vc.toNat
    (s.echo.getD d.val []).find? here = some e →
    (s.now < e.last + getF s FAB_ECN_ECHO_GAP → exec (.echoGap d src job vc) s = .next s) ∧
    (e.last + getF s FAB_ECN_ECHO_GAP ≤ s.now → e.count = 0 → exec (.echoGap d src job vc) s =
      .next { s with echo := lmod s.echo d.val (fun l => l.filter (fun y => !here y)) }) ∧
    (e.last + getF s FAB_ECN_ECHO_GAP ≤ s.now → 0 < e.count →
      let u := { s with echo := lmod s.echo d.val (fun l => l.map (fun y => if here y then { y with count := 0, last := s.now } else y)) }
      exec (.echoGap d src job vc) s = .next (if coordValid s = true then bump (sendJob u e.src.toNat
        { type := BitVec.ofNat 4 tRSP, echo := true, vc := 0, job := e.job
          payload := natLe 1 0xA0 ++ natLe 1 e.vc ++ natLe 2 (min 65535 e.count) ++ zeros 60 })
        FAB_ECN_ECHO_TX_COUNT 1 else u)))

/-- R14 to R18. `meets` says what an access of the requester at the offset meets; the register there is `row i j`. The
model's choices: which pairs are 64-bit quantities with a shadow, `pairLow` (log 20); a wide access acts as its 32-bit parts
in ascending order (log 21); what is decoded before READY (log 23); QUE_COMPAT_WAIT in a wide read is answered by itself
(log 24); a sensor's bits are free (log 25). -/
def Obligations.RegisterAccessesActUnderTheirCodes : Prop :=
  (∀ (s : State) (r : Requester) (off : Word),
    let o := off.toNat
    o % 4 = 0 →
    (∀ (v : Word) (p : Nat) (row : RegRow) (i j : Nat), meets s r o = (.yes, p) → regAt p = some (row, i, j) →
      (ownWrite s r row.base i j v = none → ownWriteLate s r row.base i v = none → writable s r row.base i = true →
        ((∀ f ∈ row.fields, f.acc ≠ .countLo ∧ f.acc ≠ .countHi) →
          ∃ t, exec (.registerWrite r off [some v]) s = .next t ∧ RegsBut s t [p] ∧ t = { s with regs := t.regs } ∧
            ∀ f ∈ row.fields, let g : Fld := ⟨p, f.hi, f.lo⟩
              (f.acc = .rw → getF t g = bits v.toNat f.hi f.lo) ∧
              (f.acc = .ro ∨ f.acc = .wo → getF t g = getF s g) ∧
              (f.acc = .flag → getF t g = getF s g - (getF s g &&& bits v.toNat f.hi f.lo)) ∧
              (f.acc = .count → getF t g = getF s g - bits v.toNat f.hi f.lo) ∧
              (f.acc = .qmax → getF t g = if bits v.toNat f.hi f.lo = 0 then getF s g else min (fldMax g) (vcDepth s i j))) ∧
        (row.fields = [⟨31, 0, .countLo⟩] → ∃ t, exec (.registerWrite r off [some v]) s = .next t ∧ RegsBut s t [p, p + 4] ∧
          t = { s with regs := t.regs } ∧ rd64 t p = rd64 s p - v.toNat) ∧
        (row.fields = [⟨31, 0, .countHi⟩] → ∃ t, exec (.registerWrite r off [some v]) s = .next t ∧ RegsBut s t [p - 4, p] ∧
          t = { s with regs := t.regs } ∧ rd64 t (p - 4) = rd64 s (p - 4) - v.toNat * 2 ^ 32)) ∧
      (ownWrite s r row.base i j v = none → p < HEALTH_CTRL → writable s r row.base i = false →
        exec (.registerWrite r off [some v]) s = .next s) ∧
      ((∀ f ∈ row.fields, f.acc ≠ .countLo ∧ f.acc ≠ .countHi) ∨ row.fields = [⟨31, 0, .countLo⟩] ∨
        row.fields = [⟨31, 0, .countHi⟩])) ∧
    (∀ v, (meets s r o).1 = .absent → exec (.registerWrite r off [some v]) s = .next s) ∧
    (∀ v vs, o + 4 < 2 ^ 32 →
      exec (.registerWrite r off (none :: vs)) s = exec (.registerWrite r (off + 4) vs)
        (if (meets s r o).1 = .unmapped then bump s GLOBAL_UNMAPPED_COUNT_COUNT 1 else s) ∧
      ((meets s r o).1 ≠ .unmapped → decoded s r = true →
        exec (.registerPairLowRead r off [false]) s = .next (emit s (.readData r [0]))) ∧
      ∀ t, exec (.registerWrite r off [some v]) s = .next t →
        exec (.registerWrite r off (some v :: vs)) s = exec (.registerWrite r (off + 4) vs) t) ∧
    (∀ (p : Nat) (row : RegRow) (i j : Nat), meets s r o = (.yes, p) → regAt p = some (row, i, j) → decoded s r = true →
      (sensed row.base = none → row.base ≠ QUE_COMPAT_WAIT 0 →
        let w := match computed s row.base i j (rd s p).toNat with | some n => BitVec.ofNat 32 n | none => rd s p
        (pairLow row.base = true → exec (.registerPairLowRead r off [true]) s =
          .next (emit (setShadow s r p (rd s (p + 4))) (.readData r [w])) ∧
          shadowAt (setShadow s r p (rd s (p + 4))) r p = some (rd s (p + 4))) ∧
        (pairLow row.base = false → ∀ low a b, regAt (p - 4) = some (low, a, b) → pairLow low.base = true →
          exec (.registerPairLowRead r off [true]) s = .next (emit s (.readData r [(shadowAt s r (p - 4)).getD w]))) ∧
        (pairLow row.base = false → (∀ low a b, regAt (p - 4) = some (low, a, b) → pairLow low.base = false) →
          exec (.registerPairLowRead r off [true]) s = .next (emit s (.readData r [w])))) ∧
      (∀ hi lo, sensed row.base = some (hi, lo) → row.base ≠ POWER_RAIL 0 → ∃ x, exec (.registerPairLowRead r off [true]) s =
        .next (emit { s with free := s.free + 1 } (.readData r [putBits (rd s p) hi lo x]))) ∧
      (row.base = POWER_RAIL 0 → ∃ w : Word, exec (.registerPairLowRead r off [true]) s = .next (emit { s with free := s.free + 1 } (.readData r [w])) ∧
        (railRange s i).1 ≤ bits w.toNat 15 0 ∧ bits w.toNat 15 0 ≤ (railRange s i).2)) ∧
    (∀ v p, meets s r o = (.unmapped, p) → decoded s r = true →
      let u := bump s GLOBAL_UNMAPPED_COUNT_COUNT 1
      exec (.registerWrite r off [some v]) s = .next u ∧ exec (.unmappedAccess r off (some v)) s = .next u ∧
      exec (.unmappedAccess r off none) s = .next (emit u (.readData r [0])))) ∧
  (∀ (s : State) (r : Requester) (off : Word) (len : Nat), off.toNat % 4 ≠ 0 ∨ len % 4 ≠ 0 → decoded s r = true →
    let u := if (meets s r off.toNat).1 = .unmapped then bump s GLOBAL_UNMAPPED_COUNT_COUNT 1 else s
    exec (.narrowAccess r off len true) s = .next u ∧ exec (.narrowAccess r off len false) s = .next (emit u (.readData r [0]))) ∧
  (∀ (s : State) (r : Requester) (off : Word) vs en v, off.toNat % 4 ≠ 0 → exec (.registerWrite r off vs) s = .next s ∧
    exec (.registerPairLowRead r off en) s = .next s ∧ exec (.unmappedAccess r off v) s = .next s)

/-- R23. `withdrawCoord` clears VALID, ends the torus work with `dropTraffic` and discards what waits for the torus. The
model's choice: the cells that wait for a torus egress are discarded, but BEACON, CREDIT and MGMT ones (log 32). -/
def Obligations.CoordinatesAreAssignedOnceAndWithdrawn : Prop :=
  (∀ (s : State) (r : Requester) (v : Word),
    let x := bits v.toNat 4 0
    let y := bits v.toNat 9 5
    let z := bits v.toNat 14 10
    let fits := fun n => 2 ≤ n ∧ n ≤ 25
    let below := x < getF s GLOBAL_TORUS_DIM_LEN_X ∧ y < getF s GLOBAL_TORUS_DIM_LEN_Y ∧ z < getF s GLOBAL_TORUS_DIM_LEN_Z
    let stored := BitVec.ofNat 32 (2 ^ 31 + bits v.toNat 14 0)
    (reach s r GLOBAL_TORUS_DIM = .yes →
      (v.getLsbD 31 = true → flag s GLOBAL_TORUS_DIM_VALID = false → fits x → fits y → fits z →
        exec (.globalTorusDimWrite r v) s = .next (wr s GLOBAL_TORUS_DIM stored)) ∧
      (v.getLsbD 31 = true → ¬ (flag s GLOBAL_TORUS_DIM_VALID = false ∧ fits x ∧ fits y ∧ fits z) →
        exec (.globalTorusDimWrite r v) s = .next s) ∧
      (v.getLsbD 31 = false → exec (.globalTorusDimWrite r v) s =
        .next (setF (withdrawCoord s) GLOBAL_TORUS_DIM_VALID 0))) ∧
    (reach s r GLOBAL_COORD = .yes →
      (v.getLsbD 31 = true → flag s GLOBAL_COORD_VALID = false → flag s GLOBAL_TORUS_DIM_VALID = true → below →
        exec (.globalCoordWrite r v) s = .next (checkCays (retrainPorts (clearView (wr s GLOBAL_COORD stored))))) ∧
      (v.getLsbD 31 = true →
        ¬ (flag s GLOBAL_COORD_VALID = false ∧ flag s GLOBAL_TORUS_DIM_VALID = true ∧ below) →
        exec (.globalCoordWrite r v) s = .next s) ∧
      (v.getLsbD 31 = false → exec (.globalCoordWrite r v) s = .next (withdrawCoord s))) ∧
    (reach s r GLOBAL_TORUS_DIM = .unmapped →
      exec (.globalTorusDimWrite r v) s = .next (bump s GLOBAL_UNMAPPED_COUNT_COUNT 1)) ∧
    (reach s r GLOBAL_COORD = .unmapped → exec (.globalCoordWrite r v) s = .next (bump s GLOBAL_UNMAPPED_COUNT_COUNT 1)) ∧
    (selfFenced s = false → checkCays s =
      if inService s 0 < getF s HEALTH_CTRL_MIN_CAYS ∨ inService s 1 < getF s HEALTH_CTRL_MIN_CAYS then selfFence s causeSelf else s) ∧
    (∀ c : Nat, c < 32768 → flag (clearView s) (HEALTH_VIEW_FENCED c) = false)) ∧
  (∀ s : State,
    let u := setF s GLOBAL_COORD_VALID 0
    let keeps := fun (a b : State) => getF b GLOBAL_COORD_X = getF a GLOBAL_COORD_X ∧ getF b GLOBAL_COORD_Y = getF a GLOBAL_COORD_Y ∧
      getF b GLOBAL_COORD_Z = getF a GLOBAL_COORD_Z
    (coordValid s = false → withdrawCoord s = s) ∧
    (coordValid u = false ∧ keeps s u ∧ RegsBut s u [GLOBAL_COORD] ∧ u = { s with regs := u.regs }) ∧
    (coordValid s = true →
      withdrawCoord s = (List.range 6).foldl (fun t p => flushEgress t p (fun q => q.cell.dest != 0x7FFF)) (dropTraffic u 0x41) ∧
      (s.buckets = [] → s.causeway = [] → s.permutes = [] → s.ferries = [] → s.layers = [] →
        let t := withdrawCoord s
        coordValid t = false ∧ keeps s t ∧ rd t GLOBAL_TORUS_DIM = rd s GLOBAL_TORUS_DIM ∧ t.opens = [] ∧ t.mem = s.mem ∧
          t.queues = s.queues ∧ ∀ q ∈ t.cells, q.egress < 6 → q.cell.dest = 0x7FFF)) ∧
    (let t := setF s GLOBAL_TORUS_DIM_VALID 0
     dimValid t = false ∧ RegsBut s t [GLOBAL_TORUS_DIM] ∧ t = { s with regs := t.regs } ∧
       getF t GLOBAL_TORUS_DIM_LEN_X = getF s GLOBAL_TORUS_DIM_LEN_X ∧ getF t GLOBAL_TORUS_DIM_LEN_Y = getF s GLOBAL_TORUS_DIM_LEN_Y ∧
       getF t GLOBAL_TORUS_DIM_LEN_Z = getF s GLOBAL_TORUS_DIM_LEN_Z)) ∧
  (∀ s : State, coordValid s = false →
    let ended := fun (t : State) (b : Nat) => match bucketAt t b with
      | none => t
      | some e => if bLive e then endBucket t b 0x30
        else if e.verdict.isNone then settleRefused (bump t FAB_RED_REFUSE_COUNT_COUNT 1) b 0x41 none else t
    let v := s.buckets.foldl (fun t p => ended t p.1) s
    (∀ c, childFenced s c = true) ∧
    dropTraffic s 0x41 = pump (permFences (ferryFences (v.causeway.foldl (fun t p => cwEndAll t p.1) v))) ∧
    (∀ g q op c, cwAt s g = some q → q.op = some op → op.cmd = some c → cwEndAll s g = q.queue.foldl (fun t k => endCmd t k.1 k.2 0x30)
      (endCmdWith (withCw s g (fun q => { q with op := none, next := op.n + 1, queue := [] })) c.1 c.2 0x30 op.n)) ∧
    (∀ m, s.permutes = [m] → (permOthers s m).all (fun p => p.complete.isSome) = false → permFences s = endPerm s m 0x30) ∧
    (∀ f p k, s.ferries = [f] → f.src = .parent p k → ferryFences s = abortFerry { s with opens := [] } f.key))

/-- R193 and R196; R295 gives RELEASE of no copy ILLEGAL_STATE. The model's choice: two RETAINs of one name hold a copy each,
and a RELEASE evicts both (log 62). -/
def Obligations.RetainedCopiesAreReservedAndReleased : Prop :=
  ∀ (s : State) (c : Ctx) (q : QNum) (i : Word) (b : List Byte),
    let k := qkey c.val q.val
    let u := begun s c q i
    let ends := fun (t : State) (st : Nat) => endCmd t k i.toNat st
    (Running s c q i 0x09 b →
      let label := fieldAt b 0x10 2
      let region := (fieldAt b 0x12 1).testBit 0
      let tide := fieldAt b 0x14 4
      let size := fieldAt b 0x18 8
      let units := (size + 65535) / 65536
      let fits := getF s (MEM_CTX_LAGOON_USED_UNITS c.val) + units ≤ 16 * getF s (MEM_CTX_LAGOON_QUOTA_MIB c.val)
      let n := freshCopy s c.val
      let use := AllocFor.retained label region tide n
      let filled := fillSlices c.val use (List.range 128) (units * 65536) u
      (∀ x ∈ s.copies, x.ctx = c.val → x.n < n) ∧
      (¬ fits → exec (.retain c q i) s = .next (ends (bump u (MEM_CTX_REFUSE_COUNT_COUNT c.val) 1) 0x40)) ∧
      (fits → filled = none → exec (.retain c q i) s = .next (ends (bump u MEM_SPACE_SHORT_COUNT_COUNT 1) 0x40)) ∧
      (fits → filled ≠ none → ∃ t x l, exec (.retain c q i) s = .next t ∧ t.copies = s.copies ++ [x] ∧
        x.ctx = c.val ∧ x.label = label ∧ x.region = region ∧ x.tide = tide ∧ x.keep = fieldAt b 0x13 1 ∧ x.size = size ∧
        x.n = n ∧ x.cmd = some (k, i.toNat) ∧ t.allocs = s.allocs ++ l ∧
        (∀ a ∈ l, a.ctx = c.val ∧ a.use = use ∧ a.len % 65536 = 0 ∧ (a.base, a.len) ∈ x.parts) ∧
        (l.map (fun a => a.len)).sum = units * 65536 ∧
        getF t (MEM_CTX_LAGOON_USED_UNITS c.val) = getF s (MEM_CTX_LAGOON_USED_UNITS c.val) + units ∧
        (cmdAt t k i.toNat).map (fun m => m.status) = some none)) ∧
    (Running s c q i 0x0A b →
      let named := fun (x : RetCopy) => x.ctx = c.val ∧ x.label = fieldAt b 0x10 2 ∧
        x.region = (fieldAt b 0x12 1).testBit 0 ∧ x.tide = fieldAt b 0x14 4
      let of := fun (a : Alloc) => ∃ x ∈ s.copies, named x ∧ a.ctx = x.ctx ∧ a.use = AllocFor.retained x.label x.region x.tide x.n
      ((∀ x ∈ s.copies, ¬ named x) → exec (.release c q i) s = .next (ends u 0x12)) ∧
      ((∃ x ∈ s.copies, named x) → ∃ t, exec (.release c q i) s = .next t ∧
        (∀ x ∈ t.copies, ¬ named x) ∧ (∀ y ∈ s.copies, ¬ named y → y ∈ t.copies) ∧ (∀ a, a ∈ t.allocs ↔ a ∈ s.allocs ∧ ¬ of a) ∧
        ((∀ x ∈ s.copies, named x → x.cmd ≠ some (k, i.toNat)) → (∀ g ∈ s.gathers, g.cmd ≠ (k, i.toNat)) →
          (cmdAt t k i.toNat).map (fun m => m.status) = some (some 0))))

/-- R161, R285 and R286. Reads and writes are those of the context: `memRead` and `memWrite`. The model's choices: the
ILLEGAL_STATE of a FENCE_QUERY whose group the context does not hold or whose runs do not fit (log 89); the RETRY of a COPY over
an access port that is down (log 94). -/
def Obligations.ProgramsCopiesAndReportsUseTheContextsMemory : Prop :=
  ∀ (s : State) (c : Ctx) (q : QNum) (i : Word) (b : List Byte),
    let k := qkey c.val q.val
    let u := begun s c q i
    let ends := fun (r : Host.Outcome State Fault Refusal) (t : State) (st : Nat) => r = .next (endCmd t k i.toNat st)
    (Running s c q i 0x08 b →
      let slot := fieldAt b 0x10 1
      let ia := fieldAt b 0x18 8
      let ca := fieldAt b 0x20 8
      let r := exec (.updateProgramLoad c q i) s
      let foreign := ∃ p, tget s.slots slot = some p ∧ p.ctx ≠ c.val
      (inWindows u c.val ia 12 false = false → ends r u 0x13) ∧
      (inWindows u c.val ia 12 false = true → ∀ t x, memRead u (some c.val) ia 12 = (t, x) →
        let apart := inWindows u c.val ca 4096 false = false
        (∀ e, x = .error e → ∃ f, ends r t f ∧ rank f ≤ rank e ∧ (apart → f = 0x13 ∨ rank e = 1) ∧
          (¬ apart → foreign → f = worse e 0x12) ∧ (¬ apart → ¬ foreign → f = e)) ∧
        (∀ h, x = .ok h →
          let dir := fieldAt h 0 4
          let app := fieldAt h 4 4
          let len := fieldAt h 8 4
          let rest := 4 * len - 12
          let good := 3 ≤ len ∧ len ≤ 4096 ∧ 3 ≤ dir ∧ dir < len ∧ 3 ≤ app ∧ app < len ∧
            inWindows t c.val (ia + 12) rest false = true ∧ ¬ apart
          (¬ good → ends r t 0x13) ∧ (good → foreign → ends r t 0x12) ∧
          (good → ¬ foreign → ∀ t₁ y, memRead t (some c.val) (ia + 12) rest = (t₁, y) →
            ∀ t₂ z, memRead t₁ (some c.val) ca 4096 = (t₂, z) →
            (∀ w page, y = .ok w → z = .ok page → ends r { t₂ with slots := tput t₂.slots slot ⟨c.val, h ++ w, page⟩ } 0) ∧
            (∀ w e, y = .ok w → z = .error e → ends r t₂ e) ∧
            (∀ e page, y = .error e → z = .ok page → ends r t₂ e) ∧
            (∀ e f, y = .error e → z = .error f → ends r t₂ (worse e f)))))) ∧
    (Running s c q i 0x0F b →
      let src := fieldAt b 0x18 8
      let dst := fieldAt b 0x20 8
      let n := fieldAt b 0x28 8
      let r := exec (.copy c q i) s
      let side := fun (v : Nat) (p : Option Nat) => (v = 0 ∧ p = none) ∨ (16 ≤ v ∧ v < 32 ∧ p = some (v - 16))
      (∀ o, o = 0x10 ∨ o = 0x11 → (∀ p, ¬ side (fieldAt b o 1) p) → ends r u 0x13) ∧
      (∀ sa da, side (fieldAt b 0x10 1) sa → side (fieldAt b 0x11 1) da →
        let bad := n = 0 ∨ 2 ^ 40 < n ∨ copySideBad u c.val sa src n false = true ∨ copySideBad u c.val da dst n true = true
        let lost := ∃ a, (sa = some a ∨ da = some a) ∧ accUp u a = false
        (bad → ends r u 0x13) ∧
        (¬ bad → da = none ∧ stateProtected u dst n = true → ends r u 0x12) ∧
        (¬ bad → ¬ (da = none ∧ stateProtected u dst n = true) →
          (lost → ends r u 0x60) ∧
          (¬ lost → sa ≠ none ∨ da ≠ none → r = .next (copySteps 8 { u with copying := u.copying ++ [
            { cmd := (k, i.toNat), ctx := c.val, srcAcc := sa, dstAcc := da, src := src, dst := dst, bytes := n, left := n }] }
            (k, i.toNat))) ∧
          (sa = none → da = none → ∀ t x, memRead u (some c.val) src n = (t, x) →
            (∀ e, x = .error e → ends r t e) ∧
            (∀ bs, x = .ok bs → ∀ t₁ y, memWrite t (some c.val) dst bs = (t₁, y) → ends r t₁ (y.getD 0)))))) ∧
    (Running s c q i 0x0D b →
      let g := fieldAt b 0x10 2
      let out := fieldAt b 0x18 8
      let d := groupDesc u g
      let rep := fenceReport u c.val d
      let r := exec (.fenceQuery c q i) s
      (groupCtx u g ≠ some c.val → ends r u 0x12) ∧
      (groupCtx u g = some c.val →
        (inWindows u c.val out rep.length true = false → ends r u 0x13) ∧
        (inWindows u c.val out rep.length true = true →
          (runsFit u d = false ∨ stateProtected u out rep.length = true → ends r u 0x12) ∧
          (runsFit u d = true → stateProtected u out rep.length = false → ∀ t x, memWrite u (some c.val) out rep = (t, x) →
            ends r t (x.getD 0)))))

/-- R95, R147, R172, R178. `groupBad` and `readLayer` are R95's and R147's checks; the Tide itself advances at completion
(R296). The model's choices: STEP_CLOSE waits also for a complete layer that has not started, owned layers go in entry order
and READYs of the Tide are dropped with it (log 90); the STATUS of an INCONSISTENT layer in a later Tide, 0x00 (log 40). -/
def Obligations.LayersAreBoundUnderTheirCodesAndClosedTogether : Prop :=
  (∀ (s : State) (c : Ctx) (q : QNum) (i : Word) (b : List Byte), Running s c q i 0x07 b →
    let k := qkey c.val q.val
    let u := begun s c q i
    let g := bits (fieldAt b 0x10 2) 9 0
    let ga := fieldAt b 0x18 8
    let r := exec (.layerBind c q i) s
    let ends := fun (t : State) (st : Nat) => r = .next (endCmd t k i.toNat st)
    (inWindows u c.val ga 128 false = false → ends u 0x13) ∧
    (inWindows u c.val ga 128 false = true → ∀ t x, memRead u (some c.val) ga 128 = (t, x) →
      let placedNow := flag s GLOBAL_TORUS_DIM_VALID = true ∧ flag s GLOBAL_COORD_VALID = true
      let illegal := ¬ placedNow ∨ (∃ y, groupCtx t g = some y ∧ y ≠ c.val) ∨ groupBusy t g = true
      (∀ e, x = .error e → (illegal → ends t (worse e 0x12)) ∧ (¬ illegal → ends t e)) ∧
      (∀ d, x = .ok d →
        let bad := groupBad t c.val d = true ∨ (placedNow ∧ runsFit t d = false)
        let owns := placedNow ∧ gKind d = 1 ∧ isOwner t d = true
        let layer := readLayer t c.val (tput t.groups g ⟨c.val, d⟩) (fieldAt b 0x20 8)
        (bad → ends t 0x13) ∧
        (¬ bad → ¬ owns → illegal → ends t 0x12) ∧
        (¬ bad → ¬ owns → ¬ illegal → installGroup t c.val g d = none → ends t 0x40) ∧
        (¬ bad → ¬ owns → ¬ illegal → installGroup t c.val g d ≠ none → ∃ v, r = .next (endCmdWith v k i.toNat 0 0xFFFF) ∧
          tget v.groups g = some ⟨c.val, d⟩ ∧ (∀ h, h ≠ g → tget v.groups h = tget s.groups h) ∧ v.layers = s.layers ∧
          (gKind d = 2 → ∃ n, n < 64 ∧ tget v.causeway g = some { slot := n } ∧
            ∀ h y, h ≠ g → tget v.causeway h = some y → y.slot ≠ n)) ∧
        (¬ bad → owns → ∀ v y, layer = (v, y) →
          (∀ e, y = .error e → (illegal → ends v (worse e 0x12)) ∧ (¬ illegal → ends v e)) ∧
          (∀ x, y = .ok x → (illegal → ends v 0x12) ∧
            (¬ illegal → installGroup v c.val g d = none → ends v 0x40) ∧
            (¬ illegal → ∀ w, installGroup v c.val g d = some w →
              (layerEntry w c.val x = none → ends v 0x40) ∧
              (∀ l z, layerEntry w c.val x = some l → installLayer w c.val l x = z →
                (∀ e, z.2 = some e → ends (countShort v c.val e) 0x40) ∧
                (z.2 = none → r = .next (endCmdWith z.1 k i.toNat 0 l) ∧ tget z.1.groups g = some ⟨c.val, d⟩ ∧
                  (∃ e, tget z.1.layers l = some e ∧ e.ctx = c.val ∧ e.desc = x ∧ e.staged = [] ∧ e.posted = false) ∧
                  jPhase z.1 l = 0 ∧ jBroken z.1 l = false ∧ jTide z.1 l = (ctxTide s c.val + 2 ^ 32 - 1) % 2 ^ 32 ∧
                  ∀ m, m ≠ l → (tget z.1.layers m).map (fun y => { y with backSent := false }) =
                    (tget s.layers m).map (fun y => { y with backSent := false }))))))))) ∧
  (∀ (s : State) (c : Ctx) (q : QNum) (i : Word) (b : List Byte),
    let waits := ∃ l x, (l, x) ∈ s.layers ∧ x.ctx = c.val ∧ closeWaits s l = true
    (waits → exec (.stepClose c q i) s = .next s) ∧
    (¬ waits → Running s c q i 0x0E b →
      let u := begun s c q i
      let w := closeLayers u c.val
      let r := writeStepRecord w c.val
      let tide := (ctxTide w c.val + 1) % 2 ^ 32
      let v := dropTide r.1 c.val
      let x := retryScratch (expireCopies { v with steps := tdel v.steps c.val } c.val tide) c.val
      exec (.stepClose c q i) s = .next (endCmdWith (retryMoves x) (qkey c.val q.val) i.toNat r.2 tide) ∧
        tget x.steps c.val = none ∧
        (∀ n e, (n, e) ∈ x.buckets → e.job = BitVec.ofNat 16 (ctxJob r.1 c.val) → ∀ y, e.verdict ≠ some (.refused y)))) ∧
  (∀ (s : State) (c : Nat), let t := (ownLayers s c).foldl closeLayer s
    let status := fun (x : Layer) => ((tget (stepRec t c).layers (ldLayer x.desc)).map (fun e => e.status)).getD 0
    closeLayers s c = postAll t (commitPosts s t c) ∧
    (∀ l x, tget s.layers l = some x → x.ctx = c → x.posted = false →
      (tget t.layers l).map (fun y => y.posted) = some true ∧ ⟨ldSignal x.desc, .add, 1, status x⟩ ∈ commitPosts s t c) ∧
    ∀ p ∈ commitPosts s t c, ∃ l x, tget s.layers l = some x ∧ x.posted = false ∧ p = ⟨ldSignal x.desc, .add, 1, status x⟩) ∧
  (∀ (s : State) (l : Nat) (x : Layer), tget s.layers l = some x →
    let t := closeLayer s l
    let entry := tget (stepRec t x.ctx).layers (ldLayer x.desc)
    (x.posted = true → t = s) ∧
    (x.posted = false → ∃ y, tget t.layers l = some y ∧ y.posted = true ∧ y.desc = x.desc ∧
      (jBroken s l = true → y.staged = x.staged ∧ rd t (LAYER_JNL_A l) = rd s (LAYER_JNL_A l) ∧
        rd t (LAYER_JNL_B l) = rd s (LAYER_JNL_B l) ∧ entry = some (plainEntry s x.ctx (ldLayer x.desc))) ∧
      (jBroken s l = false → y.staged = [] ∧ jPhase t l = 0 ∧ jBroken t l = false ∧ jTide t l = ctxTide s x.ctx ∧
        y.present = !ldHostTier x.desc ∧
        (∀ st, x.halted = some st → entry.map (fun e => e.status) = some (worse st st)) ∧
        (x.halted = none → x.staged ≠ [] → entry.map (fun e => e.status) = some 0x41) ∧
        (x.halted = none → x.staged = [] → entry.map (fun e => e.status) = some 0))))

/-- R99 to R109, R136, R139. `v` holds the entry once the command names it. The model's choices: which refusals count in
FAB_RED_REFUSE_COUNT (log 121), the code and the DETAIL of a second REDUCE (log 50), a range that overlaps a staged one is
taken (log 54). -/
def Obligations.BucketsAndCausewayOperationsAreOpenedUnderTheirCodes : Prop :=
  (∀ (s : State) (c : Ctx) (q : QNum) (i : Word) (b : List Byte),
    let k := qkey c.val q.val
    let u := begun s c q i
    let g := bits (fieldAt b 0x10 2) 9 0
    let tag := fieldAt b 0x12 2
    let n := fieldAt b 0x14 4
    let first := fieldAt b 0x18 4
    let d := groupDesc u g
    let job := BitVec.ofNat 16 (ctxJob u c.val)
    let r := exec (.bucketOpen c q i) s
    let ends := fun (t : State) (st : Nat) => r = .next (endCmd t k i.toNat st)
    let form := bits (fieldAt b 0x10 2) 15 10 = 0 ∧ (∀ x ∈ slice b 0x1C 20, x = 0) ∧ 0 < n ∧ n ≤ 4194304 ∧
      first < 2 ^ 30 ∧ first + n ≤ 2 ^ 30
    let unfit := gKind d ≠ 1 ∨ (gCut d = 2 ∧ gPorts d ≠ [] ∧ n % (64 * (gPorts d).length) ≠ 0)
    let mine := groupCtx u g = some c.val
    let here := bits tag 15 13 = ctxTide u c.val % 8 ∧ runsFit u d = true
    let taken := ∃ e x, findBucket u job tag false = some (e, x) ∧
      (x.verdict = some .admitted ∨ (x.verdict = none ∧ x.openCmd ≠ none))
    let own := ownerCode u c.val d tag first n
    let counted := bump u FAB_RED_REFUSE_COUNT_COUNT 1
    let up := selfFenced u = false ∧ coordValid u = true
    let sound := form ∧ mine ∧ ¬ unfit ∧ here ∧ ¬ taken ∧ up
    let w := { u with lates := u.lates.filter (fun x => !(x.closed && x.job == job && x.tag == tag)) }
    Running s c q i 0x01 b →
    (¬ form → ends u 0x13) ∧
    (form → ¬ mine → ends u 0x12) ∧
    (form → mine → unfit → ends u 0x13) ∧
    (form → mine → ¬ unfit → ¬ here ∨ taken → ends u (own.getD 0x12)) ∧
    (form → mine → ¬ unfit → here → ¬ taken → ¬ up →
      (∀ st, own = some st → ends u st) ∧
      (own = none → ends counted (if selfFenced u = true then 0x30 else 0x41))) ∧
    (sound → ∀ e x, findBucket u job tag false = some (e, x) →
      let v := nameEntry w e c.val b k i.toNat
      (x.verdict = none → r = .next (openEntry v e c.val d tag first n)) ∧
      (∀ cause y, x.verdict = some (.refused cause) → bucketAt v e = some y →
        ends v (worst (refusedCode v y cause :: (ownerCode v c.val d tag first n).toList)))) ∧
    (sound → findBucket u job tag false = none → freeBucket u = none →
      (∀ st, own = some st → ends w st) ∧ (own = none → ends (bump w FAB_RED_REFUSE_COUNT_COUNT 1) 0x41)) ∧
    (sound → findBucket u job tag false = none → ∀ e, freeBucket u = some e →
      let v := nameEntry { w with buckets := tput w.buckets e { job := job, tag := tag, created := u.now } } e c.val b k i.toNat
      r = .next (openEntry v e c.val d tag first n) ∧ e < 8192 ∧ bucketAt u e = none ∧
      bucketAt v e = some { job := job, tag := tag, created := s.now, ctx := some c.val, group := g, n := n, first := first, openCmd := some (k, i.toNat), digest := bucketDigest d (slice b 0x10 32) } ∧
      (let z := takeReservations v e
       let opened := fun (y : Bucket) => y.ctx = some c.val ∧ y.job = job ∧ y.tag = tag ∧ y.group = g ∧ y.n = n ∧ y.first = first ∧ y.reserved = true ∧
         y.openCmd = some (k, i.toNat)
       ownerCode v c.val d tag first n = none → neighbourFenced v d = false → barredMember v c.val d = false → z.2 = none →
        (∃ t y, r = .next (tryAdmit t e) ∧ bucketAt t e = some y ∧ opened y ∧ y.verdict = none ∧ y.sentAdmit = false) ∧
        (groupUps u d = [] → isOwner u d = false → needsEm u d = false → ∃ t y, r = .next t ∧ bucketAt t e = some y ∧ opened y ∧
          y.verdict = none ∧ y.sentAdmit = true ∧ ∃ p w, groupDown u d = some p ∧ t = sendPort w p (admitCell w y [])) ∧
        (groupUps u d = [] → isOwner u d = true → needsEm u d = false → gLevelMin d ≤ ownLevel u → ∃ t y, r = .next (advance t e) ∧
          bucketAt t e = some y ∧ opened y ∧ y.verdict = some .admitted ∧ y.t0 = s.now ∧
          (cmdAt t k i.toNat).map (fun m => m.status) = some (some 0))))) ∧
  (∀ (s : State) (e c : Nat) (d : List Byte) (tag first n : Nat),
    let code := ownerCode s c d tag first n
    (∀ st, code = some st → openEntry s e c d tag first n = ownerRefuse (endOpen s e st) e 0x41) ∧
    (code = none → openEntry s e c d tag first n = startAdmission s e) ∧
    (isOwner s d = false → code = none) ∧
    (∀ l x, isOwner s d = true → layerOf s c (gLayer d) = some (l, x) → (ldE x.desc < first + n → code = some 0x13) ∧
      (first + n ≤ ldE x.desc → rangeTaken s c (gLayer d) tag first n = true → code = some 0x12) ∧
      (first + n ≤ ldE x.desc → rangeTaken s c (gLayer d) tag first n = false → code = none))) ∧
  (∀ (s : State) (c : Ctx) (q : QNum) (i : Word) (b : List Byte), Running s c q i 0x02 b →
    let k := qkey c.val q.val
    let u := begun s c q i
    let its := fun (p : Nat × Bucket) => p.2.ctx == some c.val && p.2.tag == fieldAt b 0x12 2 && p.2.group == fieldAt b 0x10 2 &&
      p.2.verdict == some .admitted && p.2.reduceCmd.isNone && !p.2.cw
    (u.buckets.find? its = none → exec (.reduce c q i) s = .next (endCmd u k i.toNat 0x12)) ∧
    (∀ e x, u.buckets.find? its = some (e, x) → exec (.reduce c q i) s =
      .next (endReduce (chunkPosts (x.n + 2) (withBucket u e (fun y => { y with reduceCmd := some (k, i.toNat) })) e) e) ∧
      (bucketAt u e = some x →
        (x.outcome = none → ∃ t y, exec (.reduce c q i) s = .next t ∧ bucketAt t e = some y ∧ y.reduceCmd = some (k, i.toNat) ∧ y.outcome = none ∧
          y.verdict = some .admitted) ∧
        (∀ st, x.outcome = some st → sigRef (fieldAt b 0x14 2) = none →
          let detail := incSum x (fun y => y.incl) % 65536 + x.excluded % 65536 * 65536
          let code := worst (st :: (if bucketBad x then [0x20] else []) ++ x.codes)
          ∃ t, exec (.reduce c q i) s = .next t ∧ (cmdAt t k i.toNat).map (fun m => (m.status, m.detail)) = some (some code, detail))))) ∧
  (∀ (s : State) (c : Ctx) (q : QNum) (i : Word) (b : List Byte), Running s c q i 0x06 b →
    let k := qkey c.val q.val
    let u := begun s c q i
    let g := fieldAt b 0x10 2
    let ra := fieldAt b 0x18 8
    let d := groupDesc u g
    let r := exec (.causewayOp c q i) s
    let ends := fun (st : Nat) => r = .next (endCmd u k i.toNat st)
    let bad := gKind d ≠ 2 ∨ (ra ≠ 0 ∧ inWindows u c.val ra 64 true = false)
    let wrong := runsFit u d = false ∨ (ra ≠ 0 ∧ stateProtected u ra 64 = true)
    let queued := withCw u g (fun x => { x with queue := x.queue ++ [(k, i.toNat)] })
    (groupCtx u g ≠ some c.val → ends (if ra ≠ 0 ∧ inWindows u c.val ra 64 true = false then 0x13 else 0x12)) ∧
    (groupCtx u g = some c.val →
      (bad → ends 0x13) ∧ (¬ bad → wrong → ends 0x12) ∧
      (¬ bad → ¬ wrong → cwFenced u d = true ∨ selfFenced u = true → ends 0x30) ∧
      (¬ bad → ¬ wrong → cwFenced u d = false → selfFenced u = false → ∀ w, cwAt u g = some w →
        (w.admitted = true → r = .next (cwGo queued g)) ∧
        (w.admitted = true → w.op = none → w.queue = [] →
          (let z := withCw u g (fun x => { x with queue := [], op := some { n := w.next, cmd := some (k, i.toNat) } })
           r = .next (cwRun z g)) ∧
          (gPorts d ≠ [] ∨ groupUps u d ≠ [] → ∃ t, r = .next t ∧
            cwAt t g = some { w with queue := [], op := some { n := w.next, cmd := some (k, i.toNat) } }) ∧
          (gPorts d = [] → groupUps u d = [] → groupDown u d = none → ra = 0 → ∃ t, r = .next t ∧
            cwAt t g = some { w with queue := [], op := none, next := w.next + 1 } ∧
            (cmdAt t k i.toNat).map (fun m => (m.status, m.detail)) = some (some 0, w.next))) ∧
        (w.admitted = false → r = .next (openCauseway queued c.val g)))))

/-- R181, R186, R192 and R198. `planBad`, `sendChecks` and `permBad` are the rules' lists of refusals. The model's choices:
the codes of a layer not owned and of a read error of FERRY_SEND (log 63); those of a permute number in use, of an index
outside the window and of lists that cannot be read (log 65). -/
def Obligations.SendsGathersAndPermutesBeginUnderTheirCodes : Prop :=
  (∀ (s : State) (c : Ctx) (q : QNum) (i : Word) (b : List Byte), Running s c q i 0x04 b →
    let k := qkey c.val q.val
    let u := begun s c q i
    let pa := fieldAt b 0x18 8
    let r := ferrySendRun c q i s
    exec (.ferrySend c q i) s = underUpsets s (ferrySendRun c q i) ∧ (s.upsets = [] → exec (.ferrySend c q i) s = r) ∧
    let ends := fun (t : State) (st : Nat) => r = .next (endCmd t k i.toNat st)
    (within pa 32 (hbmWin u c.val) = false → ends u 0x13) ∧
    (within pa 32 (hbmWin u c.val) = true → ∀ t x, memRead u (some c.val) pa 32 = (t, x) →
      (∀ e, x = .error e → (∀ f, sendChecks t c.val b = .error f → ends t (worst [e, f])) ∧
        (∀ f, sendChecks t c.val b = .ok f → ends t e)) ∧
      (∀ h, x = .ok h →
        let n := fieldAt h 0 2
        let fits := 0 < n ∧ n ≤ 1023 ∧ within pa (32 + 8 * n + 1024) (hbmWin u c.val) = true
        (¬ fits → ends t 0x13) ∧
        (fits → ∀ v y, memRead t (some c.val) (pa + 32) (8 * n) = (v, y) →
          let count := fieldAt b 0x2C 4
          let bad := fun raw => planBad v h raw (sendPer v c.val b) count = true
          (∀ e, y = .error e → ends v (worst (e :: (sendCode v c.val b ++ (if bad [] then [0x13] else []) ++
            if resultProtected v pa n then [0x12] else [])))) ∧
          (∀ bs, y = .ok bs →
            let raw := (List.range n).map (planEntry bs)
            (bad raw → ends v 0x13) ∧
            (¬ bad raw → ∀ e, sendChecks v c.val b = .error e → ends v e) ∧
            (¬ bad raw → ∀ src fmt tide, sendChecks v c.val b = .ok (src, fmt, tide) →
              (resultProtected v pa n = true → ends v 0x12) ∧
              (resultProtected v pa n = false → ∃ f,
                let opened := openChildren (beginFerry v f) f.key
                r = .next (ferryRun opened f.key) ∧
                (s.upsets = [] → exec (.ferrySend c q i) s = .next (ferryRun opened f.key)) ∧
                (∃ y, ferryAt opened f.key = some y ∧ y.cmd = some (k, i.toNat) ∧ y.src = src ∧ y.head = f.head ∧ y.plan = f.plan ∧ y.got = 0) ∧
                256 ≤ f.key ∧ f.ctx = c.val ∧ f.job = BitVec.ofNat 16 (ctxJob s c.val) ∧
                f.tag = ctxTide v c.val % 8 * 8192 + fieldAt b 0x12 2 % 8192 ∧ f.src = src ∧ f.cmd = some (k, i.toNat) ∧
                f.head.fmt = fmt ∧ f.head.tide = tide ∧ f.head.count = count ∧ f.head.first = fieldAt b 0x28 4 ∧
                f.head.label = fieldAt b 0x14 2 ∧ f.head.cells = streamCells fmt count ∧ f.got = 0 ∧
                f.plan = (ownCoord v, fieldAt h 2 2, n) :: raw.map (fun e => e.1)))))))) ∧
  (∀ (s : State) (c : Ctx) (q : QNum) (i : Word) (b : List Byte), Running s c q i 0x03 b →
    let k := qkey c.val q.val
    let u := begun s c q i
    let src := fieldAt b 0x12 1
    let label := fieldAt b 0x10 2
    let region := (fieldAt b 0x13 1).testBit 0
    let tide := fieldAt b 0x18 4
    let r := exec (.gather c q i) s
    let copy := wholeCopy u c.val label tide region
    let g : Gather := {
      cmd := (k, i.toNat), ctx := c.val, label := label, region := region, tide := tide
      obj := sigRef (fieldAt b 0x14 2), chunk := fieldAt b 0x1C 4 }
    let stream := firstStream u g
    (∀ x, src ≠ 0 → copy = some x → r = .next (gatherCopy u g x)) ∧
    (src = 1 → copy = none → r = .next (endCmd u k i.toNat 0x31)) ∧
    (src = 0 ∨ (src ≠ 1 ∧ copy = none) →
      (∀ n x, stream = some (n, .inr x) → g.obj = none → r = .next (endCmdWith u k i.toNat 0 x.cells) ∧
        (cmdAt (endCmdWith u k i.toNat 0 x.cells) k i.toNat).map (fun m => (m.status, m.detail)) = some (some 0, x.cells)) ∧
      (∀ n x o, stream = some (n, .inr x) → g.obj = some o →
        r = .next (endCmdWith (gatherPosts (x.cells / max 1 g.chunk + 1) u o) k i.toNat 0 x.cells)) ∧
      (∀ n f, stream = some (n, .inl f) →
        r = .next (postGathers { u with gathers := u.gathers ++ [{ g with bound := some f.key }] } f)) ∧
      (stream = none → r = .next { u with gathers := u.gathers ++ [g] }))) ∧
  (∀ (s : State) (g : Gather),
    let run := fun (f : Ferry) => f ∈ s.ferries ∧ f.src ≠ .copy ∧ f.ctx = g.ctx ∧ f.head.label = g.label ∧
      f.head.tide = g.tide ∧ f.head.region = g.region
    let past := fun (x : FinRec) => x ∈ s.finished ∧ x.ctx = g.ctx ∧ x.label = g.label ∧ x.tide = g.tide ∧ x.region = g.region
    (firstStream s g = none ↔ (∀ f, ¬ run f) ∧ ∀ x, ¬ past x) ∧
    (∀ n y, firstStream s g = some (n, y) → (∀ f, run f → n ≤ f.order) ∧ (∀ x, past x → n ≤ x.order) ∧
      (∀ f, y = .inl f → run f ∧ f.order = n) ∧ ∀ x, y = .inr x → past x ∧ x.order = n)) ∧
  (∀ (s : State) (c : Ctx) (q : QNum) (i : Word) (b : List Byte), Running s c q i 0x05 b →
    let k := qkey c.val q.val
    let u := begun s c q i
    let da := fieldAt b 0x10 8
    let r := exec (.permute c q i) s
    let ends := fun (t : State) (st : Nat) => r = .next (endCmd t k i.toNat st)
    (within da 32 (hbmWin u c.val) = false → ends u 0x13) ∧
    (within da 32 (hbmWin u c.val) = true → ∀ t x, memRead u (some c.val) da 32 = (t, x) →
      let busy := fun (t : State) => permAt t (BitVec.ofNat 16 (ctxJob t c.val)) (ctxTide t c.val % 8 * 8192 + fieldAt b 0x18 2 % 8192) ≠ none
      (∀ e, x = .error e → (busy t → ends t (worst [e, 0x12])) ∧ (¬ busy t → ends t e)) ∧
      (∀ h, x = .ok h →
        let n := fieldAt h 0 2
        let w := fieldAt h 2 1
        let fits := 0 < n ∧ n ≤ 1024 ∧ (w = 1 ∨ w = 2 ∨ w = 4 ∨ w = 8) ∧ within da (32 + 32 * n) (hbmWin u c.val) = true
        (¬ fits → ends t 0x13) ∧
        (fits → ∀ v y, memRead t (some c.val) (da + 32) (32 * n) = (v, y) →
          (∀ e, y = .error e → ends v (worst (e :: ((if permHeadBad v c.val h then [0x13] else []) ++ if busy v then [0x12] else [])))) ∧
          (∀ bs, y = .ok bs →
            let lists := ∀ j < n, listsOk v c.val bs j = true
            let raw := (List.range n).map (peerEntry v bs)
            let m : Perm := {
              cmd := (k, i.toNat), ctx := c.val, job := BitVec.ofNat 16 (ctxJob v c.val)
              tag := ctxTide v c.val % 8 * 8192 + fieldAt b 0x18 2 % 8192, width := w
              srcBase := fieldAt h 8 8, dstBase := fieldAt h 0x10 8, staging := fieldAt h 0x18 8
              peers := raw.map (fun e => e.1) }
            let used := permProtected v m = true ∨ permAt v m.job m.tag ≠ none
            let lost := ∃ p ∈ permOthers v m, childFenced v p.coord = true
            let reads := worst ((List.range n).map (listFault v c.val bs))
            let bad := permBad v c.val h m raw = true
            let code := permCode v c.val m reads
            let a := (List.range n).foldl (readLists c.val bs) v
            (¬ lists → ends v 0x13) ∧ (lists → bad → ends a 0x13) ∧
            (lists → ¬ bad → code ≠ 0 → code ≠ 0x30 → ends a code) ∧
            (lists → ¬ bad → code = 0x30 → ends (bump a FAB_PERMUTE_FAIL_COUNT_COUNT 1) 0x30) ∧
            (lists → ¬ bad → code = 0 → r = .next (permStart a m) ∧
              (a.readies.filter (fun x => x.1 == m.job && x.2.1 == m.tag) = [] →
                (permOthers v m ≠ [] → r = .next ((permOthers v m).foldl (fun z p => sendJob z p.coord (permRsp m 0x85 0))
                  (copyOwn { a with permutes := a.permutes ++ [m] } m))) ∧
                (permOthers v m = [] → ∃ z, r = .next z ∧ permAt z m.job m.tag = none ∧
                  (cmdAt z k i.toNat).map (fun x => x.status) =
                    some (some (if m.peers.all (fun p => p.sends.length == p.recvs.length) then
                      (stagingFault (copyOwn { a with permutes := a.permutes ++ [m] } m) m).getD 0 else 0x10))))) ∧
            (reads = 0 → indexBad v c.val m = true → code = 0x13) ∧
            (reads = 0 → indexBad v c.val m = false →
              (permFault v m ≠ 0x13 → used → code = 0x12) ∧ (permFault v m ≠ 0x13 → ¬ used → lost → code = 0x30) ∧
              (¬ used → ¬ lost → code = permFault v m)) ∧
            (code = 0 ↔ reads = 0 ∧ indexBad v c.val m = false ∧ ¬ used ∧ ¬ lost ∧ permFault v m = 0))))))

/-- R329 to R331. `launchRead` copies the image word by word; here its checks are said of the first three words `h`. The
model's choice: the order ILLEGAL_STATE, FENCED_CAY, BAD_DESCRIPTOR and the code of a failing read (log 75). -/
def Obligations.KernelsLaunchRunAndAbort : Prop :=
  (∀ (s : State) (r : Requester) (n : CayNum) (v : Word),
    let st := getF s (CAY_KL_STATE_STATE n.val)
    let c := getF s (CAY_KL_CTX_CTX n.val)
    let ia := pairAddr s (CAY_KL_IMAGE_LO n.val) (CAY_KL_IMAGE_HI n.val)
    let ca := pairAddr s (CAY_KL_CONST_LO n.val) (CAY_KL_CONST_HI n.val)
    let own := fun (a len : Nat) => within a len (hbmWin s c) = true ∨ within a len (lagoonWin s c) = true
    let done := fun (t : State) (code : Nat) => exec (.cayKlStart r n v) s = .next (endKernel t n.val code)
    reach s r (CAY_KL_CTRL n.val) = .yes →
    (v.getLsbD 0 = true → st = 0 ∨ st = 3 →
      (ctxState s c ≠ 1 → done s 0x12) ∧
      (ctxState s c = 1 → cayUp s n.val = false → done s 0x31) ∧
      (ctxState s c = 1 → cayUp s n.val = true → ¬ own ia 12 → done s 0x13) ∧
      (ctxState s c = 1 → cayUp s n.val = true → own ia 12 → ∀ t x, memRead s (some c) ia 12 = (t, x) →
        (∀ e, x = .error e → done t e) ∧
        (∀ h, x = .ok h →
          let entry := fieldAt h 0 4
          let len := fieldAt h 8 4
          let good := 3 ≤ entry ∧ entry < len ∧ len ≤ 4096 ∧ own ia (4 * len) ∧ own ca 4096
          (¬ good → done t 0x13) ∧
          (good → ∀ t₁ w, memRead t (some c) (ia + 12) (4 * len - 12) = (t₁, .ok w) →
            ∀ t₂ page, memRead t₁ (some c) ca 4096 = (t₂, .ok page) →
            ∃ u, exec (.cayKlStart r n v) s = .next u ∧ (cayAt u n.val).queued = some (h ++ w, page) ∧
              getF u (CAY_KL_STATE_STATE n.val) = 1 ∧ getF u (CAY_KL_STATE_STATUS n.val) = 0 ∧
              u.mem = s.mem ∧ RegsBut s u [CAY_KL_STATE n.val])))) ∧
    (v.getLsbD 0 = true → v.getLsbD 1 = false → st = 1 ∨ st = 2 → exec (.cayKlStart r n v) s = .next s) ∧
    (v.getLsbD 1 = true → st = 1 ∨ st = 2 → exec (.cayKlAbort r n v) s = .next (pump (endKernel s n.val 0x60))) ∧
    (v.getLsbD 0 = false → st = 0 ∨ st = 3 → exec (.cayKlAbort r n v) s = .next s)) ∧
  (∀ (s : State) (n : CayNum) (e : Nat), e < 256 →
    let t := endKernel s n.val e
    getF t (CAY_KL_STATE_STATE n.val) = 3 ∧ getF t (CAY_KL_STATE_STATUS n.val) = e ∧ (cayAt t n.val).queued = none ∧
    (runsKernel (cayAt s n.val) = true → (cayAt t n.val).call = none ∧ ∀ x ∈ (cayAt t n.val).streams, x.active = false) ∧
    (runsKernel (cayAt s n.val) = false → (cayAt t n.val).call = (cayAt s n.val).call) ∧
    RegsBut s t [CAY_KL_STATE n.val] ∧ t.mem = s.mem ∧ ∀ k, k ≠ n.val → cayAt t k = cayAt s k) ∧
  (∀ (s : State) (n : CayNum) (image page : List Byte),
    let c := getF s (CAY_KL_CTX_CTX n.val)
    let base := n.val * 0x200000
    (cayAt s n.val).queued = some (image, page) → getF s (CAY_KL_STATE_STATE n.val) = 1 → (cayAt s n.val).call = none →
    cayUp s n.val = true → image.length ≤ 0x4000 → page.length = 0x1000 →
    ∃ t, exec (.kernelRun n) s = .next t ∧ getF t (CAY_KL_STATE_STATE n.val) = 2 ∧ RegsBut s t [CAY_KL_STATE n.val] ∧
      (let m := cayAt t n.val
       m.call = some { ctx := c, job := ctxJob s c, kernel := true, codeLen := fieldAt image 8 4 } ∧
       m.queued = none ∧ m.lastCtx = some c ∧ m.pc = fieldAt image 0 4 ∧ m.count = 0 ∧
       m.kc = BitVec.ofNat 64 ((if flag s (CAY_KL_CTX_FTZ n.val) then 4 else 0) + (if ctxIeee s c then 8 else 0)) ∧
       (∀ k < 32, m.g.getD k 0 = if 1 ≤ k ∧ k ≤ 4 then
            BitVec.ofNat 64 (pairAddr s (CAY_KL_ARG_LO n.val (k - 1)) (CAY_KL_ARG_HI n.val (k - 1)))
          else if k = 9 then BitVec.ofNat 64 (base + 0x4000) else if k = 10 then BitVec.ofNat 64 (ctxTide s c) else 0) ∧
       (∀ k, 1 ≤ k → k < 8 → m.p[k]? = some false) ∧ (∀ k < 32, m.v[k]? = some 0) ∧
       (∀ k < 4, m.a[k]? = some (List.replicate 4 ⟨List.replicate 16 (some 0), -160⟩)) ∧
       (∀ k < 8, m.t[k]? = some ⟨.l16, ⟨List.replicate 1024 (some 0), -157⟩⟩)) ∧
      (∀ j b, image[j]? = some b → byteAt t.mem s.free (base + j) = b) ∧
      (∀ j b, page[j]? = some b → byteAt t.mem s.free (base + 0x4000 + j) = b) ∧
      ((cayAt s n.val).lastCtx ≠ some c → ∀ j < 0xF0000, byteAt t.mem s.free (base + 0x10000 + j) = 0) ∧
      (∀ a, ¬ (base ≤ a ∧ a < base + 0x100000) → byteAt t.mem s.free a = byteAt s.mem s.free a))

/-- R267 to R270 and R425. The model's choices: an error of a Cay store has no counter, and an error of a table entry
changes nothing (log 105). -/
def Obligations.TheScrubberMarksWhatItFinds : Prop :=
  let logged := fun (s t : State) (space a : Nat) => (flag s MEM_ERR_LOG0_VALID = false →
      flag t MEM_ERR_LOG0_VALID = true ∧ getF t MEM_ERR_LOG0_SPACE = space ∧ getF t MEM_ERR_LOG0_FOUND_BY = 2 ∧
      rd64 t MEM_ERR_LOG1 = a / 64 * 64) ∧
    (flag s MEM_ERR_LOG0_VALID = true → rd t MEM_ERR_LOG0 = rd s MEM_ERR_LOG0 ∧ rd64 t MEM_ERR_LOG1 = rd64 s MEM_ERR_LOG1)
  let plus := fun (s t : State) (f : Fld) (n : Nat) => getF t f = min (2 ^ (f.hi + 1 - f.lo) - 1) (getF s f + n)
  (∀ (s : State) (k : ScrubTarget) (m : WrongSymbols), (getF s MEM_SCRUB_HOURS = 0 → exec (.patrolScrub k m) s = .next s) ∧
    exec (.patrolScrub k 0) s = .next s) ∧
  (∀ (s : State) (m : WrongSymbols), getF s MEM_SCRUB_HOURS ≠ 0 →
    let few := m.val = 1 ∨ m.val = 2
    let many := m.val = 3 ∨ m.val = 4
    (∀ b : Nat, let a := lagoonBase + 64 * b
      let n := b / 2097152
      n < 128 →
      (cayUp s n = false → exec (.patrolScrub (.lagoon b) m) s = .next s) ∧
      (cayUp s n = true →
        (few → ∃ t, exec (.patrolScrub (.lagoon b) m) s = .next t ∧ plus s t (MEM_ECC_LAGOON_CORRECTED n) 1 ∧
          plus s t (HEALTH_CAY_SCORE n) 8 ∧ t.poison = s.poison ∧ RegsBut s t [MEM_ECC_LAGOON n, HEALTH_CAY n]) ∧
        (many → a / 64 ∈ s.poison → exec (.patrolScrub (.lagoon b) m) s = .next s) ∧
        (many → a / 64 ∉ s.poison → ∃ t, exec (.patrolScrub (.lagoon b) m) s = .next t ∧ t.poison = s.poison ++ [a / 64] ∧
          plus s t (MEM_ECC_LAGOON_UNCORRECTED n) 1 ∧ plus s t (HEALTH_CAY_SCORE n) 2048 ∧ logged s t 1 a))) ∧
    (∀ b : Nat, let a := hbmBase + 64 * b
      let n := bits (64 * b) 14 12
      a < 0x1A000000000 →
      (few → ∃ t, exec (.patrolScrub (.hbm b) m) s = .next t ∧ plus s t (MEM_ECC_HBM_CORRECTED n) 1 ∧
        plus s t HEALTH_MODULE_SCORE_SCORE 1 ∧ t.poison = s.poison) ∧
      (many → a / 64 ∈ s.poison → exec (.patrolScrub (.hbm b) m) s = .next s) ∧
      (many → a / 64 ∉ s.poison → ∃ t, exec (.patrolScrub (.hbm b) m) s = .next t ∧ t.poison = s.poison ++ [a / 64] ∧
        plus s t (MEM_ECC_HBM_UNCORRECTED n) 1 ∧ plus s t HEALTH_MODULE_SCORE_SCORE 1024 ∧ logged s t 2 a)) ∧
    (∀ a : Nat, let n := a / 0x200000
      a < 0x10000000 → cayUp s n = true →
      (m.val = 1 → ∃ t, exec (.patrolScrub (.cayStore a) m) s = .next t ∧ plus s t (HEALTH_CAY_SCORE n) 8 ∧ RegsBut s t [HEALTH_CAY n]) ∧
      (m.val = 2 → a / 64 ∉ s.poison → ∃ t, exec (.patrolScrub (.cayStore a) m) s = .next t ∧ t.poison = s.poison ++ [a / 64] ∧
        plus s t (HEALTH_CAY_SCORE n) 2048 ∧ logged s t 3 a)) ∧
    (∀ a : CellAddr, let n := a.toNat
      let d := descAt s n
      let die := n / 524288
      (m.val = 1 → exec (.patrolScrub (.poolCell a) m) s = .next (bump s POOL_ECC_COUNT_CORRECTED 1) ∧
        exec (.patrolScrub (.poolDesc a) m) s = .next (bump s POOL_ECC_COUNT_CORRECTED 1)) ∧
      (m.val = 2 → (∀ f ∈ s.ferries, ∀ w ∈ f.window, w.pool ≠ some n) → ∃ t, exec (.patrolScrub (.poolCell a) m) s = .next t ∧
        plus s t POOL_ECC_COUNT_UNCORRECTED 1 ∧ t.cells = s.cells.map (fun q =>
          if q.pool = some n ∨ q.place = some n then { q with cell := { q.cell with poison := true } } else q)) ∧
      (m.val = 2 → d.quarantined = true → exec (.patrolScrub (.poolDesc a) m) s = .next s) ∧
      (m.val = 2 → d.quarantined = false → ∃ t, exec (.patrolScrub (.poolDesc a) m) s = .next t ∧
        descAt t n = { d with quarantined := true } ∧ (∀ b, b ≠ n → descAt t b = descAt s b) ∧
        n ∉ t.freeList.getD die [] ∧ plus s t POOL_QUARANTINE_COUNT 1 ∧ plus s t POOL_ECC_COUNT_UNCORRECTED 1 ∧
        plus s t HEALTH_MODULE_SCORE_SCORE 2048 ∧
        (flag s POOL_ERR_LOG0_VALID = false → flag t POOL_ERR_LOG0_VALID = true ∧ getF t POOL_ERR_LOG0_KIND = 4 ∧
          getF t POOL_ERR_LOG0_CELL = n ∧ getF t POOL_ERR_LOG1_REQUESTER = 0 ∧ getF t POOL_ERR_LOG1_LAST = d.last.toNat) ∧
        (flag s POOL_ERR_LOG0_VALID = true → rd t POOL_ERR_LOG0 = rd s POOL_ERR_LOG0 ∧ rd t POOL_ERR_LOG1 = rd s POOL_ERR_LOG1))) ∧
    exec (.patrolScrub .table m) s = .next s) ∧
  (∀ (s : State) (base len : Nat), s.zeroing.find? (fun z => z.1 == base) = some (base, len) → base + len ≤ hostBase →
    ∃ t, exec (.rangeZeroed base) s = .next t ∧ (base, len) ∉ t.zeroing ∧ t.regs = s.regs ∧
      ∀ r a, (base ≤ a ∧ a < base + len → byteAt t.mem r a = 0) ∧
        (¬ (base ≤ a ∧ a < base + len) → byteAt t.mem r a = byteAt s.mem r a))

/-- R351. The model's choice: START clears DONE (log 86). -/
def Obligations.EyeScansCountDisagreements : Prop :=
  (∀ (s : State) (r : Requester) (p : TorusPort) (l : LaneNum) (v : Word), reach s r (LANE_EYE_CTRL p.val l.val) = .yes →
    ∃ t, exec (.laneEyeStart r p l v) s = .next t ∧ getF t (LANE_EYE_CTRL_LOG2 p.val l.val) = bits v.toNat 29 24 ∧
      getF t (LANE_EYE_CTRL_VOFF p.val l.val) = bits v.toNat 23 16 ∧ getF t (LANE_EYE_CTRL_HOFF p.val l.val) = bits v.toNat 13 8 ∧
      RegsBut s t [LANE_EYE_CTRL p.val l.val, LANE_EYE_RESULT p.val l.val] ∧
      (v.getLsbD 0 = true → flag t (LANE_EYE_RESULT_DONE p.val l.val) = false ∧ (p.val, l.val) ∈ t.eyes) ∧
      (v.getLsbD 0 = false → t.eyes = s.eyes ∧ rd t (LANE_EYE_RESULT p.val l.val) = rd s (LANE_EYE_RESULT p.val l.val))) ∧
  (∀ (s : State) (p : TorusPort) (l : LaneNum) (count : Nat),
    ((p.val, l.val) ∉ s.eyes → exec (.eyeScanDone p l count) s = .next s) ∧
    ((p.val, l.val) ∈ s.eyes → ∃ t, exec (.eyeScanDone p l count) s = .next t ∧ (p.val, l.val) ∉ t.eyes ∧
      flag t (LANE_EYE_RESULT_DONE p.val l.val) = true ∧
      getF t (LANE_EYE_RESULT_COUNT p.val l.val) = min (min count (2 ^ getF s (LANE_EYE_CTRL_LOG2 p.val l.val))) (2 ^ 31 - 1) ∧
      RegsBut s t [LANE_EYE_RESULT p.val l.val]))

/-- R371 to R381. `after e r` is an entry once a record has been offered to it. The model's choices: any BEACON clears SUSPECT
(log 78); a self-fence without a coordinate does nothing (log 81). -/
def Obligations.ViewsTakeTheNewestRecordsAndBeaconsKeepTime : Prop :=
  (∀ e r : FenceRec,
    (e.epoch < r.epoch → adopted e r = some r) ∧
    (e.epoch = r.epoch → lacks r.bits e.bits = true → adopted e r = some { r with bits := joinBits e.bits r.bits }) ∧
    (r.epoch < e.epoch ∨ (e.epoch = r.epoch ∧ lacks r.bits e.bits = false) → adopted e r = none)) ∧
  (∀ e a b : FenceRec, e.bits < 16 → a.bits < 16 → b.bits < 16 →
    let after := fun (e r : FenceRec) => (adopted e r).getD e
    (after (after e a) b).epoch = (after (after e b) a).epoch ∧ (after (after e a) b).bits = (after (after e b) a).bits) ∧
  (∀ (s : State) (r : FenceRec), r.subject < 32768 → r.epoch < 65536 → r.bits < 16 → r.cause < 16 →
    viewRec (putView s r) r.subject = r ∧ ∀ c, c < 32768 → c ≠ r.subject → viewRec (putView s r) c = viewRec s c) ∧
  (∀ (s : State) (r : FenceRec), (adopted (viewRec s r.subject) r = none → adopt s r = s) ∧
    (∀ n, adopted (viewRec s r.subject) r = some n → adopt s r = changeView s n)) ∧
  (∀ (s u : State) (p : TorusPort) (x : Cell), x.type.toNat = tBEACON → Lands s p x u →
    let b := payloadOf x
    let w := setF (withBeacon u p.val (fun y => { y with heard := u.now, misses := 0 })) (HEALTH_PORT_SCORE_SUSPECT p.val) 0
    let v := checkCays ((List.range (min 7 (fieldAt b 4 1))).foldl (fun s k => adopt s (recAt b k)) w)
    exec (.beaconCell p x) s = .next (ejected
      (if portUp v p.val = true then maybeExchange (countReadmit v p.val (fieldAt b 5 1)) p.val else v) p.val x)) ∧
  (∀ (s : State) (r : Requester) (v : Word),
    let own := ownCoord s
    let e := viewRec s own
    let fences := fun (out : Host.Outcome State Fault Refusal) (cause : Nat) =>
      (coordValid s = false → out = .next s) ∧
      (coordValid s = true → e.epoch = 0xFFFF → out = .next (emit s (.reportEpoch own))) ∧
      (coordValid s = true → e.epoch < 0xFFFF → out = .next (changeView s {
        subject := own, epoch := e.epoch + 1, bits := joinBits e.bits 1, cause := cause, origin := own }))
    fences (exec .dieBridgeFail s) 3 ∧
    (reach s r HEALTH_SELF_FENCE = .yes → (v.getLsbD 0 = true → v.getLsbD 1 = false → fences (exec (.selfFenceSelf r v) s) 3) ∧
      (v.getLsbD 0 = false → v.getLsbD 1 = true → fences (exec (.selfFenceManager r v) s) 4)) ∧
    (reach s r HEALTH_KICK = .yes → (v.getLsbD 0 = false → exec (.healthKick r v) s = .next s) ∧
      (v.getLsbD 0 = true → ∃ t, exec (.healthKick r v) s = .next t ∧ t.kickAt = s.now ∧ t.wdStopped = false ∧
        ∀ p, p < 6 → (beaconAt t p).waiting = [] ∧ (beaconAt t p).syncDue = false)) ∧
    (let ticks := (rd s HEALTH_WATCHDOG).toNat
     (ticks ≠ 0 ∧ s.kickAt + ticks ≤ s.now → exec .watchdogExpiry s = .next { s with wdStopped := true }) ∧
     (ticks = 0 ∨ s.now < s.kickAt + ticks → exec .watchdogExpiry s = .next s))) ∧
  (∀ (s : State) (p : TorusPort),
    let b := beaconAt s p.val
    let gap := getF s HEALTH_BEACON_INTERVAL
    let next := withBeacon s p.val (fun y => { y with nextAt := y.nextAt + gap })
    let missed := withBeacon s p.val (fun y => { y with misses := b.misses + 1, heard := b.heard + gap })
    let suspect := if b.misses + 1 = getF s HEALTH_BEACON_SUSPECT_MISS then
      pfMsix (scorePort (setF missed (HEALTH_PORT_SCORE_SUSPECT p.val) 1) p.val 2048) 0 else missed
    (portUp s p.val = true → b.nextAt ≤ s.now →
      (beaconsOn s = true → exec (.beaconDue p) s = .next (sendBeacon next p.val false false true [])) ∧
      (beaconsOn s = false → exec (.beaconDue p) s = .next next)) ∧
    (portUp s p.val = false ∨ s.now < b.nextAt → exec (.beaconDue p) s = .next s) ∧
    (portUp s p.val = false ∨ s.now < b.heard + gap → exec (.beaconMiss p) s = .next s) ∧
    (portUp s p.val = true → b.heard + gap ≤ s.now →
      (b.misses + 1 ≠ getF s HEALTH_BEACON_FENCE_MISS → exec (.beaconMiss p) s = .next suspect) ∧
      (b.misses + 1 = getF s HEALTH_BEACON_FENCE_MISS → coordValid s = true → getF s HEALTH_BEACON_SUSPECT_MISS < b.misses + 1 →
        exec (.beaconMiss p) s = .next (originate suspect (peerCoord s p.val) 1 true 2))))

/-- R378, R384 and R400. -/
def Obligations.FenceRegistersTakeAllowedValues : Prop :=
  ∀ (s : State) (r : Requester) (v : Word),
    let bad := bits v.toNat 31 16 = 0 ∨ bits v.toNat 15 8 = 0 ∨ bits v.toNat 15 8 ≤ bits v.toNat 7 0
    let good := coordValid s = false ∧ (bits v.toNat 7 0 = 2 ∨ bits v.toNat 7 0 = 3)
    (reach s r HEALTH_BEACON = .yes → (bad → exec (.healthBeaconWrite r v) s = .next s) ∧
      (¬ bad → exec (.healthBeaconWrite r v) s = .next (wr s HEALTH_BEACON v))) ∧
    (reach s r HEALTH_LEVEL = .yes → (¬ good → exec (.healthLevelWrite r v) s = .next s) ∧
      (good → exec (.healthLevelWrite r v) s = .next (setF s HEALTH_LEVEL_OWN (bits v.toNat 7 0)))) ∧
    (reach s r HEALTH_READMIT = .yes → ∃ t, exec (.healthReadmitRequest r v) s = .next t ∧
      getF t HEALTH_READMIT_REQUEST = bits v.toNat 3 3 ∧ getF t HEALTH_READMIT_PORT = bits v.toNat 2 0 ∧
      RegsBut s t [HEALTH_READMIT])

/-- R387 to R395, with R127, R170, R171, R196. `cayFence` names the fence; its parts are said here in their order and one by
one. The model's choices: a Cay hangs only while a call runs on it (log 58); which commands meet an upset, and when (log 113);
the order of the parts of a fence (log 83). -/
def Obligations.CaysAreFencedReplacedAndScored : Prop :=
  (∀ (s : State) (n : CayNum),
    let work := (∃ c, (cayAt s n.val).call = some c) ∧ (cayAt s n.val).since + 1024 ≤ s.now ∧
      ∀ k, tget s.folds n.val = some k → k + 1024 ≤ s.now
    (cayUp s n.val = true → work → exec (.cayHang n) s = .next (cayFence s n.val true)) ∧
    (cayUp s n.val = false ∨ ¬ work → exec (.cayHang n) s = .next s) ∧
    (getF s (HEALTH_CAY_STATE n.val) ≠ 4 → exec (.spareInService n) s = .next s) ∧
    (getF s (HEALTH_CAY_STATE n.val) = 4 →
      let t := spareServes s n.val
      exec (.spareInService n) s = underUpsets t (spareResumes n.val) ∧
      (s.upsets = [] →
        exec (.spareInService n) s = .next (streamsGo (moveBuckets (t.layers.foldl (resumeLayer n.val) t) n.val 0x60))) ∧
      cayUp t n.val = true ∧ getF t (HEALTH_CAY_STATE n.val) = 1 ∧ getF t (HEALTH_CAY_SCORE n.val) = 0 ∧ cayAt t n.val = {} ∧
      (∀ i, i < 128 → getF s (FAB_RED_CAY_MAP_CAY i) = n.val → flag t (FAB_RED_CAY_MAP_VALID i) = true) ∧
      (∀ r a, (lagoonBase + n.val * 0x8000000 ≤ a ∧ a < lagoonBase + (n.val + 1) * 0x8000000) ∨
        (n.val * 0x200000 ≤ a ∧ a < (n.val + 1) * 0x200000) → byteAt t.mem r a = 0) ∧
      (∀ c, c < 64 → ctxState s c = 1 → flag t (CTX_EVENT_CAY_FENCED c) = true) ∧
      t.layers = s.layers ∧ t.buckets = s.buckets ∧ t.ferries = s.ferries)) ∧
  (∀ (s : State) (n : CayNum) (hard : Bool),
    let free := spares (n.val / 64)
    let spare := decide (0 < getF s free)
    let last := hard && !spare
    let code := if last then 0x32 else 0x31
    let a := setF (bump s (if hard then HEALTH_FENCE_COUNT_HARD else HEALTH_FENCE_COUNT_SOFT) 1) (HEALTH_CAY_STATE n.val)
      (if spare then 4 else if hard then 2 else 3)
    let b := cayEvent (pfMsix (fenceLog a 0 (if hard then 1 else 2) (if last then 0x32 else 0) n.val) 0)
    let c := loseRuns (loseRegions (loseCopies (endFencedCall b n.val) n.val code) n.val code) n.val code
    let d := if last then convNoSpare c n.val else c
    let e := if spare then mapEntries (setF d free (getF d free - 1)) n.val (fun s i => setF s (FAB_RED_CAY_MAP_VALID i) 0)
      else mapEntries d n.val (fun s i => setF s (FAB_RED_CAY_MAP_CAY i) (nextCay s n.val))
    let f := e.layers.foldl (fenceLayer n.val spare) e
    cayFence s n.val hard = streamsGo (checkCays (if spare then f else moveBuckets f n.val (if hard then 0x32 else 0x60)))) ∧
  (∀ (s : State) (v h : Nat), h < 2 → hostUp s h 0 = true → (pcieAt s h 0).msixOn = true →
    let open_ := (pcieAt s h 0).fnMask = false ∧ v ∈ (pcieAt s h 0).unmasked
    (open_ → .msix h 0 v ∈ (pfMsix s v).out) ∧ (¬ open_ → v ∈ (pcieAt (pfMsix s v) h 0).waiting)) ∧
  (∀ (s : State) (n : CayNum) (code : Nat),
    let slice := lagoonBase + n.val * 0x8000000
    let pends := fun (r : Nat × Nat) => (cmdAt s r.1 r.2).map (fun m => m.status) = some none
    let ends := fun (t : State) (r : Nat × Nat) => (cmdAt t r.1 r.2).map (fun m => m.status) = some (some code)
    (let t := loseCopies s n.val code
     let on := fun (x : RetCopy) => ∃ p ∈ x.parts, overlap p.1 p.2 slice 0x8000000 = true
     (∀ x, x ∈ t.copies ↔ x ∈ s.copies ∧ ¬ on x) ∧ (∀ x ∈ s.copies, on x → ∀ r, x.cmd = some r → pends r → ends t r) ∧
     ((∃ x ∈ s.copies, on x) → getF s FAB_FERRY_RET_LOST_COUNT_COUNT < fldMax FAB_FERRY_RET_LOST_COUNT_COUNT →
       getF s FAB_FERRY_RET_LOST_COUNT_COUNT < getF t FAB_FERRY_RET_LOST_COUNT_COUNT)) ∧
    (let t := loseRegions s n.val code
     ∀ f ∈ s.ferries, ∀ a, f.src = .region a → f.got < f.head.cells →
       let lo := (sourceRange s f f.got).1
       let fin := sourceRange s f (f.head.cells - 1)
       overlap lo (fin.1 + fin.2 - lo) slice 0x8000000 = true →
       ferryAt t f.key = none ∧ ∀ r, f.cmd = some r → ferryAt s f.key = some f → pends r → ends t r) ∧
    (let t := loseRuns s n.val code
     ∀ r ∈ s.copying, runMeets s r slice 0x8000000 = true → (∀ x ∈ t.copying, x.cmd ≠ r.cmd) ∧ (pends r.cmd → ends t r.cmd)) ∧
    (let t := endFencedCall s n.val
     (cayAt t n.val).call = none ∧ (∀ k, k ≠ n.val → cayAt t k = cayAt s k) ∧
     (getF s (CAY_KL_STATE_STATE n.val) = 1 ∨ getF s (CAY_KL_STATE_STATE n.val) = 2 →
       getF t (CAY_KL_STATE_STATE n.val) = 3 ∧ getF t (CAY_KL_STATE_STATUS n.val) = 0x31) ∧
     (getF s (CAY_KL_STATE_STATE n.val) ≠ 1 → getF s (CAY_KL_STATE_STATE n.val) ≠ 2 → t.regs = s.regs))) ∧
  (∀ (s : State) (n : CayNum) (spare : Bool) (l : Nat) (x : Layer), tget s.layers l = some x →
    let t := fenceLayer n.val spare s (l, x)
    (∀ u, x.upd = some u → needsSlice s l x u n.val = true → (spare = true ∨ scratchOn x n.val = false) → t = failUpdate s l 0x31) ∧
    (∀ u, x.upd = some u → needsSlice s l x u n.val = true → spare = false → scratchOn x n.val = true →
      t = remakeScratch (failUpdate s l 0x31) l) ∧
    (∀ u, x.upd = some u → needsSlice s l x u n.val = false → scratchOn x n.val = true →
      t = if spare then restartTasks s l x u n.val
        else moveTasks (rerunStatistics (remakeScratch (restartTasks s l x u n.val) l) l) l n.val) ∧
    (∀ u, x.upd = some u → needsSlice s l x u n.val = false → scratchOn x n.val = false → t = rerunTasks s l u n.val) ∧
    (x.upd = none → spare = true → t = if x.staged.any (stagedOn n.val) then haltLayer s l 0x31 else s) ∧
    (x.upd = none → spare = false →
      let w := x.staged.foldl (moveSpilled n.val l) (if x.staged.any (stagedOn n.val) then haltLayer s l 0x31 else s)
      t = if scratchOn x n.val then remakeScratch w l else w)) ∧
  (∀ (s : State) (b code : Nat) (e : Bucket), bucketAt s b = some e → bLive e = true →
    let m := moveReservations s b (mapEntry s e).2
    ∃ u y, restartBucket s b code = resendAll u b ∧ bucketAt u b = some y ∧ y.cay = (mapEntry s e).2 ∧ y.stage = .ports ∧
      y.partials = [] ∧ y.outs = [] ∧ y.wides = [] ∧ y.sentCells = 0 ∧ y.skip = max e.skip e.sentCells ∧
      y.em = List.replicate e.em.length 0 ∧ y.codes = e.codes ++ [code] ∧ y.kept = e.kept ∧ y.ports = e.ports ∧ y.arms = e.arms ∧
      getF u FAB_RED_EM_RESTART_COUNT_COUNT = min (fldMax FAB_RED_EM_RESTART_COUNT_COUNT) (getF m FAB_RED_EM_RESTART_COUNT_COUNT + 1) ∧
      (stepRec u (bCtx e)).restarts = (stepRec m (bCtx e)).restarts + 1 ∧
      (∀ n, s.buckets = [(b, e)] → e.cay = n → moveBuckets s n code = retryMoves (restartBucket s b code))) ∧
  (∀ (s : State) (n : CayNum), s.layers = [] → s.buckets = [] → s.copies = [] → s.ferries = [] → s.copying = [] →
    getF s HEALTH_CTRL_MIN_CAYS < inService s 0 → getF s HEALTH_CTRL_MIN_CAYS < inService s 1 → 1 < inService s (n.val / 64) → cayUp s n.val = true →
    let t := cayFence s n.val true
    let free := spares (n.val / 64)
    let entry := fun i => getF s (FAB_RED_CAY_MAP_CAY i) = n.val
    let after := fun k => 64 * (n.val / 64) + (n.val % 64 + k) % 64
    getF t HEALTH_FENCE_COUNT_HARD = min 65535 (getF s HEALTH_FENCE_COUNT_HARD + 1) ∧ (cayAt t n.val).call = none ∧
    (flag s HEALTH_FENCE_LOG0_VALID = false →
      (rd t HEALTH_FENCE_LOG0).toNat = 0x81000000 + (if 0 < getF s free then 0 else 0x320000) + n.val) ∧
    (∀ h, h < 2 → hostUp s h 0 = true → (pcieAt s h 0).msixOn = true → (pcieAt s h 0).fnMask = false →
      0 ∈ (pcieAt s h 0).unmasked → .msix h 0 0 ∈ t.out) ∧
    (∀ c, c < 64 → ctxState s c = 1 → flag t (CTX_EVENT_CAY_FENCED c) = true) ∧
    (getF s (CAY_KL_STATE_STATE n.val) = 2 → getF t (CAY_KL_STATE_STATE n.val) = 3 ∧ getF t (CAY_KL_STATE_STATUS n.val) = 0x31) ∧
    (0 < getF s free → getF t (HEALTH_CAY_STATE n.val) = 4 ∧ getF t free + 1 = getF s free ∧
      ∀ i, i < 128 → entry i → flag t (FAB_RED_CAY_MAP_VALID i) = false) ∧
    (getF s free = 0 → getF t (HEALTH_CAY_STATE n.val) = 2 ∧
      ∀ i, i < 128 → entry i → ∃ k, 1 ≤ k ∧ k < 64 ∧ getF t (FAB_RED_CAY_MAP_CAY i) = after k ∧ cayUp s (after k) = true ∧
        ∀ j, 1 ≤ j → j < k → cayUp s (after j) = false)) ∧
  (∀ s : State,
    let u := { s with decayAt := s.decayAt + 156250 }
    let t := decayAll u
    (s.now < s.decayAt + 156250 → exec .scoreDecay s = .next s) ∧
    (s.decayAt + 156250 ≤ s.now → exec .scoreDecay s = .next (softFence t)) ∧
    (∀ n, n < 128 → getF t (HEALTH_CAY_SCORE n) =
      if cayUp s n then getF s (HEALTH_CAY_SCORE n) - (getF s (HEALTH_CAY_SCORE n) + 1023) / 1024 else getF s (HEALTH_CAY_SCORE n)) ∧
    (∀ p, p < 22 → getF t (HEALTH_PORT_SCORE_SCORE p) =
      getF s (HEALTH_PORT_SCORE_SCORE p) - (getF s (HEALTH_PORT_SCORE_SCORE p) + 1023) / 1024)) ∧
  (∀ s : State,
    let high := fun n => n < 128 ∧ cayUp s n = true ∧ getF s HEALTH_CTRL_THRESH ≤ getF s (HEALTH_CAY_SCORE n)
    (flag s HEALTH_CTRL_SOFT_EN = false ∨ (∀ n, ¬ high n) → softFence s = s) ∧
    (flag s HEALTH_CTRL_SOFT_EN = true → ∀ n, high n → (∀ m, high m → getF s (HEALTH_CAY_SCORE m) ≤ getF s (HEALTH_CAY_SCORE n)) →
      (∀ m, high m → getF s (HEALTH_CAY_SCORE m) = getF s (HEALTH_CAY_SCORE n) → n ≤ m) →
      (0 < getF s (spares (n / 64)) ∧ softUsed s < getF s HEALTH_BUDGET_MAX →
        softFence s = cayFence { s with softAt := s.now :: s.softAt } n false) ∧
      (¬ (0 < getF s (spares (n / 64)) ∧ softUsed s < getF s HEALTH_BUDGET_MAX) →
        softFence s = bump s HEALTH_SOFT_DEFER_COUNT_COUNT 1))) ∧
  (∀ (s : State) (n : CayNum) (c : MCall) (w : Word), (cayAt s n.val).call = some c →
    (cayAt s n.val).count < (rd s (CAY_KLIMIT n.val)).toNat → (cayAt s n.val).pc < c.codeLen →
    codeWord s n.val (cayAt s n.val).pc = w → accessFault s (some c.ctx) (cayStore n.val + 4 * (cayAt s n.val).pc) 4 false = none →
    let v := { s with upsets := tdel s.upsets n.val }
    let bad := bump v (CAY_RESIDUE_COUNT_FAILED n.val) 1
    let lost := bump v (CAY_ARRAY_ERR_COUNT_UNCORRECTED n.val) 1
    ∀ i ∈ [Instr.addD n w, .vfadd n w, .tmacL16 n w],
      (tget s.upsets n.val = some .repeated → exec i s = exec i (scoreCay (bump v (CAY_RESIDUE_COUNT_RETRIED n.val) 1) n.val 256)) ∧
      (tget s.upsets n.val = some .corrected → exec i s = exec i (scoreCay (bump v (CAY_ARRAY_ERR_COUNT_CORRECTED n.val) 1) n.val 16)) ∧
      (tget s.upsets n.val = some .failed → c.kernel = true → exec i s = .next (cayFence (endKernel bad n.val 0x21) n.val true)) ∧
      (tget s.upsets n.val = some .uncorrected → c.kernel = true → exec i s = .next (cayFence (endKernel lost n.val 0x22) n.val true)) ∧
      (tget s.upsets n.val = some .failed → c.kernel = false → exec i s = .next (cayFence
        (if rerunning s c = true then stopUpdate (clearCalls bad c.layer) c.layer 0x21 else markRerun bad c) n.val true)) ∧
      (tget s.upsets n.val = some .uncorrected → c.kernel = false →
        exec i s = .next (cayFence (stopUpdate (clearCalls lost c.layer) c.layer 0x22) n.val true))) ∧
  (∀ (s : State) (f : State → Host.Outcome State Fault Refusal),
    let met := fun (t u : State) => s.upsets.find? (fun x => cayUp s x.1 && cayWorked s u x.1) = none ∧ t = u ∨
      ∃ n x, s.upsets.find? (fun x => cayUp s x.1 && cayWorked s u x.1) = some (n, x) ∧
        (x = .repeated ∨ x = .corrected) ∧ t = survived { u with upsets := tdel u.upsets n } n x
    (s.upsets = [] → underUpsets s f = f s) ∧
    (∀ u, f s = .next u →
      (∀ t, met t u → underUpsets s f = .next t) ∧
      (∀ n x, s.upsets.find? (fun x => cayUp s x.1 && cayWorked s u x.1) = some (n, x) → x = .failed ∨ x = .uncorrected →
        underUpsets s f = f (succumbed { s with upsets := tdel s.upsets n } n x)))) ∧
  (∀ (s : State) (p : TorusPort) (x : Cell) (b : BucketNum) (l : LayerNum) (k : Nat) (e : EgressPort),
    exec (.trailerCell p x) s = underUpsets s (trailerCell p x) ∧ exec (.deadline b) s = underUpsets s (deadline b) ∧
    exec (.armDeadline b p) s = underUpsets s (armDeadline b p) ∧
    exec (.layerStatePresent l) s = underUpsets s (layerStatePresent l) ∧
    exec (.updateStart l) s = underUpsets s (updateStart l) ∧ exec (.taskApply l k) s = underUpsets s (taskApply l k) ∧
    exec (.matrixPhaseDone l) s = underUpsets s (matrixPhaseDone l) ∧
    exec (.egressSlot e) s = underUpsets s (egressSlot e))

/-- R338 to R344. `freed k`: the oldest `k` copies leave the store and stop being resent. The model's choices: a resend after a
NAK counts toward the 16 of R342 (log 87); LINK_CHECK_FAIL names the unit and the lanes that failed (log 119). -/
def Obligations.LinksAcknowledgeResendAndDiscard : Prop :=
  (∀ (s : State) (p : TorusPort) (ack : BitVec 16),
    let t := torusAt s p.val
    let freed := fun k => withTorus s p.val (fun t => { t with
      store := t.store.drop k, resend := t.resend.filter (fun c => !(((t.store.take k).map (fun c => c.1)).contains c.1)), resends := 0, lastAck := s.now })
    let after := takeAck s p.val ack.toNat
    (portUp s p.val = false → exec (.linkIdle p ack) s = .next s ∧ ∀ i, exec (.linkNak p ack i) s = .next s) ∧
    (portUp s p.val = true → exec (.linkIdle p ack) s = .next after ∧
      ∀ i : BitVec 16, exec (.linkNak p ack i) s =
        .next (resendFrom after p.val ((torusAt after p.val).store.dropWhile (fun c => c.1 != i.toNat)))) ∧
    (t.store = [] → after = s) ∧
    (∀ i x l k, t.store = (i, x) :: l → (i + k) % 65536 = ack.toNat → 0 < k → k ≤ t.store.length → i < 65536 → k < 65536 → after = freed k)) ∧
  (∀ (s : State) (p : Nat) (cs : List (Nat × Cell)),
    let t := torusAt s p
    (cs = [] → resendFrom s p cs = s) ∧ (cs ≠ [] → 16 ≤ t.resends → resendFrom s p cs = portDown s p 7) ∧
    (cs ≠ [] → t.resends < 16 → resendFrom s p cs =
      withTorus s p (fun t => { t with resend := cs, resends := t.resends + 1, lastAck := s.now }))) ∧
  (∀ (s : State) (p : TorusPort),
    let t := torusAt s p.val
    let due := portUp s p.val = true ∧ t.store ≠ [] ∧ t.lastAck + (rd s (LANE_RETRY_TIMEOUT p.val)).toNat ≤ s.now
    (due → exec (.laneRetryTimeout p) s = .next (resendFrom s p.val t.store)) ∧
    (¬ due → exec (.laneRetryTimeout p) s = .next s) ∧
    (∀ (f : FailedUnit) (bad : List LaneNum),
      let counted := fun (u : State) => ∀ l : LaneNum,
        getF u (LANE_SYNC_ERR_COUNT p.val l.val) = min (2 ^ 32 - 1) (getF s (LANE_SYNC_ERR_COUNT p.val l.val) + bad.count l)
      let more := fun (u : State) (g : Fld) => getF u g = min (2 ^ 32 - 1) (getF s g + 1)
      let t₁ := if bad = [] then t else { t with qualBad := true }
      (t.phase = .off ∨ t.phase = .lock → exec (.linkCheckFail p ⟨f, bad⟩) s = .next s) ∧
      (t.phase ≠ .off → t.phase ≠ .lock → ∃ u, exec (.linkCheckFail p ⟨f, bad⟩) s = .next u ∧ counted u ∧
        (f = .control → more u (LANE_CHECK_FAIL_COUNT p.val) ∧ torusAt u p.val = { t with qualBad := true } ∧ u.out = s.out) ∧
        (∀ i h c, f = .cell i h c → portUp s p.val = false → torusAt u p.val = t₁ ∧ u.out = s.out) ∧
        (f = .passed → torusAt u p.val = t₁ ∧ u.out = s.out ∧ u.cells = s.cells ∧
          getF u (LANE_CHECK_FAIL_COUNT p.val) = getF s (LANE_CHECK_FAIL_COUNT p.val)) ∧
        (∀ i h c, f = .cell i h c → portUp s p.val = true → ∃ v,
          more v (LANE_CHECK_FAIL_COUNT p.val) ∧ v.out = s.out ∧ v.cells = s.cells ∧
          getF v (FAB_PORT_HDR_CRC_COUNT p.val) = (if h then min (2 ^ 32 - 1) (getF s (FAB_PORT_HDR_CRC_COUNT p.val) + 1)
            else getF s (FAB_PORT_HDR_CRC_COUNT p.val)) ∧
          (i.toNat ≠ t.rxIdx → u = v ∧ torusAt u p.val = t₁) ∧
          (i.toNat = t.rxIdx → torusAt v p.val = { t₁ with discarding := true, nakDue := some i.toNat } ∧
            (h = true ∨ c = none → u = v) ∧ (∀ x, h = false → c = some x → u = cutThrough v p.val x))))) ∧
    (let sends := fun (u : State) (c : CtlUnit) => exec (.controlUnitDue p) s = .next (emit u (.control p.val c))
     (t.phase = .off → exec (.controlUnitDue p) s = .next s) ∧
     (t.phase = .lock ∨ t.phase = .qualify ∨ t.phase = .credits → sends s (.idle 0)) ∧
     (t.phase = .train → sends s (.train 0 (ownTrain s p.val))) ∧
     (t.phase = .step → sends (withTorus s p.val (fun t => { t with stepTx := true })) (.step 0 t.nextRate)) ∧
     let due := t.nakDue ≠ none ∨ 128 ≤ t.sinceUnit ∨ (0 < t.sinceUnit ∧ t.unitAt < s.now)
     (t.phase = .up → ¬ due → exec (.controlUnitDue p) s = .next s) ∧
     (t.phase = .up → due → ∃ v u, exec (.controlUnitDue p) s = .next u ∧ torusAt v p.val = t ∧ v.out = s.out ∧
       (∀ i, t.nakDue = some i → u = bump (emit (withTorus v p.val (fun t => { t with nakDue := none, sinceUnit := 0 }))
         (.control p.val (.nak t.rxIdx i))) (LANE_NAK_TX_COUNT p.val) 1 ∧ getF u (LANE_NAK_TX_COUNT p.val) = min (2 ^ 32 - 1) (getF s (LANE_NAK_TX_COUNT p.val) + 1)) ∧
       (t.nakDue = none → u = emit (withTorus v p.val (fun t => { t with sinceUnit := 0 })) (.control p.val (.idle t.rxIdx))))) ∧
    (t.phase = .off → (∀ a o, exec (.idleRow p a o) s = .next s) ∧ exec (.idleRowDue p) s = .next s ∧
      ∀ l b, exec (.lockLoss p l b) s = .next s) ∧
    (t.phase ≠ .off →
      (∀ a, exec (.idleRow p a false) s = .next (portDown s p.val 3)) ∧ exec (.idleRow p .keep true) s = .next s ∧
      (∃ u, exec (.idleRow p .delete true) s = .next u ∧ ∀ l, l < 24 →
        getF u (LANE_RATEMATCH_DELETE p.val l) = min 65535 (getF s (LANE_RATEMATCH_DELETE p.val l) + 1)) ∧
      (∃ u, exec (.idleRow p .repeatRow true) s = .next u ∧ ∀ l, l < 24 →
        getF u (LANE_RATEMATCH_INSERT p.val l) = min 65535 (getF s (LANE_RATEMATCH_INSERT p.val l) + 1)) ∧
      exec (.idleRowDue p) s = .next (emit s (.idleRow p.val)) ∧
      (t.phase ≠ .lock → ∀ l, exec (.lockLoss p l false) s = .next (portDown s p.val 1) ∧
        exec (.lockLoss p l true) s = .next (portDown (bump s (LANE_SYNC_ERR_COUNT p.val l.val) 1) p.val 1))))

/-- R347 to R352. The model's choices: a qualification too long is repeated once and then degrades, RATE_MAX 2 is offered and a
MAXRATE above 2 limits as 2 (log 85); a refused TRAIN takes an up port down (log 87). -/
def Obligations.TorusPortsComeUpPhaseByPhase : Prop :=
  (∀ (s : State) (r : Requester) (p : TorusPort) (v : Word), reach s r (LANE_PORT_CTRL p.val) = .yes →
    let was := flag s (LANE_PORT_CTRL_ENABLE p.val)
    let w := setF (setF (setF s (LANE_PORT_CTRL_LEVEL_MIN p.val) (bits v.toNat 15 8)) (LANE_PORT_CTRL_MAXRATE p.val) (bits v.toNat 2 1))
      (LANE_PORT_CTRL_ENABLE p.val) (bits v.toNat 0 0)
    (was = false → v.getLsbD 0 = true → exec (.lanePortEnable r p v) s = .next (startPort w p.val)) ∧
    (was = true → v.getLsbD 0 = false → exec (.lanePortEnable r p v) s = .next (clearPort w p.val)) ∧
    (was = v.getLsbD 0 → exec (.lanePortEnable r p v) s = .next w)) ∧
  (∀ (s : State) (p : Nat), p < 6 → (s.power.refLost = true → startPort s p = s) ∧
    (s.power.refLost = false → phaseOf (startPort s p) p = .lock ∧ (torusAt (startPort s p) p).phaseAt = s.now ∧
      getF (startPort s p) (LANE_PORT_STATUS_STATE p) = 1)) ∧
  (∀ (s : State) (p : Nat) (cause : Nat), p < 6 → cause < 16 → s.cells = [] →
    let t := clearPort s p
    torusAt t p = { phaseAt := s.now } ∧ portUp t p = false ∧ getF t (LANE_PORT_STATUS_STATE p) = 0 ∧ getF t (LANE_PORT_STATUS_RATE p) = 0 ∧
    rd t (LANE_PEER_INFO p) = 0 ∧ beaconAt t p = {} ∧
    (flag s (LANE_PORT_CTRL_ENABLE p) = false → portDown s p cause = setF t (LANE_PORT_STATUS_CAUSE p) cause) ∧
    (flag s (LANE_PORT_CTRL_ENABLE p) = true →
      let w := startPort (scorePort (bump (setF t (LANE_PORT_STATUS_CAUSE p) cause) (LANE_DOWN_COUNT_COUNT p) 1) p 1024) p
      portDown s p cause = if portUp s p then originateDown w p else w)) ∧
  (∀ (s : State) (p : TorusPort),
    let t := torusAt s p.val
    let goal := match t.trainRx with | some b => min (min 2 b.rateMax.toNat) (getF s (LANE_PORT_CTRL_MAXRATE p.val)) | none => 0
    let on := if t.linkRate < goal then beginStep s p.val (t.linkRate + 1) false else setPhase s p.val .credits
    (t.phase = .lock → exec (.blockLock p) s = .next (setPhase s p.val .train)) ∧
    (t.phase = .step → t.stepTx = true → t.stepRx = some t.nextRate → exec (.blockLock p) s = .next (setPhase
      (setF (withTorus s p.val (fun t => { t with linkRate := t.nextRate, qualBad := false })) (LANE_PORT_STATUS_RATE p.val) t.nextRate) p.val .qualify)) ∧
    (t.phase = .train → t.trainRx ≠ none → exec (.trainExchangeEnd p) s = .next on) ∧
    (t.phase = .qualify → t.phaseAt + 156250 ≤ s.now → t.qualBad = false → exec (.qualifyDone p) s = .next on) ∧
    (t.phase = .qualify → t.qualBad = true → exec (.qualifyDone p) s = .next s) ∧
    (∀ rate, t.phase = .train ∨ t.phase = .step ∨ t.phase = .qualify →
      exec (.linkStep p rate) s = .next (withTorus s p.val (fun t => { t with stepRx := some rate.toNat }))) ∧
    (t.phase ≠ .off → ∀ c, exec (.linkDown p c) s = .next (portDown s p.val 9) ∧
      exec (.lanePortDown p c) s = .next (portDown s p.val c.toNat)) ∧
    (t.phase = .off → ∀ c, exec (.linkDown p c) s = .next s ∧ exec (.lanePortDown p c) s = .next s) ∧
    (let late := fun limit => t.phaseAt + limit < s.now
     let out := exec (.bringupPhaseTimeout p) s
     (t.phase = .lock → late 78125 → out = .next (portDown s p.val 1)) ∧ (t.phase = .train → late 78125 → out = .next (portDown s p.val 2)) ∧
     (t.phase = .step → late (if t.nextRate ≤ 1 then 312500 else 468750) → out = .next (portDown s p.val 8)) ∧
     (t.phase = .credits → late 15625 → out = .next (portDown s p.val 10)) ∧
     (t.phase = .qualify → late 156250 → t.repeatDone = false → out = .next (beginStep s p.val t.linkRate true)) ∧
     (t.phase = .qualify → late 156250 → t.repeatDone = true → ∃ u, out = .next u ∧ phaseOf u p.val = .credits ∧
       (torusAt u p.val).linkRate = t.linkRate - 1 ∧ flag u (LANE_PORT_STATUS_DEGRADED p.val) = true)) ∧
    (∀ (b : TrainBody) (ack : BitVec 16), t.phase = .train ∨ t.phase = .up →
      let low := min 3 b.levelMax.toNat
      let legacy := bits b.id.toNat 31 16 = 0x1600
      let level := low < getF s (LANE_PORT_CTRL_LEVEL_MIN p.val) ∨ low < b.levelMin.toNat
      let other := if p.val % 2 = 0 then p.val + 1 else p.val - 1
      let miswired := coordValid s = true ∧ b.coord.toNat ≠ 0x7FFF ∧ (b.port.toNat ≠ other ∨ b.coord.toNat ≠ peerCoord s p.val)
      let credit := b.credits.length ≠ 16 ∨ (∃ c ∈ b.credits, c.toNat < 2) ∨ 2048 < (b.credits.map (fun c => c.toNat)).foldl (· + ·) 0
      let refuses := fun (c : Nat) =>
        exec (.linkTrain p ⟨ack, b⟩) s = .next
          (portDown (emit (recordRefusal s p.val c b) (.control p.val (.down (upAck s p.val) c))) p.val c)
      let v := if portUp s p.val then takeAck s p.val ack.toNat else s
      (legacy → refuses 4) ∧ (¬ legacy → level → refuses 5) ∧ (¬ legacy → ¬ level → miswired → refuses 6) ∧
      (¬ legacy → ¬ level → ¬ miswired → credit → refuses 10) ∧
      (¬ legacy → ¬ level → ¬ miswired → ¬ credit → exec (.linkTrain p ⟨ack, b⟩) s = .next (learnPeer v p.val b) ∧
        rd64 (learnPeer v p.val b) (LANE_PEER_SERIAL_LO p.val) = b.serial.toNat ∧
        (torusAt (learnPeer v p.val b) p.val).trainRx = some b)) ∧
    (∀ b, t.trainRx = some b → t.phase = .credits → s.power.refLost = false → creditsOk (ownCredits s) = true → ∃ u v, exec (.lanePortUp p) s = .next u ∧
      u = sendSync v p.val ∧ portUp v p.val = true ∧ phaseOf v p.val = .up ∧ (torusAt v p.val).credits = b.credits.map (fun c => c.toNat) ∧
      (torusAt v p.val).txIdx = 0 ∧ (torusAt v p.val).rxIdx = 0 ∧ (torusAt v p.val).store = [] ∧
      getF v (LANE_PORT_STATUS_STATE p.val) = 5))

/-- R408 to R418. A verified record or image is one whose digest and signature check; the statement holds whatever they give. The
model's choices: the strap is tested first and the recovery strap after the key (log 99); the bytes under the area's HMAC (log
18); what a module reset keeps (log 112). -/
def Obligations.TheBootEndsInItsFirstFailureOrReady : Prop :=
  (∀ (s : State) (b : BootOutcome),
    let u := { s with
      boot := { s.boot with released := true, at_ := s.now }
      power := { s.power with phase := .running, pgOut := true } }
    let v := { u with boot := { u.boot with rpaKey := rpaKeyOf u b.puf } }
    let w := showRpa (writeRpa v { v.rpa with boots := min (2 ^ 32 - 1) (v.rpa.boots + 1) })
    let stop := fun (t : State) (state cause : Nat) => trustState t state cause
    (s.boot.released = true ∨ (s.power.phase ≠ .starting ∧ s.power.phase ≠ .running) → exec (.resetRelease b) s = .next s) ∧
    (s.boot.released = false → s.power.phase = .starting ∨ s.power.phase = .running → exec (.resetRelease b) s = .next (
      if s.power.straps.vcore = 3 then stop u 5 7
      else if areaOk u b = false then stop u 5 2
      else match findRecord w with
        | none => stop w 5 1
        | some r =>
          let x := takeRecord w r b
          match unwrapIdentity x r b.puf with
          | none => stop x 5 3
          | some k =>
            let y := { x with boot := { x.boot with identity := k } }
            let c := countTrial y.rpa
            if s.power.straps.recovery = true then stop y 4 7
            else if bootable y c.active = true then bootStage1 (showRpa (writeRpa y c)) b c.active
            else if bootable y (1 - c.active) = true then
              bootStage1 (showRpa (writeRpa y { c with active := 1 - c.active, trial := false })) b (1 - c.active)
            else stop (showRpa (writeRpa y c)) 4 4)) ∧
    (areaOk u b = true ↔ b.rpaMac.length = 64 ∧
      hmac (hkdf b.puf (saltSerial u) [0x72, 0x70, 0x61] 64) (rpaBytes u.rpa) = b.rpaMac) ∧
    (∀ x r, unwrapIdentity x r b.puf = keyUnwrap (hkdf b.puf (saltSerial x) [0x6B, 0x65, 0x6B] 32)
      (slice r (fieldAt r 0x50 4) (fieldAt r 0x54 4)))) ∧
  (∀ (s : State) (r : List Byte) (b : BootOutcome), let t := takeRecord s r b
    t.boot = { s.boot with record := r } ∧ t.mem = s.mem ∧ t.rpa = s.rpa ∧ RegsBut s t [POWER_VCORE_A, POWER_VCORE_B] ∧
    getF t POWER_VCORE_A_VMIN = min 900 b.vminA ∧ getF t POWER_VCORE_B_VMIN = min 900 b.vminB) ∧
  (∀ (s : State) (r : Rpa), s.power.low54 = true → writeRpa s r = s) ∧
  (∀ (s : State) (r : Rpa), s.power.low54 = false → let x := { r with writes := s.rpa.writes + 1 }
    (writeRpa s r).rpa = x ∧ (writeRpa s r).regs = s.regs ∧ (writeRpa s r).mem = s.mem ∧
    (writeRpa s r).out = .areaWrite (rpaBytes x) (hmac s.boot.rpaKey (rpaBytes x)) :: s.out) ∧
  (∀ r : Rpa, (r.trial = false → countTrial r = r) ∧
    (r.trial = true → r.attempts = 3 → countTrial r = { r with active := 1 - r.active, trial := false, attempts := 0 }) ∧
    (r.trial = true → r.attempts ≠ 3 → countTrial r = { r with attempts := r.attempts + 1 })) ∧
  (∀ (s : State) (st cause : Nat), st < 8 → cause < 256 → getF (trustState s st cause) TRUST_STATE_STATE = st ∧
    getF (trustState s st cause) TRUST_STATE_CAUSE = cause ∧ RegsBut s (trustState s st cause) [TRUST_STATE] ∧
    (trustState s st cause).mem = s.mem) ∧
  (∀ (s : State) (b : BootOutcome) (k : Nat), k < 2 →
    bootStage1 s b k = (if bodyOk s k = false then trustState s 5 5 else if b.initOk = false then trustState s 5 6 else bootReady s k) ∧
    (let t := bootReady s k
     let h := slotHeader s k
     getF t TRUST_STATE_STATE = 3 ∧ getF t TRUST_STATE_SLOT = k ∧ rd t TRUST_SVN = BitVec.ofNat 32 (fieldAt h 0x10 4) ∧
     rd t TRUST_VERSION = BitVec.ofNat 32 (fieldAt h 0x18 4) ∧ getF t HEALTH_LEVEL_OWN = fieldAt h 0x0B 1 ∧ t.boot.header = h ∧
     ∀ p, p < 6 → flag t (LANE_PORT_CTRL_ENABLE p) = true)) ∧
  (∀ s : State,
    let late := getF s TRUST_STATE_STATE = 3 ∧ s.rpa.trial = true ∧ getF s TRUST_STATE_SLOT = s.rpa.active ∧
      s.boot.at_ + 9375000000 ≤ s.now
    (late → exec .trialTimeout s = .next (moduleReset s)) ∧ (¬ late → exec .trialTimeout s = .next s)) ∧
  (∀ (s : State) (r : Requester) (v : Word), reach s r TRUST_CTRL = .yes →
    let h := s.boot.header
    (v.getLsbD 0 = true → v.getLsbD 1 = false → getF s TRUST_STATE_STATE ≠ 3 ∨ s.power.low54 = true →
      exec (.confirm r v) s = .next s) ∧
    (v.getLsbD 0 = true → v.getLsbD 1 = false → getF s TRUST_STATE_STATE = 3 → s.power.low54 = false →
      ∃ t, exec (.confirm r v) s = .next t ∧ t.rpa.trial = false ∧ t.rpa.attempts = 0 ∧ t.rpa.floor = max s.rpa.floor (fieldAt h 0x14 4) ∧
        (∀ k, k < 4 → (t.rpa.revoked.testBit k = true ↔ s.rpa.revoked.testBit k = true ∨
          ((fieldAt h 0x0C 1).testBit k = true ∧ k ≠ fieldAt h 0x0A 1))) ∧
        flag t TRUST_STATE_TRIAL = false ∧ rd t TRUST_FLOOR = BitVec.ofNat 32 t.rpa.floor ∧
        t.rpa.active = s.rpa.active ∧ RegsBut s t [TRUST_STATE, TRUST_FLOOR]) ∧
    (v.getLsbD 0 = false → v.getLsbD 1 = true →
      exec (.moduleReset r v) s = .next (if getF s TRUST_STATE_STATE = 5 then s else moduleReset s))) ∧
  (∀ s : State,
    let t := moduleReset s
    t.rpa = s.rpa ∧ t.power.phase = s.power.phase ∧ t.power.straps = s.power.straps ∧ t.power.last = s.power.last ∧
    t.now = 0 ∧ t.boot.released = false ∧ t.queues = [] ∧ t.groups = [] ∧ t.buckets = [] ∧ t.layers = [] ∧ t.slots = [] ∧ t.ferries = [] ∧
    t.cells = [] ∧ t.cays = [] ∧ t.sessions = [] ∧ t.allocs = [] ∧ t.poison = [] ∧ getF t TRUST_STATE_STATE = 0 ∧
    (∀ r a, flashBase ≤ a → byteAt t.mem r a = byteAt s.mem r a) ∧ (∀ r a, a < hostBase → byteAt t.mem r a = 0))

/-- R404, R417, R419, R424. The identity key and the verification of an image stay open; the statement holds whatever they give.
The model's choices: the order of an update's results, and 6 below 54 V (log 100); a CHALLENGE that cannot be read ends the
operation (log 101); SET needs the area's key (log 102). -/
def Obligations.UpdatesReportsAndTheOwnerAreGuarded : Prop :=
  (∀ (s : State) (r : Requester) (v : Word), reach s r TRUST_UPDATE_CTRL = .yes →
    let st := getF s TRUST_STATE_STATE
    let k := if st = 4 then 0 else 1 - getF s TRUST_STATE_SLOT
    let taken := v.getLsbD 0 = true ∧ (st = 3 ∨ st = 4) ∧ getF s TRUST_UPDATE_STATUS_STATE ≠ 1
    (¬ taken → exec (.trustUpdateGo r v) s = .next s) ∧
    (taken → ∃ t, exec (.trustUpdateGo r v) s = .next t ∧ getF t TRUST_UPDATE_STATUS_STATE = 1 ∧ getF t TRUST_UPDATE_STATUS_RESULT = 0 ∧
      RegsBut s t [TRUST_UPDATE_STATUS] ∧
      (∀ n a, byteAt t.mem n a = if s.power.low54 = false ∧ flashBase + slotBase k ≤ a ∧ a < flashBase + slotBase k + 4096 then 0xFF
        else byteAt s.mem n a))) ∧
  (∀ (s : State) (hostOk flashOk : Bool),
    let n := (rd s TRUST_UPDATE_LEN).toNat
    let a := (rd s TRUST_UPDATE_ADDR_LO).toNat + (rd s TRUST_UPDATE_ADDR_HI).toNat * 2 ^ 32
    let out := exec (.imageUpdateDone hostOk flashOk) s
    (getF s TRUST_UPDATE_STATUS_STATE ≠ 1 → out = .next s) ∧
    (getF s TRUST_UPDATE_STATUS_STATE = 1 →
      (0x1000000 < n → out = .next (updateEnd s 4)) ∧
      (n ≤ 0x1000000 → hostOk = false ∨ (hostRead s a n).2 = none → ∃ t, out = .next (updateEnd t 5) ∧ t.mem = s.mem ∧ t.rpa = s.rpa) ∧
      (n ≤ 0x1000000 → hostOk = true → ∀ t bs, hostRead s a n = (t, some bs) →
        out = .next (updateEnd (writeImage t bs flashOk).1 (writeImage t bs flashOk).2)))) ∧
  (∀ (s : State) (bs : List Byte) (flashOk : Bool),
    let st := getF s TRUST_STATE_STATE
    let k := if st = 4 then 0 else 1 - getF s TRUST_STATE_SLOT
    let w := { s with mem := cellsPut s.mem (flashBase + slotBase k) bs }
    let h := slotHeader w k
    writeImage s bs flashOk = (if imageLengthBad bs bs.length = true then (s, 4)
      else if flashOk = false ∨ s.power.low54 = true then (s, 6)
      else if headerOk h = false ∨ stage1Ok w k = false ∨ bodyOk w k = false then (w, 1)
      else if s.rpa.revoked.testBit (fieldAt h 0x0A 1) = true then (w, 3)
      else if fieldAt h 0x10 4 < s.rpa.floor then (w, 2)
      else (showRpa (writeRpa w { s.rpa with active := k, trial := true, attempts := 0 }), 0)) ∧
    (∀ res, res < 256 → res ≠ 0 ∨ st ≠ 4 → getF (updateEnd s res) TRUST_UPDATE_STATUS_STATE = 2 ∧
      getF (updateEnd s res) TRUST_UPDATE_STATUS_RESULT = res ∧ RegsBut s (updateEnd s res) [TRUST_UPDATE_STATUS])) ∧
  (∀ (s : State) (r : Requester) (v : Word), reach s r TRUST_ATTEST_CTRL = .yes →
    let a := ((rd s TRUST_ATTEST_ADDR_LO).toNat + (rd s TRUST_ATTEST_ADDR_HI).toNat * 2 ^ 32) / 64 * 64
    let taken := v.getLsbD 0 = true ∧ getF s TRUST_STATE_STATE = 3 ∧ getF s TRUST_ATTEST_STATUS_STATE ≠ 1
    (¬ taken → exec (.trustAttestGo r v) s = .next s) ∧
    (taken → ∀ t x, hostRead s a 48 = (t, x) →
      (x = none → exec (.trustAttestGo r v) s = .next (attestEnd t)) ∧
      (∀ b, x = some b → exec (.trustAttestGo r v) s = .next (if challengeOk b = true then
        askSign (setF t TRUST_ATTEST_STATUS_STATE 1) (.host a) (slice b 16 32) else attestEnd t)))) ∧
  (∀ (s : State) (w : SignFor) (b : List Byte) (l : List (SignFor × List Byte)),
    let report := b ++ identitySign s b
    (s.signs = [] → exec .attestationComplete s = .next s) ∧
    (s.signs = (w, b) :: l →
      exec .attestationComplete s = .next (deliverReport { s with signs := l, free := s.free + 1 } w report)) ∧
    (identitySign s b).length = 512 ∧
    (∀ a, deliverReport s (.host a) report = attestEnd (memWrite s none (a + 0x40) report).1) ∧
    getF (attestEnd s) TRUST_ATTEST_STATUS_STATE = 2 ∧ (∀ nonce, (identityBody s nonce).length = 512)) ∧
  (∀ (s : State) (r : Requester) (v : Word), reach s r TRUST_OWNER_CTRL = .yes →
    let n := bits v.toNat 12 1
    let u := setF s TRUST_OWNER_CTRL_LEN n
    let a := (rd u TRUST_OWNER_ADDR_LO).toNat + (rd u TRUST_OWNER_ADDR_HI).toNat * 2 ^ 32
    let taken := v.getLsbD 0 = true ∧ (∃ h, r = .pf h) ∧ s.rpa.ownerSet = false ∧ n ≠ 0 ∧ s.boot.rpaKey ≠ [] ∧ s.power.low54 = false
    (¬ taken → exec (.trustOwnerSet r v) s = .next u) ∧
    (taken → ∀ t x, hostRead u a n = (t, x) → (x = none → exec (.trustOwnerSet r v) s = .next t) ∧
      (∀ bs, x = some bs → exec (.trustOwnerSet r v) s =
        .next (showRpa (writeRpa t { t.rpa with ownerSet := true, ownerDigest := sha512 bs }))))) ∧
  (∀ (n d : Nat) (msg salt : List Byte), salt.length = 64 → 2 ^ 4095 ≤ n → n < 2 ^ 4096 →
    let m := beNat (pssEncode msg salt)
    modPow 17 (modPow 4096 m d n) 65537 n = m → pssVerify (natBe 512 n) msg (pssSign (n, d) msg salt) = true)

/-- R428 to R430, R435, R441. `only t`: of what ran before nothing is left. The model's choices: the merge of causes names the
handshake as tick 0 after the shutdown (log 97); ports that lose the reference go down with cause LOCK (log 98); what a start keeps
of a lost reference (log 112). -/
def Obligations.PowerStartsAndShutsDownUnderItsCauses : Prop :=
  let only := fun (s t : State) =>
    t.rpa = s.rpa ∧ t.pending = s.pending ∧ t.now = 0 ∧ t.boot = {} ∧ t.queues = [] ∧ t.groups = [] ∧ t.layers = [] ∧ t.slots = [] ∧
    t.ferries = [] ∧ t.cells = [] ∧ t.torus = [] ∧ t.access = [] ∧ t.cays = [] ∧ t.sessions = [] ∧ t.allocs = [] ∧ t.poison = [] ∧
    (∀ r a, flashBase ≤ a → byteAt t.mem r a = byteAt s.mem r a) ∧ (∀ r a, a < hostBase → byteAt t.mem r a = 0) ∧
    RegsBut State.reset t [POWER_VCORE_A, POWER_VCORE_B, GLOBAL_ID, POWER_LAST_SHUTDOWN, POWER_EVENT] ∧
    rd t POWER_EVENT = rd (if t.power.refLost then setF State.reset POWER_EVENT_REF_LOST 1 else State.reset) POWER_EVENT
  let up := fun (s : State) => s.power.phase = .starting ∨ s.power.phase = .running
  (∀ (s : State) (p : Straps),
    (s.power.phase = .off → s.power.latched = false → ∃ t, exec (.powerStart p) s = .next t ∧ only s t ∧ t.power.phase = .starting ∧
      t.power.straps = p ∧ t.power.last = s.power.last ∧ t.power.refLost = s.power.refLost ∧ getF t GLOBAL_ID_VARIANT = (if p.variant then 1 else 0) ∧
      (∀ d, d < 2 → vmin t d = 0 ∧ vtarget t d = (if p.vcore = 0 then 750 else if p.vcore = 2 then 850 else 800) ∧
        bits (rd t (vcoreReg d)).toNat 9 0 = vtarget t d ∧ vlimit t d = 900)) ∧
    (s.power.phase ≠ .off ∨ s.power.latched = true → exec (.powerStart p) s = .next s)) ∧
  (∀ (s : State) (x : Instr × Nat × Bool),
    x ∈ [(.modEnLow, 1, false), (.inputLow, 2, false), (.inputHigh, 3, true), (.thermal, 4, true), (.converter, 5, true)] →
    (up s → ∃ t, exec x.1 s = .next t ∧ only s t ∧ t.power.phase = .off ∧ t.power.last = x.2.1 ∧ t.power.latched = x.2.2 ∧
      t.power.pgOut = false ∧ getF t POWER_LAST_SHUTDOWN_CAUSE = x.2.1 ∧ getF t TRUST_STATE_STATE = 0) ∧
    (¬ up s → s.power.phase = .off → s.now = 0 → s.power.last ≠ 0 → ∃ t, exec x.1 s = .next t ∧ t.power.phase = .off ∧
      t.power.last = min s.power.last x.2.1 ∧ (t.power.latched = true ↔ s.power.latched = true ∨ x.2.2 = true) ∧
      getF t POWER_LAST_SHUTDOWN_CAUSE = t.power.last ∧ t.mem = s.mem ∧ t.rpa = s.rpa) ∧
    (¬ up s → s.power.phase ≠ .off ∨ s.now ≠ 0 ∨ s.power.last = 0 → exec x.1 s = .next s)) ∧
  (∀ (s : State) (n : RailNum),
    (s.power.phase = .starting → exec (.railGoodTimeout n) s = exec .converter s) ∧
    (s.power.phase ≠ .starting → exec (.railGoodTimeout n) s = .next s) ∧
    (s.power.phase = .off → exec .latchRelease s = .next { s with power := { s.power with latched := false } }) ∧
    (s.power.phase ≠ .off → exec .latchRelease s = .next s) ∧
    (∃ t, exec .vinBelow40 s = .next t ∧ only s t ∧ t.power.phase = .unpowered ∧ t.power.last = 0 ∧ t.power.latched = false) ∧
    (s.power.phase = .unpowered → ∃ t, exec .vinAbove40 s = .next t ∧ t.power.phase = .off ∧ t.power.latched = false ∧ t.power.last = 0 ∧
      getF t POWER_LAST_SHUTDOWN_CAUSE = 0 ∧ t.mem = s.mem ∧ t.rpa = s.rpa) ∧
    (s.power.phase ≠ .unpowered → exec .vinAbove40 s = .next s)) ∧
  (∀ s : State,
    let u := { s with power := { s.power with refLost := true } }
    let v := (List.range 6).foldl (fun s p => if phaseOf s p = .off then s else portDown s p 1) u
    let w := (List.range 16).foldl (fun s a => if getF s (ACC_STATUS_STATE a) = 0 then s else accDown s a) v
    (s.power.refLost = true → exec .refLost s = .next s) ∧
    (s.power.refLost = false → ∃ t, exec .refLost s = .next t ∧ t = powerEvent (w.sessions.foldl endSession w) POWER_EVENT_REF_LOST ∧
      flag t POWER_EVENT_REF_LOST = true ∧ (s.torus = [] → (∀ a, a < 16 → getF s (ACC_STATUS_STATE a) = 0) → s.sessions = [] →
        t.power = u.power ∧ RegsBut s t [POWER_EVENT])) ∧
    (s.power.refLost = false → exec .refRestored s = .next s) ∧
    (s.power.refLost = true →
      let x := { s with power := { s.power with refLost := false } }
      exec .refRestored s = .next ((List.range 16).foldl (fun s a => if flag s (ACC_CTRL_ENABLE a) then startAcc s a else s)
        ((List.range 6).foldl (fun s p => if flag s (LANE_PORT_CTRL_ENABLE p) then startPort s p else s) x)) ∧
      tick s = s ∧ tick x = moveStreams (meetError (strike { x with now := s.now + 1, free := s.free + 1 } (Config.upset s.free)) (Config.memError s.free))))

/-- R431 to R434, R442. The cap in force in a period is `power.cap`, taken from the register at the loop's end. The model's
choice: V_L is held while no record is known (log 98). -/
def Obligations.ThePowerLoopFollowsPowerAndTemperature : Prop :=
  let kept := fun (s t : State) (d : Nat) => vmin t d = vmin s d ∧ vtarget t d = vtarget s d ∧
    bits (rd t (vcoreReg d)).toNat 9 0 = min (vtarget t d) (vlimit t d)
  (∀ (s : State) (r : Requester) (v : Word),
    (reach s r POWER_CAP = .yes → ∃ t, exec (.powerCapWrite r v) s = .next t ∧ RegsBut s t [POWER_CAP] ∧ t.power = s.power ∧
      getF t POWER_CAP_WATTS = max 800 (min 1600 (v.toNat % 4096))) ∧
    (∀ d : Die, reach s r (vcoreReg d.val) = .yes → ∃ t, exec (.vcoreTargetWrite r d v) s = .next t ∧ RegsBut s t [vcoreReg d.val] ∧
      t.power = s.power ∧ vmin t d.val = vmin s d.val ∧ vtarget t d.val = max (vmin s d.val) (min 900 (v.toNat / 2 ^ 20 % 1024)) ∧
      bits (rd t (vcoreReg d.val)).toNat 9 0 = min (vtarget t d.val) (vlimit s d.val))) ∧
  (∀ (s : State) (watts tjA tjB : Nat), s.power.phase = .running → s.boot.released = true → s.power.loopAt + 156250 ≤ s.now →
    ∃ t, exec (.powerLoop watts tjA tjB) s = .next t ∧ t.power.fast = false ∧ t.power.cap = getF s POWER_CAP_WATTS ∧
      t.power.loopAt = s.power.loopAt + 156250 ∧ getF t POWER_INPUT_WATTS = min 65535 watts ∧ getF t POWER_TEMP_TJ_A = min 255 tjA ∧ getF t POWER_TEMP_TJ_B = min 255 tjB ∧
      (∀ d, d < 2 →
        let tj := if d = 0 then tjA else tjB
        let down := s.power.cap < watts ∨ 100 ≤ tj
        let rise := watts + 40 ≤ s.power.cap ∧ tj ≤ 95 ∧ s.power.fast = false
        vlimit t d = (if down then (if s.boot.record = [] then vlimit s d else max (vmin s d) (vlimit s d - 10)) else if rise then min 900 (vlimit s d + 5) else vlimit s d) ∧
        vmin t d = vmin s d ∧ vtarget t d = vtarget s d ∧ (down ∨ rise → kept s t d) ∧
        (down → vlimit t d = vmin s d → flag t POWER_EVENT_CAP_SATURATED = true) ∧ (100 ≤ tj → flag t POWER_EVENT_THERM_WARN = true)) ∧
      (watts ≤ s.power.cap → tjA < 100 → tjB < 100 → rd t POWER_EVENT = rd s POWER_EVENT ∧ t.out = s.out) ∧
      t.power.hotSensor = s.power.hotSensor ∧ (t.power.thermWarn = true ↔ s.power.hotSensor = true ∨ 100 ≤ tjA ∨ 100 ≤ tjB) ∧
      RegsBut s t [POWER_INPUT, POWER_TEMP, POWER_VCORE_A, POWER_VCORE_B, POWER_EVENT]) ∧
  (∀ (s : State) (watts : Nat), s.power.phase = .running → s.boot.released = true →
    11 * s.power.cap < 10 * watts → ∃ t, exec (.powerFastStep watts) s = .next t ∧ t.power.fast = true ∧
      (∀ d, d < 2 → vlimit t d = (if s.boot.record = [] then vlimit s d else max (vmin s d) (vlimit s d - 50)) ∧ kept s t d) ∧ flag t POWER_EVENT_THROTTLE = true ∧
      getF t POWER_THROTTLE_COUNT_COUNT = min (2 ^ 32 - 1) (getF s POWER_THROTTLE_COUNT_COUNT + 1) ∧
      RegsBut s t [POWER_INPUT, POWER_VCORE_A, POWER_VCORE_B, POWER_EVENT, POWER_THROTTLE_COUNT]) ∧
  (∀ (s : State) (watts tjA tjB : Nat),
    (s.power.phase ≠ .running ∨ s.boot.released = false → exec (.powerLoop watts tjA tjB) s = .next s ∧ exec (.powerFastStep watts) s = .next s) ∧
    (s.now < s.power.loopAt + 156250 → exec (.powerLoop watts tjA tjB) s = .next s) ∧
    (10 * watts ≤ 11 * s.power.cap → exec (.powerFastStep watts) s = .next s)) ∧
  (∀ s : State,
    (s.power.phase = .running → ∃ t, exec .vinBelow56 s = .next t ∧ flag t POWER_EVENT_INPUT_LOW = true ∧ RegsBut s t [POWER_EVENT] ∧
      (flag s POWER_EVENT_INPUT_LOW = true → t = s) ∧
      (flag s POWER_EVENT_INPUT_LOW = false → ∀ h, h < 2 → hostUp s h 0 = true → (pcieAt s h 0).msixOn = true →
        ((pcieAt s h 0).fnMask = false ∧ 1 ∈ (pcieAt s h 0).unmasked → .msix h 0 1 ∈ t.out) ∧
        ((pcieAt s h 0).fnMask = true ∨ 1 ∉ (pcieAt s h 0).unmasked → 1 ∈ (pcieAt t h 0).waiting))) ∧
    (s.power.phase ≠ .running → exec .vinBelow56 s = .next s) ∧
    exec .vinBelow54 s = .next { s with power := { s.power with low54 := true } } ∧
    (∀ hot, s.power.phase ≠ .unpowered → exec (.thermWarnN hot) s = .next { s with power := { s.power with
      hotSensor := hot, thermWarn := hot || decide (100 ≤ getF s POWER_TEMP_TJ_A) || decide (100 ≤ getF s POWER_TEMP_TJ_B) } }) ∧
    (∀ hot, s.power.phase = .unpowered → exec (.thermWarnN hot) s = .next s))

/-- R103 to R107, R118, R139. The model's choices: the digest a refusal without an owner echoes and the cause of a time-out (log 55);
a Causeway exchange found by its digest, in cells of tag 0 (log 122); the counting of the refusals of ADMIT_TIMEOUT (log 121). -/
def Obligations.AdmissionIsHeldDecidedAndRelayed : Prop :=
  let lands := fun (s : State) (p : TorusPort) (x : Cell) (u : State) => Lands s p x u
  (∀ (s : State) (p : TorusPort) (x : Cell) (u : State), x.type = 5 → lands s p x u →
    let a := admitInfo x
    let cw := fieldAt (payloadOf x) 8 4 == 0
    let out := exec (.admitCell p x) s
    let held := if cw = true then cwExchange u p.val x.job a.digest else findBucket u x.job x.tag.toNat false
    let new : Bucket := { job := x.job, tag := x.tag.toNat, created := u.now, cw := cw, digest := if cw = true then a.digest else 0 }
    (∀ b e, held = some (b, e) → out = .next (ejected (holdAdmit u b p.val a) p.val x) ∧
      (bucketAt u b = some e → e.verdict = none → e.ctx = none → ∃ t y, out = .next (ejected t p.val x) ∧ bucketAt t b = some y ∧
        ((tget y.arms p.val).getD {}).adm = some a)) ∧
    (held = none → ∀ b, freeBucket u = some b →
      out = .next (ejected (holdAdmit { u with buckets := tput u.buckets b new } b p.val a) p.val x)) ∧
    (held = none → freeBucket u = none →
      out = .next (if refusalsWaiting u (portDie p.val) < 256 then
        ejected (sendListed u (.refusal (portDie p.val)) p.val (grantCell x.job x.tag.toNat .refused 0x41 0 a.digest)) p.val x
        else holdCell u p.val x ejectQ x.dateline))) ∧
  (∀ (s : State) (b p : Nat) (a : AdmitInfo) (e : Bucket), bucketAt s b = some e →
    (e.verdict ≠ none → holdAdmit s b p a = sendPort s p (verdictCell e a.digest)) ∧
    (e.verdict = none → holdAdmit s b p a = tryAdmit (withBucket s b (fun e => { e with
      arms := tput e.arms p { ((tget e.arms p).getD {}) with adm := some a } })) b)) ∧
  (∀ (s : State) (b : Nat) (e : Bucket), bucketAt s b = some e →
    let d := bDesc s e
    let acts := e.ctx ≠ none ∧ e.verdict = none ∧ e.sentAdmit = false ∧ e.reserved = true ∧ e.emReady = true ∧
      ∀ p ∈ groupUps s d, ((tget e.arms p).getD {}).adm ≠ none
    let causes := knownCauses e ++ (if disagrees e = true then [0x10] else []) ++ (if lowLevel s e < gLevelMin d then [0x11] else [])
    (¬ acts → tryAdmit s b = s) ∧
    (acts → groupDown s d = none → causes = [] → tryAdmit s b = settleAdmitted s b (lowLevel s e) e.digest) ∧
    (acts → groupDown s d = none → causes ≠ [] → tryAdmit s b =
      settleRefused (bump s FAB_RED_REFUSE_COUNT_COUNT 1) b (worst causes) (some e.digest)) ∧
    (acts → ∀ p, groupDown s d = some p → tryAdmit s b =
      sendPort (withBucket s b (fun e => { e with sentAdmit := true })) p (admitCell s e (knownCauses e)))) ∧
  (∀ (s : State) (p : TorusPort) (x : Cell) (u : State), x.type = 6 → lands s p x u →
    let kind := fieldAt (payloadOf x) 0 1
    let digest := fieldAt (payloadOf x) 8 8
    (kind = 1 → exec (.grantAdmitted p x) s = .next (ejected (match awaiting u p.val x with
      | some b => settleAdmitted u b (fieldAt (payloadOf x) 2 1) digest | none => stray u) p.val x)) ∧
    (kind = 2 → exec (.grantRefused p x) s = .next (ejected (match awaiting u p.val x with
      | some b => settleRefused u b (fieldAt (payloadOf x) 1 1) (some digest) | none => stray u) p.val x)) ∧
    (∀ b, awaiting u p.val x = some b → ∃ e, bucketAt u b ≠ none ∧ (b, e) ∈ u.buckets ∧ e.job = x.job ∧ e.tag = x.tag.toNat ∧
      e.verdict = none ∧ e.sentAdmit = true ∧ groupDown u (bDesc u e) = some p.val)) ∧
  (∀ (s : State) (b level digest : Nat),
    let v := withBucket s b (fun e => { e with verdict := some .admitted, level := level, t0 := s.now, ownerDigest := some digest })
    let w := grantPorts (answerAdmits v b) b
    ∀ e, bucketAt w b = some e → (e.cw = false → settleAdmitted s b level digest = advance (endOpen w b 0) b) ∧
      (e.cw = true → settleAdmitted s b level digest = cwAdmitted { w with buckets := tdel w.buckets b } e.group)) ∧
  (∀ (s : State) (b : BucketNum) (e : Bucket), bucketAt s b.val = some e →
    let out := exec (.admitTimeout b) s
    let old := e.created + (rd s FAB_RED_ADMIT_TIMEOUT).toNat ≤ s.now
    let w := withBucket s b.val (fun e => { e with cause := some 0x41 })
    (e.verdict ≠ none ∨ e.sentAdmit = true ∨ ¬ old → out = .next s) ∧
    (e.verdict = none → e.sentAdmit = false → old →
      (e.ctx = none → out = .next (settleRefused (bump s FAB_RED_REFUSE_COUNT_COUNT 1) b.val 0x41 none)) ∧
      (e.ctx ≠ none → groupDown s (bDesc s e) = none → out = .next (ownerRefuse w b.val 0x41)) ∧
      (e.ctx ≠ none → groupDown s (bDesc s e) ≠ none →
        out = .next (sendAdmit (bump (dropReservations w b.val) FAB_RED_REFUSE_COUNT_COUNT 1) b.val [0x41])))) ∧
  (∀ (s : State) (b : BucketNum) (c : Ctx) (k : BitVec 13),
    (∀ e, bucketAt s b.val = some e → moveRuns s (.emPrefetch b.val) = true →
      ∃ t, exec (.errorMemoryPrefetchDone b) s = .next (tryAdmit t b.val) ∧ t = nextMoves (withBucket s b.val (fun e => { e with
        em := (match homeOf s (bCtx e) e.group (bNumber e) with
          | some h => resizeMem e.n h.vals | none => List.replicate e.n 0), emReady := true })) (.emPrefetch b.val)) ∧
    (bucketAt s b.val = none ∨ moveRuns s (.emPrefetch b.val) = false → exec (.errorMemoryPrefetchDone b) s = .next s) ∧
    (∀ h, s.homes.find? (fun h => h.ctx == c.val && h.num == k.toNat && h.busy && moveRuns s (.emWriteback c.val h.group k.toNat)) = some h →
      exec (.errorMemoryWritebackDone c k) s = .next (nextMoves (withHome s c.val h.group k.toNat (fun h => { h with busy := false }))
        (.emWriteback c.val h.group k.toNat))) ∧
    ((∀ h ∈ s.homes, h.busy = false) → exec (.errorMemoryWritebackDone c k) s = .next s))

/-- R108 to R131. The model's choices: a DATA cell of the other transport is stray (log 49); the cells of a stream that waits for its
RESEND are passed over (log 57). -/
def Obligations.StreamsAreTakenCheckedExcludedAndEnded : Prop :=
  (∀ (s : State) (p : TorusPort) (x : Cell) (u : State), s.upsets = [] → Lands s p x u →
    let i := if x.type = 1 then Instr.dataW32 p x else .dataS1 p x
    (x.type = 1 ∨ x.type = 2 → liveBucket u x = none → findLate u x.job x.tag true p.val = none → exec i s =
      .next (ejected (bump u FAB_RED_STRAY_COUNT_COUNT 1) p.val x)) ∧
    (x.type = 4 → liveBucket u x = none → findLate u x.job x.tag true p.val = none → exec (.trailerCell p x) s =
      .next (ejected (bump u FAB_RED_STRAY_COUNT_COUNT 1) p.val x)) ∧
    (∀ r, liveBucket u x = none → findLate u x.job x.tag true p.val = some r →
      (x.type = 1 ∨ x.type = 2 → exec i s = .next (ejected (lateData u r x) p.val x)) ∧
      (x.type = 4 → exec (.trailerCell p x) s = .next (ejected (lateTrailer u r) p.val x))) ∧
    (∀ b e, liveBucket u x = some (b, e) → bucketAt u b = some e → findLate u x.job x.tag true p.val = none → (e.outcome ≠ none ∨ armLate u e p.val = false ∨ ((tget e.arms p.val).getD {}).included ≠ none) →
      let d := bDesc u e
      let st := (tget e.arms p.val).getD {}
      let takes := p.val ∈ groupUps u d ∧ e.outcome = none ∧ st.released = true ∧ st.resend = false ∧ st.ended = false ∧ st.included ≠ some false
      let first := armSpan x * st.got
      let vals := (armValues x).take (e.n - first)
      let bad := trailerBad st x
      (takes → x.type = (if gS1 d then 2 else 1) → bReady u e = true → exec i s = .next (ejected (advance (withBucket u b (fun e => { e with
        arms := tput e.arms p.val { st with
          got := st.got + 1, included := some true, seqBad := st.seqBad || x.seq.toNat != st.got % 65536
          check := ckAdd st.check (ckSum first vals), groups := st.groups ++ inGroups 32 vals } })) b) p.val x)) ∧
      (takes → x.type ≠ (if gS1 d then 2 else 1) → x.type = 1 ∨ x.type = 2 → exec i s = .next (ejected (bump u FAB_RED_STRAY_COUNT_COUNT 1) p.val x)) ∧
      (¬ takes → st.resend = false → x.type = 1 ∨ x.type = 2 ∨ x.type = 4 →
        exec (if x.type = 4 then .trailerCell p x else i) s = .next (ejected (bump u FAB_RED_STRAY_COUNT_COUNT 1) p.val x)) ∧
      (st.resend = true → x.type = 1 ∨ x.type = 2 ∨ x.type = 4 →
        exec (if x.type = 4 then .trailerCell p x else i) s = .next (ejected u p.val x)) ∧
      (takes → x.type = 4 → bReady u e = true → exec (.trailerCell p x) s = .next (ejected (advance (withBucket
        (if bad && st.included == some true then bump u FAB_RED_CHECK_COUNT_FAILED 1 else u) b (fun e => { e with
          arms := tput e.arms p.val (endStream st x bad) })) b) p.val x)))) ∧
  (∀ (st : BStream) (t : Cell),
    let sum := fieldAt (payloadOf t) 0 8
    let corr := fieldAt (payloadOf t) 8 8
    let r := endStream st t (trailerBad st t)
    (trailerBad st t = true ↔ ckP ≤ sum ∨ ckP ≤ corr ∨ ckAdd st.check corr ≠ sum % ckP ∨ fieldAt (payloadOf t) 0x10 4 ≠ st.got ∨
      st.seqBad = true ∨ t.seq.toNat ≠ st.got % 65536) ∧
    r.ended = true ∧ r.sum = sum ∧ r.corr = corr ∧ (r.bad = true ↔ trailerBad st t = true ∨ fieldAt (payloadOf t) 0x18 1 = 0x20) ∧
    r.included = st.included ∧ r.groups = st.groups) ∧
  (∀ (s : State) (b : BucketNum) (p : TorusPort) (e : Bucket), s.upsets = [] → bucketAt s b.val = some e →
    let d := bDesc s e
    (bLive e = false ∨ s.now ≤ e.t0 + gDeadline d → exec (.deadline b) s = .next (advance s b.val)) ∧
    (bLive e = true → e.t0 + gDeadline d < s.now → ∀ a, gPorts d = [a] → ((tget e.ports a).getD {}).included = none →
      exec (.deadline b) s = .next (advance (exclude s b.val false a) b.val)) ∧
    (s.now ≤ e.t0 + gDeadline d + armHops s d p.val * gHopAllow d → exec (.armDeadline b p) s = .next (advance s b.val)) ∧
    (bLive e = true → p.val ∈ groupUps s d → ((tget e.arms p.val).getD {}).included = none →
      e.t0 + gDeadline d + armHops s d p.val * gHopAllow d < s.now →
      exec (.armDeadline b p) s = .next (advance (exclude s b.val true p.val) b.val)) ∧
    (∀ arm q, gDefer d = false → ∃ r, bucketAt (exclude s b.val arm q) b.val = some r ∧ r.excluded = e.excluded + 1 ∧
      r.codes = e.codes ++ [2] ∧ ((tget (if arm then r.arms else r.ports) q).getD {}).included = some false)) ∧
  (∀ (s : State) (p : TorusPort) (x : Cell) (u : State), x.type = 6 → Lands s p x u →
    let kind := fieldAt (payloadOf x) 0 1
    let out := fun (t : State) => Host.Outcome.next (ejected t p.val x)
    (∀ i ∈ [Instr.grantRelease p x, .grantDone p x, .grantResend p x], i = .grantDone p x ∨ s.upsets = [] →
      (kind = (match i with | .grantRelease _ _ => 3 | .grantDone _ _ => 4 | _ => 5) → grantee u p.val x = none →
        exec i s = out (bump u FAB_RED_STRAY_COUNT_COUNT 1))) ∧
    (∀ b e, grantee u p.val x = some (b, e) →
      (s.upsets = [] → kind = 3 → exec (.grantRelease p x) s = out (advance (withBucket u b (fun e => { e with go := true })) b)) ∧
      (kind = 4 → exec (.grantDone p x) s = out (if e.outcome.isSome then u else
        let st := if fieldAt (payloadOf x) 1 1 = 0x20 then 0x20 else 0
        retryMoves (endBucket (sendDone u b st) b st))) ∧
      (s.upsets = [] → kind = 5 → e.outcome = none → exec (.grantResend p x) s = out (advance (withBucket
        (e.kept.foldl (fun s k => resendKept s b e k) u) b (fun e => { e with go := true })) b)) ∧
      (s.upsets = [] → kind = 5 → e.outcome ≠ none → exec (.grantResend p x) s = out u)))

/-- R139 to R143. The model's choices: a member without a term sends the operation's identity (log 51); a slot is found by its job,
its operation number and its port (log 53). -/
def Obligations.CausewayOperationsFoldAndDeliver : Prop :=
  (∀ (s : State) (p : TorusPort) (x : Cell) (u : State), x.type = 7 → Lands s p x u →
    let out := exec (.causewayCell p x) s
    let fits := cwFind u x (fun g op => (groupUps u (groupDesc u g)).contains p.val && (tget op.arms p.val).isNone)
    let waits := cwFind u x (fun g op => groupDown u (groupDesc u g) == some p.val && op.sent)
    (x.seq = 0 → fits = none → out = .next (ejected u p.val x)) ∧
    (x.seq = 0 → ∀ g op, fits = some (g, op) → out = .next (ejected (cwGo (cwRun (withCw u g (fun q => { q with
      op := some { op with arms := tput op.arms p.val (payloadOf x) } })) g) g) p.val x)) ∧
    (x.seq ≠ 0 → waits = none → out = .next (ejected u p.val x)) ∧
    (x.seq ≠ 0 → ∀ g op, waits = some (g, op) → out = .next (ejected (cwGo (cwDeliver u g op (payloadOf x) false) g) p.val x))) ∧
  (∀ (s : State) (g : Nat) (q : CwSlot) (op : CwOp), cwAt s g = some q → q.op = some op →
    let d := groupDesc s g
    let ready := q.admitted = true ∧ op.cmd ≠ none ∧ op.sent = false ∧ (∀ a ∈ gPorts d, tget op.ports a ≠ none) ∧
      ∀ p ∈ groupUps s d, tget op.arms p ≠ none
    (¬ ready → cwRun s g = s) ∧
    (ready → ∀ p, groupDown s d = some p → ∃ v : CwAcc, cwRun s g = sendPort (withCw v.s g (fun q => { q with
        op := some { op with sent := true, nv := op.nv || v.nv } })) p (cwCell (fieldAt d 0 2) op.n false (v.term.getD (cwIdentity d))) ∧
      v = (chainsOf s d (ownCoord s)).foldl (cwChain g d (ctxIeee s (cwCtx s g)) op) (cwLocal s g d (ctxIeee s (cwCtx s g)) op)) ∧
    (ready → groupDown s d = none → ∃ v : CwAcc, cwRun s g = cwDeliver (withCw v.s g (fun q => { q with
        op := some { op with sent := true, nv := op.nv || v.nv } })) g op (v.term.getD (cwIdentity d)) v.nv)) ∧
  (∀ (d : List Byte) (ieee : Bool) (a b : Nat),
    (gCwOp d = 0 → cwElement d .fp32 ieee a b = fAdd .fp32 { ieee := ieee } a b) ∧
    (gCwOp d = 3 → (cwElement d .fp32 ieee a b).1 = a &&& b) ∧ (gCwOp d = 4 → (cwElement d .fp32 ieee a b).1 = a ||| b) ∧
    (gCwOp d = 5 → (cwElement d .fp32 ieee a b).1 = a ^^^ b)) ∧
  (∀ (n job g : Nat) (d : List Byte) (ieee left : Bool) (a : CwAcc) (x : List Byte),
    (a.term = none → cwJoin n job g d ieee left a x = { a with term := some x }) ∧
    (∀ t, a.term = some t → cwJoin n job g d ieee left a x =
      (let r := if left then cwCombine a.s n job g d ieee x t else cwCombine a.s n job g d ieee t x
       ⟨r.1, some r.2.1, a.nv || r.2.2⟩)))

/-- R188 to R190. The model's choices: plan cells are DATA_PARAM cells numbered on their own (log 59); an ACCEPT for a stream that is
gone is answered with ABORT (log 60). -/
def Obligations.FerryHopsFollowTheirExchange : Prop :=
  let op := fun (x : Cell) (type : BitVec 4) (code : Nat) => x.type = type ∧ x.echo = false ∧ fieldAt (payloadOf x) 0 1 = code
  (∀ (s : State) (p : TorusPort) (x : Cell) (u : State), Lands s p x u → op x 8 1 →
    let d := portDie p.val
    let out := exec (.ferryOpen p x) s
    let queued := (u.opens.filter (fun o => o.die == d)).length
    let busy : Cell := { type := 9, vc := 5, job := x.job, tag := x.tag, payload := natLe 1 0x82 ++ zeros 63 }
    (queued < 64 → out = .next (ejected { u with opens := u.opens ++ [⟨d, p.val, x.src.toNat, x.job, x.tag.toNat, openHead x⟩] } p.val x)) ∧
    (64 ≤ queued → busyWaiting u d < 64 → out = .next (ejected (bump (sendTo u (.busy d) x.src.toNat busy) FAB_FERRY_BUSY_COUNT_COUNT 1) p.val x)) ∧
    (64 ≤ queued → 64 ≤ busyWaiting u d → out = .next (holdCell u p.val x ejectQ x.dateline))) ∧
  (∀ (s : State) (d : Die) (n : Nat),
    let mine := s.opens.filter (fun o => o.die == d.val)
    (mine[n]? = none → exec (.streamSlotTaken d n) s = .next s) ∧
    (∀ o k c, mine[n]? = some o → 1 ≤ o.head.depth → o.head.depth ≤ 32 → freeSlot s d.val o.head.depth = some k →
      jobCtx s o.job.toNat = some c →
      let f : Ferry := { key := k, ctx := c, job := o.job, tag := o.tag, src := .parent o.parent o.port, head := o.head }
      exec (.streamSlotTaken d n) s = .next (sendJob (beginFerry { s with opens := s.opens.erase o } f) o.parent (ferryCell f false (natLe 1 0x81))) ∧
      ferryAt s k = none ∧ 128 * d.val + 4 * (o.head.depth - 1) ≤ k ∧ k < 128 * d.val + 4 * o.head.depth) ∧
    (∀ o, mine[n]? = some o → freeSlot s d.val o.head.depth = none → exec (.streamSlotTaken d n) s = .next s)) ∧
  (∀ (s : State) (p : TorusPort) (x : Cell) (u : State), Lands s p x u →
    let child := fun (ok : FerryChild → Bool) => fromChild u x ok
    let out := fun (t : State) => Host.Outcome.next (ejected t p.val x)
    let y := payloadOf x
    (op x 8 2 → exec (.ferryAbort p x) s = out (match fromParent u x with
      | some f => abortFerry u f.key
      | none => { u with opens := u.opens.filter (fun o => !(o.job == x.job && o.tag == x.tag.toNat && o.parent == x.src.toNat)) })) ∧
    (s.upsets = [] → op x 9 0x81 → child (fun c => childLive c && c.state != .accepted) = none → exec (.ferryAccept p x) s = out (pump (sendJob u x.src.toNat
      { type := 8, vc := 4, job := x.job, tag := x.tag, payload := natLe 1 2 ++ zeros 63 }))) ∧
    (∀ f c, s.upsets = [] → op x 9 0x81 → child (fun c => childLive c && c.state != .accepted) = some (f, c) → exec (.ferryAccept p x) s =
      out (pump (ferryRun (setChild u f.key c.idx (fun c => { c with state := .accepted })) f.key))) ∧
    (op x 9 0x82 → child (fun c => c.state == .opening) = none → exec (.ferryBusy p x) s = out u) ∧
    (∀ f c, op x 9 0x82 → child (fun c => c.state == .opening) = some (f, c) → exec (.ferryBusy p x) s =
      out (setChild u f.key c.idx (fun c => { c with state := .busy u.now }))) ∧
    (s.upsets = [] → child (fun c => c.state == .accepted) = none → (op x 9 0x83 → exec (.ferryWindow p x) s = out (pump u)) ∧
      (op x 9 0x84 → exec (.ferryFinished p x) s = out (pump u))) ∧
    (∀ f c, s.upsets = [] → child (fun c => c.state == .accepted) = some (f, c) →
      let rs := (List.range (min 14 (fieldAt y 1 1))).map (fun j => (fieldAt y (4 + 4 * j) 2 + c.idx - rangeBase f, fieldAt y (6 + 4 * j) 2))
      let v := withFerry u f.key (fun f => { f with unserved := f.unserved ++ rs })
      (op x 9 0x83 → exec (.ferryWindow p x) s =
        out (pump (ferryRun (setChild u f.key c.idx (fun c => { c with window := max c.window (fieldAt y 4 4) })) f.key))) ∧
      (op x 9 0x84 → exec (.ferryFinished p x) s = out (pump (if x.last then
        ferryRun (setChild v f.key c.idx (fun c => { c with state := .finished })) f.key else v)))) ∧
    (x.type = 3 → isPlanCell s x = false → exec (.dataParam p x) s = out (match fromParent u x with | some f => takeData u f x | none => u)) ∧
    (∀ f, x.type = 3 → isPlanCell s x = true → fromParent u x = some f →
      let es := ((List.range 8).map (fun i => (planEntry y i).1)).take (f.head.entries - f.plan.length)
      let v := withFerry u f.key (fun f => { f with plan := f.plan ++ es })
      f.plan ≠ [] → exec (.planCell p x) s = out (ferryRun (openChildren v f.key) f.key)) ∧
    (∀ f, x.type = 3 → isPlanCell s x = true → fromParent u x = some f → f.plan = [] →
      ∃ v, exec (.planCell p x) s = out (ferryRun (openChildren v f.key) f.key) ∧
        v.ferries = u.ferries.map (fun g => if g.key == f.key then
          { g with plan := g.plan ++ ((List.range 8).map (fun i => (planEntry y i).1)).take f.head.entries } else g))) ∧
  (∀ (s : State) (k : Nat) (f : Ferry),
    (ferryAt s k = none → exec (.ferryBusyRetry k) s = .next s) ∧
    (∀ c t, ferryAt s k = some f → f.children = [c] → c.state = .busy t → t + (rd s FAB_FERRY_BUSY_RETRY).toNat ≤ s.now →
      exec (.ferryBusyRetry k) s = .next (sendJob (setChild s k c.idx (fun c => { c with state := .opening })) c.coord (ferryCell f true (openPayload f c)))) ∧
    (ferryAt s k = some f → (∀ c ∈ f.children, ∀ t, c.state = .busy t → s.now < t + (rd s FAB_FERRY_BUSY_RETRY).toNat) →
      exec (.ferryBusyRetry k) s = .next s))

/-- R197 to R199. The model's choices: a stream's length is checked by its number of cells, and the status of COMPLETE is its byte 1
(log 64); the codes of a source that can no longer be read (log 65). -/
def Obligations.PermutesExchangeAndComplete : Prop :=
  (∀ (s : State) (p : TorusPort) (x : Cell) (u : State), Lands s p x u →
    let m := permAt u x.job x.tag.toNat
    let out := fun (t : State) => Host.Outcome.next (ejected t p.val x)
    (isOp x 9 0x85 = true → (m = none → exec (.permuteReady p x) s =
        out { u with readies := u.readies ++ [(x.job, x.tag.toNat, x.src.toNat)] }) ∧
      (∀ r, m = some r → exec (.permuteReady p x) s = out (permReady u r x.src.toNat))) ∧
    (isOp x 9 0x86 = true → (m = none → exec (.permuteComplete p x) s = out u) ∧
      (∀ r, m = some r → exec (.permuteComplete p x) s = out (permGo (withPerm u r (fun y => setPeer y x.src.toNat (fun q =>
        { q with complete := some (fieldAt (payloadOf x) 1 1) }))) r))) ∧
    (x.type = 0xD → (m = none → exec (.permuteCell p x) s = out u) ∧
      (∀ r, m = some r → r.peers.find? (fun q => q.coord == x.src.toNat && !q.ended) = none → exec (.permuteCell p x) s = out u) ∧
      (∀ r q, m = some r → r.peers.find? (fun q => q.coord == x.src.toNat && !q.ended) = some q →
        exec (.permuteCell p x) s = out (takeElems u r q x)))) ∧
  (∀ (s : State) (m : Perm) (c : Nat),
    (m.peers.find? (fun p => p.coord == c && !p.ready) = none → permReady s m c = s) ∧
    (∀ q st, m.peers.find? (fun p => p.coord == c && !p.ready) = some q → gatherFault s m q.sends = some st → permReady s m c = endPerm s m st) ∧
    (∀ q, m.peers.find? (fun p => p.coord == c && !p.ready) = some q → gatherFault s m q.sends = none → permReady s m c =
      permGo (withPerm (sendElems s m q) m (fun x => setPeer x c (fun p => { p with ready := true }))) m)) ∧
  (∀ (s : State) (m : Perm) (q : PermPeer) (x : Cell),
    let per := permPer m
    let first := per * q.gotCells
    let k := min per (q.recvs.length - first)
    let wrong := (x.last = true ∧ q.gotCells + 1 ≠ permCells m q.recvs.length) ∨ permCells m q.recvs.length < q.gotCells + 1
    ∃ (v : State) (failed : Bool), takeElems s m q x = permGo (withPerm v m (fun y => setPeer y q.coord (fun q => { q with
        gotCells := q.gotCells + 1, ended := x.last, failed := failed || q.failed }))) m ∧ (failed = true ↔ wrong) ∧ v.permutes = s.permutes ∧
      (∀ r a, (∀ i, i < k * m.width → a ≠ stagingAt m (recvBase m q.coord + first) + i) → byteAt v.mem r a = byteAt s.mem r a)) ∧
  (∀ (s : State) (m : Perm), permAt s m.job m.tag = some m →
    let others := permOthers s m
    let due := m.completeSent = false ∧ ∀ p ∈ others, p.ready = true ∧ p.ended = true
    let all := ∀ p ∈ others, p.complete ≠ none
    let bad := permFailed m = true ∨ ∃ p ∈ others, p.complete = some 0x10
    let stored := fun (t : State) => match stagingFault t m with | some st => endPerm t m st | none => endPerm (writeDst t m) m 0
    (m.completeSent = false → ¬ due → permGo s m = s) ∧
    (let told := others.foldl (fun s p => sendJob s p.coord (permRsp m 0x86 (if permFailed m = true then 0x10 else 0))) s
     let w := withPerm told m (fun x => { x with completeSent := true })
     due → (¬ all → permGo s m = w) ∧ (all → bad → permGo s m = endPerm w m 0x10) ∧ (all → ¬ bad → permGo s m = stored w)) ∧
    (m.completeSent = true → ¬ all → permGo s m = s) ∧
    (m.completeSent = true → all → bad → permGo s m = endPerm s m 0x10) ∧
    (m.completeSent = true → all → ¬ bad → permGo s m = stored s)) ∧
  (∀ (s : State) (m : Perm) (st : Nat), ∃ u, endPerm s m st = endCmd u m.cmd.1 m.cmd.2 st ∧ permAt u m.job m.tag = none ∧ u.mem = s.mem ∧
    getF u FAB_PERMUTE_FAIL_COUNT_COUNT = (if st = 0x10 ∨ st = 0x30 then min (2 ^ 32 - 1) (getF s FAB_PERMUTE_FAIL_COUNT_COUNT + 1)
      else getF s FAB_PERMUTE_FAIL_COUNT_COUNT))

/-- R154 to R176. The model's choice: an update that ends INCONSISTENT counts in LAYER_ABANDON_COUNT (log 142). -/
def Obligations.LayersAreStagedAppliedAndCommitted : Prop :=
  (∀ (s : State) (l : LayerNum) (x : Layer), s.upsets = [] → tget s.layers l.val = some x →
    let d := x.desc
    let lead := leadCay s d
    let late := flag s (LAYER_JNL_A_LATE l.val) = true
    let ready := layerComplete x = true ∧ (∀ b ∈ x.staged, b.spill = none) ∧ x.present = true ∧ x.upd = none ∧ x.posted = false ∧
      jCommitted s l.val = true ∧ (jTide s l.val + 1) % 2 ^ 32 = ctxTide s x.ctx ∧ cayUp s lead = true
    (¬ ready → exec (.updateStart l) s = .next s) ∧
    (ready → x.bad ≠ 0 → exec (.updateStart l) s = .next (abandon (if late then bump s LAYER_LATE_COUNT_COUNT 1 else s) l.val 0x50)) ∧
    (ready → x.bad = 0 → tget s.slots (ldProgram d) = none → exec (.updateStart l) s = .next s) ∧
    (ready → x.bad = 0 → ∀ p, tget s.slots (ldProgram d) = some p → ∃ u, jPhase u l.val = 1 ∧ jTide u l.val = ctxTide s x.ctx ∧
      tget u.layers l.val = some { x with upd := some { image := p.image, const := p.const, lead := lead } } ∧
      getF u LAYER_LATE_COUNT_COUNT = (if late then min (2 ^ 32 - 1) (getF s LAYER_LATE_COUNT_COUNT + 1) else getF s LAYER_LATE_COUNT_COUNT) ∧
      exec (.updateStart l) s = .next (pump (tryStatistics u l.val))) ∧
    tryStatistics s l.val = (match (if x.scratch.isNone then some 0x31 else rangeFault s x
        [(accAddr d 0, 48 * statCount d), (weightBase x + statOff d (jCur s l.val), 4 * statCount d)]) with
      | some st => failUpdate s l.val st | none => statistics s l.val)) ∧
  (∀ (s : State) (l : LayerNum) (t : Nat) (x : Layer) (v : UpdateSt), s.upsets = [] → tget s.layers l.val = some x → x.upd = some v →
    let k := v.tasks.find? (fun k => k.t == t && k.done)
    let fault := rangeFault s x (applyRanges s l.val x (v.pass == 2) t)
    (k = none → exec (.taskApply l t) s = .next s) ∧
    (∀ st, k ≠ none → fault = some st → exec (.taskApply l t) s = .next (failUpdate s l.val st)) ∧
    (k ≠ none → fault = none → ∃ u y w, exec (.taskApply l t) s = .next (pump (movePhase u l.val)) ∧ tget u.layers l.val = some y ∧ y.upd = some w ∧
      y.done1 = x.done1 + (if v.pass = 1 then 1 else 0) ∧ y.done2 = x.done2 + (if v.pass = 1 then 0 else 1) ∧
      w.tasks = v.tasks.filter (fun k => k.t != t) ∧ w.pass = v.pass ∧ jPhase u l.val = jPhase s l.val ∧
      bit (byteAt u.mem 0 (bitmapAddr x.desc v.pass + t / 8)).toNat (t % 8) = true)) ∧
  (∀ (s : State) (l : LayerNum) (x : Layer), tget s.layers l.val = some x →
    let t := movePhase s l.val
    (jPhase s l.val = 1 → x.done1 = tasks x.desc → jPhase t l.val = 2 ∧ jTide t l.val = jTide s l.val ∧
      tget t.layers l.val = some { x with upd := x.upd.map (fun u => { u with pass := 2, tasks := [] }) }) ∧
    (∀ st, jPhase s l.val = 2 → x.done2 = tasks x.desc → rangeFault s x (normRanges x.desc) = some st → t = failUpdate s l.val st) ∧
    (jPhase s l.val = 2 → x.done2 = tasks x.desc → rangeFault s x (normRanges x.desc) = none → jPhase t l.val = 0 ∧ jTide t l.val = jTide s l.val ∧ jCur t l.val = 1 - jCur s l.val ∧
      ∃ y, tget t.layers l.val = some y ∧ y.posted = true ∧ y.upd = none ∧ y.staged = [] ∧ y.done1 = 0 ∧ y.done2 = 0) ∧
    (¬ (jPhase s l.val = 1 ∧ x.done1 = tasks x.desc) → ¬ (jPhase s l.val = 2 ∧ x.done2 = tasks x.desc) → t = s)) ∧
  (∀ (s : State) (l : LayerNum) (x : Layer) (v : UpdateSt), s.upsets = [] → tget s.layers l.val = some x → x.upd = some v →
    let runs := jPhase s l.val = 2 ∧ jBroken s l.val = false ∧ flag s (LAYER_JNL_A_ORTHO_DONE l.val) = false ∧ hasMatrix x.desc = true ∧
      cayUp s (leadCay s x.desc) = true
    let fault := rangeFault s x (x.staged.map (fun b => (b.addr, 4 * b.n)))
    (¬ runs → exec (.matrixPhaseDone l) s = .next s) ∧ (∀ st, runs → fault = some st → exec (.matrixPhaseDone l) s = .next (failUpdate s l.val st)) ∧
    (runs → fault = none → ∃ u, exec (.matrixPhaseDone l) s = .next (pump u) ∧ flag u (LAYER_JNL_A_ORTHO_DONE l.val) = true ∧ jPhase u l.val = 2)) ∧
  (∀ (s : State) (l : LayerNum) (x : Layer) (st : Nat), tget s.layers l.val = some x →
    let t := abandon s l.val st
    let w := breakLayer s l.val st
    let more := min (2 ^ 32 - 1) (getF s LAYER_ABANDON_COUNT_COUNT + 1)
    (jPhase t l.val = 0 ∧ jTide t l.val = ctxTide s x.ctx ∧ jCur t l.val = jCur s l.val ∧ getF t LAYER_ABANDON_COUNT_COUNT = more ∧
      ∃ y, tget t.layers l.val = some y ∧ y.staged = [] ∧ y.halted = none ∧ y.upd = none ∧ y.posted = true) ∧
    (jBroken w l.val = true ∧ jPhase w l.val = jPhase s l.val ∧ getF w LAYER_ABANDON_COUNT_COUNT = more) ∧
    (jPhase s l.val = 1 ∨ (jPhase s l.val = 2 ∧ x.done2 = 0) → stopUpdate s l.val st = t) ∧
    (jPhase s l.val = 2 → x.done2 ≠ 0 → jBroken s l.val = false → stopUpdate s l.val st = w)) ∧
  (∀ (s : State) (l : LayerNum) (x : Layer), s.upsets = [] → tget s.layers l.val = some x →
    let late := ∃ t, x.completeAt = some t ∧ t + (rd s LAYER_STATE_TIMEOUT).toNat ≤ s.now ∧ layerComplete x = true ∧ x.present = false ∧ x.posted = false
    let fetched := x.cache ≠ none ∧ moveRuns s (.layerPrefetch l.val) = true ∧ hostReach s x.ctx (ldHost x.desc) = true
    let written := x.backing = true ∧ x.backSent = true ∧ (∀ r ∈ x.backs, hostReach s x.ctx r.1 = true) ∧ moveRuns s (.layerWriteback l.val) = true
    (late → exec (.layerStateTimeout l) s = .next (abandon s l.val 0x60)) ∧ (¬ late → exec (.layerStateTimeout l) s = .next s) ∧
    (¬ fetched → exec (.layerStatePresent l) s = .next s) ∧
    (fetched → ∃ t y, exec (.layerStatePresent l) s = .next (x.staged.foldl (fun s b => convertSpill s l.val b) t) ∧ tget t.layers l.val = some y ∧
      y.present = true ∧ y.fetching = false ∧ y.staged = x.staged) ∧
    (¬ written → exec (.layerWritebackDone l) s = .next s) ∧
    (written → exec (.layerWritebackDone l) s = .next (retryFetches (nextMoves (withLayer s l.val (fun y => { y with backing := false, backSent := false, backs := [], cache := none }))
      (.layerWriteback l.val)) x.ctx))) ∧
  (∀ (s : State) (l : LayerNum), s.upsets = [] → tget s.layers l.val = none → ∀ i ∈ [Instr.updateStart l, .matrixPhaseDone l, .layerStateTimeout l, .layerStatePresent l,
    .layerWritebackDone l], exec i s = .next s)

/-- R385, R386, R419, R421. A signature is verified by `pssVerify` over the modulus of the peer's certificate. The model's choices: the
certificates a peer presents are `Config.peerChain` of its serial (log 103); the owner of a DOWN link starts its own exchange at a
CHALLENGE, and messages wait in the memory of the ingress port's die (log 104). -/
def Obligations.OnlyAVerifiedIdentityClearsAFence : Prop :=
  (∀ (s : State) (p : TorusPort) (x : Cell) (u : State), x.type = 0xC → Lands s p x u →
    let a := joinAssembly p.val x u.now (u.assemblies.find? (ofAssembly p.val x))
    let rest := u.assemblies.filter (fun a => !ofAssembly p.val x a)
    (256 ≤ mgmtHeld u (portDie p.val) → exec (.mgmtCell p x) s = .next (ejected (bump u FAB_MGMT_DROP_COUNT 1) p.val x)) ∧
    (mgmtHeld u (portDie p.val) < 256 → exec (.mgmtCell p x) s = .next (ejected { u with
      assemblies := if asmWhole a = true ∧ asmKnown a = false then rest else rest ++ [a] } p.val x)) ∧
    (∀ o : Assembly, (joinAssembly p.val x u.now (some o)).first = o.first ∧
      tget (joinAssembly p.val x u.now (some o)).parts x.seq.toNat = some (payloadOf x)) ∧
    (joinAssembly p.val x u.now none).first = u.now) ∧
  (∀ (s : State) (src : Coord) (tag : BitVec 16),
    let old := fun a : Assembly => a.src = src.toNat ∧ a.tag = tag.toNat ∧ asmWhole a = false ∧ a.first + 156250 ≤ s.now
    ∃ t, exec (.mgmtAssemblyTimeout src tag) s = .next t ∧ t = { s with assemblies := t.assemblies } ∧
      ∀ a, a ∈ t.assemblies ↔ a ∈ s.assemblies ∧ ¬ old a) ∧
  (∀ (s : State) (p : TorusPort) (src : Coord) (tag : BitVec 16),
    (wholeMsg s p.val src tag 1 = none → exec (.challenge p src tag) s = .next s) ∧
    (wholeMsg s p.val src tag 16 = none → exec (.identity p src tag) s = .next s) ∧
    (∀ a, wholeMsg s p.val src tag 1 = some a → exec (.challenge p src tag) s =
      .next (answerChallenge { s with assemblies := s.assemblies.filter (fun y => y != a) } a)) ∧
    (∀ a, wholeMsg s p.val src tag 16 = some a →
      let v := { s with assemblies := s.assemblies.filter (fun y => y != a) }
      (a.near = false → exec (.identity p src tag) s = .next v) ∧
      (a.near = true → (beaconAt s p.val).exchange = none → exec (.identity p src tag) s = .next v) ∧
      (∀ e, a.near = true → (beaconAt s p.val).exchange = some e →
        let b := asmBytes a
        let good := (∃ n, deviceKey (fieldAt b 8 8) (Config.peerChain (fieldAt b 8 8)) = some n ∧ pssVerify n (slice b 0 0x200) (slice b 0x200 512) = true) ∧
          fieldAt b 8 8 = rd64 s (LANE_PEER_SERIAL_LO p.val) ∧ fieldAt b 8 8 = Config.boundSerial (peerCoord s p.val) ∧ slice b 0x10 32 = e.nonce
        (e.tag ≠ tag.toNat → exec (.identity p src tag) s = .next v) ∧
        (e.tag = tag.toNat → good → exec (.identity p src tag) s =
          .next (clearFence (withBeacon v p.val (fun x => { x with run := 0, exchange := none })) p.val)) ∧
        (e.tag = tag.toNat → ¬ good → exec (.identity p src tag) s = .next (failExchange v p.val))))) ∧
  (∀ (s : State) (a : Assembly),
    let rq := requesterOf a
    let nonce := challengeNonce (asmBytes a)
    let told := match s.reports.find? (fun r => r.1 == rq && r.2.1 == a.tag && slice r.2.2 0x10 32 == nonce) with
      | some r => sendMgmt s a.port rq a.tag r.2.2
      | none => if s.signs.any (fun x => x.1 == SignFor.peer a.port rq a.tag && slice x.2 0x10 32 == nonce) then s
        else askSign s (.peer a.port rq a.tag) nonce
    answerChallenge s a = (if a.near = true ∧ ownsDownLink told a.port = true ∧ (beaconAt told a.port).exchange = none then
      startExchange told a.port else told)) ∧
  (∀ (serial : Nat) (chain : List Cert) (n : List Byte), deviceKey serial chain = some n ↔ ∃ own root, chain.head? = some own ∧
    chain.getLast? = some root ∧ own.subject = serialText serial ∧ chainSigned chain = true ∧ root.der = Config.kearolysRoot ∧ n = own.modulus) ∧
  (∀ (s : State) (p : Nat),
    let t := startExchange s p
    (∃ e, (beaconAt t p).exchange = some e ∧ e.nonce = drawNonce s.free ∧ e.start = s.now ∧ e.sends = 1) ∧ t.free = s.free + 1 ∧
    (fenced s (peerCoord s p) = true → clearFence s p = originate s (peerCoord s p) bitFenced false causeReadmit) ∧
    (fenced s (peerCoord s p) = false → portPlus p = true → linkDown s (ownCoord s) (portAxis p) true = true →
      clearFence s p = originate s (ownCoord s) (bitDown (portAxis p)) false causeReadmit) ∧
    (fenced s (peerCoord s p) = false → portPlus p = false → clearFence s p = s) ∧
    (let f := failExchange s p
     (beaconAt f p).exchange = none ∧ (beaconAt f p).run = 0 ∧
     getF f HEALTH_READMIT_FAIL_COUNT_COUNT = min (2 ^ 32 - 1) (getF s HEALTH_READMIT_FAIL_COUNT_COUNT + 1))) ∧
  (∀ (s : State) (p : TorusPort),
    let x := (beaconAt s p.val).exchange
    (x = none → exec (.challengeResend p) s = .next s ∧ exec (.readmitTimeout p) s = .next s) ∧
    (∀ e, x = some e →
      (5 ≤ e.sends ∨ s.now < e.lastSend + 1875000 → exec (.challengeResend p) s = .next s) ∧
      (identityHeld s p.val e.tag = true → exec (.challengeResend p) s = .next s) ∧
      (identityHeld s p.val e.tag = false → e.sends < 5 → e.lastSend + 1875000 ≤ s.now → exec (.challengeResend p) s = .next (sendMgmt (withBeacon s p.val (fun b => { b with
        exchange := some { e with sends := e.sends + 1, lastSend := s.now } })) p.val (0x8000 + p.val) e.tag (challengeBytes e.nonce))) ∧
      (s.now < e.start + 7812500 → exec (.readmitTimeout p) s = .next s) ∧
      (e.start + 7812500 ≤ s.now → exec (.readmitTimeout p) s = .next (failExchange s p.val))))

/-- R281, R363 to R366, R408, R440. The model's choices: HOST_LINK_UP acts from INIT on, and a register of a port that is down reads 0
(log 30); the form of the configuration writes (log 128). -/
def Obligations.HostPortsStopQueuesAndKeepContexts : Prop :=
  let kept := fun (s t : State) => ∀ c, c < 64 → ctxState t c = ctxState s c ∧ ctxJob t c = ctxJob s c
  (∀ (s : State) (h : HostPort), ∀ i ∈ [Instr.hostLinkDown h, .perst h],
    (flag s (HOSTIF_PORT_UP h.val) = false → exec i s = .next s) ∧
    (flag s (HOSTIF_PORT_UP h.val) = true → ∃ t, exec i s = .next t ∧ rd t (HOSTIF_PORT h.val) = 0 ∧
      getF t (HOSTIF_LOSS_COUNT_COUNT h.val) = min (fldMax (HOSTIF_LOSS_COUNT_COUNT h.val)) (getF s (HOSTIF_LOSS_COUNT_COUNT h.val) + 1) ∧
      (∀ x, x ∈ t.bme ↔ x ∈ s.bme ∧ x.1 ≠ h.val) ∧ kept s t ∧ t.mem = s.mem ∧
      (∀ c q, c < 64 → q < 16 → ctxLive s c = true → ctxHost s c = h.val → queOn s (qkey c q) = true →
        flag t (QUE_ERR_HOST_DOWN (qkey c q)) = true ∧ flag t (CTX_EVENT_QUEUE_ERROR c) = true))) ∧
  (∀ (s : State) (h : HostPort) (gen : BitVec 3) (width : BitVec 4),
    let ok := 2 ≤ getF s TRUST_STATE_STATE ∧ flag s (HOSTIF_PORT_UP h.val) = false ∧ 1 ≤ gen.toNat ∧ gen.toNat ≤ 5 ∧ width.toNat ≤ 4
    (¬ ok → exec (.hostLinkUp h gen width) s = .next s) ∧
    (ok → ∃ t, exec (.hostLinkUp h gen width) s = .next t ∧ flag t (HOSTIF_PORT_UP h.val) = true ∧
      rd t (HOSTIF_PORT h.val) = BitVec.ofNat 32 (1 + 2 * gen.toNat + 16 * width.toNat) ∧ RegsBut s t [HOSTIF_PORT h.val] ∧
      t.bme = s.bme ∧ t.out.head? = some (.reportHost h.val width.toNat gen.toNat))) ∧
  (∀ (s : State) (h : HostPort) (n : VfNum),
    (flag s (HOSTIF_PORT_UP h.val) = false → exec (.vfFlr h n) s = .next s ∧ exec (.pfFlr h) s = .next s) ∧
    (flag s (HOSTIF_PORT_UP h.val) = true → ∃ t, exec (.vfFlr h n) s = .next t ∧ kept s t ∧ t.mem = s.mem ∧
      (∀ x, x ∈ t.bme ↔ x ∈ s.bme ∧ x ≠ (h.val, n.val + 1)) ∧
      (∀ c q, c < 64 → q < 16 → ctxLive s c = true → ctxHost s c = h.val → ctxVf s c = n.val + 1 →
        queOn t (qkey c q) = false ∧ flag t (QUE_ERR_HOST_DOWN (qkey c q)) = true)) ∧
    (flag s (HOSTIF_PORT_UP h.val) = true → ∃ t, exec (.pfFlr h) s = .next t ∧ kept s t ∧ t.mem = s.mem ∧
      (∀ x, x ∈ t.bme ↔ x ∈ s.bme ∧ ¬ (x.1 = h.val ∧ x.2 ≤ 32)) ∧
      (∀ c q, c < 64 → q < 16 → ctxLive s c = true → ctxHost s c = h.val → 1 ≤ ctxVf s c → ctxVf s c ≤ 32 →
        queOn t (qkey c q) = false ∧ flag t (QUE_ERR_HOST_DOWN (qkey c q)) = true))) ∧
  (∀ (s : State) (h : HostPort) (fn : Nat) (w : Option CfgWrite),
    let out := exec (.configRequest h fn w) s
    let up := flag s (HOSTIF_PORT_UP h.val) = true
    let there := fn = 0 ∨ fn ≤ (pcieAt s h.val 0).vfs
    (32 < fn → out = .next s) ∧
    (getF s TRUST_STATE_STATE < 3 → (fn = 0 ∧ powered s = true → out = .next (emit s (.configReply h.val fn true))) ∧
      (fn ≠ 0 ∨ powered s = false → out = .next s)) ∧
    (¬ up → 3 ≤ getF s TRUST_STATE_STATE → out = .next s) ∧
    (up → fn ≤ 32 → 3 ≤ getF s TRUST_STATE_STATE → ¬ there → out = .next s) ∧
    (up → fn ≤ 32 → 3 ≤ getF s TRUST_STATE_STATE → there → ∃ t, out = .next (emit t (.configReply h.val fn false)) ∧
      (w = none → t = s) ∧
      (∀ v, w = some (.bme v) → ((h.val, fn) ∈ t.bme ↔ v = true) ∧ ∀ x, x ≠ (h.val, fn) → (x ∈ t.bme ↔ x ∈ s.bme)) ∧
      (∀ on n, w = some (.sriov on n) → (fn ≠ 0 → t = s) ∧
        (fn = 0 → (pcieAt t h.val 0).vfs = (if on then n.val else 0) ∧
          ∀ x, x ∈ t.bme ↔ x ∈ s.bme ∧ ¬ (x.1 = h.val ∧ (if on then n.val else 0) < x.2))) ∧
      (∀ on mask, w = some (.msix on mask) → (pcieAt t h.val fn).msixOn = on ∧ (pcieAt t h.val fn).fnMask = mask) ∧
      (∀ v mask, w = some (.vector v mask) → fn ≠ 0 ∨ v.val < 8 → (v.val ∈ (pcieAt t h.val fn).unmasked ↔ mask = false)) ∧
      (∀ d3, w = some (.power d3) → (pcieAt t h.val fn).d3hot = d3) ∧
      (∀ p r, w = some (.limits p r) → (pcieAt t h.val fn).payload = p.val ∧ (pcieAt t h.val fn).request = r.val) ∧
      (∀ b, w = some (.tags b) → (pcieAt t h.val fn).tenBit = b) ∧
      (∀ g c, w = some (.ecrc g c) → (pcieAt t h.val fn).ecrcGen = g ∧ (pcieAt t h.val fn).ecrcCheck = c) ∧
      (∀ r, w = some (.timeout r) → (pcieAt t h.val fn).timeout = some r.val)))

/-- R422, R423. The model's choices: what a handshake shows are operands of the command (log 5); the flash counts each write of the
area (log 18); the replies to a malformed ATTEST and to an IMAGE that is too long, and results 4 and 6 of an update (log 33);
handshakes only in READY, the reports that wait signed first (log 34). -/
def Obligations.SessionsActForTheOwnersManager : Prop :=
  (∀ (s : State) (m : Nat) (t : TlsOffer),
    let may := m ∉ s.sessions ∧ getF s TRUST_STATE_STATE = 3 ∧ s.power.refLost = false
    let good := t.tls13 = true ∧ t.suiteOk = true ∧ t.groupOk = true ∧ t.schemeOk = true ∧ s.rpa.ownerSet = true ∧ chainSigned t.chain = true ∧
      ∃ own root, t.chain.head? = some own ∧ t.chain.getLast? = some root ∧ sha512 root.der = s.rpa.ownerDigest ∧
        pssVerify own.modulus (verifyContent false t.clientHash) t.verify = true
    let d := (List.range s.signs.length).foldl (fun s _ => signNext s) s
    let u := { d with sessions := d.sessions ++ [m] }
    (¬ may → exec (.tlsHandshake m t) s = .next s) ∧
    (may → good → exec (.tlsHandshake m t) s = .next (emit { emit u (.certVerify m (ownCerts s) (identitySign u (verifyContent true t.serverHash))) with
      free := d.free + 1 } (.session m true))) ∧
    (may → ¬ good → exec (.tlsHandshake m t) s = .next (emit s (.session m false)))) ∧
  (∀ (a b : Cert) (l : List Cert), chainSigned [a] = true ∧
    (chainSigned (a :: b :: l) = true ↔ pssVerify b.modulus a.signed a.signature = true ∧ chainSigned (b :: l) = true)) ∧
  (∀ (s : State) (m : Nat), m ∉ s.sessions → ∀ ws offs ch off data len ok, ∀ i ∈ [Instr.regWrite m ws, .regRead m offs, .attest m ch, .imageData m off data,
    .imageEnd m len ok, .releaseOwner m, .mgmtSessionClose m], exec i s = .next s) ∧
  (∀ (s : State) (m : Nat), m ∈ s.sessions →
    (∀ ws, exec (.regWrite m ws) s = .next (let t := ws.foldl (sessionWrite m) s
      if m ∈ t.sessions then reply t m 0x90 [] else t)) ∧
    (∀ offs, exec (.regRead m offs) s = .next (reply (sessionReads m offs s).1 m 0x91 (sessionReads m offs s).2)) ∧
    (∀ ch, exec (.attest m ch) s = .next (if challengeOk ch = true ∧ ch.length = 48 then
      askSign { s with replies := s.replies ++ [(m, none)] } (.session m) (challengeNonce ch) else reply s m 0x92 [])) ∧
    (∀ off data, exec (.imageData m off data) s = .next (if 16384 < data.length then reply s m 0x93 []
      else reply { s with image := s.image ++ [(m, off.toNat, data)] } m 0x93 [])) ∧
    (∀ (len : Word) (ok : Bool),
      let u := imageUpdate s m len.toNat ok
      exec (.imageEnd m len ok) s = .next (reply { u.1 with image := u.1.image.filter (fun x => x.1 != m) } m 0x94 (natLe 1 u.2)) ∧
      (getF s TRUST_UPDATE_STATUS_STATE = 1 → u = (s, 6)) ∧
      (getF s TRUST_UPDATE_STATUS_STATE ≠ 1 → 0x1000000 < len.toNat ∨ imageOf s m len.toNat = none → u = (s, 4))) ∧
    (∀ kind body, (∀ x ∈ s.replies, x.1 ≠ m) → reply s m kind body =
      emit s (.mgmtReply m (natLe 1 kind ++ [0] ++ natLe 2 body.length ++ body))) ∧
    (∃ t, exec (.releaseOwner m) s = .next (reply t m 0x95 []) ∧ m ∈ t.releases ∧ t.rpa = s.rpa) ∧
    (∃ t, exec (.mgmtSessionClose m) s = .next t ∧ m ∉ t.sessions ∧ m ∉ t.releases ∧ (∀ n, n ≠ m → (n ∈ t.sessions ↔ n ∈ s.sessions)) ∧
      (∀ x ∈ t.image, x.1 ≠ m) ∧ (∀ x ∈ t.replies, x.1 ≠ m) ∧ (∀ x ∈ t.shadows, x.1 ≠ .mgmt m) ∧
      (m ∈ s.releases → s.power.low54 = true → t.rpa = s.rpa) ∧
      (m ∈ s.releases → s.power.low54 = false → t.rpa = { s.rpa with ownerSet := false, writes := s.rpa.writes + 1 } ∧ flag t TRUST_STATE_OWNER_SET = false) ∧
      (m ∉ s.releases → t.rpa = s.rpa ∧ ∀ off, rd t off = rd s off))) ∧
  (∀ (s : State) (m : Nat) (o : Word) (os : List Word) (x : Word × Word),
    sessionReads m [] s = (s, []) ∧
    (sessionReads m (o :: os) s).2 = natLe 4 (sessionRead m s o).2.toNat ++ (sessionReads m os (sessionRead m s o).1).2 ∧
    (x.1.toNat % 4 = 0 → sessionWrite m s x = writeWord (.mgmt m) x.1.toNat x.2 s) ∧
    (x.1.toNat % 4 ≠ 0 → sessionWrite m s x = idlePart s (.mgmt m) x.1.toNat) ∧ (o.toNat % 4 ≠ 0 → (sessionRead m s o).2 = 0))

/-- The step of a block: the front command with the queue's rest (the model's choice, logs 1 and 2), the tick of R9 and R435. -/
def Obligations.StepRunsTheFrontCommand : Prop :=
  (∀ (s : State) (c : Instr) (rest : List Instr), s.pending = c :: rest → step s = exec c { s with pending := rest }) ∧
  (∀ s : State, s.pending = [] →
    (s.power.refLost = false → step s = .next (moveStreams (meetError (strike { s with now := s.now + 1, free := s.free + 1 }
      (Config.upset s.free)) (Config.memError s.free)))) ∧
    (s.power.refLost = true → step s = .next s)) ∧
  (∀ s : State, strike s none = s ∧ meetError s none = s ∧ ((∀ p ∈ s.cays, p.2.call = none) → moveStreams s = s) ∧
    ∀ n k : Nat, ∃ x, strike s (some (n, k)) = { s with upsets := x } ∧
      ∀ m : Nat, tget x m = tget s.upsets m ∨ (m = n ∧ m < 128 ∧ (tget x m).isSome = true))

/-- The reset column of the register tables. The model's choices: the code of STRAP_VCORE taken for fitted, and VMIN 0 until a record
is found, where the table says 'From the record' (log 15); the module's own memory reads zero (log 8). -/
def Obligations.ResetLeavesTheTablesValues : Prop :=
  let r := State.reset
  (∀ x ∈ [(FAB_RED_ADMIT_TIMEOUT, 156250), (LAYER_STATE_TIMEOUT, 1562500), (FAB_FERRY_BUSY_RETRY, 625), (FAB_AGE_THRESH, 65536),
      (POOL_FREE_A, 440576), (POOL_FREE_B, 440576), (CAY_KLIMIT 0, 16777216), (CAY_KLIMIT 127, 16777216), (LANE_RETRY_TIMEOUT 5, 64),
      (ACC_RTO 15, 625), (ACC_MEM_TIMEOUT, 156250), (QUE_COMPAT_HOLD 1023, 4375), (HEALTH_WATCHDOG, 16384), (HEALTH_LEVEL, 3), (POWER_CAP, 1600),
      (GLOBAL_COORD, 0), (GLOBAL_TORUS_DIM, 0), (TRUST_STATE, 0), (POWER_EVENT, 0)], (rd r x.1).toNat = x.2) ∧
  (∀ k, k < 128 → flag r (FAB_RED_CAY_MAP_VALID k) = true) ∧
  (∀ d, d < 2 → vtarget r d = 800 ∧ bits (rd r (vcoreReg d)).toNat 9 0 = 800 ∧ vmin r d = 0) ∧
  flag r (HOSTIF_PORT_UP 0) = false ∧ flag r (HOSTIF_PORT_UP 1) = false ∧ (∀ p, p < 6 → portUp r p = false) ∧
  (∀ c, c < 64 → ctxState r c = 0) ∧ r.pending = [] ∧ r.now = 0 ∧ r.out = [] ∧ r.cells = [] ∧ r.queues = [] ∧ r.groups = [] ∧ r.buckets = [] ∧
  r.layers = [] ∧ r.ferries = [] ∧ r.sessions = [] ∧ r.mem = [] ∧ memWf r.mem = true ∧ (∀ k a, a < hostBase → byteAt r.mem k a = 0)

/-- R36, R49, R50, R54, R59: a value is an exact number `m × 2^e`; `none` is the invalid element. -/
def Obligations.BlocksHaveTheValuesOfTheirCodes : Prop :=
  (∀ (codes : List Byte) (scale : Byte), codes.length = 32 → (g8Values codes scale).length = 32 ∧
    ∀ (i : Nat) (q : Byte), codes[i]? = some q → (g8Values codes scale)[i]? = some (if scale = 0xFF ∨ q.toInt = -128 then none
      else some ⟨q.toInt, (scale.toNat : Int) - 127⟩) ∧
      (q = 0 → scale ≠ 0xFF → ∃ v : Dy, (g8Values codes scale)[i]? = some (some v) ∧ v.m = 0)) ∧
  (∀ b : W32, b.q.length = 16 → (w32Values b).length = 16 ∧ ∀ (i : Nat) (c : BitVec 32), b.q[i]? = some c →
    (w32Values b)[i]? = some (if c = 0x80000000 then none else some ⟨c.toInt, b.e.toInt⟩)) ∧
  (∀ (p : List Byte) (c : BitVec 16) (v : Dy), p.length = 64 → floatDy .bf16 c.toNat = some v → c.getLsbD 15 = false →
    (s1Values p c).length = 512 ∧ ∀ (i : Nat) (b : Byte), i < 512 → p[i / 8]? = some b →
      (v.m ≠ 0 → (s1Values p c)[i]? = some (some (if b.getLsbD (i % 8) then ⟨-v.m, v.e⟩ else v))) ∧
      (c = 0 → ∃ z : Dy, (s1Values p c)[i]? = some (some z) ∧ z.m = 0))

/-- The memory as the model holds it: the read of one byte through every write. -/
def Obligations.MemoryReadsWhatWasWritten : Prop :=
  (∀ (s : State) (a : Nat) (bs : List Byte),
    let t := poke s a bs
    (∀ r x, x < a ∨ a + bs.length ≤ x → byteAt t.mem r x = byteAt s.mem r x) ∧
    (∀ r i b, bs[i]? = some b → byteAt t.mem r (a + i) = b) ∧
    (memWf s.mem = true → memWf t.mem = true) ∧
    (∀ k, k ∈ t.poison ↔ k ∈ s.poison ∧ ¬ (a ≤ 64 * k ∧ 64 * k + 64 ≤ a + bs.length)) ∧ t = { s with mem := t.mem, poison := t.poison }) ∧
  (∀ (s : State) (a n : Nat),
    let t := wipe s a n
    (∀ r x, x < a ∨ a + n ≤ x → byteAt t.mem r x = byteAt s.mem r x) ∧
    (∀ r x, a ≤ x → x < a + n → x < hostBase → byteAt t.mem r x = 0) ∧ (memWf s.mem = true → memWf t.mem = true)) ∧
  (∀ m m' : List Host.Cell, memWf m = true → memWf m' = true → (∀ a, cellGet m a = cellGet m' a) → m = m') ∧
  (∀ (m : List Host.Cell) (r a n i : Nat), (bytesAt m r a n).length = n ∧
    (i < n → (bytesAt m r a n)[i]? = some (byteAt m r (a + i))))

/-- The memory's canonical form is an invariant of the whole machine. -/
def Obligations.EveryStepKeepsMemoryCanonical : Prop := Kept (fun s => memWf s.mem = true)

/-- The prose of R416 and R418 over every command: rollback protection holds across resets. -/
def Obligations.TheRollbackFloorNeverFalls : Prop :=
  Steps (fun s t => s.rpa.floor ≤ t.rpa.floor ∧ ∀ k, k < 4 → s.rpa.revoked.testBit k = true → t.rpa.revoked.testBit k = true)

/-- Every step goes on, and the queue is first in, first out: the model's choices (no command stops the module, log 6; one queue drained
in order, log 1). -/
def Obligations.EveryCommandGoesOnAndTheQueueDrains : Prop :=
  (∀ (i : Instr) (s : State), ∃ t, exec i s = .next t ∧ t.pending = s.pending) ∧
  (∀ s : State, ∃ t, step s = .next t ∧ t.pending = s.pending.tail) ∧
  (∀ s : State, ∃ t, Host.Core.run Sys2Proof.core s.pending.length s = .next t ∧ t.pending = [])
end

