-- ==== Sys2Proof/Laws/Memory.lean ====
section
/-! SUPPORT. The memory list: its canonical form, and that every operation on it keeps the form. -/

namespace Sys2Proof.Machine

/-- The canonical form, said of any two entries and of each. -/
theorem memWf_iff (m : List Host.Cell) :
    memWf m = true ↔ m.Pairwise (fun x y => x.1 < y.1) ∧ ∀ x ∈ m, memDefault x.1 ≠ some x.2 := by
  induction m with
  | nil => simp [memWf]
  | cons x t ih =>
    obtain ⟨a, v⟩ := x
    cases t with
    | nil => simp [memWf]
    | cons y t =>
      obtain ⟨b, w⟩ := y
      simp only [memWf, Bool.and_eq_true, decide_eq_true_eq, ih, List.pairwise_cons, List.mem_cons, forall_eq_or_imp]
      constructor
      · rintro ⟨⟨h1, h2⟩, ⟨h3, h4⟩, h5, h6⟩
        exact ⟨⟨⟨h2, fun z hz => Nat.lt_trans h2 (h3 z hz)⟩, h3, h4⟩, h1, h5, h6⟩
      · rintro ⟨⟨⟨h1, _⟩, h3, h4⟩, h5, h6, h7⟩
        exact ⟨⟨h5, h1⟩, ⟨h3, h4⟩, h6, h7⟩

/-- Entries taken away leave the form. -/
theorem memWf_filter {m : List Host.Cell} (p : Host.Cell → Bool) (h : memWf m = true) : memWf (m.filter p) = true := by
  rw [memWf_iff] at *
  exact ⟨h.1.sublist List.filter_sublist, fun x hx => h.2 x (List.mem_filter.mp hx).1⟩

/-- The entries of a run lie in it and differ from what an unlisted byte reads as. -/
theorem mem_freshCells {a : Nat} {bs : List Byte} {x : Host.Cell} (h : x ∈ freshCells a bs) :
    a ≤ x.1 ∧ x.1 < a + bs.length ∧ bs[x.1 - a]? = some x.2 ∧ memDefault x.1 ≠ some x.2 := by
  induction bs generalizing a with
  | nil => simp [freshCells] at h
  | cons b bs ih =>
    have keep : x ∈ freshCells (a + 1) bs → a ≤ x.1 ∧ x.1 < a + (b :: bs).length ∧ (b :: bs)[x.1 - a]? = some x.2 ∧
        memDefault x.1 ≠ some x.2 := fun h => by
      obtain ⟨h1, h2, h3, h4⟩ := ih h
      refine ⟨by omega, by simp only [List.length_cons]; omega, ?_, h4⟩
      have h5 : x.1 - a = (x.1 - (a + 1)) + 1 := by omega
      rw [h5, List.getElem?_cons_succ]
      exact h3
    simp only [freshCells] at h
    split at h
    · exact keep h
    · rename_i h6
      rcases List.mem_cons.mp h with rfl | h
      · exact ⟨Nat.le_refl _, by simp, by simp, h6⟩
      · exact keep h

/-- A run's entries have rising addresses. -/
theorem freshCells_rising (a : Nat) (bs : List Byte) : (freshCells a bs).Pairwise (fun x y => x.1 < y.1) := by
  induction bs generalizing a with
  | nil => simp [freshCells]
  | cons b bs ih =>
    simp only [freshCells]
    split
    · exact ih (a + 1)
    · exact List.pairwise_cons.mpr ⟨fun y hy => (mem_freshCells hy).1, ih (a + 1)⟩

/-- A write keeps the canonical form. -/
theorem memWf_cellsPut {m : List Host.Cell} (a : Nat) (bs : List Byte) (h : memWf m = true) : memWf (cellsPut m a bs) = true := by
  rw [memWf_iff] at *
  unfold cellsPut
  refine ⟨?_, ?_⟩
  · refine List.pairwise_append.mpr ⟨List.pairwise_append.mpr ⟨h.1.sublist List.filter_sublist, freshCells_rising a bs, ?_⟩,
      h.1.sublist List.filter_sublist, ?_⟩
    · intro x hx y hy
      have h1 := of_decide_eq_true (List.mem_filter.mp hx).2
      have h2 := mem_freshCells hy
      omega
    · intro x hx y hy
      have h1 := of_decide_eq_true (List.mem_filter.mp hy).2
      rcases List.mem_append.mp hx with hx | hx
      · have h2 := of_decide_eq_true (List.mem_filter.mp hx).2
        omega
      · have h2 := mem_freshCells hx
        omega
  · intro x hx
    rcases List.mem_append.mp hx with hx | hx
    · rcases List.mem_append.mp hx with hx | hx
      · exact h.2 x (List.mem_filter.mp hx).1
      · exact (mem_freshCells hx).2.2.2
    · exact h.2 x (List.mem_filter.mp hx).1

/-- In the canonical form a listed byte is the entry's. -/
theorem cellGet_eq_some {m : List Host.Cell} (h : memWf m = true) {a : Nat} {v : Byte} : cellGet m a = some v ↔ (a, v) ∈ m := by
  rw [memWf_iff] at h
  replace h := h.1
  induction m with
  | nil => simp [cellGet]
  | cons x t ih =>
    obtain ⟨b, w⟩ := x
    have h1 := List.pairwise_cons.mp h
    simp only [cellGet, List.mem_cons, Prod.mk.injEq]
    split
    · rename_i hb
      subst hb
      constructor
      · intro e
        exact .inl ⟨rfl, (Option.some.inj e).symm⟩
      · rintro (⟨_, rfl⟩ | hm)
        · rfl
        · exact absurd (h1.1 _ hm) (Nat.lt_irrefl _)
    · rename_i hb
      refine Iff.trans (ih h1.2) ⟨.inr, ?_⟩
      rintro (⟨rfl, _⟩ | hm)
      · exact absurd rfl hb
      · exact hm

/-- Every operation on the memory keeps its canonical form. -/
theorem memWf_poke {s : State} (a : Nat) (bs : List Byte) (h : memWf s.mem = true) : memWf (poke s a bs).mem = true :=
  memWf_cellsPut a bs h
theorem memWf_wipe {s : State} (a n : Nat) (h : memWf s.mem = true) : memWf (wipe s a n).mem = true := memWf_filter _ h

/-- The memory of the state after reset has the canonical form. -/
theorem memWf_reset : memWf State.reset.mem = true := rfl

end Sys2Proof.Machine
end

