-- ==== Sys2Proof/Laws/Milar.lean ====
section
/-! SUPPORT. What an instruction of a running call does, said once: the frame that `milar` puts around a meaning, and the
register files. -/

namespace Sys2Proof.Machine

open Sys2Proof.Safety

/-- An instruction of a call that may run its next one: the outcome of its meaning, and nothing else. -/
theorem milar_executing {s : State} {n : CayNum} {c : MCall} {w : Word} (h : Executing s n c w)
    (f : State → Milar → MCall → MOut) : milar s n w f = (match f s (fetched s n) c with
      | .ok t m => .next (putCay t n.val m)
      | .ret t m => .next (endCall (putCay t n.val m) n.val c)
      | .trap cause arg addr => .next (trapCall s n.val c (cayAt s n.val).pc cause arg addr)
      | .stop t st => .next (stopCall t n.val c st)
      | .wait => .next s) := by
  obtain ⟨h1, h2, h3, h6, h7, h5⟩ := h
  unfold milar
  dsimp only
  split
  · rename_i h4
    rw [h1] at h4
    cases h4
  · rename_i d h4
    rw [h1] at h4
    cases h4
    rw [if_neg (Nat.not_le.mpr h2), if_neg (Nat.not_le.mpr h3), if_neg (fun h => h h6), h7, h5]
    rfl

/-- The PC of the instruction itself, found again from the fetched state. -/
theorem ownPc_fetched {s : State} {n : CayNum} (h : (cayAt s n.val).pc < 2 ^ 19) :
    ownPc (fetched s n) = (cayAt s n.val).pc := by
  simp only [ownPc, fetched]
  omega

end Sys2Proof.Machine
end

