-- ==== Sys2Proof/Laws/Tame.lean ====
section
/-! SUPPORT. What no command does: the relation `Tame s t` says that the queue of waiting commands stays, that the rollback
floor and the revoked key slots never fall back, and that the memory keeps its canonical form. One lemma per function
carries it through the model; the predicates below say it of the functions' other results. -/

namespace Sys2Proof.Machine

/-- From `s` to `t` the queue stays, the floor does not fall, no revocation is taken back, the memory stays canonical. -/
def Tame (s t : State) : Prop :=
  t.pending = s.pending ∧ s.rpa.floor ≤ t.rpa.floor ∧ (∀ k, k < 4 → s.rpa.revoked.testBit k = true → t.rpa.revoked.testBit k = true) ∧
    (memWf s.mem = true → memWf t.mem = true)

theorem Tame.refl (s : State) : Tame s s := ⟨rfl, Nat.le_refl _, fun _ _ h => h, fun h => h⟩

theorem Tame.trans {s t u : State} (h : Tame s t) (g : Tame t u) : Tame s u :=
  ⟨g.1.trans h.1, Nat.le_trans h.2.1 g.2.1, fun k l hk => g.2.2.1 k l (h.2.2.1 k l hk), fun hm => g.2.2.2 (h.2.2.2 hm)⟩

/-- A state beside a result. -/
def TameP {α : Type} (s : State) (p : State × α) : Prop := Tame s p.1
/-- A state behind a result. -/
def TameQ {α : Type} (s : State) (p : α × State) : Prop := Tame s p.2
/-- A state, if there is one. -/
def TameO (s : State) : Option State → Prop
  | some u => Tame s u
  | none => True
/-- A result and a state, if there are any. -/
def TameOQ {α : Type} (s : State) : Option (α × State) → Prop
  | some p => Tame s p.2
  | none => True
/-- The state in which an arriving cell is met. -/
def TameA (s : State) : Arrival → Prop
  | .gone u => Tame s u
  | .here u => Tame s u
  | .onward u _ _ => Tame s u
/-- The state that an instruction leaves. -/
def TameM (s : State) : MOut → Prop
  | .ok u _ => Tame s u
  | .ret u _ => Tame s u
  | .trap _ _ _ => True
  | .stop u _ => Tame s u
  | .wait => True
/-- The state of a Causeway fold. -/
def TameC (s : State) (a : CwAcc) : Prop := Tame s a.s
/-- A command goes on, to a state that is tame. -/
def Goes (s : State) (r : Res) : Prop := ∃ t, r = .next t ∧ Tame s t

theorem goes_next {s t : State} (h : Tame s t) : Goes s (.next t) := ⟨t, rfl, h⟩
theorem tameP_mk {α : Type} {s u : State} {x : α} (h : Tame s u) : TameP s (u, x) := h
theorem tameQ_mk {α : Type} {s u : State} {x : α} (h : Tame s u) : TameQ s (x, u) := h
theorem tameO_some {s u : State} (h : Tame s u) : TameO s (some u) := h
theorem tameO_none {s : State} : TameO s none := trivial
theorem tameOQ_some {α : Type} {s u : State} {x : α} (h : Tame s u) : TameOQ s (some (x, u)) := h
theorem tameOQ_none {α : Type} {s : State} : TameOQ (α := α) s none := trivial
theorem tame_fst {α : Type} {s : State} {p : State × α} (h : TameP s p) : Tame s p.1 := h
theorem tame_snd {α : Type} {s : State} {p : α × State} (h : TameQ s p) : Tame s p.2 := h
theorem tame_acc {s : State} {a : CwAcc} (h : TameC s a) : Tame s a.s := h
theorem tame_ite {α : Sort _} {P : α → Prop} {c : Prop} [Decidable c] {a b : α} (ha : P a) (hb : P b) : P (if c then a else b) := by
  split
  · exact ha
  · exact hb
theorem tame_dite {α : Sort _} {P : α → Prop} {c : Prop} [Decidable c] {a : c → α} {b : ¬ c → α} (ha : ∀ h, P (a h)) (hb : ∀ h, P (b h)) :
    P (dite c a b) := by
  split
  · exact ha _
  · exact hb _
theorem tame_of_eq {α : Sort _} {P : α → Prop} {a b : α} (e : a = b) (h : P a) : P b := e ▸ h
/-- Only the queue, the memory and the replay-protected area count. -/
theorem tame_mk {s u : State} {now' lastRecover' kickAt' decayAt' : Tick} {free' begun' : Nat} {out' : List Out}
    {regs' : Table Word} {shadows' : List (Requester × Nat × Word)} {poison' freshCell' notify' sessions' releases' :
    List Nat} {allocs' : List Alloc} {zeroing' bme' barred' eyes' : List (Nat × Nat)} {moves' : List Move} {descs' :
    Table PoolDesc} {freeList' : List (List Nat)} {cells' : List QCell} {torus' : Table TorusSt} {egress' : Table
    EgressSt} {echo' : List (List EchoEntry)} {queues' : Table QueueSt} {pcie' : Table PcieFn} {groups' : Table Group}
    {buckets' : Table Bucket} {homes' : List EmHome} {causeway' : Table CwSlot} {lates' : List LateRec} {residues' :
    List (Nat × Nat × Nat × Nat × List (BitVec 32))} {layers' : Table Layer} {slots' : Table ProgSlot} {steps' : Table
    StepRec} {ferries' : List Ferry} {opens' : List OpenReq} {gathers' : List Gather} {finished' : List FinRec}
    {copies' : List RetCopy} {permutes' : List Perm} {readies' : List (BitVec 16 × Nat × Nat)} {cays' : Table Milar}
    {folds' : Table Tick} {upsets' : Table Upset} {wdStopped' : Bool} {beacons' : Table BeaconSt} {origins' : Table Nat} {softAt' : List
    Tick} {access' : Table AccSt} {copying' : List CopyRun} {assemblies' : List Assembly} {reports' image' : List (Nat
    × Nat × List Byte)} {signs' : List (SignFor × List Byte)} {replies' : List (Nat × Option (Nat × List Byte))}
    {boot' : BootSt} {power' : PowerSt} (h : Tame s u) : Tame s (State.mk u.pending now' free' out' regs' shadows'
    u.mem poison' allocs' zeroing' moves' descs' freeList' freshCell' cells' torus' egress' echo' lastRecover' queues'
    notify' bme' pcie' sessions' groups' buckets' homes' causeway' lates' residues' layers' slots' steps' ferries'
    opens' begun' gathers' finished' copies' permutes' readies' cays' folds' upsets' kickAt' wdStopped' beacons' origins'
    barred' softAt' decayAt' access' copying' eyes' assemblies' reports' signs' releases' replies' image' u.rpa boot'
    power') := h
theorem tame_foldl {α : Type} {P : State → α → State} {s t : State} {l : List α} (hf : ∀ u x, Tame s u → Tame s (P u x)) (h : Tame s t) :
    Tame s (l.foldl P t) := by
  induction l generalizing t with
  | nil => exact h
  | cons x l ih => exact ih (hf t x h)
theorem tameP_foldl {α β : Type} {P : State × β → α → State × β} {s : State} {t : State × β} {l : List α}
    (hf : ∀ u x, TameP s u → TameP s (P u x)) (h : TameP s t) : TameP s (l.foldl P t) := by
  induction l generalizing t with
  | nil => exact h
  | cons x l ih => exact ih (hf t x h)
theorem tameC_foldl {α : Type} {P : CwAcc → α → CwAcc} {s : State} {t : CwAcc} {l : List α}
    (hf : ∀ u x, TameC s u → TameC s (P u x)) (h : TameC s t) : TameC s (l.foldl P t) := by
  induction l generalizing t with
  | nil => exact h
  | cons x l ih => exact ih (hf t x h)
theorem tame_getD {s t : State} {o : Option State} (ho : TameO s o) (h : Tame s t) : Tame s (o.getD t) := by
  cases o with
  | none => exact h
  | some u => exact ho
theorem tameO_map {α : Type} {s : State} {f : α → State} {o : Option α} (h : ∀ x, Tame s (f x)) : TameO s (o.map f) := by
  cases o with
  | none => trivial
  | some x => exact h x
theorem tameOQ_bind {α : Type} {s : State} {o : Option State} {f : State → Option (α × State)} (ho : TameO s o)
    (hf : ∀ u, Tame s u → TameOQ s (f u)) : TameOQ s (o.bind f) := by
  cases o with
  | none => trivial
  | some u => exact hf u ho

/-! ## The operations that write memory or the replay-protected area -/

theorem tame_wr {s t : State} {off : Nat} {w : Word} (h : Tame s t) : Tame s (wr t off w) := by
  unfold wr
  split <;> exact h
theorem tame_poke {s t : State} {a : Nat} {bs : List Byte} (h : Tame s t) : Tame s (poke t a bs) :=
  ⟨h.1, h.2.1, h.2.2.1, fun hm => memWf_poke a bs (h.2.2.2 hm)⟩
theorem tame_wipe {s t : State} {a n : Nat} (h : Tame s t) : Tame s (wipe t a n) :=
  ⟨h.1, h.2.1, h.2.2.1, fun hm => memWf_wipe a n (h.2.2.2 hm)⟩

end Sys2Proof.Machine
end

