-- ==== Sys2Proof/Laws/Tame1.lean ====
section
/-! SUPPORT. `Tame` through the functions of Ops, Reserve, Pool, Fabric, Sync, Queues: one lemma per function. -/

namespace Sys2Proof.Machine

set_option linter.unusedVariables false

/-! ## Ops -/

theorem tame_setF {s : State} {t f v} (ht' : Tame s t) : Tame s (setF t f v) := by
  unfold setF
  exact tame_wr ‹_›
theorem tame_bump {s : State} {t f k} (ht' : Tame s t) : Tame s (bump t f k) := by
  unfold bump
  exact tame_setF ‹_›
theorem tame_wr64 {s : State} {t off v} (ht' : Tame s t) : Tame s (wr64 t off v) := by
  unfold wr64
  exact tame_wr (tame_wr ‹_›)
theorem tame_bump64 {s : State} {t off k} (ht' : Tame s t) : Tame s (bump64 t off k) := by
  unfold bump64
  exact tame_wr64 ‹_›
theorem tame_emit {s : State} {t o} (ht' : Tame s t) : Tame s (emit t o) := by
  unfold emit
  exact tame_mk ‹_›
theorem tame_withPcie {s : State} {t a1 fn f} (ht' : Tame s t) : Tame s (withPcie t a1 fn f) := by
  unfold withPcie
  exact tame_mk ‹_›
theorem tame_msix {s : State} {t a1 fn vec} (ht' : Tame s t) : Tame s (msix t a1 fn vec) := by
  unfold msix
  extract_lets -underBinder -merge +onlyGivenNames x0
  try clear_value x0
  exact tame_ite (P := Tame s) ‹_› (tame_ite (P := Tame s) (tame_withPcie ‹_›) (tame_emit ‹_›))
theorem tame_ctxMsix {s : State} {t c vec} (ht' : Tame s t) : Tame s (ctxMsix t c vec) := by
  unfold ctxMsix
  exact tame_msix ‹_›
theorem tame_pfMsix {s : State} {t vec} (ht' : Tame s t) : Tame s (pfMsix t vec) := by
  unfold pfMsix
  exact tame_msix (tame_msix ‹_›)
theorem tame_hostAsk {s : State} {t a1 fn a n} (ht' : Tame s t) : Tame s (hostAsk t a1 fn a n) := by
  unfold hostAsk
  exact tame_foldl (fun u0 y1 h2 => tame_emit ‹_›) ‹_›
theorem tame_hostSend {s : State} {t a1 fn a bs} (ht' : Tame s t) : Tame s (hostSend t a1 fn a bs) := by
  unfold hostSend
  exact tame_foldl (fun u0 y1 h2 => tame_emit ‹_›) ‹_›
theorem tame_askHost {s : State} {t c a n} (ht' : Tame s t) : Tame s (askHost t c a n) := by
  unfold askHost
  exact tame_ite (P := Tame s) ‹_› (tame_hostAsk ‹_›)
theorem tameP_memRead {s : State} {t c a n} (ht' : Tame s t) : TameP s (memRead t c a n) := by
  unfold memRead
  split
  · exact tameP_mk ‹_›
  · exact tameP_mk (tame_askHost (tame_mk ‹_›))
theorem tameP_memWrite {s : State} {t c a bs} (ht' : Tame s t) : TameP s (memWrite t c a bs) := by
  unfold memWrite
  split
  · exact tameP_mk ‹_›
  · exact tameP_mk (tame_ite (P := Tame s) (tame_poke ‹_›) (tame_hostSend (tame_poke ‹_›)))
theorem tame_scoreCay {s : State} {t n w} (ht' : Tame s t) : Tame s (scoreCay t n w) := by
  unfold scoreCay
  exact tame_ite (P := Tame s) (tame_bump ‹_›) ‹_›
theorem tame_scorePort {s : State} {t p w} (ht' : Tame s t) : Tame s (scorePort t p w) := by
  unfold scorePort
  exact tame_bump ‹_›
theorem tame_scoreModule {s : State} {t w} (ht' : Tame s t) : Tame s (scoreModule t w) := by
  unfold scoreModule
  exact tame_bump ‹_›
theorem tame_putCay {s : State} {t n m} (ht' : Tame s t) : Tame s (putCay t n m) := by
  unfold putCay
  exact tame_mk ‹_›
theorem tame_endKernel {s : State} {t n st} (ht' : Tame s t) : Tame s (endKernel t n st) := by
  unfold endKernel
  extract_lets -underBinder -merge +onlyGivenNames x0
  try clear_value x0
  extract_lets -underBinder -merge +onlyGivenNames x1
  have h2 : Tame s x1 := tame_putCay ‹_›
  try clear_value x1
  exact tame_setF (tame_setF ‹_›)
theorem goes_access {s : State} {t r off f} (ht' : Tame s t) (hf' : ∀ u0, Tame s u0 → Tame s (f u0)) : Goes s (access t r off f)
    := by
  unfold access
  split
  · exact goes_next (hf' _ ‹_›)
  · exact goes_next (tame_bump ‹_›)
  · exact goes_next ‹_›

/-! ## Reserve -/

theorem tameP_reserve {s : State} {t c a2 n use} (ht' : Tame s t) : TameP s (reserve t c a2 n use) := by
  unfold reserve
  extract_lets -underBinder -merge +onlyGivenNames x0 x1
  try clear_value x0 x1
  refine tame_ite (P := TameP s) (tameP_mk ‹_›) ?_
  refine tame_ite (P := TameP s) (tameP_mk (tame_bump ‹_›)) ?_
  extract_lets -underBinder -merge +onlyGivenNames x2 x3
  try clear_value x2 x3
  split
  · exact tameP_mk (tame_bump ‹_›)
  · extract_lets -underBinder -merge +onlyGivenNames x4
    have h5 : Tame s x4 := tame_setF ‹_›
    try clear_value x4
    exact tameP_mk (tame_mk ‹_›)
theorem tame_releaseOne {s : State} {t a} (ht' : Tame s t) : Tame s (releaseOne t a) := by
  unfold releaseOne
  extract_lets -underBinder -merge +onlyGivenNames x0
  try clear_value x0
  extract_lets -underBinder -merge +onlyGivenNames x1
  have h2 : Tame s x1 := tame_setF ‹_›
  try clear_value x1
  exact tame_mk ‹_›
theorem tame_releaseAllocs {s : State} {t p} (ht' : Tame s t) : Tame s (releaseAllocs t p) := by
  unfold releaseAllocs
  extract_lets -underBinder -merge +onlyGivenNames x0
  try clear_value x0
  extract_lets -underBinder -merge +onlyGivenNames x1
  have h2 : Tame s x1 := tame_mk ‹_›
  try clear_value x1
  exact tame_foldl (fun u3 y4 h5 => tame_releaseOne ‹_›) ‹_›
theorem goes_execRangeZeroed {s : State} {base t} (ht' : Tame s t) : Goes s (execRangeZeroed base t) := by
  unfold execRangeZeroed
  split
  · exact goes_next ‹_›
  · exact goes_next (tame_wipe (tame_mk ‹_›))
theorem tameP_poolReserve {s : State} {t c d n} (ht' : Tame s t) : TameP s (poolReserve t c d n) := by
  unfold poolReserve
  refine tame_ite (P := TameP s) (tameP_mk (tame_bump ‹_›)) ?_
  refine tame_ite (P := TameP s) (tameP_mk (tame_bump ‹_›)) ?_
  extract_lets -underBinder -merge +onlyGivenNames x0
  have h1 : Tame s x0 := tame_setF ‹_›
  try clear_value x0
  exact tameP_mk (tame_setF ‹_›)
theorem tame_poolReturn {s : State} {t c d n} (ht' : Tame s t) : Tame s (poolReturn t c d n) := by
  unfold poolReturn
  extract_lets -underBinder -merge +onlyGivenNames x0
  have h1 : Tame s x0 := tame_setF ‹_›
  try clear_value x0
  exact tame_setF ‹_›
theorem tame_fillEngines {s : State} {n t d} (h : Tame s t) : Tame s (fillEngines n t d) := by
  induction n generalizing t with
  | zero => exact h
  | succ n ih =>
    unfold fillEngines
    split
    · split
      · exact ih (tame_mk h)
      · exact h
    · exact h
theorem tame_runEngines {s : State} {t} (ht' : Tame s t) : Tame s (runEngines t) := by
  unfold runEngines
  exact tame_fillEngines (tame_fillEngines ‹_›)
theorem tame_addMove {s : State} {t k d} (ht' : Tame s t) : Tame s (addMove t k d) := by
  unfold addMove
  exact tame_runEngines (tame_mk ‹_›)
theorem tame_endMove {s : State} {t k} (ht' : Tame s t) : Tame s (endMove t k) := by
  unfold endMove
  exact tame_runEngines (tame_mk ‹_›)

/-! ## Pool -/

theorem tame_setDesc {s : State} {t a d} (ht' : Tame s t) : Tame s (setDesc t a d) := by
  unfold setDesc
  exact tame_ite (P := Tame s) (tame_mk ‹_›) (tame_mk ‹_›)
theorem tame_poolLog {s : State} {t kind cell req last} (ht' : Tame s t) : Tame s (poolLog t kind cell req last) := by
  unfold poolLog
  refine tame_ite (P := Tame s) ‹_› ?_
  extract_lets -underBinder -merge +onlyGivenNames x0
  have h1 : Tame s x0 := tame_setF (tame_setF (tame_setF ‹_›))
  try clear_value x0
  exact tame_setF (tame_setF ‹_›)
theorem tame_poolReject {s : State} {t e a q} (ht' : Tame s t) : Tame s (poolReject t e a q) := by
  unfold poolReject
  extract_lets -underBinder -merge +onlyGivenNames x0
  have h1 : Tame s x0 := by
    unfold x0
    split
    · exact tame_bump ‹_›
    · exact tame_bump ‹_›
  try clear_value x0
  exact tame_scoreModule (tame_poolLog ‹_›)
theorem tameOQ_takeFree {s : State} {t d} (ht' : Tame s t) : TameOQ s (takeFree t d) := by
  unfold takeFree
  split
  · exact tameOQ_some (tame_mk ‹_›)
  · extract_lets -underBinder -merge +onlyGivenNames x0
    try clear_value x0
    exact tame_ite (P := TameOQ s) (tameOQ_some (tame_mk ‹_›)) tameOQ_none
theorem tameOQ_poolAlloc {s : State} {t d u c} (h : Tame s t) : TameOQ s (poolAlloc t d u c) := by
  have g : TameOQ s (takeFree t d) := tameOQ_takeFree h
  unfold poolAlloc
  revert g
  cases takeFree t d with
  | none => exact fun _ => trivial
  | some p => exact fun g => tame_setDesc g
theorem tame_poolRelease {s : State} {t a} (ht' : Tame s t) : Tame s (poolRelease t a) := by
  unfold poolRelease
  extract_lets -underBinder -merge +onlyGivenNames x0
  try clear_value x0
  extract_lets -underBinder -merge +onlyGivenNames x1
  have h2 : Tame s x1 := tame_ite (P := Tame s) (tame_setF ‹_›) ‹_›
  try clear_value x1
  extract_lets -underBinder -merge +onlyGivenNames x3
  have h4 : Tame s x3 := tame_setDesc ‹_›
  try clear_value x3
  extract_lets -underBinder -merge +onlyGivenNames x5
  have h6 : Tame s x5 := tame_mk ‹_›
  try clear_value x5
  exact tame_ite (P := Tame s) (tame_poolReturn ‹_›) ‹_›
theorem tame_poolShare {s : State} {t a q k l} (ht' : Tame s t) : Tame s (poolShare t a q k l) := by
  unfold poolShare
  extract_lets -underBinder -merge +onlyGivenNames x0
  try clear_value x0
  exact tame_ite (P := Tame s) ‹_› (tame_ite (P := Tame s) (tame_poolReject ‹_›) (tame_ite (P := Tame s) (tame_poolReject ‹_›)
      (tame_setDesc ‹_›)))
theorem tame_poolDrop {s : State} {t a q} (ht' : Tame s t) : Tame s (poolDrop t a q) := by
  unfold poolDrop
  extract_lets -underBinder -merge +onlyGivenNames x0
  try clear_value x0
  refine tame_ite (P := Tame s) ‹_› ?_
  refine tame_ite (P := Tame s) (tame_poolReject ‹_›) ?_
  refine tame_ite (P := Tame s) (tame_poolReject ‹_›) ?_
  extract_lets -underBinder -merge +onlyGivenNames x1
  have h2 : Tame s x1 := tame_setDesc ‹_›
  try clear_value x1
  exact tame_ite (P := Tame s) (tame_poolRelease ‹_›) ‹_›
theorem tameP_poolFree {s : State} {t a q} (ht' : Tame s t) : TameP s (poolFree t a q) := by
  unfold poolFree
  extract_lets -underBinder -merge +onlyGivenNames x0
  try clear_value x0
  exact tame_ite (P := TameP s) (tameP_mk ‹_›) (tame_ite (P := TameP s) (tameP_mk (tame_poolReject ‹_›)) (tame_ite (P := TameP
      s) (tameP_mk (tame_poolReject ‹_›)) (tame_ite (P := TameP s) (tameP_mk (tame_poolRelease ‹_›)) (tame_ite (P := TameP s)
      (tameP_mk ‹_›) (tameP_mk (tame_setF (tame_setDesc ‹_›)))))))
theorem tame_poolFreeChain {s : State} {n t a q} (h : Tame s t) : Tame s (poolFreeChain n t a q) := by
  induction n generalizing t a with
  | zero => exact h
  | succ n ih =>
    unfold poolFreeChain
    exact tame_ite (P := Tame s) (tameP_poolFree h) (ih (tameP_poolFree h))
theorem tame_poolLink {s : State} {t prev a} (ht' : Tame s t) : Tame s (poolLink t prev a) := by
  unfold poolLink
  extract_lets -underBinder -merge +onlyGivenNames x0
  try clear_value x0
  exact tame_ite (P := Tame s) (tame_setDesc ‹_›) ‹_›
theorem goes_execPoolShare {s : State} {a u k l t} (ht' : Tame s t) : Goes s (execPoolShare a u k l t) := by
  unfold execPoolShare
  exact goes_next (tame_poolShare ‹_›)
theorem goes_execPoolDrop {s : State} {a u t} (ht' : Tame s t) : Goes s (execPoolDrop a u t) := by
  unfold execPoolDrop
  exact goes_next (tame_poolDrop ‹_›)
theorem goes_execPoolFree {s : State} {a u chain t} (ht' : Tame s t) : Goes s (execPoolFree a u chain t) := by
  unfold execPoolFree
  exact tame_ite (P := Goes s) (goes_next (tame_poolFreeChain ‹_›)) (goes_next (tame_fst (tameP_poolFree ‹_›)))

/-! ## Fabric -/

theorem tame_withTorus {s : State} {t p f} (ht' : Tame s t) : Tame s (withTorus t p f) := by
  unfold withTorus
  exact tame_mk ‹_›
theorem tame_withEgress {s : State} {t e f} (ht' : Tame s t) : Tame s (withEgress t e f) := by
  unfold withEgress
  exact tame_mk ‹_›
theorem tame_enqueue {s : State} {t q} (ht' : Tame s t) : Tame s (enqueue t q) := by
  unfold enqueue
  exact tame_mk ‹_›
theorem tame_dropRef {s : State} {t q} (ht' : Tame s t) : Tame s (dropRef t q) := by
  unfold dropRef
  split
  · exact tame_poolDrop ‹_›
  · assumption
theorem tame_injectAt {s : State} {t src e dl pool x} (ht' : Tame s t) : Tame s (injectAt t src e dl pool x) := by
  unfold injectAt
  extract_lets -underBinder -merge +onlyGivenNames x0 x1
  try clear_value x0 x1
  exact tame_ite (P := Tame s) (tame_dropRef ‹_›) (tame_enqueue ‹_›)
theorem tame_sendPort {s : State} {t p x} (ht' : Tame s t) : Tame s (sendPort t p x) := by
  unfold sendPort
  extract_lets -underBinder -merge +onlyGivenNames x0
  try clear_value x0
  exact tame_injectAt ‹_›
theorem tame_sendTo {s : State} {t src dest x} (ht' : Tame s t) : Tame s (sendTo t src dest x) := by
  unfold sendTo
  split
  · assumption
  · exact tame_injectAt ‹_›
theorem tame_sendJob {s : State} {t dest x} (ht' : Tame s t) : Tame s (sendJob t dest x) := by
  unfold sendJob
  exact tame_sendTo ‹_›
theorem tame_toAcc {s : State} {t q} (ht' : Tame s t) : Tame s (toAcc t q) := by
  unfold toAcc
  exact tame_ite (P := Tame s) (tame_enqueue ‹_›) (tame_dropRef ‹_›)
theorem tame_sendAcc {s : State} {t a x} (ht' : Tame s t) : Tame s (sendAcc t a x) := by
  unfold sendAcc
  exact tame_toAcc ‹_›
theorem tame_purgeEgress {s : State} {t e f} (ht' : Tame s t) : Tame s (purgeEgress t e f) := by
  unfold purgeEgress
  extract_lets -underBinder -merge +onlyGivenNames x0
  try clear_value x0
  exact tame_foldl (fun u1 y2 h3 => tame_dropRef ‹_›) (tame_mk ‹_›)
theorem tame_noteDepth {s : State} {t p v d} (ht' : Tame s t) : Tame s (noteDepth t p v d) := by
  unfold noteDepth
  exact tame_ite (P := Tame s) (tame_setF ‹_›) ‹_›
theorem tame_giveCredit {s : State} {t p sub} (ht' : Tame s t) : Tame s (giveCredit t p sub) := by
  unfold giveCredit
  exact tame_withTorus ‹_›
theorem tame_sendEcho {s : State} {t e count} (ht' : Tame s t) : Tame s (sendEcho t e count) := by
  unfold sendEcho
  exact tame_ite (P := Tame s) (tame_bump (tame_sendJob ‹_›)) ‹_›
theorem tame_echoMarked {s : State} {t d x} (ht' : Tame s t) : Tame s (echoMarked t d x) := by
  unfold echoMarked
  extract_lets -underBinder -merge +onlyGivenNames x0 x1
  try clear_value x0 x1
  refine tame_ite (P := Tame s) (tame_mk ‹_›) ?_
  refine tame_ite (P := Tame s) ?_ (tame_bump ‹_›)
  extract_lets -underBinder -merge +onlyGivenNames x2
  try clear_value x2
  exact tame_sendEcho (tame_mk ‹_›)
theorem tame_ejectedFrom {s : State} {t p sub owed bridged x} (ht' : Tame s t) : Tame s (ejectedFrom t p sub owed bridged x) :=
    by
  unfold ejectedFrom
  extract_lets -underBinder -merge +onlyGivenNames x0
  try clear_value x0
  extract_lets -underBinder -merge +onlyGivenNames x1
  have h2 : Tame s x1 := tame_ite (P := Tame s) (tame_bump ‹_›) ‹_›
  try clear_value x1
  extract_lets -underBinder -merge +onlyGivenNames x3
  have h4 : Tame s x3 := tame_ite (P := Tame s) (tame_ite (P := Tame s) (tame_echoMarked ‹_›) ‹_›) ‹_›
  try clear_value x3
  exact tame_ite (P := Tame s) (tame_giveCredit ‹_›) ‹_›
theorem tame_ejected {s : State} {t p x} (ht' : Tame s t) : Tame s (ejected t p x) := by
  unfold ejected
  exact tame_ejectedFrom ‹_›
theorem tame_discard {s : State} {t p x f} (ht' : Tame s t) : Tame s (discard t p x f) := by
  unfold discard
  exact tame_giveCredit (tame_bump ‹_›)
theorem tameO_linkTakes {s : State} {t p x} (ht' : Tame s t) : TameO s (linkTakes t p x) := by
  unfold linkTakes
  extract_lets -underBinder -merge +onlyGivenNames x0
  try clear_value x0
  exact tame_ite (P := TameO s) tameO_none (tame_ite (P := TameO s) tameO_none (tameO_some (tame_withTorus ‹_›)))
theorem tame_crossBridge {s : State} {t q} (ht' : Tame s t) : Tame s (crossBridge t q) := by
  unfold crossBridge
  refine tame_ite (P := Tame s) ?_ ‹_›
  split
  · refine tame_ite (P := Tame s) ?_ ‹_›
    extract_lets -underBinder -merge +onlyGivenNames x0
    try clear_value x0
    extract_lets -underBinder -merge +onlyGivenNames x1
    have h2 : Tame s x1 := tame_mk ‹_›
    try clear_value x1
    split
    · exact tame_ite (P := Tame s) (tame_giveCredit ‹_›) ‹_›
    · assumption
  · assumption
theorem tame_bridgeGo {s : State} {t} (ht' : Tame s t) : Tame s (bridgeGo t) := by
  unfold bridgeGo
  exact tame_foldl (fun u0 y1 h2 => tame_crossBridge ‹_›) ‹_›
theorem tame_holdCell {s : State} {t p x e dl} (ht' : Tame s t) : Tame s (holdCell t p x e dl) := by
  unfold holdCell
  exact tame_bridgeGo (tame_enqueue ‹_›)
theorem tame_cutThrough {s : State} {t p x} (ht' : Tame s t) : Tame s (cutThrough t p x) := by
  unfold cutThrough
  refine tame_ite (P := Tame s) ?_ ‹_›
  split
  · refine tame_ite (P := Tame s) ‹_› ?_
    extract_lets -underBinder -merge +onlyGivenNames x0
    try clear_value x0
    exact tame_bridgeGo (tame_enqueue (tame_noteDepth ‹_›))
  · assumption
theorem tame_cellFails {s : State} {t p idx header through} (ht' : Tame s t) : Tame s (cellFails t p idx header through) := by
  unfold cellFails
  extract_lets -underBinder -merge +onlyGivenNames x0
  have h1 : Tame s x0 := tame_bump ‹_›
  try clear_value x0
  extract_lets -underBinder -merge +onlyGivenNames x2
  have h3 : Tame s x2 := tame_ite (P := Tame s) (tame_bump ‹_›) ‹_›
  try clear_value x2
  refine tame_ite (P := Tame s) ‹_› ?_
  extract_lets -underBinder -merge +onlyGivenNames x4
  have h5 : Tame s x4 := tame_withTorus ‹_›
  try clear_value x4
  split
  · exact tame_ite (P := Tame s) ‹_› (tame_cutThrough ‹_›)
  · assumption
theorem tameA_arrive {s : State} {t p x} (ht' : Tame s t) : TameA s (arrive t p x) := by
  unfold arrive
  split
  · exact show Tame s _ from ‹_›
  · have h0 := tame_of_eq (P := TameO s) ‹_ = _› (tameO_linkTakes ‹_›)
    refine tame_ite (P := TameA s) (show Tame s _ from (tame_cellFails ‹_›)) ?_
    extract_lets -underBinder -merge +onlyGivenNames x1
    have h2 : Tame s x1 := tame_ite (P := Tame s) (tame_bump ‹_›) ‹_›
    try clear_value x1
    extract_lets -underBinder -merge +onlyGivenNames x3
    try clear_value x3
    refine tame_ite (P := TameA s) (tame_ite (P := TameA s) (show Tame s _ from (tame_bump ‹_›)) (show Tame s _ from ‹_›)) ?_
    extract_lets -underBinder -merge +onlyGivenNames x4
    try clear_value x4
    extract_lets -underBinder -merge +onlyGivenNames x5
    have h6 : Tame s x5 := tame_bump64 ‹_›
    try clear_value x5
    refine tame_ite (P := TameA s) (show Tame s _ from (tame_discard ‹_›)) ?_
    extract_lets -underBinder -merge +onlyGivenNames x7
    have h8 : Tame s x7 := tame_noteDepth ‹_›
    try clear_value x7
    refine tame_ite (P := TameA s) (show Tame s _ from (tame_discard ‹_›)) ?_
    refine tame_ite (P := TameA s) (show Tame s _ from ‹_›) ?_
    refine tame_ite (P := TameA s) (show Tame s _ from (tame_discard ‹_›)) ?_
    split
    · exact tame_ite (P := TameA s) (show Tame s _ from (tame_discard ‹_›)) (show Tame s _ from ‹_›)
    · exact tame_ite (P := TameA s) (show Tame s _ from (tame_discard ‹_›)) (show Tame s _ from ‹_›)
theorem goes_execCellForward {s : State} {p x t} (ht' : Tame s t) : Goes s (execCellForward p x t) := by
  unfold execCellForward
  split
  · have h0 := tame_of_eq (P := TameA s) ‹_ = _› (tameA_arrive ‹_›)
    exact goes_next ‹_›
  · have h1 := tame_of_eq (P := TameA s) ‹_ = _› (tameA_arrive ‹_›)
    exact goes_next (tame_holdCell ‹_›)
  · have h2 := tame_of_eq (P := TameA s) ‹_ = _› (tameA_arrive ‹_›)
    exact goes_next (tame_giveCredit ‹_›)
theorem goes_receive {s : State} {t p x f} (ht' : Tame s t) (hf' : ∀ u0, Tame s u0 → TameO s (f u0)) : Goes s (receive t p x f)
    := by
  unfold receive
  split
  · have h0 := tame_of_eq (P := TameA s) ‹_ = _› (tameA_arrive ‹_›)
    exact goes_next ‹_›
  · have h1 := tame_of_eq (P := TameA s) ‹_ = _› (tameA_arrive ‹_›)
    exact goes_next (tame_holdCell ‹_›)
  · have h2 := tame_of_eq (P := TameA s) ‹_ = _› (tameA_arrive ‹_›)
    refine tame_ite (P := Goes s) (goes_next (tame_holdCell ‹_›)) ?_
    split
    · have h3 := tame_of_eq (P := TameO s) ‹_ = _› (hf' _ ‹_›)
      exact goes_next (tame_ejected ‹_›)
    · exact goes_next (tame_holdCell ‹_›)
theorem tame_sendUnit {s : State} {t p x} (ht' : Tame s t) : Tame s (sendUnit t p x) := by
  unfold sendUnit
  extract_lets -underBinder -merge +onlyGivenNames x0
  try clear_value x0
  extract_lets -underBinder -merge +onlyGivenNames x1
  have h2 : Tame s x1 := tame_withTorus ‹_›
  try clear_value x1
  extract_lets -underBinder -merge +onlyGivenNames x3
  try clear_value x3
  exact tame_emit ‹_›
theorem tame_sendCredit {s : State} {t p} (ht' : Tame s t) : Tame s (sendCredit t p) := by
  unfold sendCredit
  extract_lets -underBinder -merge +onlyGivenNames x0 x1
  try clear_value x0 x1
  exact tame_sendUnit (tame_withTorus ‹_›)
theorem goes_execCreditCell {s : State} {p x t} (ht' : Tame s t) : Goes s (execCreditCell p x t) := by
  unfold execCreditCell
  refine tame_ite (P := Goes s) (goes_next ‹_›) ?_
  split
  · have h0 := tame_of_eq (P := TameA s) ‹_ = _› (tameA_arrive ‹_›)
    exact goes_next (tame_withTorus ‹_›)
  · have h1 := tame_of_eq (P := TameA s) ‹_ = _› (tameA_arrive ‹_›)
    exact goes_next ‹_›
  · have h2 := tame_of_eq (P := TameA s) ‹_ = _› (tameA_arrive ‹_›)
    exact goes_next ‹_›
theorem tame_setLimiter {s : State} {t e l} (ht' : Tame s t) : Tame s (setLimiter t e l) := by
  unfold setLimiter
  exact tame_withEgress ‹_›
theorem tame_echoTaken {s : State} {t _p x} (ht' : Tame s t) : Tame s (echoTaken t _p x) := by
  unfold echoTaken
  split
  · assumption
  · extract_lets -underBinder -merge +onlyGivenNames x0
    try clear_value x0
    extract_lets -underBinder -merge +onlyGivenNames x1
    try clear_value x1
    exact tame_ite (P := Tame s) ‹_› (tame_bump (tame_setLimiter ‹_›))
theorem goes_execEcnEcho {s : State} {p x t} (ht' : Tame s t) : Goes s (execEcnEcho p x t) := by
  unfold execEcnEcho
  exact tame_ite (P := Goes s) (goes_next ‹_›) (goes_receive ‹_› (fun u0 h1 => tameO_some (tame_echoTaken ‹_›)))
theorem goes_execLimiterRecover {s : State} {t} (ht' : Tame s t) : Goes s (execLimiterRecover t) := by
  unfold execLimiterRecover
  refine tame_ite (P := Goes s) ?_ (goes_next ‹_›)
  extract_lets -underBinder -merge +onlyGivenNames x0
  try clear_value x0
  exact goes_next (tame_mk ‹_›)
theorem goes_execEchoGap {s : State} {d src job vc t} (ht' : Tame s t) : Goes s (execEchoGap d src job vc t) := by
  unfold execEchoGap
  extract_lets -underBinder -merge +onlyGivenNames x0
  try clear_value x0
  split
  · exact goes_next ‹_›
  · exact tame_ite (P := Goes s) (goes_next ‹_›) (tame_ite (P := Goes s) (goes_next (tame_mk ‹_›)) (goes_next (tame_sendEcho
        (tame_mk ‹_›))))
theorem tame_slotGains {s : State} {t e} (ht' : Tame s t) : Tame s (slotGains t e) := by
  unfold slotGains
  extract_lets -underBinder -merge +onlyGivenNames x0 x1
  try clear_value x0 x1
  exact tame_withEgress ‹_›
theorem tameP_takeGrant {s : State} {t q} (ht' : Tame s t) : TameP s (takeGrant t q) := by
  unfold takeGrant
  extract_lets -underBinder -merge +onlyGivenNames x0 x1
  try clear_value x0 x1
  extract_lets -underBinder -merge +onlyGivenNames x2
  have h3 : Tame s x2 := tame_ite (P := Tame s) (tame_bump ‹_›) ‹_›
  try clear_value x2
  extract_lets -underBinder -merge +onlyGivenNames x4
  have h5 : Tame s x4 := tame_mk ‹_›
  try clear_value x4
  extract_lets -underBinder -merge +onlyGivenNames x6
  have h7 : Tame s x6 := by
    unfold x6
    split
    · exact tame_ite (P := Tame s) (tame_giveCredit ‹_›) ‹_›
    · assumption
  try clear_value x6
  extract_lets -underBinder -merge +onlyGivenNames x8
  have h9 : Tame s x8 := by
    unfold x8
    split
    · refine tame_ite (P := Tame s) ‹_› ?_
      extract_lets -underBinder -merge +onlyGivenNames x10
      try clear_value x10
      exact tame_setLimiter ‹_›
    · assumption
  try clear_value x8
  extract_lets -underBinder -merge +onlyGivenNames x11
  have h12 : Tame s x11 := tame_withEgress ‹_›
  try clear_value x11
  exact tameP_mk (tame_dropRef ‹_›)
theorem tame_grantTorus {s : State} {t q} (ht' : Tame s t) : Tame s (grantTorus t q) := by
  unfold grantTorus
  extract_lets -underBinder -merge +onlyGivenNames x0
  have h1 : TameP s x0 := tameP_takeGrant ‹_›
  try clear_value x0
  extract_lets -underBinder -merge +onlyGivenNames x2
  have h3 : Tame s x2 := tame_withTorus (tame_fst ‹_›)
  try clear_value x2
  exact tame_sendUnit (tame_bump64 ‹_›)
theorem tame_countStalls {s : State} {t e} (ht' : Tame s t) : Tame s (countStalls t e) := by
  unfold countStalls
  refine tame_foldl (fun u0 y1 h2 => ?_) ‹_›
  extract_lets -underBinder -merge +onlyGivenNames x3
  try clear_value x3
  refine tame_ite (P := Tame s) ‹_› ?_
  extract_lets -underBinder -merge +onlyGivenNames x4
  try clear_value x4
  extract_lets -underBinder -merge +onlyGivenNames x5
  have h6 : Tame s x5 := tame_withEgress ‹_›
  try clear_value x5
  exact tame_ite (P := Tame s) (tame_bump64 ‹_›) ‹_›
theorem tame_sendControl {s : State} {t p} (ht' : Tame s t) : Tame s (sendControl t p) := by
  unfold sendControl
  extract_lets -underBinder -merge +onlyGivenNames x0
  try clear_value x0
  split
  · exact tame_bump (tame_emit (tame_withTorus ‹_›))
  · exact tame_emit (tame_withTorus ‹_›)
theorem tame_torusSlot {s : State} {t e} (ht' : Tame s t) : Tame s (torusSlot t e) := by
  unfold torusSlot
  extract_lets -underBinder -merge +onlyGivenNames x0
  have h1 : Tame s x0 := tame_countStalls (tame_slotGains ‹_›)
  try clear_value x0
  refine tame_ite (P := Tame s) (tame_sendControl ‹_›) ?_
  split
  · exact tame_emit (tame_bump (tame_scorePort (tame_withTorus ‹_›)))
  · refine tame_ite (P := Tame s) ‹_› ?_
    refine tame_ite (P := Tame s) (tame_sendCredit ‹_›) ?_
    extract_lets -underBinder -merge +onlyGivenNames x2
    try clear_value x2
    extract_lets -underBinder -merge +onlyGivenNames x3
    have h4 : Tame s x3 := tame_withEgress ‹_›
    try clear_value x3
    split
    · assumption
    · exact tame_bridgeGo (tame_grantTorus (tame_ite (P := Tame s) (tame_bump ‹_›) ‹_›))
theorem goes_execCreditDue {s : State} {p t} (ht' : Tame s t) : Goes s (execCreditDue p t) := by
  unfold execCreditDue
  exact tame_ite (P := Goes s) (goes_next (tame_torusSlot ‹_›)) (goes_next ‹_›)
theorem goes_execCellAged {s : State} {e t} (ht' : Tame s t) : Goes s (execCellAged e t) := by
  unfold execCellAged
  extract_lets -underBinder -merge +onlyGivenNames x0
  try clear_value x0
  exact goes_next (tame_mk ‹_›)

/-! ## Sync -/

theorem tame_withQueue {s : State} {t k f} (ht' : Tame s t) : Tame s (withQueue t k f) := by
  unfold withQueue
  exact tame_mk ‹_›
theorem tame_withCmd {s : State} {t k i f} (ht' : Tame s t) : Tame s (withCmd t k i f) := by
  unfold withCmd
  exact tame_withQueue ‹_›
theorem tame_endCmd {s : State} {t k i st} (ht' : Tame s t) : Tame s (endCmd t k i st) := by
  unfold endCmd
  exact tame_withCmd ‹_›
theorem tame_endCmdWith {s : State} {t k i st d} (ht' : Tame s t) : Tame s (endCmdWith t k i st d) := by
  unfold endCmdWith
  exact tame_withCmd ‹_›
theorem tame_endAll {s : State} {t ks st} (ht' : Tame s t) : Tame s (endAll t ks st) := by
  unfold endAll
  exact tame_foldl (fun u0 y1 h2 => tame_endCmd ‹_›) ‹_›
theorem tame_latchAll {s : State} {t} (ht' : Tame s t) : Tame s (latchAll t) := by
  unfold latchAll
  exact tame_mk ‹_›
theorem tame_post {s : State} {t o k v st} (ht' : Tame s t) : Tame s (post t o k v st) := by
  unfold post
  split
  · assumption
  · extract_lets -underBinder -merge +onlyGivenNames x0
    try clear_value x0
    extract_lets -underBinder -merge +onlyGivenNames x1
    have h2 : Tame s x1 := tame_setF (tame_wr64 ‹_›)
    try clear_value x1
    extract_lets -underBinder -merge +onlyGivenNames x3
    have h4 : Tame s x3 := tame_latchAll ‹_›
    try clear_value x3
    exact tame_ite (P := Tame s) ‹_› (tame_mk ‹_›)
theorem tame_postObject {s : State} {ps t o} (ht' : Tame s t) : Tame s (postObject ps t o) := by
  unfold postObject
  split
  · assumption
  · extract_lets -underBinder -merge +onlyGivenNames x0
    try clear_value x0
    extract_lets -underBinder -merge +onlyGivenNames x1 x2 x3
    try clear_value x1 x2 x3
    extract_lets -underBinder -merge +onlyGivenNames x4
    have h5 : Tame s x4 := tame_setF (tame_wr64 ‹_›)
    try clear_value x4
    exact tame_ite (P := Tame s) ‹_› (tame_mk ‹_›)
theorem tame_postAll {s : State} {t ps} (ht' : Tame s t) : Tame s (postAll t ps) := by
  unfold postAll
  exact tame_latchAll (tame_foldl (fun u0 y1 h2 => tame_postObject ‹_›) ‹_›)
theorem goes_execSyncPost {s : State} {r o v t} (ht' : Tame s t) : Goes s (execSyncPost r o v t) := by
  unfold execSyncPost
  exact goes_access ‹_› (fun u0 h1 => tame_post ‹_›)
theorem goes_execSignalWait {s : State} {c q i t} (ht' : Tame s t) : Goes s (execSignalWait c q i t) := by
  unfold execSignalWait
  extract_lets -underBinder -merge +onlyGivenNames x0
  try clear_value x0
  split
  · extract_lets -underBinder -merge +onlyGivenNames x1
    try clear_value x1
    exact tame_ite (P := Goes s) (goes_next (tame_endCmd (tame_withCmd ‹_›))) (goes_next ‹_›)
  · exact goes_next ‹_›
theorem goes_runCmd {s : State} {t c q i op f} (ht' : Tame s t) (hf' : ∀ u0 u1 u2, Tame s u0 → Tame s (f u0 u1 u2)) : Goes s
    (runCmd t c q i op f) := by
  unfold runCmd
  extract_lets -underBinder -merge +onlyGivenNames x0
  try clear_value x0
  split
  · exact tame_ite (P := Goes s) (goes_next (hf' _ _ _ (tame_withCmd ‹_›))) (goes_next ‹_›)
  · exact goes_next ‹_›
theorem goes_execSignalPost {s : State} {c q i t} (ht' : Tame s t) : Goes s (execSignalPost c q i t) := by
  unfold execSignalPost
  refine goes_runCmd ‹_› (fun u0 u1 u2 h3 => ?_)
  extract_lets -underBinder -merge +onlyGivenNames x4 x5
  try clear_value x4 x5
  exact tame_ite (P := Tame s) (tame_endCmd (tame_post ‹_›)) (tame_endCmd ‹_›)

/-! ## Queues -/

theorem tame_queError {s : State} {t k f} (ht' : Tame s t) : Tame s (queError t k f) := by
  unfold queError
  exact tame_ctxMsix (tame_setF (tame_setF ‹_›))
theorem tame_moved {s : State} {t k} (ht' : Tame s t) : Tame s (moved t k) := by
  unfold moved
  exact tame_withQueue ‹_›
theorem tame_doorbell {s : State} {t k v} (ht' : Tame s t) : Tame s (doorbell t k v) := by
  unfold doorbell
  refine tame_ite (P := Tame s) ‹_› ?_
  extract_lets -underBinder -merge +onlyGivenNames x0 x1 x2
  try clear_value x0 x1 x2
  exact tame_ite (P := Tame s) ‹_› (tame_ite (P := Tame s) (tame_wr ‹_›) (tame_ite (P := Tame s) (tame_queError ‹_›)
      (tame_queError ‹_›)))
theorem goes_execDoorbell {s : State} {r c q v t} (ht' : Tame s t) : Goes s (execDoorbell r c q v t) := by
  unfold execDoorbell
  exact goes_access ‹_› (fun u0 h1 => tame_doorbell ‹_›)
theorem tame_readSlots {s : State} {t k n} (ht' : Tame s t) : Tame s (readSlots t k n) := by
  unfold readSlots
  extract_lets -underBinder -merge +onlyGivenNames x0
  try clear_value x0
  extract_lets -underBinder -merge +onlyGivenNames x1
  have h2 : Tame s x1 := tame_ite (P := Tame s) ‹_› (tame_askHost ‹_›)
  try clear_value x1
  exact tame_ite (P := Tame s) (tame_askHost ‹_›) ‹_›
theorem tame_takeCmd {s : State} {t k b} (ht' : Tame s t) : Tame s (takeCmd t k b) := by
  unfold takeCmd
  extract_lets -underBinder -merge +onlyGivenNames x0 x1 x2
  try clear_value x0 x1 x2
  extract_lets -underBinder -merge +onlyGivenNames x3
  have h4 : Tame s x3 := tame_withQueue ‹_›
  try clear_value x3
  exact tame_wr ‹_›
theorem goes_execCommandFetch {s : State} {c q gen data t} (ht' : Tame s t) : Goes s (execCommandFetch c q gen data t) := by
  unfold execCommandFetch
  extract_lets -underBinder -merge +onlyGivenNames x0
  try clear_value x0
  refine tame_ite (P := Goes s) ?_ (goes_next ‹_›)
  split
  · exact goes_next (tame_queError (tame_readSlots ‹_›))
  · extract_lets -underBinder -merge +onlyGivenNames x1
    try clear_value x1
    exact tame_ite (P := Goes s) (goes_next ‹_›) (goes_next (tame_moved (tame_foldl (fun u2 y3 h4 => tame_takeCmd ‹_›)
        (tame_readSlots ‹_›))))
theorem goes_execCommandStart {s : State} {c q i t} (ht' : Tame s t) : Goes s (execCommandStart c q i t) := by
  unfold execCommandStart
  extract_lets -underBinder -merge +onlyGivenNames x0
  try clear_value x0
  split
  · exact goes_next ‹_›
  · extract_lets -underBinder -merge +onlyGivenNames x1
    try clear_value x1
    extract_lets -underBinder -merge +onlyGivenNames x2 x3
    try clear_value x2 x3
    refine tame_ite (P := Goes s) (goes_next ‹_›) ?_
    refine tame_ite (P := Goes s) (goes_next ‹_›) ?_
    extract_lets -underBinder -merge +onlyGivenNames x4
    try clear_value x4
    exact tame_ite (P := Goes s) (goes_next ‹_›) (tame_ite (P := Goes s) (goes_next (tame_endCmd ‹_›)) (tame_ite (P := Goes s)
        (goes_next (tame_endCmd ‹_›)) (goes_next (tame_withCmd ‹_›))))
theorem tame_compatReturn {s : State} {t k r blocked} (ht' : Tame s t) : Tame s (compatReturn t k r blocked) := by
  unfold compatReturn
  exact tame_emit ‹_›
theorem tame_returnHeld {s : State} {t k rs blocked} (ht' : Tame s t) : Tame s (returnHeld t k rs blocked) := by
  unfold returnHeld
  exact tame_foldl (fun u0 y1 h2 => tame_compatReturn ‹_›) (tame_withQueue ‹_›)
theorem tame_releaseHeld {s : State} {t k} (ht' : Tame s t) : Tame s (releaseHeld t k) := by
  unfold releaseHeld
  extract_lets -underBinder -merge +onlyGivenNames x0
  try clear_value x0
  exact tame_ite (P := Tame s) ‹_› (tame_returnHeld ‹_›)
theorem tame_writeRecord {s : State} {t k i st m} (ht' : Tame s t) : Tame s (writeRecord t k i st m) := by
  unfold writeRecord
  extract_lets -underBinder -merge +onlyGivenNames x0 x1
  try clear_value x0 x1
  refine tame_ite (P := Tame s) ?_ (tame_withQueue ‹_›)
  extract_lets -underBinder -merge +onlyGivenNames x2
  have h3 : Tame s x2 := tame_fst (tameP_memWrite ‹_›)
  try clear_value x2
  exact tame_ite (P := Tame s) (tame_ctxMsix ‹_›) ‹_›
theorem tame_advanceTide {s : State} {t c} (ht' : Tame s t) : Tame s (advanceTide t c) := by
  unfold advanceTide
  extract_lets -underBinder -merge +onlyGivenNames x0
  have h1 : Tame s x0 := tame_wr ‹_›
  try clear_value x0
  exact tame_mk ‹_›
theorem goes_execCommandComplete {s : State} {c q i t} (ht' : Tame s t) : Goes s (execCommandComplete c q i t) := by
  unfold execCommandComplete
  extract_lets -underBinder -merge +onlyGivenNames x0
  try clear_value x0
  split
  · exact goes_next ‹_›
  · split
    · exact goes_next ‹_›
    · extract_lets -underBinder -merge +onlyGivenNames x1
      have h2 : Tame s x1 := tame_withQueue ‹_›
      try clear_value x1
      extract_lets -underBinder -merge +onlyGivenNames x3
      have h4 : Tame s x3 := tame_ite (P := Tame s) (tame_advanceTide ‹_›) ‹_›
      try clear_value x3
      extract_lets -underBinder -merge +onlyGivenNames x5
      have h6 : Tame s x5 := tame_ite (P := Tame s) (tame_mk ‹_›) ‹_›
      try clear_value x5
      extract_lets -underBinder -merge +onlyGivenNames x7
      have h8 : Tame s x7 := tame_ite (P := Tame s) (tame_post ‹_›) ‹_›
      try clear_value x7
      extract_lets -underBinder -merge +onlyGivenNames x9
      have h10 : Tame s x9 := tame_writeRecord ‹_›
      try clear_value x9
      extract_lets -underBinder -merge +onlyGivenNames x11
      try clear_value x11
      extract_lets -underBinder -merge +onlyGivenNames x12
      have h13 : Tame s x12 := tame_withQueue ‹_›
      try clear_value x12
      extract_lets -underBinder -merge +onlyGivenNames x14
      have h15 : Tame s x14 := tame_wr ‹_›
      try clear_value x14
      extract_lets -underBinder -merge +onlyGivenNames x16
      have h17 : Tame s x16 := tame_wr ‹_›
      try clear_value x16
      exact goes_next (tame_releaseHeld (tame_moved ‹_›))
theorem goes_execMirrorWrite {s : State} {c q t} (ht' : Tame s t) : Goes s (execMirrorWrite c q t) := by
  unfold execMirrorWrite
  extract_lets -underBinder -merge +onlyGivenNames x0 x1
  try clear_value x0 x1
  refine tame_ite (P := Goes s) ?_ (goes_next ‹_›)
  extract_lets -underBinder -merge +onlyGivenNames x2
  have h3 : Tame s x2 := tame_withQueue ‹_›
  try clear_value x2
  exact goes_next (tame_fst (tameP_memWrite ‹_›))
theorem tame_compatRead {s : State} {t k r} (ht' : Tame s t) : Tame s (compatRead t k r) := by
  unfold compatRead
  exact tame_ite (P := Tame s) (tame_compatReturn ‹_›) (tame_ite (P := Tame s) (tame_compatReturn ‹_›) (tame_withQueue ‹_›))
theorem goes_execCompatBlockingDoorbell {s : State} {r c q t} (ht' : Tame s t) : Goes s (execCompatBlockingDoorbell r c q t) :=
    by
  unfold execCompatBlockingDoorbell
  exact goes_access ‹_› (fun u0 h1 => tame_compatRead ‹_›)
theorem goes_execCompatHoldExpiry {s : State} {c q t} (ht' : Tame s t) : Goes s (execCompatHoldExpiry c q t) := by
  unfold execCompatHoldExpiry
  extract_lets -underBinder -merge +onlyGivenNames x0 x1
  try clear_value x0 x1
  exact tame_ite (P := Goes s) (goes_next ‹_›) (goes_next (tame_returnHeld ‹_›))
theorem tame_enableQueue {s : State} {t k} (ht' : Tame s t) : Tame s (enableQueue t k) := by
  unfold enableQueue
  extract_lets -underBinder -merge +onlyGivenNames x0
  try clear_value x0
  extract_lets -underBinder -merge +onlyGivenNames x1
  have h2 : Tame s x1 := tame_setF ‹_›
  try clear_value x1
  extract_lets -underBinder -merge +onlyGivenNames x3
  have h4 : Tame s x3 := tame_foldl (fun u5 y6 h7 => tame_wr ‹_›) ‹_›
  try clear_value x3
  exact tame_releaseHeld (tame_withQueue ‹_›)
theorem tame_stopFetch {s : State} {t k} (ht' : Tame s t) : Tame s (stopFetch t k) := by
  unfold stopFetch
  exact tame_ite (P := Tame s) ‹_› (tame_withQueue ‹_›)
theorem tame_writeQueCtrl {s : State} {t k v} (ht' : Tame s t) : Tame s (writeQueCtrl t k v) := by
  unfold writeQueCtrl
  extract_lets -underBinder -merge +onlyGivenNames x0
  try clear_value x0
  extract_lets -underBinder -merge +onlyGivenNames x1
  have h2 : Tame s x1 := tame_ite (P := Tame s) ‹_› (tame_setF ‹_›)
  try clear_value x1
  extract_lets -underBinder -merge +onlyGivenNames x3
  have h4 : Tame s x3 := tame_ite (P := Tame s) (tame_ite (P := Tame s) (tame_setF ‹_›) (tame_queError ‹_›)) (tame_setF ‹_›)
  try clear_value x3
  exact tame_ite (P := Tame s) (tame_ite (P := Tame s) (tame_enableQueue ‹_›) (tame_queError ‹_›)) (tame_ite (P := Tame s)
      (tame_stopFetch (tame_setF ‹_›)) ‹_›)
theorem goes_execQueueEnable {s : State} {r c q v t} (ht' : Tame s t) : Goes s (execQueueEnable r c q v t) := by
  unfold execQueueEnable
  exact tame_ite (P := Goes s) (goes_access ‹_› (fun u0 h1 => tame_writeQueCtrl ‹_›)) (goes_next ‹_›)
theorem goes_execQueueDisable {s : State} {r c q v t} (ht' : Tame s t) : Goes s (execQueueDisable r c q v t) := by
  unfold execQueueDisable
  exact tame_ite (P := Goes s) (goes_access ‹_› (fun u0 h1 => tame_writeQueCtrl ‹_›)) (goes_next ‹_›)
theorem goes_execMirrorEnable {s : State} {r c q v t} (ht' : Tame s t) : Goes s (execMirrorEnable r c q v t) := by
  unfold execMirrorEnable
  exact tame_ite (P := Goes s) (goes_access ‹_› (fun u0 h1 => tame_writeQueCtrl ‹_›)) (goes_next ‹_›)

end Sys2Proof.Machine
end

