-- ==== Sys2Proof/Laws/Tame2.lean ====
section
/-! SUPPORT. `Tame` through the functions of Contexts, Flags, Layers, Reduce: one lemma per function. -/

namespace Sys2Proof.Machine

set_option linter.unusedVariables false

/-! ## Contexts -/

theorem tame_clearObjects {s : State} {t c} (ht' : Tame s t) : Tame s (clearObjects t c) := by
  unfold clearObjects
  refine tame_foldl (fun u0 y1 h2 => ?_) ‹_›
  extract_lets -underBinder -merge +onlyGivenNames x3
  try clear_value x3
  exact tame_setF (tame_wr64 ‹_›)
theorem tame_wipeUnder {s : State} {t w} (ht' : Tame s t) : Tame s (wipeUnder t w) := by
  unfold wipeUnder
  extract_lets -underBinder -merge +onlyGivenNames x0
  try clear_value x0
  exact tame_foldl (fun u1 y2 h3 => tame_wipe (tame_mk ‹_›)) ‹_›
theorem tameP_openCtx {s : State} {old c} (hold' : Tame s old) : TameP s (openCtx old c) := by
  unfold openCtx
  extract_lets -underBinder -merge +onlyGivenNames x0
  have h1 : Tame s x0 := tame_wipeUnder (tame_wipeUnder ‹_›)
  try clear_value x0
  extract_lets -underBinder -merge +onlyGivenNames x2
  have h3 : Tame s x2 := tame_setF ‹_›
  try clear_value x2
  extract_lets -underBinder -merge +onlyGivenNames x4
  have h5 : Tame s x4 := tame_setF ‹_›
  try clear_value x4
  extract_lets -underBinder -merge +onlyGivenNames x6
  have h7 : Tame s x6 := tame_setF ‹_›
  try clear_value x6
  extract_lets -underBinder -merge +onlyGivenNames x8
  have h9 : TameP s x8 := tameP_reserve ‹_›
  try clear_value x8
  extract_lets -underBinder -merge +onlyGivenNames x10
  have h11 : TameP s x10 := tameP_reserve (tame_fst ‹_›)
  try clear_value x10
  exact tame_ite (P := TameP s) (tameP_mk (tame_bump ‹_›)) (tameP_mk (tame_clearObjects (tame_wr (tame_fst ‹_›))))
theorem tame_ctxOpenWrite {s : State} {t r c v} (ht' : Tame s t) : Tame s (ctxOpenWrite t r c v) := by
  unfold ctxOpenWrite
  refine tame_ite (P := Tame s) ‹_› ?_
  extract_lets -underBinder -merge +onlyGivenNames x0
  try clear_value x0
  extract_lets -underBinder -merge +onlyGivenNames x1
  have h2 : TameP s x1 := tame_ite (P := TameP s) (tameP_openCtx ‹_›) (tameP_mk (tame_ite (P := Tame s) (tame_bump ‹_›) ‹_›))
  try clear_value x1
  exact tame_setF (tame_fst ‹_›)
theorem goes_execCtxOpen {s : State} {r c v t} (ht' : Tame s t) : Goes s (execCtxOpen r c v t) := by
  unfold execCtxOpen
  exact goes_access ‹_› (fun u0 h1 => tame_ctxOpenWrite ‹_›)
theorem tame_failUnstarted {s : State} {t k} (ht' : Tame s t) : Tame s (failUnstarted t k) := by
  unfold failUnstarted
  exact tame_withQueue ‹_›
theorem tame_failQueued {s : State} {t c} (ht' : Tame s t) : Tame s (failQueued t c) := by
  unfold failQueued
  exact tame_foldl (fun u0 y1 h2 => tame_ite (P := Tame s) (tame_endKernel ‹_›) ‹_›) ‹_›
theorem tame_ctxCloseWrite {s : State} {t r c v} (ht' : Tame s t) : Tame s (ctxCloseWrite t r c v) := by
  unfold ctxCloseWrite
  refine tame_ite (P := Tame s) ‹_› ?_
  extract_lets -underBinder -merge +onlyGivenNames x0
  have h1 : Tame s x0 := tame_failQueued (tame_setF ‹_›)
  try clear_value x0
  exact tame_foldl (fun u2 y3 h4 => tame_failUnstarted (tame_stopFetch ‹_›)) ‹_›
theorem goes_execCtxClose {s : State} {r c v t} (ht' : Tame s t) : Goes s (execCtxClose r c v t) := by
  unfold execCtxClose
  exact goes_access ‹_› (fun u0 h1 => tame_ctxCloseWrite ‹_›)

/-! ## Flags -/

theorem tame_stick {s : State} {t f b} (ht' : Tame s t) : Tame s (stick t f b) := by
  unfold stick
  exact tame_ite (P := Tame s) (tame_setF ‹_›) ‹_›
theorem tame_cayFlags {s : State} {t n f} (ht' : Tame s t) : Tame s (cayFlags t n f) := by
  unfold cayFlags
  exact tame_stick (tame_stick (tame_stick (tame_stick ‹_›)))
theorem tame_cayNv {s : State} {t n cause w} (ht' : Tame s t) : Tame s (cayNv t n cause w) := by
  unfold cayNv
  extract_lets -underBinder -merge +onlyGivenNames x0
  have h1 : Tame s x0 := tame_setF ‹_›
  try clear_value x0
  refine tame_ite (P := Tame s) ‹_› ?_
  extract_lets -underBinder -merge +onlyGivenNames x2
  have h3 : Tame s x2 := tame_wr ‹_›
  try clear_value x2
  extract_lets -underBinder -merge +onlyGivenNames x4
  have h5 : Tame s x4 := tame_wr ‹_›
  try clear_value x4
  extract_lets -underBinder -merge +onlyGivenNames x6
  have h7 : Tame s x6 := tame_wr ‹_›
  try clear_value x6
  exact tame_wr ‹_›
theorem tame_cwFlags {s : State} {t n f} (ht' : Tame s t) : Tame s (cwFlags t n f) := by
  unfold cwFlags
  exact tame_stick (tame_stick (tame_stick (tame_stick ‹_›)))
theorem tame_cwNv {s : State} {t n cause job group element} (ht' : Tame s t) : Tame s (cwNv t n cause job group element) := by
  unfold cwNv
  extract_lets -underBinder -merge +onlyGivenNames x0
  have h1 : Tame s x0 := tame_setF ‹_›
  try clear_value x0
  refine tame_ite (P := Tame s) ‹_› ?_
  extract_lets -underBinder -merge +onlyGivenNames x2
  have h3 : Tame s x2 := tame_wr ‹_›
  try clear_value x2
  exact tame_wr ‹_›

/-! ## Layers -/

theorem tame_withLayer {s : State} {t l f} (ht' : Tame s t) : Tame s (withLayer t l f) := by
  unfold withLayer
  exact tame_mk ‹_›
theorem tame_putJournal {s : State} {t l} (ht' : Tame s t) : Tame s (putJournal t l) := by
  unfold putJournal
  split
  · exact tame_poke ‹_›
  · assumption
theorem tame_moveJournal {s : State} {t l phase tide} (ht' : Tame s t) : Tame s (moveJournal t l phase tide) := by
  unfold moveJournal
  exact tame_putJournal (tame_wr (tame_setF ‹_›))
theorem tame_accAdd {s : State} {t a x} (ht' : Tame s t) : Tame s (accAdd t a x) := by
  unfold accAdd
  exact tame_poke ‹_›
theorem tame_withStep {s : State} {t c f} (ht' : Tame s t) : Tame s (withStep t c f) := by
  unfold withStep
  exact tame_mk ‹_›
theorem tame_addEvent {s : State} {t c kind source tag upstream group layer} (ht' : Tame s t) : Tame s (addEvent t c kind source
    tag upstream group layer) := by
  unfold addEvent
  extract_lets -underBinder -merge +onlyGivenNames x0
  try clear_value x0
  exact tame_withStep ‹_›
theorem tame_countNv {s : State} {t c layer n} (ht' : Tame s t) : Tame s (countNv t c layer n) := by
  unfold countNv
  exact tame_ite (P := Tame s) ‹_› (tame_withStep ‹_›)
theorem tame_stageElement {s : State} {t l x cay tag i e c} (ht' : Tame s t) : Tame s (stageElement t l x cay tag i e c) := by
  unfold stageElement
  extract_lets -underBinder -merge +onlyGivenNames x0
  try clear_value x0
  extract_lets -underBinder -merge +onlyGivenNames x1
  have h2 : Tame s x1 := tame_ite (P := Tame s) (tame_countNv (tame_cayNv ‹_›)) (tame_cayFlags ‹_›)
  try clear_value x1
  split
  · extract_lets -underBinder -merge +onlyGivenNames x3
    try clear_value x3
    extract_lets -underBinder -merge +onlyGivenNames x4
    have h5 : Tame s x4 := tame_accAdd ‹_›
    try clear_value x4
    exact tame_accAdd ‹_›
  · extract_lets -underBinder -merge +onlyGivenNames x6
    have h7 : Tame s x6 := tame_withLayer ‹_›
    try clear_value x6
    split
    · exact tame_poke ‹_›
    · assumption
  · assumption
theorem tame_stageValues {s : State} {t l cay addr tag first cs} (ht' : Tame s t) : Tame s (stageValues t l cay addr tag first
    cs) := by
  unfold stageValues
  refine tame_foldl (fun u0 y1 h2 => ?_) (tame_poke ‹_›)
  split
  · exact tame_stageElement ‹_›
  · assumption
theorem tame_withEntry {s : State} {t c layer f} (ht' : Tame s t) : Tame s (withEntry t c layer f) := by
  unfold withEntry
  exact tame_withStep ‹_›
theorem tame_withHome {s : State} {t c g num f} (ht' : Tame s t) : Tame s (withHome t c g num f) := by
  unfold withHome
  exact tame_mk ‹_›
theorem tame_settleHome {s : State} {t x b zero} (ht' : Tame s t) : Tame s (settleHome t x b zero) := by
  unfold settleHome
  extract_lets -underBinder -merge +onlyGivenNames x0
  try clear_value x0
  split
  · refine tame_ite (P := Tame s) ‹_› ?_
    extract_lets -underBinder -merge +onlyGivenNames x1
    try clear_value x1
    exact tame_cayFlags (tame_withHome ‹_›)
  · assumption
theorem tame_releaseStaging {s : State} {t l tags} (ht' : Tame s t) : Tame s (releaseStaging t l tags) := by
  unfold releaseStaging
  exact tame_releaseAllocs ‹_›
theorem tame_dropStaged {s : State} {t l} (ht' : Tame s t) : Tame s (dropStaged t l) := by
  unfold dropStaged
  split
  · extract_lets -underBinder -merge +onlyGivenNames x0
    have h1 : Tame s x0 := tame_foldl (fun u2 y3 h4 => tame_ite (P := Tame s) (tame_settleHome ‹_›) ‹_›) ‹_›
    try clear_value x0
    exact tame_withLayer (tame_releaseStaging ‹_›)
  · assumption
theorem tame_clearScratchpad {s : State} {t l} (ht' : Tame s t) : Tame s (clearScratchpad t l) := by
  unfold clearScratchpad
  split
  · extract_lets -underBinder -merge +onlyGivenNames x0
    have h1 : Tame s x0 := tame_wipe ‹_›
    try clear_value x0
    extract_lets -underBinder -merge +onlyGivenNames x2
    have h3 : Tame s x2 := tame_wipe ‹_›
    try clear_value x2
    extract_lets -underBinder -merge +onlyGivenNames x4
    have h5 : Tame s x4 := tame_wipe ‹_›
    try clear_value x4
    extract_lets -underBinder -merge +onlyGivenNames x6
    have h7 : Tame s x6 := tame_setF (tame_setF ‹_›)
    try clear_value x6
    exact tame_withLayer ‹_›
  · assumption
theorem tame_recordTide {s : State} {t l st f} (ht' : Tame s t) : Tame s (recordTide t l st f) := by
  unfold recordTide
  split
  · assumption
  · extract_lets -underBinder -merge +onlyGivenNames x0
    try clear_value x0
    extract_lets -underBinder -merge +onlyGivenNames x1
    try clear_value x1
    extract_lets -underBinder -merge +onlyGivenNames x2
    have h3 : Tame s x2 := tame_withEntry ‹_›
    try clear_value x2
    exact tame_withLayer ‹_›
theorem tame_endTide {s : State} {t l st f} (ht' : Tame s t) : Tame s (endTide t l st f) := by
  unfold endTide
  split
  · assumption
  · exact tame_post (tame_recordTide ‹_›)
theorem tame_sendBack {s : State} {t l} (ht' : Tame s t) : Tame s (sendBack t l) := by
  unfold sendBack
  split
  · assumption
  · refine tame_ite (P := Tame s) ?_ ‹_›
    refine tame_foldl (fun u0 y1 h2 => ?_) (tame_withLayer ‹_›)
    split
    · have h3 := tame_of_eq (P := TameP s) ‹_ = _› (tameP_memRead ‹_›)
      exact tame_fst (tameP_memWrite ‹_›)
    · have h4 := tame_of_eq (P := TameP s) ‹_ = _› (tameP_memRead ‹_›)
      assumption
theorem tame_sendBacks {s : State} {t} (ht' : Tame s t) : Tame s (sendBacks t) := by
  unfold sendBacks
  exact tame_foldl (fun u0 y1 h2 => tame_sendBack ‹_›) ‹_›
theorem tame_nextMoves {s : State} {t k} (ht' : Tame s t) : Tame s (nextMoves t k) := by
  unfold nextMoves
  exact tame_sendBacks (tame_endMove ‹_›)
theorem tame_dropCache {s : State} {t l} (ht' : Tame s t) : Tame s (dropCache t l) := by
  unfold dropCache
  exact tame_nextMoves (tame_withLayer ‹_›)
theorem tame_leaveLayer {s : State} {t l st} (ht' : Tame s t) : Tame s (leaveLayer t l st) := by
  unfold leaveLayer
  split
  · assumption
  · extract_lets -underBinder -merge +onlyGivenNames x0
    try clear_value x0
    extract_lets -underBinder -merge +onlyGivenNames x1
    have h2 : Tame s x1 := tame_dropStaged ‹_›
    try clear_value x1
    extract_lets -underBinder -merge +onlyGivenNames x3
    have h4 : Tame s x3 := tame_recordTide ‹_›
    try clear_value x3
    extract_lets -underBinder -merge +onlyGivenNames x5
    have h6 : Tame s x5 := tame_bump (tame_clearScratchpad ‹_›)
    try clear_value x5
    extract_lets -underBinder -merge +onlyGivenNames x7
    have h8 : Tame s x7 := tame_withLayer ‹_›
    try clear_value x7
    exact tame_dropCache (tame_moveJournal ‹_›)
theorem tame_abandon {s : State} {t l st} (ht' : Tame s t) : Tame s (abandon t l st) := by
  unfold abandon
  split
  · assumption
  · exact tame_post (tame_leaveLayer ‹_›)
theorem tame_breakLayer {s : State} {t l st} (ht' : Tame s t) : Tame s (breakLayer t l st) := by
  unfold breakLayer
  extract_lets -underBinder -merge +onlyGivenNames x0
  have h1 : Tame s x0 := tame_dropStaged ‹_›
  try clear_value x0
  extract_lets -underBinder -merge +onlyGivenNames x2
  have h3 : Tame s x2 := tame_setF ‹_›
  try clear_value x2
  extract_lets -underBinder -merge +onlyGivenNames x4
  have h5 : Tame s x4 := tame_bump (tame_endTide ‹_›)
  try clear_value x4
  extract_lets -underBinder -merge +onlyGivenNames x6
  have h7 : Tame s x6 := tame_withLayer ‹_›
  try clear_value x6
  exact tame_dropCache (tame_putJournal ‹_›)
theorem tame_haltLayer {s : State} {t l st} (ht' : Tame s t) : Tame s (haltLayer t l st) := by
  unfold haltLayer
  split
  · assumption
  · refine tame_ite (P := Tame s) ‹_› ?_
    extract_lets -underBinder -merge +onlyGivenNames x0
    try clear_value x0
    extract_lets -underBinder -merge +onlyGivenNames x1
    have h2 : Tame s x1 := tame_withLayer (tame_dropStaged ‹_›)
    try clear_value x1
    exact tame_ite (P := Tame s) ‹_› (tame_abandon ‹_›)
theorem tame_stopUpdate {s : State} {t l st} (ht' : Tame s t) : Tame s (stopUpdate t l st) := by
  unfold stopUpdate
  split
  · assumption
  · exact tame_ite (P := Tame s) (tame_abandon ‹_›) (tame_ite (P := Tame s) (tame_breakLayer ‹_›) ‹_›)
theorem tame_tryFetch {s : State} {t l} (ht' : Tame s t) : Tame s (tryFetch t l) := by
  unfold tryFetch
  split
  · assumption
  · refine tame_ite (P := Tame s) ‹_› ?_
    split
    · assumption
    · exact tame_addMove (tame_withLayer ‹_›)
theorem tame_askState {s : State} {t l} (ht' : Tame s t) : Tame s (askState t l) := by
  unfold askState
  split
  · assumption
  · exact tame_ite (P := Tame s) ‹_› (tame_tryFetch (tame_withLayer ‹_›))
theorem tame_startBack {s : State} {t l} (ht' : Tame s t) : Tame s (startBack t l) := by
  unfold startBack
  split
  · assumption
  · split
    · refine tame_ite (P := Tame s) ‹_› ?_
      extract_lets -underBinder -merge +onlyGivenNames x0
      try clear_value x0
      exact tame_sendBacks (tame_addMove (tame_withLayer ‹_›))
    · assumption
theorem tame_retryFetches {s : State} {t c} (ht' : Tame s t) : Tame s (retryFetches t c) := by
  unfold retryFetches
  exact tame_foldl (fun u0 y1 h2 => tame_ite (P := Tame s) (tame_tryFetch ‹_›) ‹_›) ‹_›
theorem goes_execLayerWritebackDone {s : State} {l t} (ht' : Tame s t) : Goes s (execLayerWritebackDone l t) := by
  unfold execLayerWritebackDone
  split
  · exact goes_next ‹_›
  · refine tame_ite (P := Goes s) ?_ (goes_next ‹_›)
    extract_lets -underBinder -merge +onlyGivenNames x0
    have h1 : Tame s x0 := tame_withLayer ‹_›
    try clear_value x0
    exact goes_next (tame_retryFetches (tame_nextMoves ‹_›))
theorem tame_convertSpill {s : State} {t l b} (ht' : Tame s t) : Tame s (convertSpill t l b) := by
  unfold convertSpill
  split
  · refine tame_ite (P := Tame s) ‹_› ?_
    refine tame_ite (P := Tame s) (tame_haltLayer ‹_›) ?_
    extract_lets -underBinder -merge +onlyGivenNames x0 x1
    try clear_value x0 x1
    extract_lets -underBinder -merge +onlyGivenNames x2
    have h3 : Tame s x2 := tame_foldl (fun u4 y5 h6 => tame_cayFlags ‹_›) ‹_›
    try clear_value x2
    extract_lets -underBinder -merge +onlyGivenNames x7
    have h8 : Tame s x7 := tame_stageValues ‹_›
    try clear_value x7
    extract_lets -underBinder -merge +onlyGivenNames x9
    have h10 : Tame s x9 := tame_releaseAllocs (tame_settleHome ‹_›)
    try clear_value x9
    exact tame_withLayer ‹_›
  · assumption
theorem tame_convertSpills {s : State} {t l} (ht' : Tame s t) : Tame s (convertSpills t l) := by
  unfold convertSpills
  split
  · exact tame_foldl (fun u0 y1 h2 => tame_convertSpill ‹_›) ‹_›
  · assumption
theorem tame_enterNv {s : State} {t l x invalid per cs} (ht' : Tame s t) : Tame s (enterNv t l x invalid per cs) := by
  unfold enterNv
  extract_lets -underBinder -merge +onlyGivenNames x0 x1
  try clear_value x0 x1
  extract_lets -underBinder -merge +onlyGivenNames x2
  have h3 : Tame s x2 := tame_foldl (fun u4 y5 h6 => tame_cayNv ‹_›) ‹_›
  try clear_value x2
  extract_lets -underBinder -merge +onlyGivenNames x7
  try clear_value x7
  exact tame_countNv ‹_›
theorem goes_layerStatePresent {s : State} {l t} (ht' : Tame s t) : Goes s (layerStatePresent l t) := by
  unfold layerStatePresent
  split
  · exact goes_next ‹_›
  · split
    · exact goes_next ‹_›
    · refine tame_ite (P := Goes s) (goes_next ‹_›) ?_
      extract_lets -underBinder -merge +onlyGivenNames x0
      try clear_value x0
      extract_lets -underBinder -merge +onlyGivenNames x1
      have h2 : ∀ u3 u4, Tame s u3 → TameP s (x1 u3 u4) := by
        intro u3 u4 g5
        unfold x1
        exact tameP_memRead ‹_›
      try clear_value x1
      extract_lets -underBinder -merge +onlyGivenNames x6
      have h7 : Tame s x6 := by
        unfold x6
        refine tame_foldl (fun u8 y9 h10 => ?_) ‹_›
        split
        · have h11 := tame_of_eq (P := TameP s) ‹_ = _› (h2 _ _ ‹_›)
          exact tame_poke ‹_›
        · have h12 := tame_of_eq (P := TameP s) ‹_ = _› (h2 _ _ ‹_›)
          assumption
      try clear_value x6
      extract_lets -underBinder -merge +onlyGivenNames x13
      try clear_value x13
      extract_lets -underBinder -merge +onlyGivenNames x14
      have h15 : Tame s x14 := tame_enterNv ‹_›
      try clear_value x14
      extract_lets -underBinder -merge +onlyGivenNames x16
      have h17 : Tame s x16 := tame_ite (P := Tame s) ‹_› (tame_enterNv ‹_›)
      try clear_value x16
      extract_lets -underBinder -merge +onlyGivenNames x18
      have h19 : Tame s x18 := tame_enterNv ‹_›
      try clear_value x18
      extract_lets -underBinder -merge +onlyGivenNames x20
      have h21 : Tame s x20 := tame_nextMoves (tame_withLayer ‹_›)
      try clear_value x20
      exact goes_next (tame_convertSpills ‹_›)
theorem goes_execLayerStateTimeout {s : State} {l t} (ht' : Tame s t) : Goes s (execLayerStateTimeout l t) := by
  unfold execLayerStateTimeout
  split
  · exact goes_next ‹_›
  · split
    · exact goes_next ‹_›
    · exact tame_ite (P := Goes s) (goes_next (tame_abandon ‹_›)) (goes_next ‹_›)
theorem tameP_takeScratch {s : State} {t l} (ht' : Tame s t) : TameP s (takeScratch t l) := by
  unfold takeScratch
  split
  · exact tameP_mk ‹_›
  · extract_lets -underBinder -merge +onlyGivenNames x0
    have h1 : TameP s x0 := tameP_reserve ‹_›
    try clear_value x0
    exact tameP_mk (tame_withLayer (tame_fst ‹_›))
theorem tame_resetJournal {s : State} {t l x} (ht' : Tame s t) : Tame s (resetJournal t l x) := by
  unfold resetJournal
  extract_lets -underBinder -merge +onlyGivenNames x0
  have h1 : Tame s x0 := tame_wipe ‹_›
  try clear_value x0
  extract_lets -underBinder -merge +onlyGivenNames x2
  have h3 : Tame s x2 := tame_clearScratchpad ‹_›
  try clear_value x2
  extract_lets -underBinder -merge +onlyGivenNames x4
  have h5 : Tame s x4 := tame_wr ‹_›
  try clear_value x4
  exact tame_moveJournal ‹_›
theorem tameP_installLayer {s : State} {t c l d} (ht' : Tame s t) : TameP s (installLayer t c l d) := by
  unfold installLayer
  extract_lets -underBinder -merge +onlyGivenNames x0
  have h1 : Tame s x0 := tame_ite (P := Tame s) (tame_dropCache (tame_releaseAllocs ‹_›)) ‹_›
  try clear_value x0
  extract_lets -underBinder -merge +onlyGivenNames x2 x3
  try clear_value x2 x3
  extract_lets -underBinder -merge +onlyGivenNames x4
  have h5 : TameP s x4 := tameP_takeScratch (tame_mk ‹_›)
  try clear_value x4
  split
  · exact tameP_mk (tame_fst ‹_›)
  · exact tameP_mk (tame_resetJournal (tame_fst ‹_›))
theorem tame_countShort {s : State} {t c e} (ht' : Tame s t) : Tame s (countShort t c e) := by
  unfold countShort
  exact tame_ite (P := Tame s) (tame_bump ‹_›) (tame_bump ‹_›)
theorem tame_dropGroupMem {s : State} {t g} (ht' : Tame s t) : Tame s (dropGroupMem t g) := by
  unfold dropGroupMem
  extract_lets -underBinder -merge +onlyGivenNames x0
  have h1 : Tame s x0 := tame_releaseAllocs ‹_›
  try clear_value x0
  exact tame_mk ‹_›
theorem tame_endSlot {s : State} {t g} (ht' : Tame s t) : Tame s (endSlot t g) := by
  unfold endSlot
  split
  · exact tame_foldl (fun u0 y1 h2 => tame_endCmd ‹_›) ‹_›
  · assumption
theorem tameO_installGroup {s : State} {t c g d} (h : Tame s t) : TameO s (installGroup t c g d) := by
  have hd : Tame s (dropGroupMem (endSlot t g) g) := tame_dropGroupMem (tame_endSlot h)
  unfold installGroup
  refine tame_ite (P := TameO s) (tameO_map fun k => ?_) ?_
  · exact tame_mk (tame_mk hd)
  · exact tameO_some (tame_mk hd)
theorem tameP_readLayer {s : State} {t c gs la} (ht' : Tame s t) : TameP s (readLayer t c gs la) := by
  unfold readLayer
  refine tame_ite (P := TameP s) (tameP_mk ‹_›) ?_
  split
  · have h0 := tame_of_eq (P := TameP s) ‹_ = _› (tameP_memRead ‹_›)
    exact tameP_mk ‹_›
  · have h1 := tame_of_eq (P := TameP s) ‹_ = _› (tameP_memRead ‹_›)
    extract_lets -underBinder -merge +onlyGivenNames x2
    try clear_value x2
    exact tame_ite (P := TameP s) (tameP_mk ‹_›) (tame_ite (P := TameP s) (tameP_mk ‹_›) (tameP_mk ‹_›))
theorem tame_bindInstall {s : State} {t k i c g d x} (ht' : Tame s t) : Tame s (bindInstall t k i c g d x) := by
  unfold bindInstall
  split
  · exact tame_endCmd ‹_›
  · have h0 := tame_of_eq (P := TameO s) ‹_ = _› (tameO_installGroup ‹_›)
    split
    · exact tame_endCmdWith ‹_›
    · split
      · exact tame_endCmd ‹_›
      · split
        · have h1 := tame_of_eq (P := TameP s) ‹_ = _› (tameP_installLayer ‹_›)
          exact tame_endCmd (tame_countShort ‹_›)
        · have h2 := tame_of_eq (P := TameP s) ‹_ = _› (tameP_installLayer ‹_›)
          exact tame_endCmdWith ‹_›
theorem tame_layerBind {s : State} {t k i c b} (ht' : Tame s t) : Tame s (layerBind t k i c b) := by
  unfold layerBind
  extract_lets -underBinder -merge +onlyGivenNames x0 x1
  try clear_value x0 x1
  refine tame_ite (P := Tame s) (tame_endCmd ‹_›) ?_
  split
  · have h2 := tame_of_eq (P := TameP s) ‹_ = _› (tameP_memRead ‹_›)
    exact tame_endCmd ‹_›
  · have h3 := tame_of_eq (P := TameP s) ‹_ = _› (tameP_memRead ‹_›)
    refine tame_ite (P := Tame s) (tame_endCmd ‹_›) ?_
    refine tame_ite (P := Tame s) ?_ (tame_ite (P := Tame s) (tame_endCmd ‹_›) (tame_bindInstall ‹_›))
    split
    · have h4 := tame_of_eq (P := TameP s) ‹_ = _› (tameP_readLayer ‹_›)
      exact tame_endCmd ‹_›
    · have h5 := tame_of_eq (P := TameP s) ‹_ = _› (tameP_readLayer ‹_›)
      exact tame_ite (P := Tame s) (tame_endCmd ‹_›) (tame_bindInstall ‹_›)
theorem goes_execLayerBind {s : State} {c q i t} (ht' : Tame s t) : Goes s (execLayerBind c q i t) := by
  unfold execLayerBind
  exact goes_runCmd ‹_› (fun u0 u1 u2 h3 => tame_layerBind ‹_›)
theorem tame_programLoad {s : State} {t k i c b} (ht' : Tame s t) : Tame s (programLoad t k i c b) := by
  unfold programLoad
  extract_lets -underBinder -merge +onlyGivenNames x0 x1 x2 x3 x4
  try clear_value x0 x1 x2 x3 x4
  refine tame_ite (P := Tame s) (tame_endCmd ‹_›) ?_
  split
  · have h5 := tame_of_eq (P := TameP s) ‹_ = _› (tameP_memRead ‹_›)
    exact tame_endCmd ‹_›
  · have h6 := tame_of_eq (P := TameP s) ‹_ = _› (tameP_memRead ‹_›)
    refine tame_ite (P := Tame s) (tame_endCmd ‹_›) ?_
    refine tame_ite (P := Tame s) (tame_endCmd ‹_›) ?_
    extract_lets -underBinder -merge +onlyGivenNames x7
    have h8 : TameP s x7 := tameP_memRead ‹_›
    try clear_value x7
    extract_lets -underBinder -merge +onlyGivenNames x9
    have h10 : TameP s x9 := tameP_memRead (tame_fst ‹_›)
    try clear_value x9
    split
    · refine tame_endCmd ?_
      extract_lets -underBinder -merge +onlyGivenNames x11
      have h12 : Tame s x11 := tame_fst ‹_›
      try clear_value x11
      exact tame_mk ‹_›
    · exact tame_endCmd (tame_fst ‹_›)
    · exact tame_endCmd (tame_fst ‹_›)
    · exact tame_endCmd (tame_fst ‹_›)
theorem goes_execUpdateProgramLoad {s : State} {c q i t} (ht' : Tame s t) : Goes s (execUpdateProgramLoad c q i t) := by
  unfold execUpdateProgramLoad
  exact goes_runCmd ‹_› (fun u0 u1 u2 h3 => tame_programLoad ‹_›)

/-! ## Reduce -/

theorem tame_withBucket {s : State} {t b f} (ht' : Tame s t) : Tame s (withBucket t b f) := by
  unfold withBucket
  exact tame_mk ‹_›
theorem tame_grantPort {s : State} {t e p k status} (ht' : Tame s t) : Tame s (grantPort t e p k status) := by
  unfold grantPort
  exact tame_sendPort ‹_›
theorem tame_grantAcc {s : State} {t e a k status} (ht' : Tame s t) : Tame s (grantAcc t e a k status) := by
  unfold grantAcc
  exact tame_sendAcc ‹_›
theorem tame_deferValues {s : State} {t r i xs} (ht' : Tame s t) : Tame s (deferValues t r i xs) := by
  unfold deferValues
  split
  · refine tame_ite (P := Tame s) ?_ (tame_withBucket ‹_›)
    extract_lets -underBinder -merge +onlyGivenNames x0
    try clear_value x0
    exact tame_cayFlags (tame_withBucket ‹_›)
  · split
    · refine tame_ite (P := Tame s) (tame_withHome ‹_›) ?_
      extract_lets -underBinder -merge +onlyGivenNames x1
      try clear_value x1
      exact tame_cayFlags (tame_withHome ‹_›)
    · assumption
theorem tame_flushDeferred {s : State} {t b} (ht' : Tame s t) : Tame s (flushDeferred t b) := by
  unfold flushDeferred
  split
  · assumption
  · extract_lets -underBinder -merge +onlyGivenNames x0
    try clear_value x0
    exact tame_cayFlags (tame_withBucket ‹_›)
theorem tame_returnPool {s : State} {t b} (ht' : Tame s t) : Tame s (returnPool t b) := by
  unfold returnPool
  split
  · split
    · exact tame_withBucket (tame_poolReturn ‹_›)
    · assumption
  · assumption
theorem tameO_drawOn {s : State} {t d u charge} (ht' : Tame s t) : TameO s (drawOn t d u charge) := by
  unfold drawOn
  split
  · exact tameO_map (fun u0 => tame_mk ‹_›)
  · exact tame_ite (P := TameO s) (tameO_some ‹_›) tameO_none
theorem goes_execPoolAllocate {s : State} {d u charge t} (ht' : Tame s t) : Goes s (execPoolAllocate d u charge t) := by
  unfold execPoolAllocate
  split
  · have h0 := tame_of_eq (P := TameOQ s) ‹_ = _› (tameOQ_bind (tameO_drawOn ‹_›) (fun u1 h2 => tameOQ_poolAlloc ‹_›))
    exact goes_next (tame_snd ‹_›)
  · exact goes_next ‹_›
theorem tame_releaseBucket {s : State} {t b} (ht' : Tame s t) : Tame s (releaseBucket t b) := by
  unfold releaseBucket
  split
  · assumption
  · extract_lets -underBinder -merge +onlyGivenNames x0
    try clear_value x0
    extract_lets -underBinder -merge +onlyGivenNames x1
    try clear_value x1
    extract_lets -underBinder -merge +onlyGivenNames x2
    have h3 : Tame s x2 := tame_nextMoves ‹_›
    try clear_value x2
    extract_lets -underBinder -merge +onlyGivenNames x4
    have h5 : Tame s x4 := tame_releaseAllocs ‹_›
    try clear_value x4
    exact tame_withBucket (tame_returnPool ‹_›)
theorem tame_writeBack {s : State} {t b} (ht' : Tame s t) : Tame s (writeBack t b) := by
  unfold writeBack
  split
  · exact tame_ite (P := Tame s) (tame_sendBacks (tame_addMove (tame_withHome ‹_›))) ‹_›
  · assumption
theorem tame_freeKept {s : State} {t b} (ht' : Tame s t) : Tame s (freeKept t b) := by
  unfold freeKept
  split
  · split
    · assumption
    · exact tame_withBucket (tame_poolFreeChain ‹_›)
  · assumption
theorem tame_chunkPosts {s : State} {n t b} (h : Tame s t) : Tame s (chunkPosts n t b) := by
  induction n generalizing t with
  | zero => exact h
  | succ n ih =>
    unfold chunkPosts
    split
    · exact h
    · split
      · exact h
      · split
        · exact h
        · refine tame_ite (P := Tame s) h (tame_ite (P := Tame s) ?_ (tame_ite (P := Tame s) ?_ h))
          · exact ih (tame_post (tame_withBucket h))
          · exact tame_post (tame_withBucket h)
theorem tame_elemsDone {s : State} {t b n} (ht' : Tame s t) : Tame s (elemsDone t b n) := by
  unfold elemsDone
  exact tame_chunkPosts (tame_withBucket ‹_›)
theorem tame_endReduce {s : State} {t b} (ht' : Tame s t) : Tame s (endReduce t b) := by
  unfold endReduce
  split
  · split
    · exact tame_endCmdWith ‹_›
    · assumption
  · assumption
theorem tame_settleLayer {s : State} {t c layer} (ht' : Tame s t) : Tame s (settleLayer t c layer) := by
  unfold settleLayer
  split
  · split
    · exact tame_ite (P := Tame s) ‹_› (tame_abandon ‹_›)
    · assumption
  · assumption
theorem tame_endBucket {s : State} {t b st} (ht' : Tame s t) : Tame s (endBucket t b st) := by
  unfold endBucket
  split
  · assumption
  · extract_lets -underBinder -merge +onlyGivenNames x0
    have h1 : Tame s x0 := tame_flushDeferred ‹_›
    try clear_value x0
    extract_lets -underBinder -merge +onlyGivenNames x2
    have h3 : Tame s x2 := tame_writeBack ‹_›
    try clear_value x2
    extract_lets -underBinder -merge +onlyGivenNames x4
    have h5 : Tame s x4 := tame_freeKept ‹_›
    try clear_value x4
    extract_lets -underBinder -merge +onlyGivenNames x6
    have h7 : Tame s x6 := tame_withBucket ‹_›
    try clear_value x6
    extract_lets -underBinder -merge +onlyGivenNames x8
    have h9 : Tame s x8 := tame_releaseBucket ‹_›
    try clear_value x8
    extract_lets -underBinder -merge +onlyGivenNames x10
    have h11 : Tame s x10 := by
      unfold x10
      split
      · exact tame_ite (P := Tame s) (tame_ite (P := Tame s) (tame_ite (P := Tame s) (tame_releaseStaging ‹_›) ‹_›)
            (tame_haltLayer (tame_releaseStaging ‹_›))) ‹_›
      · assumption
    try clear_value x10
    exact tame_settleLayer (tame_endReduce ‹_›)
theorem tame_fenceBucket {s : State} {t b} (ht' : Tame s t) : Tame s (fenceBucket t b) := by
  unfold fenceBucket
  split
  · exact tame_ite (P := Tame s) (tame_endBucket ‹_›) ‹_›
  · assumption
theorem tame_recordLate {s : State} {t c d arm port tag group} (ht' : Tame s t) : Tame s (recordLate t c d arm port tag group)
    := by
  unfold recordLate
  extract_lets -underBinder -merge +onlyGivenNames x0
  try clear_value x0
  extract_lets -underBinder -merge +onlyGivenNames x1
  have h2 : Tame s x1 := tame_bump ‹_›
  try clear_value x1
  extract_lets -underBinder -merge +onlyGivenNames x3
  have h4 : Tame s x3 := tame_withStep ‹_›
  try clear_value x3
  exact tame_addEvent ‹_›
theorem tame_lateDone {s : State} {t r} (ht' : Tame s t) : Tame s (lateDone t r) := by
  unfold lateDone
  extract_lets -underBinder -merge +onlyGivenNames x0
  try clear_value x0
  exact tame_ite (P := Tame s) (tame_sendPort ‹_›) (tame_sendAcc ‹_›)
theorem tame_exclude {s : State} {t b arm port} (ht' : Tame s t) : Tame s (exclude t b arm port) := by
  unfold exclude
  split
  · assumption
  · extract_lets -underBinder -merge +onlyGivenNames x0
    try clear_value x0
    extract_lets -underBinder -merge +onlyGivenNames x1
    try clear_value x1
    extract_lets -underBinder -merge +onlyGivenNames x2
    have h3 : Tame s x2 := tame_recordLate ‹_›
    try clear_value x2
    extract_lets -underBinder -merge +onlyGivenNames x4 x5 x6
    try clear_value x4 x5 x6
    extract_lets -underBinder -merge +onlyGivenNames x7
    have h8 : Tame s x7 := tame_withBucket ‹_›
    try clear_value x7
    extract_lets -underBinder -merge +onlyGivenNames x9
    have h10 : Tame s x9 := tame_ite (P := Tame s) (tame_foldl (fun u11 y12 h13 => tame_deferValues ‹_›) ‹_›) ‹_›
    try clear_value x9
    exact tame_ite (P := Tame s) (tame_lateDone ‹_›) (tame_mk ‹_›)
theorem tame_sendKept {s : State} {t b p x} (ht' : Tame s t) : Tame s (sendKept t b p x) := by
  unfold sendKept
  split
  · assumption
  · extract_lets -underBinder -merge +onlyGivenNames x0
    try clear_value x0
    extract_lets -underBinder -merge +onlyGivenNames x1 x2 x3 x4
    try clear_value x1 x2 x3 x4
    split
    · exact tame_injectAt ‹_›
    · have h5 := tame_of_eq (P := TameOQ s) ‹_ = _› (tameOQ_poolAlloc ‹_›)
      extract_lets -underBinder -merge +onlyGivenNames x6
      have h7 : Tame s x6 := tame_poolShare ‹_›
      try clear_value x6
      extract_lets -underBinder -merge +onlyGivenNames x8
      have h9 : Tame s x8 := by
        unfold x8
        split
        · exact tame_poolLink ‹_›
        · assumption
      try clear_value x8
      extract_lets -underBinder -merge +onlyGivenNames x10
      have h11 : Tame s x10 := tame_withBucket ‹_›
      try clear_value x10
      exact tame_injectAt ‹_›
theorem tame_sendS1Cell {s : State} {t b p vc j e} (ht' : Tame s t) : Tame s (sendS1Cell t b p vc j e) := by
  unfold sendS1Cell
  extract_lets -underBinder -merge +onlyGivenNames x0 x1 x2 x3 x4 x5
  try clear_value x0 x1 x2 x3 x4 x5
  extract_lets -underBinder -merge +onlyGivenNames x6
  have h7 : Tame s x6 := tame_cayFlags ‹_›
  try clear_value x6
  extract_lets -underBinder -merge +onlyGivenNames x8
  have h9 : Tame s x8 := tame_withBucket ‹_›
  try clear_value x8
  exact tame_sendKept ‹_›
theorem tame_sendW32Cell {s : State} {t b p vc j e df} (ht' : Tame s t) : Tame s (sendW32Cell t b p vc j e df) := by
  unfold sendW32Cell
  extract_lets -underBinder -merge +onlyGivenNames x0 x1 x2
  try clear_value x0 x1 x2
  refine tame_ite (P := Tame s) (tame_sendKept ‹_›) ?_
  extract_lets -underBinder -merge +onlyGivenNames x3 x4 x5 x6 x7 x8 x9
  try clear_value x3 x4 x5 x6 x7 x8 x9
  extract_lets -underBinder -merge +onlyGivenNames x10
  have h11 : Tame s x10 := tame_cayFlags ‹_›
  try clear_value x10
  extract_lets -underBinder -merge +onlyGivenNames x12
  have h13 : Tame s x12 := tame_withBucket ‹_›
  try clear_value x12
  exact tame_sendKept ‹_›
theorem tame_sendCells {s : State} {n t b p v} (h : Tame s t) : Tame s (sendCells n t b p v) := by
  induction n generalizing t with
  | zero => exact h
  | succ n ih =>
    unfold sendCells
    split
    · exact h
    · refine tame_ite (P := Tame s) ?_ h
      refine ih (tame_elemsDone (tame_withBucket ?_))
      exact tame_ite (P := Tame s) h (tame_ite (P := Tame s) (tame_sendS1Cell h) (tame_sendW32Cell h))
theorem tame_releaseChain {s : State} {t b k} (ht' : Tame s t) : Tame s (releaseChain t b k) := by
  unfold releaseChain
  split
  · assumption
  · extract_lets -underBinder -merge +onlyGivenNames x0
    try clear_value x0
    refine tame_foldl (fun u1 y2 h3 => ?_) ‹_›
    split
    · assumption
    · extract_lets -underBinder -merge +onlyGivenNames x4
      try clear_value x4
      extract_lets -underBinder -merge +onlyGivenNames x5
      have h6 : Tame s x5 := tame_withBucket ‹_›
      try clear_value x5
      exact tame_ite (P := Tame s) (tame_grantPort ‹_›) (tame_ite (P := Tame s) ‹_› (tame_grantPort ‹_›))
theorem tame_folded {s : State} {t cay} (ht' : Tame s t) : Tame s (folded t cay) := by
  unfold folded
  exact tame_mk ‹_›
theorem tame_formPartial {s : State} {t b} (ht' : Tame s t) : Tame s (formPartial t b) := by
  unfold formPartial
  split
  · assumption
  · extract_lets -underBinder -merge +onlyGivenNames x0
    try clear_value x0
    extract_lets -underBinder -merge +onlyGivenNames x1
    try clear_value x1
    extract_lets -underBinder -merge +onlyGivenNames x2
    have h3 : Tame s x2 := tame_withBucket (tame_folded ‹_›)
    try clear_value x2
    exact tame_releaseChain (tame_cayFlags ‹_›)
theorem tame_foldReady {s : State} {n t b k} (h : Tame s t) : Tame s (foldReady n t b k) := by
  induction n generalizing t with
  | zero => exact h
  | succ n ih =>
    unfold foldReady
    split
    · exact h
    · exact tame_ite (P := Tame s) (ih (tame_cayFlags (tame_withBucket h))) h
theorem tame_checkFailed {s : State} {t bad} (ht' : Tame s t) : Tame s (checkFailed t bad) := by
  unfold checkFailed
  exact tame_ite (P := Tame s) (tame_bump ‹_›) ‹_›
theorem tame_sendDone {s : State} {t b st} (ht' : Tame s t) : Tame s (sendDone t b st) := by
  unfold sendDone
  split
  · assumption
  · extract_lets -underBinder -merge +onlyGivenNames x0
    try clear_value x0
    extract_lets -underBinder -merge +onlyGivenNames x1
    have h2 : Tame s x1 := tame_foldl (fun u3 y4 h5 => tame_grantPort ‹_›) ‹_›
    try clear_value x1
    exact tame_foldl (fun u6 y7 h8 => tame_grantAcc ‹_›) ‹_›
theorem tame_addStaged {s : State} {t e l spill} (ht' : Tame s t) : Tame s (addStaged t e l spill) := by
  unfold addStaged
  exact tame_withLayer ‹_›
theorem tame_holdHome {s : State} {t b} (ht' : Tame s t) : Tame s (holdHome t b) := by
  unfold holdHome
  split
  · exact tame_withBucket (tame_withHome ‹_›)
  · assumption
theorem tame_zeroDeferral {s : State} {t b l lost} (ht' : Tame s t) : Tame s (zeroDeferral t b l lost) := by
  unfold zeroDeferral
  split
  · extract_lets -underBinder -merge +onlyGivenNames x0
    have h1 : Tame s x0 := tame_withBucket ‹_›
    try clear_value x0
    exact tame_ite (P := Tame s) (tame_withLayer ‹_›) ‹_›
  · assumption
theorem tame_finishStage {s : State} {t b n bad} (ht' : Tame s t) : Tame s (finishStage t b n bad) := by
  unfold finishStage
  extract_lets -underBinder -merge +onlyGivenNames x0
  try clear_value x0
  exact tame_endBucket (tame_sendDone (tame_elemsDone ‹_›))
theorem tame_stageBucket {s : State} {t b} (ht' : Tame s t) : Tame s (stageBucket t b) := by
  unfold stageBucket
  split
  · assumption
  · extract_lets -underBinder -merge +onlyGivenNames x0
    try clear_value x0
    extract_lets -underBinder -merge +onlyGivenNames x1
    try clear_value x1
    extract_lets -underBinder -merge +onlyGivenNames x2
    have h3 : Tame s x2 := tame_withBucket ‹_›
    try clear_value x2
    extract_lets -underBinder -merge +onlyGivenNames x4
    try clear_value x4
    extract_lets -underBinder -merge +onlyGivenNames x5
    have h6 : Tame s x5 := tame_ite (P := Tame s) (tame_withBucket ‹_›) ‹_›
    try clear_value x5
    split
    · exact tame_endBucket ‹_›
    · extract_lets -underBinder -merge +onlyGivenNames x7
      try clear_value x7
      refine tame_ite (P := Tame s) (tame_endBucket (tame_sendDone ‹_›)) ?_
      refine tame_ite (P := Tame s) ?_ ?_
      · extract_lets -underBinder -merge +onlyGivenNames x8
        try clear_value x8
        extract_lets -underBinder -merge +onlyGivenNames x9 x10 x11 x12
        try clear_value x9 x10 x11 x12
        extract_lets -underBinder -merge +onlyGivenNames x13
        have h14 : Tame s x13 := tame_zeroDeferral ‹_›
        try clear_value x13
        extract_lets -underBinder -merge +onlyGivenNames x15
        have h16 : Tame s x15 := tame_cayFlags ‹_›
        try clear_value x15
        extract_lets -underBinder -merge +onlyGivenNames x17
        have h18 : Tame s x17 := tame_stageValues ‹_›
        try clear_value x17
        extract_lets -underBinder -merge +onlyGivenNames x19
        have h20 : Tame s x19 := tame_ite (P := Tame s) (tame_withBucket ‹_›) ‹_›
        try clear_value x19
        extract_lets -underBinder -merge +onlyGivenNames x21
        have h22 : Tame s x21 := tame_checkFailed ‹_›
        try clear_value x21
        extract_lets -underBinder -merge +onlyGivenNames x23
        have h24 : Tame s x23 := tame_ite (P := Tame s) ‹_› (tame_addStaged ‹_›)
        try clear_value x23
        exact tame_finishStage ‹_›
      · extract_lets -underBinder -merge +onlyGivenNames x25
        try clear_value x25
        extract_lets -underBinder -merge +onlyGivenNames x26
        try clear_value x26
        extract_lets -underBinder -merge +onlyGivenNames x27
        have h28 : Tame s x27 := tame_poke ‹_›
        try clear_value x27
        extract_lets -underBinder -merge +onlyGivenNames x29
        have h30 : Tame s x29 := tame_checkFailed ‹_›
        try clear_value x29
        extract_lets -underBinder -merge +onlyGivenNames x31
        try clear_value x31
        extract_lets -underBinder -merge +onlyGivenNames x32
        have h33 : Tame s x32 := tame_putJournal (tame_setF ‹_›)
        try clear_value x32
        extract_lets -underBinder -merge +onlyGivenNames x34
        have h35 : Tame s x34 := tame_ite (P := Tame s) ‹_› (tame_addStaged (tame_holdHome ‹_›))
        try clear_value x34
        exact tame_finishStage ‹_›
theorem tame_runMember {s : State} {t b k p} (ht' : Tame s t) : Tame s (runMember t b k p) := by
  unfold runMember
  split
  · assumption
  · extract_lets -underBinder -merge +onlyGivenNames x0
    try clear_value x0
    extract_lets -underBinder -merge +onlyGivenNames x1
    have h2 : Tame s x1 := tame_foldReady ‹_›
    try clear_value x1
    extract_lets -underBinder -merge +onlyGivenNames x3
    have h4 : Tame s x3 := tame_sendCells ‹_›
    try clear_value x3
    split
    · assumption
    · extract_lets -underBinder -merge +onlyGivenNames x5
      try clear_value x5
      refine tame_ite (P := Tame s) ?_ ‹_›
      extract_lets -underBinder -merge +onlyGivenNames x6
      have h7 : Tame s x6 := tame_ite (P := Tame s) ‹_› (tame_sendKept ‹_›)
      try clear_value x6
      exact tame_flushDeferred (tame_withBucket ‹_›)
theorem tame_progress {s : State} {n t b} (h : Tame s t) : Tame s (progress n t b) := by
  induction n generalizing t with
  | zero => exact h
  | succ n ih =>
    unfold progress
    split
    · exact h
    · extract_lets -underBinder d
      refine tame_ite (P := Tame s) h ?_
      split
      · exact tame_ite (P := Tame s) (ih (tame_formPartial h)) h
      · split
        · exact tame_runMember h
        · extract_lets u
          have hu : Tame s u := tame_foldReady h
          split
          · exact hu
          · exact tame_ite (P := Tame s) (ih (tame_releaseChain (tame_withBucket hu))) hu
      · split
        · exact tame_runMember h
        · extract_lets u
          have hu : Tame s u := tame_foldReady h
          split
          · exact hu
          · exact tame_ite (P := Tame s) (tame_stageBucket hu) hu
      · exact h
theorem tame_advance {s : State} {t b} (ht' : Tame s t) : Tame s (advance t b) := by
  unfold advance
  split
  · exact tame_ite (P := Tame s) (tame_progress ‹_›) ‹_›
  · assumption
theorem tame_stray {s : State} {t} (ht' : Tame s t) : Tame s (stray t) := by
  unfold stray
  exact tame_bump ‹_›
theorem tame_putResidues {s : State} {t c g num a i rs} (ht' : Tame s t) : Tame s (putResidues t c g num a i rs) := by
  unfold putResidues
  extract_lets -underBinder -merge +onlyGivenNames x0 x1
  try clear_value x0 x1
  exact tame_mk ‹_›
theorem tameP_ingressCell {s : State} {t c g d job tag cay a first len got x} (ht' : Tame s t) : TameP s (ingressCell t c g d
    job tag cay a first len got x) := by
  unfold ingressCell
  extract_lets -underBinder -merge +onlyGivenNames x0 x1 x2 x3 x4
  try clear_value x0 x1 x2 x3 x4
  extract_lets -underBinder -merge +onlyGivenNames x5
  have h6 : Tame s x5 := by
    unfold x5
    split
    · exact tame_putResidues ‹_›
    · assumption
  try clear_value x5
  extract_lets -underBinder -merge +onlyGivenNames x7
  have h8 : Tame s x7 := tame_cayFlags ‹_›
  try clear_value x7
  extract_lets -underBinder -merge +onlyGivenNames x9
  have h10 : Tame s x9 := tame_foldl (fun u11 y12 h13 => tame_cayNv ‹_›) ‹_›
  try clear_value x9
  exact tameP_mk (tame_countNv ‹_›)
theorem tame_withLate {s : State} {t r f} (ht' : Tame s t) : Tame s (withLate t r f) := by
  unfold withLate
  exact tame_mk ‹_›
theorem tame_dropLate {s : State} {t r} (ht' : Tame s t) : Tame s (dropLate t r) := by
  unfold dropLate
  exact tame_mk ‹_›
theorem tame_closedLate {s : State} {t r} (ht' : Tame s t) : Tame s (closedLate t r) := by
  unfold closedLate
  extract_lets -underBinder -merge +onlyGivenNames x0
  have h1 : Tame s x0 := tame_stray ‹_›
  try clear_value x0
  refine tame_ite (P := Tame s) ‹_› ?_
  extract_lets -underBinder -merge +onlyGivenNames x2
  have h3 : Tame s x2 := tame_bump ‹_›
  try clear_value x2
  exact tame_withLate (tame_withStep ‹_›)
theorem tame_lateNv {s : State} {t r} (ht' : Tame s t) : Tame s (lateNv t r) := by
  unfold lateNv
  split
  · exact tame_withBucket ‹_›
  · assumption
theorem tame_lateData {s : State} {t r x} (ht' : Tame s t) : Tame s (lateData t r x) := by
  unfold lateData
  refine tame_ite (P := Tame s) (tame_closedLate ‹_›) ?_
  extract_lets -underBinder -merge +onlyGivenNames x0
  try clear_value x0
  extract_lets -underBinder -merge +onlyGivenNames x1
  have h2 : Tame s x1 := tame_withLate ‹_›
  try clear_value x1
  refine tame_ite (P := Tame s) ‹_› ?_
  refine tame_ite (P := Tame s) ?_ ?_
  · extract_lets -underBinder -merge +onlyGivenNames x3
    try clear_value x3
    exact tame_deferValues ‹_›
  · extract_lets -underBinder -merge +onlyGivenNames x4
    have h5 : TameP s x4 := tameP_ingressCell ‹_›
    try clear_value x4
    extract_lets -underBinder -merge +onlyGivenNames x6
    have h7 : TameP s x6 := tameP_mk (tame_ite (P := Tame s) (tame_fst ‹_›) (tame_lateNv (tame_fst ‹_›)))
    try clear_value x6
    exact tame_deferValues (tame_fst ‹_›)
theorem tame_lateTrailer {s : State} {t r} (ht' : Tame s t) : Tame s (lateTrailer t r) := by
  unfold lateTrailer
  exact tame_ite (P := Tame s) (tame_dropLate (tame_closedLate ‹_›)) (tame_lateDone (tame_dropLate ‹_›))
theorem tame_expirePorts {s : State} {t b} (ht' : Tame s t) : Tame s (expirePorts t b) := by
  unfold expirePorts
  split
  · assumption
  · refine tame_ite (P := Tame s) ?_ ‹_›
    refine tame_foldl (fun u0 y1 h2 => ?_) ‹_›
    split
    · exact tame_ite (P := Tame s) (tame_exclude ‹_›) ‹_›
    · assumption
theorem tame_expireArm {s : State} {t b p} (ht' : Tame s t) : Tame s (expireArm t b p) := by
  unfold expireArm
  split
  · assumption
  · exact tame_ite (P := Tame s) (tame_exclude ‹_›) ‹_›
theorem tame_restoreResidues {s : State} {t e a x} (ht' : Tame s t) : Tame s (restoreResidues t e a x) := by
  unfold restoreResidues
  exact tame_ite (P := Tame s) ‹_› (tame_mk ‹_›)
theorem tame_resendPort {s : State} {b t a} (ht' : Tame s t) : Tame s (resendPort b t a) := by
  unfold resendPort
  split
  · assumption
  · extract_lets -underBinder -merge +onlyGivenNames x0
    try clear_value x0
    extract_lets -underBinder -merge +onlyGivenNames x1
    have h2 : Tame s x1 := tame_restoreResidues ‹_›
    try clear_value x1
    exact tame_ite (P := Tame s) (tame_grantAcc (tame_withBucket ‹_›)) (tame_ite (P := Tame s) (tame_withBucket ‹_›) ‹_›)
theorem tame_portData {s : State} {t a x} (ht' : Tame s t) : Tame s (portData t a x) := by
  unfold portData
  extract_lets -underBinder -merge +onlyGivenNames x0
  have h1 : Tame s x0 := by
    unfold x0
    split
    · exact tame_expirePorts ‹_›
    · assumption
  try clear_value x0
  split
  · exact tame_lateData ‹_›
  · split
    · exact tame_stray ‹_›
    · extract_lets -underBinder -merge +onlyGivenNames x2
      try clear_value x2
      extract_lets -underBinder -merge +onlyGivenNames x3
      try clear_value x3
      refine tame_ite (P := Tame s) (tame_stray ‹_›) ?_
      refine tame_ite (P := Tame s) (tame_withBucket ‹_›) ?_
      extract_lets -underBinder -merge +onlyGivenNames x4
      try clear_value x4
      extract_lets -underBinder -merge +onlyGivenNames x5
      have h6 : TameP s x5 := tameP_ingressCell ‹_›
      try clear_value x5
      extract_lets -underBinder -merge +onlyGivenNames x7
      try clear_value x7
      exact tame_advance (tame_withBucket (tame_folded (tame_fst ‹_›)))
theorem tame_portTrailer {s : State} {t a x} (ht' : Tame s t) : Tame s (portTrailer t a x) := by
  unfold portTrailer
  extract_lets -underBinder -merge +onlyGivenNames x0
  have h1 : Tame s x0 := by
    unfold x0
    split
    · exact tame_expirePorts ‹_›
    · assumption
  try clear_value x0
  extract_lets -underBinder -merge +onlyGivenNames x2
  have h3 : Tame s x2 := by
    unfold x2
    split
    · exact tame_lateTrailer ‹_›
    · split
      · exact tame_stray ‹_›
      · extract_lets -underBinder -merge +onlyGivenNames x4
        try clear_value x4
        refine tame_ite (P := Tame s) (tame_stray ‹_›) ?_
        refine tame_ite (P := Tame s) (tame_withBucket ‹_›) ?_
        refine tame_ite (P := Tame s) (tame_resendPort (tame_withBucket ‹_›)) ?_
        extract_lets -underBinder -merge +onlyGivenNames x5
        try clear_value x5
        extract_lets -underBinder -merge +onlyGivenNames x6
        have h7 : Tame s x6 := tame_checkFailed ‹_›
        try clear_value x6
        exact tame_withBucket ‹_›
  try clear_value x2
  split
  · exact tame_advance ‹_›
  · assumption
theorem tame_armData {s : State} {t p x} (ht' : Tame s t) : Tame s (armData t p x) := by
  unfold armData
  extract_lets -underBinder -merge +onlyGivenNames x0
  have h1 : Tame s x0 := by
    unfold x0
    split
    · exact tame_expireArm ‹_›
    · assumption
  try clear_value x0
  split
  · exact tame_ite (P := Tame s) (tame_lateData ‹_›) (tame_stray ‹_›)
  · split
    · exact tame_stray ‹_›
    · extract_lets -underBinder -merge +onlyGivenNames x2
      try clear_value x2
      extract_lets -underBinder -merge +onlyGivenNames x3
      try clear_value x3
      refine tame_ite (P := Tame s) ‹_› ?_
      refine tame_ite (P := Tame s) (tame_stray ‹_›) ?_
      refine tame_ite (P := Tame s) (tame_withBucket ‹_›) ?_
      extract_lets -underBinder -merge +onlyGivenNames x4 x5 x6
      try clear_value x4 x5 x6
      exact tame_advance (tame_withBucket ‹_›)
theorem tame_armTrailer {s : State} {t p x} (ht' : Tame s t) : Tame s (armTrailer t p x) := by
  unfold armTrailer
  extract_lets -underBinder -merge +onlyGivenNames x0
  have h1 : Tame s x0 := by
    unfold x0
    split
    · exact tame_expireArm ‹_›
    · assumption
  try clear_value x0
  split
  · exact tame_ite (P := Tame s) (tame_lateTrailer ‹_›) (tame_stray ‹_›)
  · split
    · exact tame_stray ‹_›
    · extract_lets -underBinder -merge +onlyGivenNames x2
      try clear_value x2
      refine tame_ite (P := Tame s) ‹_› ?_
      refine tame_ite (P := Tame s) (tame_stray ‹_›) ?_
      refine tame_ite (P := Tame s) (tame_withBucket ‹_›) ?_
      extract_lets -underBinder -merge +onlyGivenNames x3
      try clear_value x3
      extract_lets -underBinder -merge +onlyGivenNames x4
      have h5 : Tame s x4 := tame_checkFailed ‹_›
      try clear_value x4
      exact tame_advance (tame_withBucket ‹_›)
theorem goes_trailerCell {s : State} {p x t} (ht' : Tame s t) : Goes s (trailerCell p x t) := by
  unfold trailerCell
  exact tame_ite (P := Goes s) (goes_receive ‹_› (fun u0 h1 => tameO_some (tame_armTrailer ‹_›))) (goes_next ‹_›)
theorem goes_deadline {s : State} {b t} (ht' : Tame s t) : Goes s (deadline b t) := by
  unfold deadline
  exact goes_next (tame_advance (tame_expirePorts ‹_›))
theorem goes_armDeadline {s : State} {b p t} (ht' : Tame s t) : Goes s (armDeadline b p t) := by
  unfold armDeadline
  exact goes_next (tame_advance (tame_expireArm ‹_›))
theorem tame_clearPoison {s : State} {t a n} (ht' : Tame s t) : Tame s (clearPoison t a n) := by
  unfold clearPoison
  exact tame_mk ‹_›
theorem goes_execErrorMemoryWritebackDone {s : State} {c k t} (ht' : Tame s t) : Goes s (execErrorMemoryWritebackDone c k t) :=
    by
  unfold execErrorMemoryWritebackDone
  split
  · exact goes_next ‹_›
  · extract_lets -underBinder -merge +onlyGivenNames x0
    have h1 : Tame s x0 := tame_clearPoison ‹_›
    try clear_value x0
    exact goes_next (tame_nextMoves (tame_withHome ‹_›))
theorem goes_execReduce {s : State} {c q i t} (ht' : Tame s t) : Goes s (execReduce c q i t) := by
  unfold execReduce
  refine goes_runCmd ‹_› (fun u0 u1 u2 h3 => ?_)
  extract_lets -underBinder -merge +onlyGivenNames x4
  try clear_value x4
  split
  · exact tame_endCmd ‹_›
  · exact tame_endReduce (tame_chunkPosts (tame_withBucket ‹_›))

end Sys2Proof.Machine
end

