-- ==== Sys2Proof/Laws/Tame3.lean ====
section
/-! SUPPORT. `Tame` through the functions of Causeway, Admission, Ferry: one lemma per function. -/

namespace Sys2Proof.Machine

set_option linter.unusedVariables false

/-! ## Causeway -/

theorem tameP_cwCombine {s : State} {t n job g d ieee x y} (ht' : Tame s t) : TameP s (cwCombine t n job g d ieee x y) := by
  unfold cwCombine
  split
  · exact tameP_mk (tame_mk ‹_›)
  · extract_lets -underBinder -merge +onlyGivenNames x0
    try clear_value x0
    extract_lets -underBinder -merge +onlyGivenNames x1 x2
    try clear_value x1 x2
    extract_lets -underBinder -merge +onlyGivenNames x3
    have h4 : Tame s x3 := tame_cwFlags ‹_›
    try clear_value x3
    extract_lets -underBinder -merge +onlyGivenNames x5
    try clear_value x5
    extract_lets -underBinder -merge +onlyGivenNames x6
    have h7 : Tame s x6 := by
      unfold x6
      split
      · exact tame_cwNv ‹_›
      · assumption
    try clear_value x6
    exact tameP_mk ‹_›
theorem tame_withCw {s : State} {t g f} (ht' : Tame s t) : Tame s (withCw t g f) := by
  unfold withCw
  exact tame_mk ‹_›
theorem tameC_cwJoin {s : State} {n job g d ieee left a x} (ha' : TameC s a) : TameC s (cwJoin n job g d ieee left a x) := by
  unfold cwJoin
  split
  · exact show Tame s _ from (tame_acc ‹_›)
  · extract_lets -underBinder -merge +onlyGivenNames x0
    have h1 : TameP s x0 := tame_ite (P := TameP s) (tameP_cwCombine (tame_acc ‹_›)) (tameP_cwCombine (tame_acc ‹_›))
    try clear_value x0
    exact show Tame s _ from (tame_fst ‹_›)
theorem tameC_cwLocal {s : State} {t g d ieee op} (ht' : Tame s t) : TameC s (cwLocal t g d ieee op) := by
  unfold cwLocal
  exact tameC_foldl (fun u0 y1 h2 => tameC_cwJoin ‹_›) (show Tame s _ from ‹_›)
theorem tameC_cwChain {s : State} {g d ieee op a k} (ha' : TameC s a) : TameC s (cwChain g d ieee op a k) := by
  unfold cwChain
  extract_lets -underBinder -merge +onlyGivenNames x0 x1 x2
  try clear_value x0 x1 x2
  extract_lets -underBinder -merge +onlyGivenNames x3
  have h4 : TameC s x3 := show Tame s _ from (tame_acc ‹_›)
  try clear_value x3
  extract_lets -underBinder -merge +onlyGivenNames x5
  have h6 : TameC s x5 := by
    unfold x5
    refine tameC_foldl (fun u7 y8 h9 => ?_) ‹_›
    split
    · exact tameC_cwJoin ‹_›
    · assumption
  try clear_value x5
  split
  · exact tameC_cwJoin ‹_›
  · assumption
theorem tame_cwEndCmd {s : State} {t op st} (ht' : Tame s t) : Tame s (cwEndCmd t op st) := by
  unfold cwEndCmd
  split
  · exact tame_endCmdWith ‹_›
  · assumption
theorem tame_cwDeliver {s : State} {t g op x nv} (ht' : Tame s t) : Tame s (cwDeliver t g op x nv) := by
  unfold cwDeliver
  extract_lets -underBinder -merge +onlyGivenNames x0 x1 x2
  try clear_value x0 x1 x2
  extract_lets -underBinder -merge +onlyGivenNames x3
  have h4 : Tame s x3 := tame_foldl (fun u5 y6 h7 => tame_sendPort ‹_›) ‹_›
  try clear_value x3
  extract_lets -underBinder -merge +onlyGivenNames x8
  have h9 : Tame s x8 := tame_foldl (fun u10 y11 h12 => tame_sendAcc ‹_›) ‹_›
  try clear_value x8
  extract_lets -underBinder -merge +onlyGivenNames x13
  try clear_value x13
  extract_lets -underBinder -merge +onlyGivenNames x14
  have h15 : TameP s x14 := tame_ite (P := TameP s) (tameP_mk ‹_›) (tameP_memWrite ‹_›)
  try clear_value x14
  extract_lets -underBinder -merge +onlyGivenNames x16
  have h17 : Tame s x16 := tame_withCw (tame_fst ‹_›)
  try clear_value x16
  exact tame_cwEndCmd ‹_›
theorem tame_cwRun {s : State} {t g} (ht' : Tame s t) : Tame s (cwRun t g) := by
  unfold cwRun
  split
  · assumption
  · split
    · assumption
    · extract_lets -underBinder -merge +onlyGivenNames x0
      try clear_value x0
      refine tame_ite (P := Tame s) ‹_› ?_
      extract_lets -underBinder -merge +onlyGivenNames x1
      try clear_value x1
      extract_lets -underBinder -merge +onlyGivenNames x2
      have h3 : TameC s x2 := tameC_foldl (fun u4 y5 h6 => tameC_cwChain ‹_›) (tameC_cwLocal ‹_›)
      try clear_value x2
      extract_lets -underBinder -merge +onlyGivenNames x7
      try clear_value x7
      extract_lets -underBinder -merge +onlyGivenNames x8
      have h9 : Tame s x8 := tame_withCw (tame_acc ‹_›)
      try clear_value x8
      split
      · exact tame_sendPort ‹_›
      · exact tame_cwDeliver ‹_›
theorem tame_cwStart {s : State} {n t g} (h : Tame s t) : Tame s (cwStart n t g) := by
  induction n generalizing t with
  | zero => exact h
  | succ n ih =>
    unfold cwStart
    split
    · exact h
    · split
      · exact h
      · exact tame_ite (P := Tame s) h (tame_ite (P := Tame s) (ih (tame_cwEndCmd (tame_withCw (tame_withCw h))))
          (ih (tame_cwRun (tame_withCw h))))
theorem tame_cwGo {s : State} {t g} (ht' : Tame s t) : Tame s (cwGo t g) := by
  unfold cwGo
  split
  · exact tame_cwStart ‹_›
  · assumption
theorem tame_cwAdmitted {s : State} {t g} (ht' : Tame s t) : Tame s (cwAdmitted t g) := by
  unfold cwAdmitted
  exact tame_cwGo (tame_withCw ‹_›)
theorem tame_cwRefused {s : State} {t g st} (ht' : Tame s t) : Tame s (cwRefused t g st) := by
  unfold cwRefused
  split
  · exact tame_endAll (tame_withCw ‹_›)
  · assumption
theorem tame_cwAbandon {s : State} {t g} (ht' : Tame s t) : Tame s (cwAbandon t g) := by
  unfold cwAbandon
  split
  · split
    · exact tame_cwGo (tame_cwEndCmd (tame_withCw ‹_›))
    · exact tame_ite (P := Tame s) (tame_cwGo ‹_›) (tame_cwRefused ‹_›)
  · assumption
theorem tameP_cwEnter {s : State} {t a g d x} (ht' : Tame s t) : TameP s (cwEnter t a g d x) := by
  unfold cwEnter
  split
  · exact tameP_mk ‹_›
  · refine tame_ite (P := TameP s) (tameP_mk ‹_›) ?_
    split
    · exact tameP_mk (tame_cwNv ‹_›)
    · exact tameP_mk ‹_›
theorem tame_cwFromPort {s : State} {t a x} (ht' : Tame s t) : Tame s (cwFromPort t a x) := by
  unfold cwFromPort
  split
  · assumption
  · extract_lets -underBinder -merge +onlyGivenNames x0
    have h1 : TameP s x0 := tameP_cwEnter ‹_›
    try clear_value x0
    exact tame_cwGo (tame_cwRun (tame_withCw (tame_fst ‹_›)))
theorem tame_cwFromArm {s : State} {t p x} (ht' : Tame s t) : Tame s (cwFromArm t p x) := by
  unfold cwFromArm
  refine tame_ite (P := Tame s) ?_ ?_
  · split
    · assumption
    · exact tame_cwGo (tame_cwRun (tame_withCw ‹_›))
  · split
    · assumption
    · exact tame_cwGo (tame_cwDeliver ‹_›)
theorem goes_execCausewayCell {s : State} {p x t} (ht' : Tame s t) : Goes s (execCausewayCell p x t) := by
  unfold execCausewayCell
  exact tame_ite (P := Goes s) (goes_receive ‹_› (fun u0 h1 => tameO_some (tame_cwFromArm ‹_›))) (goes_next ‹_›)

/-! ## Admission -/

theorem tameP_reserveAll {s : State} {c ws t} (h : Tame s t) : TameP s (reserveAll c ws t) := by
  induction ws generalizing t with
  | nil => exact h
  | cons w ws ih =>
    have g : TameP s (reserve t c w.tier w.bytes w.use) := tameP_reserve h
    unfold reserveAll
    exact tameP_mk (tame_fst (ih (tame_fst g)))
theorem tame_setHome {s : State} {t e} (ht' : Tame s t) : Tame s (setHome t e) := by
  unfold setHome
  refine tame_ite (P := Tame s) ‹_› ?_
  split
  · exact tame_withHome ‹_›
  · exact tame_mk ‹_›
theorem tameP_takePoolCells {s : State} {t b e} (ht' : Tame s t) : TameP s (takePoolCells t b e) := by
  unfold takePoolCells
  split
  · exact tameP_mk ‹_›
  · extract_lets -underBinder -merge +onlyGivenNames x0
    have h1 : TameP s x0 := tameP_poolReserve ‹_›
    try clear_value x0
    exact tameP_mk (tame_ite (P := Tame s) (tame_fst ‹_›) (tame_withBucket (tame_fst ‹_›)))
theorem tameP_takeReservations {s : State} {t b} (ht' : Tame s t) : TameP s (takeReservations t b) := by
  unfold takeReservations
  split
  · exact tameP_mk ‹_›
  · refine tame_ite (P := TameP s) (tameP_mk ‹_›) ?_
    extract_lets -underBinder -merge +onlyGivenNames x0 x1 x2
    try clear_value x0 x1 x2
    refine tame_ite (P := TameP s) (tameP_mk ‹_›) ?_
    refine tame_ite (P := TameP s) (tameP_mk (tame_bump ‹_›)) ?_
    extract_lets -underBinder -merge +onlyGivenNames x3
    try clear_value x3
    extract_lets -underBinder -merge +onlyGivenNames x4
    have h5 : Tame s x4 := tame_releaseAllocs ‹_›
    try clear_value x4
    extract_lets -underBinder -merge +onlyGivenNames x6
    have h7 : TameP s x6 := tameP_reserveAll ‹_›
    try clear_value x6
    extract_lets -underBinder -merge +onlyGivenNames x8
    have h9 : TameP s x8 := tameP_takePoolCells (tame_fst ‹_›)
    try clear_value x8
    split
    · exact tameP_mk (tame_fst ‹_›)
    · exact tameP_mk (tame_setHome (tame_fst ‹_›))
theorem tame_dropReservations {s : State} {t b} (ht' : Tame s t) : Tame s (dropReservations t b) := by
  unfold dropReservations
  split
  · assumption
  · refine tame_ite (P := Tame s) ‹_› ?_
    extract_lets -underBinder -merge +onlyGivenNames x0
    have h1 : Tame s x0 := by
      unfold x0
      split
      · exact tame_ite (P := Tame s) ‹_› (tame_releaseStaging ‹_›)
      · assumption
    try clear_value x0
    exact tame_releaseBucket ‹_›
theorem tame_answerAdmits {s : State} {t b} (ht' : Tame s t) : Tame s (answerAdmits t b) := by
  unfold answerAdmits
  split
  · assumption
  · extract_lets -underBinder -merge +onlyGivenNames x0
    have h1 : Tame s x0 := tame_foldl (fun u2 y3 h4 => tame_sendPort ‹_›) ‹_›
    try clear_value x0
    exact tame_withBucket ‹_›
theorem tame_endOpen {s : State} {t b st} (ht' : Tame s t) : Tame s (endOpen t b st) := by
  unfold endOpen
  split
  · split
    · exact tame_endCmd ‹_›
    · assumption
  · assumption
theorem tame_grantPorts {s : State} {t b} (ht' : Tame s t) : Tame s (grantPorts t b) := by
  unfold grantPorts
  split
  · exact tame_ite (P := Tame s) ‹_› (tame_foldl (fun u0 y1 h2 => tame_sendAcc ‹_›) ‹_›)
  · assumption
theorem tame_settleRefused {s : State} {t b cause ownerDigest} (ht' : Tame s t) : Tame s (settleRefused t b cause ownerDigest)
    := by
  unfold settleRefused
  extract_lets -underBinder -merge +onlyGivenNames x0
  have h1 : Tame s x0 := tame_withBucket ‹_›
  try clear_value x0
  extract_lets -underBinder -merge +onlyGivenNames x2
  have h3 : Tame s x2 := tame_grantPorts (tame_answerAdmits (tame_dropReservations ‹_›))
  try clear_value x2
  split
  · assumption
  · refine tame_ite (P := Tame s) ‹_› ?_
    extract_lets -underBinder -merge +onlyGivenNames x4
    try clear_value x4
    exact tame_ite (P := Tame s) (tame_cwRefused ‹_›) (tame_endOpen ‹_›)
theorem tame_settleAdmitted {s : State} {t b level digest} (ht' : Tame s t) : Tame s (settleAdmitted t b level digest) := by
  unfold settleAdmitted
  extract_lets -underBinder -merge +onlyGivenNames x0
  have h1 : Tame s x0 := tame_withBucket ‹_›
  try clear_value x0
  extract_lets -underBinder -merge +onlyGivenNames x2
  have h3 : Tame s x2 := tame_grantPorts (tame_answerAdmits ‹_›)
  try clear_value x2
  split
  · assumption
  · exact tame_ite (P := Tame s) (tame_cwAdmitted (tame_mk ‹_›)) (tame_advance (tame_endOpen ‹_›))
theorem tame_ownerRefuse {s : State} {t b cause} (ht' : Tame s t) : Tame s (ownerRefuse t b cause) := by
  unfold ownerRefuse
  split
  · exact tame_settleRefused (tame_bump ‹_›)
  · assumption
theorem tame_ownerDecide {s : State} {t b} (ht' : Tame s t) : Tame s (ownerDecide t b) := by
  unfold ownerDecide
  split
  · assumption
  · extract_lets -underBinder -merge +onlyGivenNames x0
    try clear_value x0
    exact tame_ite (P := Tame s) (tame_settleAdmitted ‹_›) (tame_ownerRefuse ‹_›)
theorem tame_sendAdmit {s : State} {t b causes} (ht' : Tame s t) : Tame s (sendAdmit t b causes) := by
  unfold sendAdmit
  split
  · assumption
  · split
    · assumption
    · exact tame_sendPort (tame_withBucket ‹_›)
theorem tame_tryAdmit {s : State} {t b} (ht' : Tame s t) : Tame s (tryAdmit t b) := by
  unfold tryAdmit
  split
  · assumption
  · extract_lets -underBinder -merge +onlyGivenNames x0
    try clear_value x0
    exact tame_ite (P := Tame s) (tame_ite (P := Tame s) (tame_ownerDecide ‹_›) (tame_sendAdmit ‹_›)) ‹_›
theorem tame_localRefuse {s : State} {t b cause} (ht' : Tame s t) : Tame s (localRefuse t b cause) := by
  unfold localRefuse
  extract_lets -underBinder -merge +onlyGivenNames x0
  have h1 : Tame s x0 := tame_dropReservations (tame_withBucket ‹_›)
  try clear_value x0
  split
  · assumption
  · exact tame_ite (P := Tame s) (tame_ownerDecide ‹_›) (tame_sendAdmit (tame_bump ‹_›))
theorem tame_startAdmission {s : State} {t b} (ht' : Tame s t) : Tame s (startAdmission t b) := by
  unfold startAdmission
  split
  · assumption
  · extract_lets -underBinder -merge +onlyGivenNames x0
    try clear_value x0
    refine tame_ite (P := Tame s) (tame_localRefuse ‹_›) ?_
    extract_lets -underBinder -merge +onlyGivenNames x1
    have h2 : TameP s x1 := tameP_takeReservations ‹_›
    try clear_value x1
    split
    · exact tame_localRefuse (tame_fst ‹_›)
    · extract_lets -underBinder -merge +onlyGivenNames x3
      try clear_value x3
      extract_lets -underBinder -merge +onlyGivenNames x4
      try clear_value x4
      extract_lets -underBinder -merge +onlyGivenNames x5
      have h6 : Tame s x5 := tame_withBucket (tame_fst ‹_›)
      try clear_value x5
      extract_lets -underBinder -merge +onlyGivenNames x7
      have h8 : Tame s x7 := tame_ite (P := Tame s) (tame_sendBacks (tame_addMove ‹_›)) ‹_›
      try clear_value x7
      extract_lets -underBinder -merge +onlyGivenNames x9
      have h10 : Tame s x9 := by
        unfold x9
        split
        · exact tame_ite (P := Tame s) (tame_askState ‹_›) ‹_›
        · assumption
      try clear_value x9
      exact tame_tryAdmit ‹_›
theorem tame_nameEntry {s : State} {t b c bd k i} (ht' : Tame s t) : Tame s (nameEntry t b c bd k i) := by
  unfold nameEntry
  extract_lets -underBinder -merge +onlyGivenNames x0
  try clear_value x0
  exact tame_withBucket ‹_›
theorem tame_openEntry {s : State} {t b c d tag first n} (ht' : Tame s t) : Tame s (openEntry t b c d tag first n) := by
  unfold openEntry
  split
  · exact tame_ownerRefuse (tame_endOpen ‹_›)
  · exact tame_startAdmission ‹_›
theorem tame_refuseOpen {s : State} {t k i c bd codes} (ht' : Tame s t) : Tame s (refuseOpen t k i c bd codes) := by
  unfold refuseOpen
  extract_lets -underBinder -merge +onlyGivenNames x0 x1 x2
  try clear_value x0 x1 x2
  exact tame_endCmd (tame_ite (P := Tame s) (tame_bump ‹_›) ‹_›)
theorem tame_bucketOpen {s : State} {t k i c bd} (ht' : Tame s t) : Tame s (bucketOpen t k i c bd) := by
  unfold bucketOpen
  extract_lets -underBinder -merge +onlyGivenNames x0 x1 x2 x3 x4 x5 x6
  try clear_value x0 x1 x2 x3 x4 x5 x6
  refine tame_ite (P := Tame s) (tame_refuseOpen ‹_›) ?_
  extract_lets -underBinder -merge +onlyGivenNames x7
  have h8 : Tame s x7 := tame_mk ‹_›
  try clear_value x7
  split
  · extract_lets -underBinder -merge +onlyGivenNames x9
    have h10 : Tame s x9 := tame_nameEntry ‹_›
    try clear_value x9
    split
    · exact tame_endCmd ‹_›
    · exact tame_openEntry ‹_›
  · split
    · split
      · exact tame_endCmd ‹_›
      · exact tame_endCmd (tame_bump ‹_›)
    · extract_lets -underBinder -merge +onlyGivenNames x11
      have h12 : Tame s x11 := tame_mk ‹_›
      try clear_value x11
      exact tame_openEntry (tame_nameEntry ‹_›)
theorem goes_execBucketOpen {s : State} {c q i t} (ht' : Tame s t) : Goes s (execBucketOpen c q i t) := by
  unfold execBucketOpen
  exact goes_runCmd ‹_› (fun u0 u1 u2 h3 => tame_bucketOpen ‹_›)
theorem tame_openCauseway {s : State} {t c g} (ht' : Tame s t) : Tame s (openCauseway t c g) := by
  unfold openCauseway
  extract_lets -underBinder -merge +onlyGivenNames x0 x1
  try clear_value x0 x1
  extract_lets -underBinder -merge +onlyGivenNames x2
  have h3 : ∀ u4 u5, Tame s u4 → Tame s (x2 u4 u5) := by
    intro u4 u5 g6
    unfold x2
    exact tame_withBucket ‹_›
  try clear_value x2
  extract_lets -underBinder -merge +onlyGivenNames x7
  have h8 : ∀ u9 u10, Tame s u9 → Tame s (x7 u9 u10) := by
    intro u9 u10 g11
    unfold x7
    exact tame_cwRefused (tame_bump ‹_›)
  try clear_value x7
  refine tame_ite (P := Tame s) (h8 _ _ ‹_›) ?_
  refine tame_ite (P := Tame s) (h8 _ _ ‹_›) ?_
  split
  · split
    · extract_lets -underBinder -merge +onlyGivenNames x12
      have h13 : Tame s x12 := h3 _ _ ‹_›
      try clear_value x12
      split
      · exact tame_cwRefused ‹_›
      · assumption
    · exact tame_ite (P := Tame s) ‹_› (tame_startAdmission (h3 _ _ ‹_›))
  · split
    · exact h8 _ _ ‹_›
    · exact tame_startAdmission (h3 _ _ (tame_mk ‹_›))
theorem tame_causewayOp {s : State} {t k i c b} (ht' : Tame s t) : Tame s (causewayOp t k i c b) := by
  unfold causewayOp
  extract_lets -underBinder -merge +onlyGivenNames x0 x1 x2 x3
  try clear_value x0 x1 x2 x3
  refine tame_ite (P := Tame s) (tame_endCmd ‹_›) ?_
  extract_lets -underBinder -merge +onlyGivenNames x4
  have h5 : Tame s x4 := tame_withCw ‹_›
  try clear_value x4
  split
  · exact tame_ite (P := Tame s) (tame_cwGo ‹_›) (tame_openCauseway ‹_›)
  · assumption
theorem goes_execCausewayOp {s : State} {c q i t} (ht' : Tame s t) : Goes s (execCausewayOp c q i t) := by
  unfold execCausewayOp
  exact goes_runCmd ‹_› (fun u0 u1 u2 h3 => tame_causewayOp ‹_›)
theorem tame_resendArm {s : State} {b t p} (ht' : Tame s t) : Tame s (resendArm b t p) := by
  unfold resendArm
  split
  · assumption
  · extract_lets -underBinder -merge +onlyGivenNames x0
    try clear_value x0
    refine tame_ite (P := Tame s) ‹_› ?_
    refine tame_ite (P := Tame s) ?_ (tame_withBucket ‹_›)
    extract_lets -underBinder -merge +onlyGivenNames x1
    have h2 : Tame s x1 := tame_withBucket ‹_›
    try clear_value x1
    exact tame_grantPort ‹_›
theorem tame_moveReservations {s : State} {t b cay} (ht' : Tame s t) : Tame s (moveReservations t b cay) := by
  unfold moveReservations
  split
  · assumption
  · extract_lets -underBinder -merge +onlyGivenNames x0
    try clear_value x0
    extract_lets -underBinder -merge +onlyGivenNames x1
    have h2 : Tame s x1 := tame_releaseAllocs ‹_›
    try clear_value x1
    extract_lets -underBinder -merge +onlyGivenNames x3
    have h4 : TameP s x3 := tameP_reserveAll ‹_›
    try clear_value x3
    extract_lets -underBinder -merge +onlyGivenNames x5
    try clear_value x5
    exact tame_withBucket (tame_ite (P := Tame s) (tame_fst ‹_›) ‹_›)
theorem tame_resendAll {s : State} {t b} (ht' : Tame s t) : Tame s (resendAll t b) := by
  unfold resendAll
  split
  · assumption
  · refine tame_ite (P := Tame s) ‹_› ?_
    extract_lets -underBinder -merge +onlyGivenNames x0
    have h1 : Tame s x0 := tame_foldl (fun u2 y3 h4 => tame_resendPort ‹_›) ‹_›
    try clear_value x0
    exact tame_advance (tame_foldl (fun u5 y6 h7 => tame_resendArm ‹_›) ‹_›)
theorem tame_restartBucket {s : State} {t b code} (ht' : Tame s t) : Tame s (restartBucket t b code) := by
  unfold restartBucket
  split
  · assumption
  · refine tame_ite (P := Tame s) ‹_› ?_
    extract_lets -underBinder -merge +onlyGivenNames x0
    try clear_value x0
    extract_lets -underBinder -merge +onlyGivenNames x1
    have h2 : Tame s x1 := tame_moveReservations ‹_›
    try clear_value x1
    extract_lets -underBinder -merge +onlyGivenNames x3
    have h4 : Tame s x3 := tame_bump ‹_›
    try clear_value x3
    extract_lets -underBinder -merge +onlyGivenNames x5
    have h6 : Tame s x5 := tame_withStep ‹_›
    try clear_value x5
    extract_lets -underBinder -merge +onlyGivenNames x7
    have h8 : Tame s x7 := tame_addEvent ‹_›
    try clear_value x7
    extract_lets -underBinder -merge +onlyGivenNames x9
    have h10 : Tame s x9 := tame_withBucket ‹_›
    try clear_value x9
    exact tame_resendAll ‹_›
theorem tame_retryMove {s : State} {t p} (ht' : Tame s t) : Tame s (retryMove t p) := by
  unfold retryMove
  split
  · refine tame_ite (P := Tame s) ?_ ‹_›
    extract_lets -underBinder -merge +onlyGivenNames x0
    have h1 : Tame s x0 := tame_moveReservations ‹_›
    try clear_value x0
    exact tame_ite (P := Tame s) (tame_resendAll ‹_›) (tame_tryAdmit ‹_›)
  · assumption
theorem tame_retryMoves {s : State} {t} (ht' : Tame s t) : Tame s (retryMoves t) := by
  unfold retryMoves
  exact tame_foldl (fun u0 y1 h2 => tame_retryMove ‹_›) ‹_›
theorem tame_sendListed {s : State} {t src p x} (ht' : Tame s t) : Tame s (sendListed t src p x) := by
  unfold sendListed
  extract_lets -underBinder -merge +onlyGivenNames x0
  try clear_value x0
  exact tame_injectAt ‹_›
theorem tame_holdAdmit {s : State} {t b p a} (ht' : Tame s t) : Tame s (holdAdmit t b p a) := by
  unfold holdAdmit
  split
  · assumption
  · extract_lets -underBinder -merge +onlyGivenNames x0
    try clear_value x0
    exact tame_ite (P := Tame s) (tame_sendPort ‹_›) (tame_tryAdmit (tame_withBucket ‹_›))
theorem tameO_admitArrives {s : State} {t p x} (ht' : Tame s t) : TameO s (admitArrives t p x) := by
  unfold admitArrives
  extract_lets -underBinder -merge +onlyGivenNames x0 x1
  try clear_value x0 x1
  split
  · exact tameO_some (tame_holdAdmit ‹_›)
  · split
    · extract_lets -underBinder -merge +onlyGivenNames x2
      try clear_value x2
      exact tameO_some (tame_holdAdmit (tame_mk ‹_›))
    · exact tame_ite (P := TameO s) (tameO_some (tame_sendListed ‹_›)) tameO_none
theorem goes_execAdmitCell {s : State} {p x t} (ht' : Tame s t) : Goes s (execAdmitCell p x t) := by
  unfold execAdmitCell
  exact tame_ite (P := Goes s) (goes_receive ‹_› (fun u0 h1 => tameO_admitArrives ‹_›)) (goes_next ‹_›)
theorem tame_grantAdmitted {s : State} {t p x} (ht' : Tame s t) : Tame s (grantAdmitted t p x) := by
  unfold grantAdmitted
  split
  · exact tame_settleAdmitted ‹_›
  · exact tame_stray ‹_›
theorem goes_execGrantAdmitted {s : State} {p x t} (ht' : Tame s t) : Goes s (execGrantAdmitted p x t) := by
  unfold execGrantAdmitted
  exact tame_ite (P := Goes s) (goes_receive ‹_› (fun u0 h1 => tameO_some (tame_grantAdmitted ‹_›))) (goes_next ‹_›)
theorem tame_grantRefused {s : State} {t p x} (ht' : Tame s t) : Tame s (grantRefused t p x) := by
  unfold grantRefused
  split
  · exact tame_settleRefused ‹_›
  · exact tame_stray ‹_›
theorem goes_execGrantRefused {s : State} {p x t} (ht' : Tame s t) : Goes s (execGrantRefused p x t) := by
  unfold execGrantRefused
  exact tame_ite (P := Goes s) (goes_receive ‹_› (fun u0 h1 => tameO_some (tame_grantRefused ‹_›))) (goes_next ‹_›)
theorem tame_grantRelease {s : State} {t p x} (ht' : Tame s t) : Tame s (grantRelease t p x) := by
  unfold grantRelease
  split
  · exact tame_advance (tame_withBucket ‹_›)
  · exact tame_stray ‹_›
theorem tame_grantDone {s : State} {t p x} (ht' : Tame s t) : Tame s (grantDone t p x) := by
  unfold grantDone
  split
  · refine tame_ite (P := Tame s) ‹_› ?_
    extract_lets -underBinder -merge +onlyGivenNames x0
    try clear_value x0
    exact tame_retryMoves (tame_endBucket (tame_sendDone ‹_›))
  · exact tame_stray ‹_›
theorem goes_execGrantDone {s : State} {p x t} (ht' : Tame s t) : Goes s (execGrantDone p x t) := by
  unfold execGrantDone
  exact tame_ite (P := Goes s) (goes_receive ‹_› (fun u0 h1 => tameO_some (tame_grantDone ‹_›))) (goes_next ‹_›)
theorem tame_resendKept {s : State} {t b e k} (ht' : Tame s t) : Tame s (resendKept t b e k) := by
  unfold resendKept
  extract_lets -underBinder -merge +onlyGivenNames x0 x1 x2
  try clear_value x0 x1 x2
  exact tame_injectAt (tame_poolShare ‹_›)
theorem tame_grantResend {s : State} {t p x} (ht' : Tame s t) : Tame s (grantResend t p x) := by
  unfold grantResend
  split
  · exact tame_ite (P := Tame s) ‹_› (tame_advance (tame_withBucket (tame_foldl (fun u0 y1 h2 => tame_resendKept ‹_›) ‹_›)))
  · exact tame_stray ‹_›
theorem goes_execAdmitTimeout {s : State} {b t} (ht' : Tame s t) : Goes s (execAdmitTimeout b t) := by
  unfold execAdmitTimeout
  split
  · exact goes_next ‹_›
  · refine tame_ite (P := Goes s) (goes_next ‹_›) ?_
    refine tame_ite (P := Goes s) (goes_next (tame_settleRefused (tame_bump ‹_›))) ?_
    refine tame_ite (P := Goes s) (goes_next (tame_ownerRefuse (tame_withBucket ‹_›))) ?_
    extract_lets -underBinder -merge +onlyGivenNames x0
    have h1 : Tame s x0 := tame_dropReservations (tame_withBucket ‹_›)
    try clear_value x0
    exact goes_next (tame_sendAdmit (tame_bump ‹_›))
theorem goes_execErrorMemoryPrefetchDone {s : State} {b t} (ht' : Tame s t) : Goes s (execErrorMemoryPrefetchDone b t) := by
  unfold execErrorMemoryPrefetchDone
  split
  · exact goes_next ‹_›
  · refine tame_ite (P := Goes s) (goes_next ‹_›) ?_
    extract_lets -underBinder -merge +onlyGivenNames x0 x1
    try clear_value x0 x1
    extract_lets -underBinder -merge +onlyGivenNames x2
    have h3 : Tame s x2 := tame_nextMoves (tame_withBucket ‹_›)
    try clear_value x2
    exact goes_next (tame_tryAdmit ‹_›)

/-! ## Ferry -/

theorem tame_withFerry {s : State} {t k g} (ht' : Tame s t) : Tame s (withFerry t k g) := by
  unfold withFerry
  exact tame_mk ‹_›
theorem tame_showSlots {s : State} {t} (ht' : Tame s t) : Tame s (showSlots t) := by
  unfold showSlots
  exact tame_setF (tame_setF ‹_›)
theorem tame_failChild {s : State} {t k c} (ht' : Tame s t) : Tame s (failChild t k c) := by
  unfold failChild
  exact tame_bump (tame_withFerry ‹_›)
theorem tame_addChild {s : State} {k t c} (ht' : Tame s t) : Tame s (addChild k t c) := by
  unfold addChild
  extract_lets -underBinder -merge +onlyGivenNames x0
  have h1 : Tame s x0 := tame_withFerry ‹_›
  try clear_value x0
  split
  · assumption
  · exact tame_ite (P := Tame s) (tame_failChild ‹_›) (tame_sendJob ‹_›)
theorem tame_openChildren {s : State} {t k} (ht' : Tame s t) : Tame s (openChildren t k) := by
  unfold openChildren
  split
  · exact tame_foldl (fun u0 y1 h2 => tame_addChild ‹_›) ‹_›
  · assumption
theorem tame_deliverTo {s : State} {f x pool t a} (ht' : Tame s t) : Tame s (deliverTo f x pool t a) := by
  unfold deliverTo
  refine tame_ite (P := Tame s) (tame_bump ‹_›) ?_
  extract_lets -underBinder -merge +onlyGivenNames x0
  have h1 : Tame s x0 := by
    unfold x0
    split
    · exact tame_poolShare ‹_›
    · assumption
  try clear_value x0
  exact tame_toAcc ‹_›
theorem tame_withCopy {s : State} {t p g} (ht' : Tame s t) : Tame s (withCopy t p g) := by
  unfold withCopy
  exact tame_mk ‹_›
theorem tame_bindOne {s : State} {f t c} (ht' : Tame s t) : Tame s (bindOne f t c) := by
  unfold bindOne
  extract_lets -underBinder -merge +onlyGivenNames x0
  try clear_value x0
  extract_lets -underBinder -merge +onlyGivenNames x1
  have h2 : ∀ u3 u4, Tame s u3 → Tame s (x1 u3 u4) := by
    intro u3 u4 g5
    unfold x1
    split
    · exact tame_endCmd ‹_›
    · assumption
  try clear_value x1
  refine tame_ite (P := Tame s) (h2 _ _ (tame_withCopy ‹_›)) ?_
  extract_lets -underBinder -merge +onlyGivenNames x6
  try clear_value x6
  exact tame_ite (P := Tame s) (h2 _ _ (tame_withCopy ‹_›)) (tame_withCopy ‹_›)
theorem tame_bindCopy {s : State} {t f} (ht' : Tame s t) : Tame s (bindCopy t f) := by
  unfold bindCopy
  exact tame_foldl (fun u0 y1 h2 => tame_bindOne ‹_›) ‹_›
theorem tame_recordOne {s : State} {f i x t c} (ht' : Tame s t) : Tame s (recordOne f i x t c) := by
  unfold recordOne
  extract_lets -underBinder -merge +onlyGivenNames x0
  have h1 : Tame s x0 := tame_poke ‹_›
  try clear_value x0
  extract_lets -underBinder -merge +onlyGivenNames x2
  try clear_value x2
  extract_lets -underBinder -merge +onlyGivenNames x3
  have h4 : Tame s x3 := tame_withCopy ‹_›
  try clear_value x3
  split
  · exact tame_ite (P := Tame s) (tame_endCmd ‹_›) ‹_›
  · assumption
theorem tame_recordCell {s : State} {t f i x} (ht' : Tame s t) : Tame s (recordCell t f i x) := by
  unfold recordCell
  exact tame_foldl (fun u0 y1 h2 => tame_recordOne ‹_›) ‹_›
theorem tameP_convertCell {s : State} {t f l i bs} (ht' : Tame s t) : TameP s (convertCell t f l i bs) := by
  unfold convertCell
  split
  · exact tameP_mk ‹_›
  · extract_lets -underBinder -merge +onlyGivenNames x0
    try clear_value x0
    extract_lets -underBinder -merge +onlyGivenNames x1 x2 x3
    try clear_value x1 x2 x3
    extract_lets -underBinder -merge +onlyGivenNames x4
    have h5 : Tame s x4 := tame_cayFlags ‹_›
    try clear_value x4
    extract_lets -underBinder -merge +onlyGivenNames x6
    try clear_value x6
    extract_lets -underBinder -merge +onlyGivenNames x7
    have h8 : Tame s x7 := by
      unfold x7
      refine tame_foldl (fun u9 y10 h11 => ?_) ‹_›
      extract_lets -underBinder -merge +onlyGivenNames x12
      try clear_value x12
      exact tame_cayNv ‹_›
    try clear_value x7
    exact tameP_mk (tame_withFerry ‹_›)
theorem tameP_sourceCell {s : State} {t f i} (ht' : Tame s t) : TameP s (sourceCell t f i) := by
  unfold sourceCell
  split
  · split
    · extract_lets -underBinder -merge +onlyGivenNames x0
      have h1 : TameP s x0 := tameP_memRead ‹_›
      try clear_value x0
      assumption
    · exact tameP_mk ‹_›
  · extract_lets -underBinder -merge +onlyGivenNames x2
    try clear_value x2
    split
    · have h3 := tame_of_eq (P := TameP s) ‹_ = _› (tameP_memRead ‹_›)
      extract_lets -underBinder -merge +onlyGivenNames x4
      have h5 : TameP s x4 := tameP_convertCell ‹_›
      try clear_value x4
      exact tameP_mk (tame_fst ‹_›)
    · have h6 := tame_of_eq (P := TameP s) ‹_ = _› (tameP_memRead ‹_›)
      exact tameP_mk ‹_›
  · extract_lets -underBinder -merge +onlyGivenNames x7
    try clear_value x7
    exact tameP_memRead ‹_›
  · exact tameP_mk ‹_›
theorem tame_takeCell {s : State} {t k x pool} (ht' : Tame s t) : Tame s (takeCell t k x pool) := by
  unfold takeCell
  split
  · assumption
  · extract_lets -underBinder -merge +onlyGivenNames x0
    try clear_value x0
    extract_lets -underBinder -merge +onlyGivenNames x1
    have h2 : Tame s x1 := tame_withFerry ‹_›
    try clear_value x1
    extract_lets -underBinder -merge +onlyGivenNames x3
    have h4 : Tame s x3 := tame_foldl (fun u5 y6 h7 => tame_deliverTo ‹_›) ‹_›
    try clear_value x3
    split
    · assumption
    · exact tame_recordCell ‹_›
theorem tame_endGathers {s : State} {t k st n} (ht' : Tame s t) : Tame s (endGathers t k st n) := by
  unfold endGathers
  extract_lets -underBinder -merge +onlyGivenNames x0
  try clear_value x0
  extract_lets -underBinder -merge +onlyGivenNames x1
  have h2 : Tame s x1 := tame_mk ‹_›
  try clear_value x1
  exact tame_foldl (fun u3 y4 h5 => tame_endCmdWith ‹_›) ‹_›
theorem tame_freeWindow {s : State} {t f} (ht' : Tame s t) : Tame s (freeWindow t f) := by
  unfold freeWindow
  refine tame_foldl (fun u0 y1 h2 => ?_) ‹_›
  split
  · exact tame_fst (tameP_poolFree ‹_›)
  · assumption
theorem tame_gatherPosts {s : State} {n t o} (h : Tame s t) : Tame s (gatherPosts n t o) := by
  induction n generalizing t with
  | zero => exact h
  | succ n ih => exact ih (tame_post h)
theorem tame_postGathers {s : State} {t f} (ht' : Tame s t) : Tame s (postGathers t f) := by
  unfold postGathers
  extract_lets -underBinder -merge +onlyGivenNames x0
  try clear_value x0
  refine tame_foldl (fun u1 y2 h3 => ?_) ‹_›
  refine tame_ite (P := Tame s) ‹_› ?_
  extract_lets -underBinder -merge +onlyGivenNames x4
  try clear_value x4
  extract_lets -underBinder -merge +onlyGivenNames x5
  have h6 : Tame s x5 := tame_mk ‹_›
  try clear_value x5
  split
  · exact tame_gatherPosts ‹_›
  · assumption
theorem tame_closeFerry {s : State} {t f} (ht' : Tame s t) : Tame s (closeFerry t f) := by
  unfold closeFerry
  extract_lets -underBinder -merge +onlyGivenNames x0
  have h1 : Tame s x0 := tame_endGathers (tame_postGathers ‹_›)
  try clear_value x0
  extract_lets -underBinder -merge +onlyGivenNames x2
  have h3 : Tame s x2 := tame_mk ‹_›
  try clear_value x2
  extract_lets -underBinder -merge +onlyGivenNames x4
  have h5 : Tame s x4 := by
    unfold x4
    split
    · assumption
    · exact tame_mk ‹_›
  try clear_value x4
  exact tame_showSlots ‹_›
theorem tame_dropFerry {s : State} {t k st} (ht' : Tame s t) : Tame s (dropFerry t k st) := by
  unfold dropFerry
  split
  · assumption
  · extract_lets -underBinder -merge +onlyGivenNames x0
    have h1 : Tame s x0 := tame_foldl (fun u2 y3 h4 => tame_sendJob ‹_›) ‹_›
    try clear_value x0
    extract_lets -underBinder -merge +onlyGivenNames x5
    have h6 : Tame s x5 := tame_freeWindow ‹_›
    try clear_value x5
    extract_lets -underBinder -merge +onlyGivenNames x7
    have h8 : Tame s x7 := tame_withCopy ‹_›
    try clear_value x7
    extract_lets -underBinder -merge +onlyGivenNames x9
    have h10 : Tame s x9 := tame_endGathers ‹_›
    try clear_value x9
    extract_lets -underBinder -merge +onlyGivenNames x11
    have h12 : Tame s x11 := tame_mk ‹_›
    try clear_value x11
    extract_lets -underBinder -merge +onlyGivenNames x13
    have h14 : Tame s x13 := by
      unfold x13
      split
      · exact tame_endCmd ‹_›
      · assumption
    try clear_value x13
    exact tame_showSlots ‹_›
theorem tame_abortFerry {s : State} {t k} (ht' : Tame s t) : Tame s (abortFerry t k) := by
  unfold abortFerry
  exact tame_dropFerry (tame_bump ‹_›)
theorem tame_endSend {s : State} {t f} (ht' : Tame s t) : Tame s (endSend t f) := by
  unfold endSend
  split
  · assumption
  · extract_lets -underBinder -merge +onlyGivenNames x0
    try clear_value x0
    extract_lets -underBinder -merge +onlyGivenNames x1 x2
    try clear_value x1 x2
    extract_lets -underBinder -merge +onlyGivenNames x3
    have h4 : ∀ u5, Tame s u5 → Tame s (x3 u5) := by
      intro u5 g6
      unfold x3
      exact tame_withFerry ‹_›
    try clear_value x3
    refine tame_ite (P := Tame s) (h4 _ (tame_endCmd ‹_›)) ?_
    extract_lets -underBinder -merge +onlyGivenNames x7
    have h8 : Tame s x7 := tame_fst (tameP_memWrite ‹_›)
    try clear_value x7
    extract_lets -underBinder -merge +onlyGivenNames x9
    have h10 : Tame s x9 := tame_fst (tameP_memWrite ‹_›)
    try clear_value x9
    exact h4 _ (tame_endCmdWith ‹_›)
theorem tame_readCells {s : State} {n t k} (h : Tame s t) : Tame s (readCells n t k) := by
  induction n generalizing t with
  | zero => exact h
  | succ n ih =>
    unfold readCells
    split
    · exact h
    · rename_i f _
      have g : TameP s (sourceCell t f f.got) := tameP_sourceCell h
      revert g
      generalize sourceCell t f f.got = r
      intro g
      refine tame_ite (P := Tame s) ?_ h
      split
      · exact ih (tame_takeCell g)
      · exact tame_dropFerry g
theorem tame_copyTo {s : State} {t f c pool x} (ht' : Tame s t) : Tame s (copyTo t f c pool x) := by
  unfold copyTo
  split
  · assumption
  · extract_lets -underBinder -merge +onlyGivenNames x0
    have h1 : Tame s x0 := by
      unfold x0
      split
      · exact tame_poolShare ‹_›
      · assumption
    try clear_value x0
    exact tame_injectAt ‹_›
theorem tame_setChild {s : State} {t k idx g} (ht' : Tame s t) : Tame s (setChild t k idx g) := by
  unfold setChild
  exact tame_withFerry ‹_›
theorem tame_feedChild {s : State} {n t k i} (h : Tame s t) : Tame s (feedChild n t k i) := by
  induction n generalizing t with
  | zero => exact h
  | succ n ih =>
    unfold feedChild
    split
    · exact h
    · split
      · exact h
      · refine tame_ite (P := Tame s) (tame_ite (P := Tame s) (ih (tame_setChild (tame_foldl (fun u x hu => tame_copyTo hu) h))) h)
          (tame_ite (P := Tame s) ?_ h)
        split
        · exact ih (tame_setChild (tame_copyTo h))
        · exact h
theorem tame_retireCells {s : State} {t k} (ht' : Tame s t) : Tame s (retireCells t k) := by
  unfold retireCells
  split
  · assumption
  · extract_lets -underBinder -merge +onlyGivenNames x0
    try clear_value x0
    extract_lets -underBinder -merge +onlyGivenNames x1
    have h2 : Tame s x1 := by
      unfold x1
      refine tame_foldl (fun u3 y4 h5 => ?_) ‹_›
      split
      · exact tame_fst (tameP_poolFree ‹_›)
      · assumption
    try clear_value x1
    exact tame_withFerry ‹_›
theorem tame_reportWindow {s : State} {n t k} (h : Tame s t) : Tame s (reportWindow n t k) := by
  induction n generalizing t with
  | zero => exact h
  | succ n ih =>
    unfold reportWindow
    split
    · exact h
    · split
      · exact tame_ite (P := Tame s) (ih (tame_withFerry (tame_sendJob h))) h
      · exact h
theorem tame_finishFerry {s : State} {t k} (ht' : Tame s t) : Tame s (finishFerry t k) := by
  unfold finishFerry
  split
  · assumption
  · extract_lets -underBinder -merge +onlyGivenNames x0
    try clear_value x0
    split
    · refine tame_ite (P := Tame s) ?_ ‹_›
      extract_lets -underBinder -merge +onlyGivenNames x1
      try clear_value x1
      exact tame_closeFerry (tame_foldl (fun u2 y3 h4 => tame_sendJob ‹_›) ‹_›)
    · extract_lets -underBinder -merge +onlyGivenNames x5
      have h6 : Tame s x5 := tame_ite (P := Tame s) (tame_endSend ‹_›) ‹_›
      try clear_value x5
      exact tame_ite (P := Tame s) (tame_closeFerry ‹_›) ‹_›
theorem tame_ferryRound {s : State} {t k} (ht' : Tame s t) : Tame s (ferryRound t k) := by
  unfold ferryRound
  extract_lets -underBinder -merge +onlyGivenNames x0
  have h1 : Tame s x0 := tame_readCells ‹_›
  try clear_value x0
  extract_lets -underBinder -merge +onlyGivenNames x2
  have h3 : Tame s x2 := by
    unfold x2
    split
    · exact tame_foldl (fun u4 y5 h6 => tame_feedChild ‹_›) ‹_›
    · assumption
  try clear_value x2
  extract_lets -underBinder -merge +onlyGivenNames x7
  have h8 : Tame s x7 := by
    unfold x7
    split
    · exact tame_postGathers ‹_›
    · assumption
  try clear_value x7
  exact tame_finishFerry (tame_reportWindow (tame_retireCells ‹_›))
theorem tame_ferryRun {s : State} {t k} (ht' : Tame s t) : Tame s (ferryRun t k) := by
  unfold ferryRun
  exact tame_ferryRound (tame_ferryRound ‹_›)
theorem tame_ferryGo {s : State} {t} (ht' : Tame s t) : Tame s (ferryGo t) := by
  unfold ferryGo
  exact tame_foldl (fun u0 y1 h2 => tame_ferryRun ‹_›) ‹_›
theorem tame_bindGathers {s : State} {t f} (ht' : Tame s t) : Tame s (bindGathers t f) := by
  unfold bindGathers
  exact tame_mk ‹_›
theorem tame_beginFerry {s : State} {t f} (ht' : Tame s t) : Tame s (beginFerry t f) := by
  unfold beginFerry
  extract_lets -underBinder -merge +onlyGivenNames x0
  try clear_value x0
  exact tame_bindGathers (tame_bindCopy (tame_showSlots (tame_mk ‹_›)))
theorem tame_ferrySend {s : State} {t k i c b} (ht' : Tame s t) : Tame s (ferrySend t k i c b) := by
  unfold ferrySend
  extract_lets -underBinder -merge +onlyGivenNames x0
  try clear_value x0
  refine tame_ite (P := Tame s) (tame_endCmd ‹_›) ?_
  split
  · have h1 := tame_of_eq (P := TameP s) ‹_ = _› (tameP_memRead ‹_›)
    exact tame_endCmd ‹_›
  · have h2 := tame_of_eq (P := TameP s) ‹_ = _› (tameP_memRead ‹_›)
    extract_lets -underBinder -merge +onlyGivenNames x3
    try clear_value x3
    refine tame_ite (P := Tame s) (tame_endCmd ‹_›) ?_
    split
    · have h4 := tame_of_eq (P := TameP s) ‹_ = _› (tameP_memRead ‹_›)
      exact tame_endCmd ‹_›
    · have h5 := tame_of_eq (P := TameP s) ‹_ = _› (tameP_memRead ‹_›)
      extract_lets -underBinder -merge +onlyGivenNames x6 x7 x8
      try clear_value x6 x7 x8
      refine tame_ite (P := Tame s) (tame_endCmd ‹_›) ?_
      split
      · exact tame_endCmd ‹_›
      · extract_lets -underBinder -merge +onlyGivenNames x9
        try clear_value x9
        extract_lets -underBinder -merge +onlyGivenNames x10
        try clear_value x10
        exact tame_ferryRun (tame_openChildren (tame_beginFerry ‹_›))
theorem goes_ferrySendRun {s : State} {c q i t} (ht' : Tame s t) : Goes s (ferrySendRun c q i t) := by
  unfold ferrySendRun
  exact goes_runCmd ‹_› (fun u0 u1 u2 h3 => tame_ferrySend ‹_›)
theorem tameO_openArrives {s : State} {t p x} (ht' : Tame s t) : TameO s (openArrives t p x) := by
  unfold openArrives
  extract_lets -underBinder -merge +onlyGivenNames x0
  try clear_value x0
  refine tame_ite (P := TameO s) (tameO_some (tame_mk ‹_›)) ?_
  refine tame_ite (P := TameO s) ?_ tameO_none
  extract_lets -underBinder -merge +onlyGivenNames x1
  try clear_value x1
  exact tameO_some (tame_bump (tame_sendTo ‹_›))
theorem goes_execFerryOpen {s : State} {p x t} (ht' : Tame s t) : Goes s (execFerryOpen p x t) := by
  unfold execFerryOpen
  exact tame_ite (P := Goes s) (goes_receive ‹_› (fun u0 h1 => tameO_openArrives ‹_›)) (goes_next ‹_›)
theorem goes_execStreamSlotTaken {s : State} {d n t} (ht' : Tame s t) : Goes s (execStreamSlotTaken d n t) := by
  unfold execStreamSlotTaken
  split
  · exact goes_next ‹_›
  · refine tame_ite (P := Goes s) (goes_next ‹_›) ?_
    split
    · extract_lets -underBinder -merge +onlyGivenNames x0
      try clear_value x0
      extract_lets -underBinder -merge +onlyGivenNames x1
      have h2 : Tame s x1 := tame_beginFerry (tame_mk ‹_›)
      try clear_value x1
      exact goes_next (tame_sendJob ‹_›)
    · exact goes_next ‹_›
theorem tame_ferryAborted {s : State} {t _p x} (ht' : Tame s t) : Tame s (ferryAborted t _p x) := by
  unfold ferryAborted
  split
  · exact tame_abortFerry ‹_›
  · exact tame_mk ‹_›
theorem goes_execFerryAbort {s : State} {p x t} (ht' : Tame s t) : Goes s (execFerryAbort p x t) := by
  unfold execFerryAbort
  exact tame_ite (P := Goes s) (goes_receive ‹_› (fun u0 h1 => tameO_some (tame_ferryAborted ‹_›))) (goes_next ‹_›)
theorem tame_ferryBusied {s : State} {t _p x} (ht' : Tame s t) : Tame s (ferryBusied t _p x) := by
  unfold ferryBusied
  split
  · exact tame_setChild ‹_›
  · assumption
theorem goes_execFerryBusy {s : State} {p x t} (ht' : Tame s t) : Goes s (execFerryBusy p x t) := by
  unfold execFerryBusy
  exact tame_ite (P := Goes s) (goes_receive ‹_› (fun u0 h1 => tameO_some (tame_ferryBusied ‹_›))) (goes_next ‹_›)
theorem goes_execFerryBusyRetry {s : State} {k t} (ht' : Tame s t) : Goes s (execFerryBusyRetry k t) := by
  unfold execFerryBusyRetry
  split
  · exact goes_next ‹_›
  · refine goes_next ?_
    refine tame_foldl (fun u0 y1 h2 => ?_) ‹_›
    split
    · exact tame_ite (P := Tame s) (tame_sendJob (tame_setChild ‹_›)) ‹_›
    · assumption
theorem tame_takePlan {s : State} {t f x} (ht' : Tame s t) : Tame s (takePlan t f x) := by
  unfold takePlan
  extract_lets -underBinder -merge +onlyGivenNames x0
  try clear_value x0
  extract_lets -underBinder -merge +onlyGivenNames x1
  have h2 : Tame s x1 := tame_withFerry ‹_›
  try clear_value x1
  extract_lets -underBinder -merge +onlyGivenNames x3
  have h4 : Tame s x3 := by
    unfold x3
    split
    · exact tame_withCopy ‹_›
    · assumption
  try clear_value x3
  exact tame_ferryRun (tame_openChildren ‹_›)
theorem tame_planTaken {s : State} {t _p x} (ht' : Tame s t) : Tame s (planTaken t _p x) := by
  unfold planTaken
  split
  · exact tame_takePlan ‹_›
  · assumption
theorem goes_execPlanCell {s : State} {p x t} (ht' : Tame s t) : Goes s (execPlanCell p x t) := by
  unfold execPlanCell
  exact tame_ite (P := Goes s) (goes_receive ‹_› (fun u0 h1 => tameO_some (tame_planTaken ‹_›))) (goes_next ‹_›)
theorem tame_takeData {s : State} {t f x} (ht' : Tame s t) : Tame s (takeData t f x) := by
  unfold takeData
  extract_lets -underBinder -merge +onlyGivenNames x0
  try clear_value x0
  split
  · have h1 := tame_of_eq (P := TameOQ s) ‹_ = _› (tameOQ_poolAlloc ‹_›)
    exact tame_ferryRun (tame_takeCell ‹_›)
  · exact tame_ferryRun (tame_takeCell ‹_›)
theorem tame_dataTaken {s : State} {t _p x} (ht' : Tame s t) : Tame s (dataTaken t _p x) := by
  unfold dataTaken
  split
  · exact tame_takeData ‹_›
  · assumption
theorem goes_execDataParam {s : State} {p x t} (ht' : Tame s t) : Goes s (execDataParam p x t) := by
  unfold execDataParam
  exact tame_ite (P := Goes s) (goes_receive ‹_› (fun u0 h1 => tameO_some (tame_dataTaken ‹_›))) (goes_next ‹_›)
theorem tame_ferryFences {s : State} {t} (ht' : Tame s t) : Tame s (ferryFences t) := by
  unfold ferryFences
  extract_lets -underBinder -merge +onlyGivenNames x0
  have h1 : Tame s x0 := tame_mk ‹_›
  try clear_value x0
  extract_lets -underBinder -merge +onlyGivenNames x2
  have h3 : Tame s x2 := by
    unfold x2
    refine tame_foldl (fun u4 y5 h6 => ?_) ‹_›
    split
    · exact tame_ite (P := Tame s) (tame_abortFerry ‹_›) ‹_›
    · assumption
  try clear_value x2
  extract_lets -underBinder -merge +onlyGivenNames x7
  have h8 : Tame s x7 := tame_foldl (fun u9 y10 h11 => tame_foldl (fun u12 y13 h14 => tame_purgeEgress (tame_failChild ‹_›))
      ‹_›) ‹_›
  try clear_value x7
  exact tame_ferryGo ‹_›
theorem tame_gatherCopy {s : State} {t g x} (ht' : Tame s t) : Tame s (gatherCopy t g x) := by
  unfold gatherCopy
  split
  · assumption
  · extract_lets -underBinder -merge +onlyGivenNames x0
    try clear_value x0
    exact tame_ferryRun (tame_mk ‹_›)
theorem tame_gatherStream {s : State} {t g} (ht' : Tame s t) : Tame s (gatherStream t g) := by
  unfold gatherStream
  split
  · extract_lets -underBinder -merge +onlyGivenNames x0
    have h1 : Tame s x0 := by
      unfold x0
      split
      · exact tame_gatherPosts ‹_›
      · assumption
    try clear_value x0
    exact tame_endCmdWith ‹_›
  · exact tame_postGathers (tame_mk ‹_›)
  · exact tame_mk ‹_›
theorem tame_gatherCmd {s : State} {t k i c b} (ht' : Tame s t) : Tame s (gatherCmd t k i c b) := by
  unfold gatherCmd
  extract_lets -underBinder -merge +onlyGivenNames x0 x1
  try clear_value x0 x1
  split
  · exact tame_gatherCopy ‹_›
  · exact tame_ite (P := Tame s) (tame_endCmd ‹_›) (tame_gatherStream ‹_›)
theorem goes_execGather {s : State} {c q i t} (ht' : Tame s t) : Goes s (execGather c q i t) := by
  unfold execGather
  exact goes_runCmd ‹_› (fun u0 u1 u2 h3 => tame_gatherCmd ‹_›)
theorem tameQ_fillSlice {s : State} {c use k n left t} (h : Tame s t) : TameQ s (fillSlice c use k n left t) := by
  induction n generalizing left t with
  | zero => exact h
  | succ n ih =>
    unfold fillSlice
    exact tame_ite (P := TameQ s) h (ih (tame_setF (tame_mk h)))
theorem tameO_fillSlices {s : State} {c use ks left t} (h : Tame s t) : TameO s (fillSlices c use ks left t) := by
  induction ks generalizing t left with
  | nil =>
    cases left with
    | zero => exact tameO_some h
    | succ n => exact tameO_none
  | cons k ks ih =>
    cases left with
    | zero => exact tameO_some h
    | succ n =>
      unfold fillSlices
      exact ih (tameQ_fillSlice h)
theorem tame_retainCmd {s : State} {t k i c b} (ht' : Tame s t) : Tame s (retainCmd t k i c b) := by
  unfold retainCmd
  extract_lets -underBinder -merge +onlyGivenNames x0 x1 x2 x3 x4 x5 x6 x7
  try clear_value x0 x1 x2 x3 x4 x5 x6 x7
  refine tame_ite (P := Tame s) (tame_endCmd (tame_bump ‹_›)) ?_
  split
  · exact tame_endCmd (tame_bump ‹_›)
  · have h8 := tame_of_eq (P := TameO s) ‹_ = _› (tameO_fillSlices ‹_›)
    extract_lets -underBinder -merge +onlyGivenNames x9 x10
    try clear_value x9 x10
    exact tame_mk ‹_›
theorem goes_execRetain {s : State} {c q i t} (ht' : Tame s t) : Goes s (execRetain c q i t) := by
  unfold execRetain
  exact goes_runCmd ‹_› (fun u0 u1 u2 h3 => tame_retainCmd ‹_›)
theorem tame_evictCopy {s : State} {t x st gst} (ht' : Tame s t) : Tame s (evictCopy t x st gst) := by
  unfold evictCopy
  extract_lets -underBinder -merge +onlyGivenNames x0
  have h1 : Tame s x0 := tame_mk ‹_›
  try clear_value x0
  extract_lets -underBinder -merge +onlyGivenNames x2
  have h3 : Tame s x2 := tame_releaseAllocs ‹_›
  try clear_value x2
  extract_lets -underBinder -merge +onlyGivenNames x4
  have h5 : Tame s x4 := by
    unfold x4
    split
    · exact tame_endCmd ‹_›
    · assumption
  try clear_value x4
  refine tame_foldl (fun u6 y7 h8 => ?_) ‹_›
  extract_lets -underBinder -merge +onlyGivenNames x9
  have h10 : Tame s x9 := tame_endGathers ‹_›
  try clear_value x9
  exact tame_mk ‹_›
theorem tame_loseCopies {s : State} {t n code} (ht' : Tame s t) : Tame s (loseCopies t n code) := by
  unfold loseCopies
  extract_lets -underBinder -merge +onlyGivenNames x0
  try clear_value x0
  exact tame_foldl (fun u1 y2 h3 => tame_bump (tame_evictCopy ‹_›)) ‹_›
theorem tame_loseRegions {s : State} {t n code} (ht' : Tame s t) : Tame s (loseRegions t n code) := by
  unfold loseRegions
  extract_lets -underBinder -merge +onlyGivenNames x0
  try clear_value x0
  exact tame_foldl (fun u1 y2 h3 => tame_dropFerry ‹_›) ‹_›
theorem tame_convNoSpare {s : State} {t n} (ht' : Tame s t) : Tame s (convNoSpare t n) := by
  unfold convNoSpare
  exact tame_mk ‹_›
theorem tame_endRunCopy {s : State} {t k st} (ht' : Tame s t) : Tame s (endRunCopy t k st) := by
  unfold endRunCopy
  extract_lets -underBinder -merge +onlyGivenNames x0
  have h1 : Tame s x0 := tame_mk ‹_›
  try clear_value x0
  exact tame_endCmd ‹_›
theorem tame_loseRuns {s : State} {t n code} (ht' : Tame s t) : Tame s (loseRuns t n code) := by
  unfold loseRuns
  exact tame_foldl (fun u0 y1 h2 => tame_endRunCopy ‹_›) ‹_›
theorem tame_expireCopies {s : State} {t c tide} (ht' : Tame s t) : Tame s (expireCopies t c tide) := by
  unfold expireCopies
  exact tame_foldl (fun u0 y1 h2 => tame_evictCopy ‹_›) ‹_›
theorem tame_releaseCmd {s : State} {t k i c b} (ht' : Tame s t) : Tame s (releaseCmd t k i c b) := by
  unfold releaseCmd
  split
  · exact tame_endCmd ‹_›
  · exact tame_endCmd (tame_foldl (fun u0 y1 h2 => tame_evictCopy ‹_›) ‹_›)
theorem goes_execRelease {s : State} {c q i t} (ht' : Tame s t) : Goes s (execRelease c q i t) := by
  unfold execRelease
  exact goes_runCmd ‹_› (fun u0 u1 u2 h3 => tame_releaseCmd ‹_›)

end Sys2Proof.Machine
end

