-- ==== Sys2Proof/Laws/Tame4.lean ====
section
/-! SUPPORT. `Tame` through the functions of Permute, Update, Fence, CayFence: one lemma per function. -/

namespace Sys2Proof.Machine

set_option linter.unusedVariables false

/-! ## Permute -/

theorem tame_withPerm {s : State} {t m g} (ht' : Tame s t) : Tame s (withPerm t m g) := by
  unfold withPerm
  exact tame_mk ‹_›
theorem tame_endPerm {s : State} {t m st} (ht' : Tame s t) : Tame s (endPerm t m st) := by
  unfold endPerm
  extract_lets -underBinder -merge +onlyGivenNames x0
  have h1 : Tame s x0 := tame_mk ‹_›
  try clear_value x0
  exact tame_endCmd (tame_ite (P := Tame s) (tame_bump ‹_›) ‹_›)
theorem tame_sendElems {s : State} {t m p} (ht' : Tame s t) : Tame s (sendElems t m p) := by
  unfold sendElems
  extract_lets -underBinder -merge +onlyGivenNames x0 x1
  try clear_value x0 x1
  exact tame_foldl (fun u2 y3 h4 => tame_sendJob ‹_›) ‹_›
theorem tame_writeDst {s : State} {t m} (ht' : Tame s t) : Tame s (writeDst t m) := by
  unfold writeDst
  exact tame_foldl (fun u0 y1 h2 => tame_poke ‹_›) ‹_›
theorem tame_permGo {s : State} {t m} (ht' : Tame s t) : Tame s (permGo t m) := by
  unfold permGo
  split
  · assumption
  · extract_lets -underBinder -merge +onlyGivenNames x0
    try clear_value x0
    extract_lets -underBinder -merge +onlyGivenNames x1 x2
    try clear_value x1 x2
    extract_lets -underBinder -merge +onlyGivenNames x3
    have h4 : Tame s x3 := tame_ite (P := Tame s) (tame_withPerm (tame_foldl (fun u5 y6 h7 => tame_sendJob ‹_›) ‹_›)) ‹_›
    try clear_value x3
    refine tame_ite (P := Tame s) ?_ ‹_›
    refine tame_ite (P := Tame s) (tame_endPerm ‹_›) ?_
    split
    · exact tame_endPerm ‹_›
    · exact tame_endPerm (tame_writeDst ‹_›)
theorem tame_permReady {s : State} {t m c} (ht' : Tame s t) : Tame s (permReady t m c) := by
  unfold permReady
  split
  · assumption
  · split
    · exact tame_endPerm ‹_›
    · exact tame_permGo (tame_withPerm (tame_sendElems ‹_›))
theorem tame_readLists {s : State} {c bs t i} (ht' : Tame s t) : Tame s (readLists c bs t i) := by
  unfold readLists
  extract_lets -underBinder -merge +onlyGivenNames x0
  try clear_value x0
  extract_lets -underBinder -merge +onlyGivenNames x1
  have h2 : ∀ u3 u4 u5, Tame s u3 → Tame s (x1 u3 u4 u5) := by
    intro u3 u4 u5 g6
    unfold x1
    exact tame_ite (P := Tame s) ‹_› (tame_askHost ‹_›)
  try clear_value x1
  exact h2 _ _ _ (h2 _ _ _ ‹_›)
theorem tame_copyOwn {s : State} {t m} (ht' : Tame s t) : Tame s (copyOwn t m) := by
  unfold copyOwn
  split
  · assumption
  · extract_lets -underBinder -merge +onlyGivenNames x0
    have h1 : Tame s x0 := tame_foldl (fun u2 y3 h4 => tame_poke ‹_›) ‹_›
    try clear_value x0
    exact tame_withPerm ‹_›
theorem tame_permStart {s : State} {t m} (ht' : Tame s t) : Tame s (permStart t m) := by
  unfold permStart
  extract_lets -underBinder -merge +onlyGivenNames x0
  have h1 : Tame s x0 := tame_copyOwn (tame_mk ‹_›)
  try clear_value x0
  extract_lets -underBinder -merge +onlyGivenNames x2
  have h3 : Tame s x2 := tame_foldl (fun u4 y5 h6 => tame_sendJob ‹_›) ‹_›
  try clear_value x2
  extract_lets -underBinder -merge +onlyGivenNames x7
  try clear_value x7
  extract_lets -underBinder -merge +onlyGivenNames x8
  have h9 : Tame s x8 := tame_mk ‹_›
  try clear_value x8
  extract_lets -underBinder -merge +onlyGivenNames x10
  have h11 : Tame s x10 := by
    unfold x10
    refine tame_foldl (fun u12 y13 h14 => ?_) ‹_›
    split
    · exact tame_permReady ‹_›
    · assumption
  try clear_value x10
  exact tame_permGo ‹_›
theorem tame_permuteCmd {s : State} {t k i c b} (ht' : Tame s t) : Tame s (permuteCmd t k i c b) := by
  unfold permuteCmd
  extract_lets -underBinder -merge +onlyGivenNames x0
  try clear_value x0
  refine tame_ite (P := Tame s) (tame_endCmd ‹_›) ?_
  split
  · have h1 := tame_of_eq (P := TameP s) ‹_ = _› (tameP_memRead ‹_›)
    exact tame_endCmd ‹_›
  · have h2 := tame_of_eq (P := TameP s) ‹_ = _› (tameP_memRead ‹_›)
    extract_lets -underBinder -merge +onlyGivenNames x3 x4
    try clear_value x3 x4
    refine tame_ite (P := Tame s) (tame_endCmd ‹_›) ?_
    split
    · have h5 := tame_of_eq (P := TameP s) ‹_ = _› (tameP_memRead ‹_›)
      exact tame_endCmd ‹_›
    · have h6 := tame_of_eq (P := TameP s) ‹_ = _› (tameP_memRead ‹_›)
      refine tame_ite (P := Tame s) (tame_endCmd ‹_›) ?_
      extract_lets -underBinder -merge +onlyGivenNames x7 x8 x9
      try clear_value x7 x8 x9
      extract_lets -underBinder -merge +onlyGivenNames x10
      have h11 : Tame s x10 := tame_foldl (fun u12 y13 h14 => tame_readLists ‹_›) ‹_›
      try clear_value x10
      exact tame_ite (P := Tame s) (tame_permStart ‹_›) (tame_endCmd (tame_ite (P := Tame s) (tame_bump ‹_›) ‹_›))
theorem goes_execPermute {s : State} {c q i t} (ht' : Tame s t) : Goes s (execPermute c q i t) := by
  unfold execPermute
  exact goes_runCmd ‹_› (fun u0 u1 u2 h3 => tame_permuteCmd ‹_›)
theorem tame_readyTaken {s : State} {t _p x} (ht' : Tame s t) : Tame s (readyTaken t _p x) := by
  unfold readyTaken
  split
  · exact tame_permReady ‹_›
  · exact tame_mk ‹_›
theorem goes_execPermuteReady {s : State} {p x t} (ht' : Tame s t) : Goes s (execPermuteReady p x t) := by
  unfold execPermuteReady
  exact tame_ite (P := Goes s) (goes_receive ‹_› (fun u0 h1 => tameO_some (tame_readyTaken ‹_›))) (goes_next ‹_›)
theorem tame_takeElems {s : State} {t m q x} (ht' : Tame s t) : Tame s (takeElems t m q x) := by
  unfold takeElems
  extract_lets -underBinder -merge +onlyGivenNames x0 x1 x2 x3
  try clear_value x0 x1 x2 x3
  extract_lets -underBinder -merge +onlyGivenNames x4
  have h5 : Tame s x4 := tame_foldl (fun u6 y7 h8 => tame_poke ‹_›) ‹_›
  try clear_value x4
  extract_lets -underBinder -merge +onlyGivenNames x9
  try clear_value x9
  exact tame_permGo (tame_withPerm ‹_›)
theorem tame_permCellTaken {s : State} {t _p x} (ht' : Tame s t) : Tame s (permCellTaken t _p x) := by
  unfold permCellTaken
  split
  · split
    · exact tame_takeElems ‹_›
    · assumption
  · assumption
theorem goes_execPermuteCell {s : State} {p x t} (ht' : Tame s t) : Goes s (execPermuteCell p x t) := by
  unfold execPermuteCell
  exact tame_ite (P := Goes s) (goes_receive ‹_› (fun u0 h1 => tameO_some (tame_permCellTaken ‹_›))) (goes_next ‹_›)
theorem tame_completeTaken {s : State} {t _p x} (ht' : Tame s t) : Tame s (completeTaken t _p x) := by
  unfold completeTaken
  split
  · exact tame_permGo (tame_withPerm ‹_›)
  · assumption
theorem goes_execPermuteComplete {s : State} {p x t} (ht' : Tame s t) : Goes s (execPermuteComplete p x t) := by
  unfold execPermuteComplete
  exact tame_ite (P := Goes s) (goes_receive ‹_› (fun u0 h1 => tameO_some (tame_completeTaken ‹_›))) (goes_next ‹_›)
theorem tame_permFences {s : State} {t} (ht' : Tame s t) : Tame s (permFences t) := by
  unfold permFences
  refine tame_foldl (fun u0 y1 h2 => ?_) ‹_›
  extract_lets -underBinder -merge +onlyGivenNames x3
  try clear_value x3
  exact tame_ite (P := Tame s) (tame_endPerm ‹_›) ‹_›

/-! ## Update -/

theorem tame_enterCall {s : State} {t n c gs ftz pc} (ht' : Tame s t) : Tame s (enterCall t n c gs ftz pc) := by
  unfold enterCall
  extract_lets -underBinder -merge +onlyGivenNames x0 x1
  try clear_value x0 x1
  exact tame_putCay ‹_›
theorem tame_placeCode {s : State} {t n image const} (ht' : Tame s t) : Tame s (placeCode t n image const) := by
  unfold placeCode
  exact tame_poke (tame_poke ‹_›)
theorem tame_clearCalls {s : State} {t l} (ht' : Tame s t) : Tame s (clearCalls t l) := by
  unfold clearCalls
  exact tame_mk ‹_›
theorem tame_startRun {s : State} {t l k} (ht' : Tame s t) : Tame s (startRun t l k) := by
  unfold startRun
  split
  · assumption
  · split
    · extract_lets -underBinder -merge +onlyGivenNames x0
      try clear_value x0
      extract_lets -underBinder -merge +onlyGivenNames x1
      try clear_value x1
      split
      · exact tame_stopUpdate (tame_clearCalls ‹_›)
      · extract_lets -underBinder -merge +onlyGivenNames x2
        try clear_value x2
        extract_lets -underBinder -merge +onlyGivenNames x3
        try clear_value x3
        exact tame_enterCall (tame_placeCode ‹_›)
    · assumption
theorem tame_withUpd {s : State} {t l f} (ht' : Tame s t) : Tame s (withUpd t l f) := by
  unfold withUpd
  exact tame_withLayer ‹_›
theorem tame_withTask {s : State} {t l a2 f} (ht' : Tame s t) : Tame s (withTask t l a2 f) := by
  unfold withTask
  exact tame_withUpd ‹_›
theorem tame_tryTask {s : State} {l t a2} (ht' : Tame s t) : Tame s (tryTask l t a2) := by
  unfold tryTask
  split
  · assumption
  · split
    · assumption
    · extract_lets -underBinder -merge +onlyGivenNames x0
      try clear_value x0
      refine tame_ite (P := Tame s) ‹_› ?_
      extract_lets -underBinder -merge +onlyGivenNames x1
      try clear_value x1
      exact tame_startRun (tame_withUpd ‹_›)
theorem tame_resumeTask {s : State} {l t k} (ht' : Tame s t) : Tame s (resumeTask l t k) := by
  unfold resumeTask
  exact tame_ite (P := Tame s) ‹_› (tame_startRun ‹_›)
theorem tame_pumpLayer {s : State} {t l} (ht' : Tame s t) : Tame s (pumpLayer t l) := by
  unfold pumpLayer
  split
  · assumption
  · split
    · assumption
    · refine tame_ite (P := Tame s) ‹_› ?_
      extract_lets -underBinder -merge +onlyGivenNames x0
      have h1 : Tame s x0 := tame_foldl (fun u2 y3 h4 => tame_resumeTask ‹_›) ‹_›
      try clear_value x0
      exact tame_foldl (fun u5 y6 h7 => tame_tryTask ‹_›) ‹_›
theorem tame_pump {s : State} {t} (ht' : Tame s t) : Tame s (pump t) := by
  unfold pump
  exact tame_foldl (fun u0 y1 h2 => tame_pumpLayer ‹_›) ‹_›
theorem tame_engineRaise {s : State} {t l x cay r} (ht' : Tame s t) : Tame s (engineRaise t l x cay r) := by
  unfold engineRaise
  extract_lets -underBinder -merge +onlyGivenNames x0
  have h1 : Tame s x0 := tame_cayFlags ‹_›
  try clear_value x0
  extract_lets -underBinder -merge +onlyGivenNames x2
  have h3 : Tame s x2 := by
    unfold x2
    refine tame_foldl (fun u4 y5 h6 => ?_) ‹_›
    extract_lets -underBinder -merge +onlyGivenNames x7
    try clear_value x7
    exact tame_cayNv ‹_›
  try clear_value x2
  exact tame_ite (P := Tame s) ‹_› (tame_countNv (tame_withUpd ‹_›))
theorem tame_statsOf {s : State} {l x const t p} (ht' : Tame s t) : Tame s (statsOf l x const t p) := by
  unfold statsOf
  extract_lets -underBinder -merge +onlyGivenNames x0 x1 x2 x3 x4 x5 x6 x7
  try clear_value x0 x1 x2 x3 x4 x5 x6 x7
  extract_lets -underBinder -merge +onlyGivenNames x8
  have h9 : Tame s x8 := tame_poke ‹_›
  try clear_value x8
  extract_lets -underBinder -merge +onlyGivenNames x10
  have h11 : Tame s x10 := tame_poke ‹_›
  try clear_value x10
  exact tame_engineRaise ‹_›
theorem tame_statistics {s : State} {t l} (ht' : Tame s t) : Tame s (statistics t l) := by
  unfold statistics
  split
  · split
    · exact tame_foldl (fun u0 y1 h2 => tame_statsOf ‹_›) ‹_›
    · assumption
  · assumption
theorem tame_failUpdate {s : State} {t l st} (ht' : Tame s t) : Tame s (failUpdate t l st) := by
  unfold failUpdate
  exact tame_pump (tame_stopUpdate (tame_clearCalls ‹_›))
theorem tame_commitLayer {s : State} {t l} (ht' : Tame s t) : Tame s (commitLayer t l) := by
  unfold commitLayer
  split
  · assumption
  · extract_lets -underBinder -merge +onlyGivenNames x0
    try clear_value x0
    extract_lets -underBinder -merge +onlyGivenNames x1 x2 x3 x4
    try clear_value x1 x2 x3 x4
    extract_lets -underBinder -merge +onlyGivenNames x5
    have h6 : Tame s x5 := tame_dropStaged ‹_›
    try clear_value x5
    extract_lets -underBinder -merge +onlyGivenNames x7
    have h8 : Tame s x7 := tame_endTide ‹_›
    try clear_value x7
    extract_lets -underBinder -merge +onlyGivenNames x9
    have h10 : Tame s x9 := tame_clearScratchpad ‹_›
    try clear_value x9
    extract_lets -underBinder -merge +onlyGivenNames x11
    have h12 : Tame s x11 := tame_setF ‹_›
    try clear_value x11
    extract_lets -underBinder -merge +onlyGivenNames x13
    have h14 : Tame s x13 := tame_moveJournal ‹_›
    try clear_value x13
    exact tame_startBack (tame_withLayer ‹_›)
theorem tame_movePhase {s : State} {t l} (ht' : Tame s t) : Tame s (movePhase t l) := by
  unfold movePhase
  split
  · assumption
  · refine tame_ite (P := Tame s) (tame_moveJournal (tame_withUpd ‹_›)) ?_
    refine tame_ite (P := Tame s) ?_ ‹_›
    split
    · exact tame_failUpdate ‹_›
    · exact tame_commitLayer (tame_moveJournal ‹_›)
theorem tame_tryStatistics {s : State} {t l} (ht' : Tame s t) : Tame s (tryStatistics t l) := by
  unfold tryStatistics
  split
  · assumption
  · split
    · exact tame_failUpdate ‹_›
    · exact tame_statistics ‹_›
theorem goes_updateStart {s : State} {l t} (ht' : Tame s t) : Goes s (updateStart l t) := by
  unfold updateStart
  split
  · exact goes_next ‹_›
  · refine tame_ite (P := Goes s) (goes_next ‹_›) ?_
    extract_lets -underBinder -merge +onlyGivenNames x0
    have h1 : Tame s x0 := tame_ite (P := Tame s) (tame_bump ‹_›) ‹_›
    try clear_value x0
    refine tame_ite (P := Goes s) (goes_next (tame_abandon ‹_›)) ?_
    split
    · exact goes_next ‹_›
    · extract_lets -underBinder -merge +onlyGivenNames x2
      have h3 : Tame s x2 := tame_withLayer ‹_›
      try clear_value x2
      exact goes_next (tame_pump (tame_tryStatistics (tame_moveJournal ‹_›)))
theorem tame_applyStore {s : State} {x apply t a3} (ht' : Tame s t) : Tame s (applyStore x apply t a3) := by
  unfold applyStore
  refine tame_ite (P := Tame s) (tame_poke ‹_›) ?_
  refine tame_foldl (fun u0 y1 h2 => ?_) ‹_›
  extract_lets -underBinder -merge +onlyGivenNames x3 x4
  try clear_value x3 x4
  exact tame_ite (P := Tame s) ‹_› (tame_poke ‹_›)
theorem tame_keepMoments {s : State} {t l x es} (ht' : Tame s t) : Tame s (keepMoments t l x es) := by
  unfold keepMoments
  exact tame_ite (P := Tame s) ‹_› (tame_foldl (fun u0 y1 h2 => tame_ite (P := Tame s) (tame_poke ‹_›) ‹_›) ‹_›)
theorem tame_markTask {s : State} {t l x pass a4} (ht' : Tame s t) : Tame s (markTask t l x pass a4) := by
  unfold markTask
  extract_lets -underBinder -merge +onlyGivenNames x0 x1
  try clear_value x0 x1
  extract_lets -underBinder -merge +onlyGivenNames x2
  have h3 : Tame s x2 := tame_poke ‹_›
  try clear_value x2
  exact tame_withLayer ‹_›
theorem tame_addNorms {s : State} {t l x cay ws} (ht' : Tame s t) : Tame s (addNorms t l x cay ws) := by
  unfold addNorms
  extract_lets -underBinder -merge +onlyGivenNames x0 x1 x2 x3
  try clear_value x0 x1 x2 x3
  extract_lets -underBinder -merge +onlyGivenNames x4
  have h5 : Tame s x4 := tame_accAdd (tame_accAdd ‹_›)
  try clear_value x4
  exact tame_engineRaise ‹_›
theorem tame_applyTask {s : State} {t l x u k} (ht' : Tame s t) : Tame s (applyTask t l x u k) := by
  unfold applyTask
  extract_lets -underBinder -merge +onlyGivenNames x0 x1 x2
  try clear_value x0 x1 x2
  extract_lets -underBinder -merge +onlyGivenNames x3
  have h4 : Tame s x3 := tame_foldl (fun u5 y6 h7 => tame_applyStore ‹_›) ‹_›
  try clear_value x3
  extract_lets -underBinder -merge +onlyGivenNames x8
  have h9 : Tame s x8 := tame_ite (P := Tame s) ‹_› (tame_keepMoments ‹_›)
  try clear_value x8
  extract_lets -underBinder -merge +onlyGivenNames x10
  have h11 : Tame s x10 := tame_ite (P := Tame s) (tame_addNorms ‹_›) ‹_›
  try clear_value x10
  exact tame_withUpd (tame_markTask ‹_›)
theorem goes_taskApply {s : State} {l t a2} (ha2' : Tame s a2) : Goes s (taskApply l t a2) := by
  unfold taskApply
  split
  · exact goes_next ‹_›
  · split
    · exact goes_next ‹_›
    · split
      · exact goes_next ‹_›
      · split
        · exact goes_next (tame_failUpdate ‹_›)
        · exact goes_next (tame_pump (tame_movePhase (tame_applyTask ‹_›)))
theorem tame_matrixPhase {s : State} {l x const t p} (ht' : Tame s t) : Tame s (matrixPhase l x const t p) := by
  unfold matrixPhase
  refine tame_ite (P := Tame s) ‹_› ?_
  extract_lets -underBinder -merge +onlyGivenNames x0 x1 x2 x3
  try clear_value x0 x1 x2 x3
  exact tame_engineRaise (tame_poke ‹_›)
theorem goes_matrixPhaseDone {s : State} {l t} (ht' : Tame s t) : Goes s (matrixPhaseDone l t) := by
  unfold matrixPhaseDone
  split
  · exact goes_next ‹_›
  · split
    · exact goes_next ‹_›
    · refine tame_ite (P := Goes s) (goes_next ‹_›) ?_
      split
      · exact goes_next (tame_failUpdate ‹_›)
      · extract_lets -underBinder -merge +onlyGivenNames x0
        have h1 : Tame s x0 := tame_foldl (fun u2 y3 h4 => tame_matrixPhase ‹_›) ‹_›
        try clear_value x0
        exact goes_next (tame_pump (tame_putJournal (tame_setF ‹_›)))
theorem tame_endRun {s : State} {t n c} (ht' : Tame s t) : Tame s (endRun t n c) := by
  unfold endRun
  extract_lets -underBinder -merge +onlyGivenNames x0
  try clear_value x0
  extract_lets -underBinder -merge +onlyGivenNames x1
  have h2 : Tame s x1 := tame_putCay ‹_›
  try clear_value x1
  split
  · assumption
  · split
    · assumption
    · extract_lets -underBinder -merge +onlyGivenNames x3
      try clear_value x3
      extract_lets -underBinder -merge +onlyGivenNames x4
      try clear_value x4
      extract_lets -underBinder -merge +onlyGivenNames x5
      have h6 : Tame s x5 := tame_withTask ‹_›
      try clear_value x5
      extract_lets -underBinder -merge +onlyGivenNames x7
      have h8 : Tame s x7 := tame_ite (P := Tame s) (tame_withUpd ‹_›) ‹_›
      try clear_value x7
      exact tame_ite (P := Tame s) (tame_startRun ‹_›) (tame_pump (tame_withTask ‹_›))
theorem tame_countReruns {s : State} {t l n} (ht' : Tame s t) : Tame s (countReruns t l n) := by
  unfold countReruns
  exact tame_bump (tame_withLayer ‹_›)
theorem tame_rerunTask {s : State} {t l a2 cay residue} (ht' : Tame s t) : Tame s (rerunTask t l a2 cay residue) := by
  unfold rerunTask
  extract_lets -underBinder -merge +onlyGivenNames x0
  have h1 : Tame s x0 := tame_withTask ‹_›
  try clear_value x0
  exact tame_countReruns ‹_›
theorem tame_streamsGo {s : State} {t} (ht' : Tame s t) : Tame s (streamsGo t) := by
  unfold streamsGo
  exact tame_pump (tame_ferryGo ‹_›)
theorem tame_ferryAccepted {s : State} {t _p x} (ht' : Tame s t) : Tame s (ferryAccepted t _p x) := by
  unfold ferryAccepted
  refine tame_pump ?_
  split
  · exact tame_ferryRun (tame_setChild ‹_›)
  · exact tame_sendJob ‹_›
theorem tame_ferryWindowed {s : State} {t _p x} (ht' : Tame s t) : Tame s (ferryWindowed t _p x) := by
  unfold ferryWindowed
  refine tame_pump ?_
  split
  · exact tame_ferryRun (tame_setChild ‹_›)
  · assumption
theorem tame_childFinished {s : State} {t _p x} (ht' : Tame s t) : Tame s (childFinished t _p x) := by
  unfold childFinished
  refine tame_pump ?_
  split
  · extract_lets -underBinder -merge +onlyGivenNames x0
    try clear_value x0
    extract_lets -underBinder -merge +onlyGivenNames x1
    try clear_value x1
    extract_lets -underBinder -merge +onlyGivenNames x2
    have h3 : Tame s x2 := tame_withFerry ‹_›
    try clear_value x2
    exact tame_ite (P := Tame s) (tame_ferryRun (tame_setChild ‹_›)) ‹_›
  · assumption

/-! ## Fence -/

theorem tame_putView {s : State} {t r} (ht' : Tame s t) : Tame s (putView t r) := by
  unfold putView
  extract_lets -underBinder -merge +onlyGivenNames x0 x1
  try clear_value x0 x1
  extract_lets -underBinder -merge +onlyGivenNames x2
  have h3 : Tame s x2 := tame_wr ‹_›
  try clear_value x2
  exact tame_mk ‹_›
theorem tame_withBeacon {s : State} {t p f} (ht' : Tame s t) : Tame s (withBeacon t p f) := by
  unfold withBeacon
  exact tame_mk ‹_›
theorem tame_sendBeacon {s : State} {t p sync syncEnd sched rs} (ht' : Tame s t) : Tame s (sendBeacon t p sync syncEnd sched rs)
    := by
  unfold sendBeacon
  extract_lets -underBinder -merge +onlyGivenNames x0
  try clear_value x0
  exact tame_injectAt (tame_withBeacon ‹_›)
theorem tame_sendRecords {s : State} {n t p y rs} (h : Tame s t) : Tame s (sendRecords n t p y rs) := by
  induction n generalizing t rs with
  | zero => exact h
  | succ n ih =>
    unfold sendRecords
    exact tame_ite (P := Tame s) h (ih (tame_sendBeacon h))
theorem tame_sendSync {s : State} {t p} (ht' : Tame s t) : Tame s (sendSync t p) := by
  unfold sendSync
  exact tame_ite (P := Tame s) (tame_sendRecords ‹_›) (tame_withBeacon ‹_›)
theorem tame_spread {s : State} {t r} (ht' : Tame s t) : Tame s (spread t r) := by
  unfold spread
  exact tame_foldl (fun u0 y1 h2 => tame_ite (P := Tame s) ‹_› (tame_ite (P := Tame s) (tame_sendBeacon ‹_›) (tame_withBeacon
      ‹_›))) ‹_›
theorem tame_discardWaiting {s : State} {t q} (ht' : Tame s t) : Tame s (discardWaiting t q) := by
  unfold discardWaiting
  split
  · extract_lets -underBinder -merge +onlyGivenNames x0
    have h1 : Tame s x0 := tame_bump ‹_›
    try clear_value x0
    exact tame_ite (P := Tame s) (tame_giveCredit ‹_›) ‹_›
  · exact tame_dropRef ‹_›
theorem tame_flushEgress {s : State} {t e f} (ht' : Tame s t) : Tame s (flushEgress t e f) := by
  unfold flushEgress
  extract_lets -underBinder -merge +onlyGivenNames x0
  try clear_value x0
  exact tame_bridgeGo (tame_foldl (fun u1 y2 h3 => tame_discardWaiting ‹_›) (tame_mk ‹_›))
theorem tame_flushFenced {s : State} {t} (ht' : Tame s t) : Tame s (flushFenced t) := by
  unfold flushFenced
  exact tame_foldl (fun u0 y1 h2 => tame_ite (P := Tame s) (tame_flushEgress ‹_›) ‹_›) ‹_›
theorem tame_fenceChange {s : State} {old t} (hold' : Tame s old) (ht' : Tame s t) : Tame s (fenceChange old t) := by
  unfold fenceChange
  extract_lets -underBinder -merge +onlyGivenNames x0
  try clear_value x0
  exact tame_foldl (fun u1 y2 h3 => tame_ctxMsix (tame_setF ‹_›)) ‹_›
theorem tame_fenceLog {s : State} {t unit kind status subject} (ht' : Tame s t) : Tame s (fenceLog t unit kind status subject)
    := by
  unfold fenceLog
  exact tame_ite (P := Tame s) ‹_› (tame_wr ‹_›)
theorem tame_fenceBuckets {s : State} {t} (ht' : Tame s t) : Tame s (fenceBuckets t) := by
  unfold fenceBuckets
  refine tame_foldl (fun u0 y1 h2 => ?_) ‹_›
  split
  · assumption
  · extract_lets -underBinder -merge +onlyGivenNames x3
    try clear_value x3
    exact tame_ite (P := Tame s) (tame_ite (P := Tame s) (tame_fenceBucket ‹_›) ‹_›) (tame_ite (P := Tame s) (tame_localRefuse
        ‹_›) ‹_›)
theorem tame_fenceCauseway {s : State} {t} (ht' : Tame s t) : Tame s (fenceCauseway t) := by
  unfold fenceCauseway
  exact tame_foldl (fun u0 y1 h2 => tame_ite (P := Tame s) (tame_cwAbandon ‹_›) ‹_›) ‹_›
theorem tame_cwEndAll {s : State} {t g} (ht' : Tame s t) : Tame s (cwEndAll t g) := by
  unfold cwEndAll
  split
  · assumption
  · extract_lets -underBinder -merge +onlyGivenNames x0
    try clear_value x0
    extract_lets -underBinder -merge +onlyGivenNames x1
    have h2 : Tame s x1 := tame_withCw ‹_›
    try clear_value x1
    extract_lets -underBinder -merge +onlyGivenNames x3
    have h4 : Tame s x3 := by
      unfold x3
      split
      · exact tame_cwEndCmd ‹_›
      · assumption
    try clear_value x3
    exact tame_endAll ‹_›
theorem tame_dropTraffic {s : State} {t cause} (ht' : Tame s t) : Tame s (dropTraffic t cause) := by
  unfold dropTraffic
  extract_lets -underBinder -merge +onlyGivenNames x0
  have h1 : Tame s x0 := by
    unfold x0
    refine tame_foldl (fun u2 y3 h4 => ?_) ‹_›
    split
    · assumption
    · exact tame_ite (P := Tame s) (tame_fenceBucket ‹_›) (tame_ite (P := Tame s) (tame_settleRefused (tame_bump ‹_›)) ‹_›)
  try clear_value x0
  extract_lets -underBinder -merge +onlyGivenNames x5
  have h6 : Tame s x5 := tame_foldl (fun u7 y8 h9 => tame_cwEndAll ‹_›) ‹_›
  try clear_value x5
  exact tame_pump (tame_permFences (tame_ferryFences ‹_›))
theorem tame_fenceWork {s : State} {t} (ht' : Tame s t) : Tame s (fenceWork t) := by
  unfold fenceWork
  extract_lets -underBinder -merge +onlyGivenNames x0
  have h1 : Tame s x0 := tame_flushFenced ‹_›
  try clear_value x0
  exact tame_ite (P := Tame s) (tame_dropTraffic ‹_›) (tame_pump (tame_permFences (tame_ferryFences (tame_fenceCauseway
      (tame_fenceBuckets ‹_›)))))
theorem tame_restartExchange {s : State} {t e r} (ht' : Tame s t) : Tame s (restartExchange t e r) := by
  unfold restartExchange
  exact tame_ite (P := Tame s) ‹_› (tame_foldl (fun u0 y1 h2 => tame_ite (P := Tame s) (tame_withBeacon ‹_›) ‹_›) ‹_›)
theorem tame_barMember {s : State} {t c} (ht' : Tame s t) : Tame s (barMember t c) := by
  unfold barMember
  exact tame_mk ‹_›
theorem tame_changeView {s : State} {t r} (ht' : Tame s t) : Tame s (changeView t r) := by
  unfold changeView
  extract_lets -underBinder -merge +onlyGivenNames x0
  try clear_value x0
  extract_lets -underBinder -merge +onlyGivenNames x1
  have h2 : Tame s x1 := tame_spread (tame_putView ‹_›)
  try clear_value x1
  extract_lets -underBinder -merge +onlyGivenNames x3
  have h4 : Tame s x3 := tame_ite (P := Tame s) (tame_fenceLog ‹_›) (tame_ite (P := Tame s) (tame_fenceLog ‹_›) ‹_›)
  try clear_value x3
  extract_lets -underBinder -merge +onlyGivenNames x5
  have h6 : Tame s x5 := tame_emit (tame_pfMsix (tame_fenceChange ‹_› ‹_›))
  try clear_value x5
  extract_lets -underBinder -merge +onlyGivenNames x7
  have h8 : Tame s x7 := tame_ite (P := Tame s) (tame_barMember ‹_›) ‹_›
  try clear_value x7
  exact tame_fenceWork (tame_restartExchange ‹_›)
theorem tame_adopt {s : State} {t r} (ht' : Tame s t) : Tame s (adopt t r) := by
  unfold adopt
  split
  · exact tame_changeView ‹_›
  · assumption
theorem tame_originate {s : State} {t c b set cause} (ht' : Tame s t) : Tame s (originate t c b set cause) := by
  unfold originate
  extract_lets -underBinder -merge +onlyGivenNames x0
  try clear_value x0
  refine tame_ite (P := Tame s) (tame_emit ‹_›) ?_
  extract_lets -underBinder -merge +onlyGivenNames x1
  try clear_value x1
  exact tame_adopt ‹_›
theorem tame_selfFence {s : State} {t cause} (ht' : Tame s t) : Tame s (selfFence t cause) := by
  unfold selfFence
  exact tame_ite (P := Tame s) (tame_originate ‹_›) ‹_›
theorem tame_originateDown {s : State} {t p} (ht' : Tame s t) : Tame s (originateDown t p) := by
  unfold originateDown
  exact tame_ite (P := Tame s) (tame_originate ‹_›) ‹_›
theorem tame_clearView {s : State} {t} (ht' : Tame s t) : Tame s (clearView t) := by
  unfold clearView
  exact tame_mk ‹_›
theorem tame_kick {s : State} {t} (ht' : Tame s t) : Tame s (kick t) := by
  unfold kick
  extract_lets -underBinder -merge +onlyGivenNames x0
  have h1 : Tame s x0 := tame_mk ‹_›
  try clear_value x0
  refine tame_foldl (fun u2 y3 h4 => ?_) ‹_›
  extract_lets -underBinder -merge +onlyGivenNames x5
  try clear_value x5
  extract_lets -underBinder -merge +onlyGivenNames x6
  have h7 : Tame s x6 := tame_withBeacon ‹_›
  try clear_value x6
  exact tame_ite (P := Tame s) ‹_› (tame_ite (P := Tame s) (tame_sendSync ‹_›) (tame_sendRecords ‹_›))
theorem goes_execHealthKick {s : State} {r v t} (ht' : Tame s t) : Goes s (execHealthKick r v t) := by
  unfold execHealthKick
  exact goes_access ‹_› (fun u0 h1 => tame_ite (P := Tame s) (tame_kick ‹_›) ‹_›)
theorem goes_execWatchdogExpiry {s : State} {t} (ht' : Tame s t) : Goes s (execWatchdogExpiry t) := by
  unfold execWatchdogExpiry
  extract_lets -underBinder -merge +onlyGivenNames x0
  try clear_value x0
  exact tame_ite (P := Goes s) (goes_next (tame_mk ‹_›)) (goes_next ‹_›)
theorem tame_selfFenceWrite {s : State} {t v} (ht' : Tame s t) : Tame s (selfFenceWrite t v) := by
  unfold selfFenceWrite
  extract_lets -underBinder -merge +onlyGivenNames x0
  have h1 : Tame s x0 := tame_ite (P := Tame s) (tame_selfFence ‹_›) ‹_›
  try clear_value x0
  exact tame_ite (P := Tame s) (tame_selfFence ‹_›) ‹_›
theorem goes_execSelfFenceSelf {s : State} {r v t} (ht' : Tame s t) : Goes s (execSelfFenceSelf r v t) := by
  unfold execSelfFenceSelf
  exact goes_access ‹_› (fun u0 h1 => tame_selfFenceWrite ‹_›)
theorem goes_execSelfFenceManager {s : State} {r v t} (ht' : Tame s t) : Goes s (execSelfFenceManager r v t) := by
  unfold execSelfFenceManager
  exact goes_access ‹_› (fun u0 h1 => tame_selfFenceWrite ‹_›)
theorem goes_execDieBridgeFail {s : State} {t} (ht' : Tame s t) : Goes s (execDieBridgeFail t) := by
  unfold execDieBridgeFail
  exact goes_next (tame_selfFence ‹_›)
theorem tame_readmitWrite {s : State} {t v} (ht' : Tame s t) : Tame s (readmitWrite t v) := by
  unfold readmitWrite
  exact tame_setF (tame_setF ‹_›)
theorem goes_execHealthReadmitRequest {s : State} {r v t} (ht' : Tame s t) : Goes s (execHealthReadmitRequest r v t) := by
  unfold execHealthReadmitRequest
  exact goes_access ‹_› (fun u0 h1 => tame_readmitWrite ‹_›)
theorem tame_beaconWrite {s : State} {t v} (ht' : Tame s t) : Tame s (beaconWrite t v) := by
  unfold beaconWrite
  extract_lets -underBinder -merge +onlyGivenNames x0
  try clear_value x0
  exact tame_ite (P := Tame s) ‹_› (tame_wr ‹_›)
theorem goes_execHealthBeaconWrite {s : State} {r v t} (ht' : Tame s t) : Goes s (execHealthBeaconWrite r v t) := by
  unfold execHealthBeaconWrite
  exact goes_access ‹_› (fun u0 h1 => tame_beaconWrite ‹_›)
theorem tame_levelWrite {s : State} {t v} (ht' : Tame s t) : Tame s (levelWrite t v) := by
  unfold levelWrite
  extract_lets -underBinder -merge +onlyGivenNames x0
  try clear_value x0
  exact tame_ite (P := Tame s) ‹_› (tame_setF ‹_›)
theorem goes_execHealthLevelWrite {s : State} {r v t} (ht' : Tame s t) : Goes s (execHealthLevelWrite r v t) := by
  unfold execHealthLevelWrite
  exact goes_access ‹_› (fun u0 h1 => tame_levelWrite ‹_›)
theorem goes_execBeaconDue {s : State} {p t} (ht' : Tame s t) : Goes s (execBeaconDue p t) := by
  unfold execBeaconDue
  extract_lets -underBinder -merge +onlyGivenNames x0
  try clear_value x0
  refine tame_ite (P := Goes s) ?_ (goes_next ‹_›)
  extract_lets -underBinder -merge +onlyGivenNames x1
  have h2 : Tame s x1 := tame_withBeacon ‹_›
  try clear_value x1
  exact goes_next (tame_ite (P := Tame s) (tame_sendBeacon ‹_›) ‹_›)
theorem goes_execBeaconMiss {s : State} {p t} (ht' : Tame s t) : Goes s (execBeaconMiss p t) := by
  unfold execBeaconMiss
  extract_lets -underBinder -merge +onlyGivenNames x0 x1
  try clear_value x0 x1
  refine tame_ite (P := Goes s) (goes_next ‹_›) ?_
  extract_lets -underBinder -merge +onlyGivenNames x2
  try clear_value x2
  extract_lets -underBinder -merge +onlyGivenNames x3
  have h4 : Tame s x3 := tame_withBeacon ‹_›
  try clear_value x3
  extract_lets -underBinder -merge +onlyGivenNames x5
  have h6 : Tame s x5 := tame_ite (P := Tame s) (tame_pfMsix (tame_scorePort (tame_setF ‹_›))) ‹_›
  try clear_value x5
  exact goes_next (tame_ite (P := Tame s) (tame_originate ‹_›) ‹_›)
theorem tame_countReadmit {s : State} {t p flags} (ht' : Tame s t) : Tame s (countReadmit t p flags) := by
  unfold countReadmit
  refine tame_ite (P := Tame s) ‹_› ?_
  extract_lets -underBinder -merge +onlyGivenNames x0 x1 x2
  try clear_value x0 x1 x2
  exact tame_withBeacon ‹_›

/-! ## CayFence -/

theorem tame_mapEntries {s : State} {t n f} (ht' : Tame s t) (hf' : ∀ u0 u1, Tame s u0 → Tame s (f u0 u1)) : Tame s (mapEntries
    t n f) := by
  unfold mapEntries
  exact tame_foldl (fun u0 y1 h2 => hf' _ _ ‹_›) ‹_›
theorem tame_cayEvent {s : State} {t} (ht' : Tame s t) : Tame s (cayEvent t) := by
  unfold cayEvent
  exact tame_foldl (fun u0 y1 h2 => tame_ctxMsix (tame_setF ‹_›)) ‹_›
theorem tame_remakeScratch {s : State} {t l} (ht' : Tame s t) : Tame s (remakeScratch t l) := by
  unfold remakeScratch
  extract_lets -underBinder -merge +onlyGivenNames x0
  have h1 : Tame s x0 := tame_releaseAllocs ‹_›
  try clear_value x0
  exact tame_fst (tameP_takeScratch (tame_withLayer ‹_›))
theorem tame_clearTasks {s : State} {t l ts} (ht' : Tame s t) : Tame s (clearTasks t l ts) := by
  unfold clearTasks
  exact tame_mk ‹_›
theorem tame_restartTasks {s : State} {t l x u n} (ht' : Tame s t) : Tame s (restartTasks t l x u n) := by
  unfold restartTasks
  extract_lets -underBinder -merge +onlyGivenNames x0
  try clear_value x0
  exact tame_foldl (fun u1 y2 h3 => tame_rerunTask ‹_›) (tame_clearTasks ‹_›)
theorem tame_rerunStatistics {s : State} {t l} (ht' : Tame s t) : Tame s (rerunStatistics t l) := by
  unfold rerunStatistics
  exact tame_countReruns (tame_tryStatistics ‹_›)
theorem tame_rerunTasks {s : State} {t l u n} (ht' : Tame s t) : Tame s (rerunTasks t l u n) := by
  unfold rerunTasks
  exact tame_foldl (fun u0 y1 h2 => tame_rerunTask ‹_›) ‹_›
theorem tame_moveTasks {s : State} {t l n} (ht' : Tame s t) : Tame s (moveTasks t l n) := by
  unfold moveTasks
  exact tame_withUpd ‹_›
theorem tame_moveSpilled {s : State} {n l t b} (ht' : Tame s t) : Tame s (moveSpilled n l t b) := by
  unfold moveSpilled
  split
  · assumption
  · refine tame_ite (P := Tame s) ‹_› ?_
    extract_lets -underBinder -merge +onlyGivenNames x0
    try clear_value x0
    extract_lets -underBinder -merge +onlyGivenNames x1
    have h2 : Tame s x1 := tame_releaseAllocs ‹_›
    try clear_value x1
    extract_lets -underBinder -merge +onlyGivenNames x3
    have h4 : TameP s x3 := tameP_reserve ‹_›
    try clear_value x3
    split
    · exact tame_withLayer (tame_fst ‹_›)
    · exact tame_haltLayer (tame_fst ‹_›)
theorem tame_fenceLayer {s : State} {n spare t p} (ht' : Tame s t) : Tame s (fenceLayer n spare t p) := by
  unfold fenceLayer
  split
  · assumption
  · split
    · extract_lets -underBinder -merge +onlyGivenNames x0
      have h1 : Tame s x0 := tame_ite (P := Tame s) (tame_haltLayer ‹_›) ‹_›
      try clear_value x0
      refine tame_ite (P := Tame s) ‹_› ?_
      extract_lets -underBinder -merge +onlyGivenNames x2
      have h3 : Tame s x2 := tame_foldl (fun u4 y5 h6 => tame_moveSpilled ‹_›) ‹_›
      try clear_value x2
      exact tame_ite (P := Tame s) (tame_remakeScratch ‹_›) ‹_›
    · refine tame_ite (P := Tame s) ?_ ?_
      · extract_lets -underBinder -merge +onlyGivenNames x7
        have h8 : Tame s x7 := tame_failUpdate ‹_›
        try clear_value x7
        exact tame_ite (P := Tame s) (tame_remakeScratch ‹_›) ‹_›
      · refine tame_ite (P := Tame s) ?_ (tame_rerunTasks ‹_›)
        extract_lets -underBinder -merge +onlyGivenNames x9
        have h10 : Tame s x9 := tame_restartTasks ‹_›
        try clear_value x9
        exact tame_ite (P := Tame s) ‹_› (tame_moveTasks (tame_rerunStatistics (tame_remakeScratch ‹_›)))
theorem tame_moveBuckets {s : State} {t n code} (ht' : Tame s t) : Tame s (moveBuckets t n code) := by
  unfold moveBuckets
  refine tame_retryMoves ?_
  refine tame_foldl (fun u0 y1 h2 => ?_) ‹_›
  split
  · assumption
  · exact tame_ite (P := Tame s) ‹_› (tame_ite (P := Tame s) (tame_restartBucket ‹_›) (tame_moveReservations ‹_›))
theorem tame_endFencedCall {s : State} {t n} (ht' : Tame s t) : Tame s (endFencedCall t n) := by
  unfold endFencedCall
  extract_lets -underBinder -merge +onlyGivenNames x0
  try clear_value x0
  extract_lets -underBinder -merge +onlyGivenNames x1
  have h2 : Tame s x1 := tame_ite (P := Tame s) (tame_endKernel ‹_›) ‹_›
  try clear_value x1
  exact tame_putCay ‹_›
theorem tame_checkCays {s : State} {t} (ht' : Tame s t) : Tame s (checkCays t) := by
  unfold checkCays
  exact tame_ite (P := Tame s) (tame_selfFence ‹_›) ‹_›
theorem tame_healthCtrlWrite {s : State} {t v} (ht' : Tame s t) : Tame s (healthCtrlWrite t v) := by
  unfold healthCtrlWrite
  extract_lets -underBinder -merge +onlyGivenNames x0
  have h1 : Tame s x0 := tame_setF (tame_setF ‹_›)
  try clear_value x0
  exact tame_checkCays (tame_setF ‹_›)
theorem tame_cayFence {s : State} {t n hard} (ht' : Tame s t) : Tame s (cayFence t n hard) := by
  unfold cayFence
  extract_lets -underBinder -merge +onlyGivenNames x0 x1
  try clear_value x0 x1
  extract_lets -underBinder -merge +onlyGivenNames x2
  have h3 : Tame s x2 := tame_bump ‹_›
  try clear_value x2
  extract_lets -underBinder -merge +onlyGivenNames x4
  have h5 : Tame s x4 := tame_setF ‹_›
  try clear_value x4
  extract_lets -underBinder -merge +onlyGivenNames x6
  have h7 : Tame s x6 := tame_fenceLog ‹_›
  try clear_value x6
  extract_lets -underBinder -merge +onlyGivenNames x8
  have h9 : Tame s x8 := tame_cayEvent (tame_pfMsix ‹_›)
  try clear_value x8
  extract_lets -underBinder -merge +onlyGivenNames x10
  try clear_value x10
  extract_lets -underBinder -merge +onlyGivenNames x11
  have h12 : Tame s x11 := tame_loseRuns (tame_loseRegions (tame_loseCopies (tame_endFencedCall ‹_›)))
  try clear_value x11
  extract_lets -underBinder -merge +onlyGivenNames x13
  have h14 : Tame s x13 := tame_ite (P := Tame s) (tame_convNoSpare ‹_›) ‹_›
  try clear_value x13
  extract_lets -underBinder -merge +onlyGivenNames x15
  have h16 : Tame s x15 := tame_ite (P := Tame s) (tame_mapEntries (tame_setF ‹_›) (fun u17 u18 h19 => tame_setF ‹_›))
      (tame_mapEntries ‹_› (fun u20 u21 h22 => tame_setF ‹_›))
  try clear_value x15
  extract_lets -underBinder -merge +onlyGivenNames x23
  have h24 : Tame s x23 := tame_foldl (fun u25 y26 h27 => tame_fenceLayer ‹_›) ‹_›
  try clear_value x23
  extract_lets -underBinder -merge +onlyGivenNames x28
  have h29 : Tame s x28 := tame_ite (P := Tame s) ‹_› (tame_moveBuckets ‹_›)
  try clear_value x28
  exact tame_streamsGo (tame_checkCays ‹_›)
theorem tame_survived {s : State} {t n u} (ht' : Tame s t) : Tame s (survived t n u) := by
  unfold survived
  exact tame_ite (P := Tame s) (tame_scoreCay (tame_bump ‹_›)) (tame_scoreCay (tame_bump ‹_›))
theorem tame_markRerun {s : State} {t c} (ht' : Tame s t) : Tame s (markRerun t c) := by
  unfold markRerun
  exact tame_withTask ‹_›
theorem tame_succumbed {s : State} {t n u} (ht' : Tame s t) : Tame s (succumbed t n u) := by
  unfold succumbed
  extract_lets -underBinder -merge +onlyGivenNames x0
  try clear_value x0
  extract_lets -underBinder -merge +onlyGivenNames x1
  have h2 : Tame s x1 := tame_bump ‹_›
  try clear_value x1
  extract_lets -underBinder -merge +onlyGivenNames x3
  have h4 : Tame s x3 := by
    unfold x3
    split
    · exact tame_ite (P := Tame s) (tame_endKernel ‹_›) (tame_ite (P := Tame s) (tame_markRerun ‹_›) (tame_stopUpdate
          (tame_clearCalls ‹_›)))
    · assumption
  try clear_value x3
  exact tame_cayFence ‹_›
theorem tame_metUpset {s : State} {t n} (ht' : Tame s t) : Tame s (metUpset t n) := by
  unfold metUpset
  exact tame_mk ‹_›
theorem tame_upsetMet {s : State} {t n u} (ht' : Tame s t) : Tame s (upsetMet t n u) := by
  unfold upsetMet
  exact tame_ite (P := Tame s) (tame_survived (tame_metUpset ‹_›)) (tame_succumbed (tame_metUpset ‹_›))
theorem goes_underUpsets {s : State} {t} {f} (ht : Tame s t) (hf : ∀ u, Tame s u → Goes s (f u)) : Goes s (underUpsets t f) := by
  obtain ⟨v, hv, gv⟩ := hf t ht
  unfold underUpsets
  refine tame_ite (P := Goes s) ⟨v, hv, gv⟩ ?_
  rw [hv]
  dsimp only
  split
  · exact tame_ite (P := Goes s) (goes_next (tame_survived (tame_metUpset gv))) (hf _ (tame_succumbed (tame_metUpset ht)))
  · exact goes_next gv
theorem goes_execDataW32 {s : State} {p x t} (ht' : Tame s t) : Goes s (execDataW32 p x t) := by
  unfold execDataW32
  exact goes_underUpsets ‹_› (fun u0 h1 => tame_ite (P := Goes s) (goes_receive ‹_› (fun u2 h3 => tameO_some (tame_armData
      ‹_›))) (goes_next ‹_›))
theorem goes_execDataS1 {s : State} {p x t} (ht' : Tame s t) : Goes s (execDataS1 p x t) := by
  unfold execDataS1
  exact goes_underUpsets ‹_› (fun u0 h1 => tame_ite (P := Goes s) (goes_receive ‹_› (fun u2 h3 => tameO_some (tame_armData
      ‹_›))) (goes_next ‹_›))
theorem goes_execTrailerCell {s : State} {p x t} (ht' : Tame s t) : Goes s (execTrailerCell p x t) := by
  unfold execTrailerCell
  exact goes_underUpsets ‹_› (fun u0 h1 => goes_trailerCell ‹_›)
theorem goes_execDeadline {s : State} {b t} (ht' : Tame s t) : Goes s (execDeadline b t) := by
  unfold execDeadline
  exact goes_underUpsets ‹_› (fun u0 h1 => goes_deadline ‹_›)
theorem goes_execArmDeadline {s : State} {b p t} (ht' : Tame s t) : Goes s (execArmDeadline b p t) := by
  unfold execArmDeadline
  exact goes_underUpsets ‹_› (fun u0 h1 => goes_armDeadline ‹_›)
theorem goes_execLayerStatePresent {s : State} {l t} (ht' : Tame s t) : Goes s (execLayerStatePresent l t) := by
  unfold execLayerStatePresent
  exact goes_underUpsets ‹_› (fun u0 h1 => goes_layerStatePresent ‹_›)
theorem goes_execUpdateStart {s : State} {l t} (ht' : Tame s t) : Goes s (execUpdateStart l t) := by
  unfold execUpdateStart
  exact goes_underUpsets ‹_› (fun u0 h1 => goes_updateStart ‹_›)
theorem goes_execTaskApply {s : State} {l t a2} (ha2' : Tame s a2) : Goes s (execTaskApply l t a2) := by
  unfold execTaskApply
  exact goes_underUpsets ‹_› (fun u0 h1 => goes_taskApply ‹_›)
theorem goes_execMatrixPhaseDone {s : State} {l t} (ht' : Tame s t) : Goes s (execMatrixPhaseDone l t) := by
  unfold execMatrixPhaseDone
  exact goes_underUpsets ‹_› (fun u0 h1 => goes_matrixPhaseDone ‹_›)
theorem goes_execGrantRelease {s : State} {p x t} (ht' : Tame s t) : Goes s (execGrantRelease p x t) := by
  unfold execGrantRelease
  exact goes_underUpsets ‹_› (fun u0 h1 => tame_ite (P := Goes s) (goes_receive ‹_› (fun u2 h3 => tameO_some (tame_grantRelease
      ‹_›))) (goes_next ‹_›))
theorem goes_execGrantResend {s : State} {p x t} (ht' : Tame s t) : Goes s (execGrantResend p x t) := by
  unfold execGrantResend
  exact goes_underUpsets ‹_› (fun u0 h1 => tame_ite (P := Goes s) (goes_receive ‹_› (fun u2 h3 => tameO_some (tame_grantResend
      ‹_›))) (goes_next ‹_›))
theorem goes_execFerryAccept {s : State} {p x t} (ht' : Tame s t) : Goes s (execFerryAccept p x t) := by
  unfold execFerryAccept
  exact goes_underUpsets ‹_› (fun u0 h1 => tame_ite (P := Goes s) (goes_receive ‹_› (fun u2 h3 => tameO_some (tame_ferryAccepted
      ‹_›))) (goes_next ‹_›))
theorem goes_execFerryWindow {s : State} {p x t} (ht' : Tame s t) : Goes s (execFerryWindow p x t) := by
  unfold execFerryWindow
  exact goes_underUpsets ‹_› (fun u0 h1 => tame_ite (P := Goes s) (goes_receive ‹_› (fun u2 h3 => tameO_some (tame_ferryWindowed
      ‹_›))) (goes_next ‹_›))
theorem goes_execFerryFinished {s : State} {p x t} (ht' : Tame s t) : Goes s (execFerryFinished p x t) := by
  unfold execFerryFinished
  exact goes_underUpsets ‹_› (fun u0 h1 => tame_ite (P := Goes s) (goes_receive ‹_› (fun u2 h3 => tameO_some (tame_childFinished
      ‹_›))) (goes_next ‹_›))
theorem goes_execFerrySend {s : State} {c q i t} (ht' : Tame s t) : Goes s (execFerrySend c q i t) := by
  unfold execFerrySend
  exact goes_underUpsets ‹_› (fun u0 h1 => goes_ferrySendRun ‹_›)
theorem goes_execCayHang {s : State} {n t} (ht' : Tame s t) : Goes s (execCayHang n t) := by
  unfold execCayHang
  exact tame_ite (P := Goes s) (goes_next (tame_cayFence ‹_›)) (goes_next ‹_›)
theorem tame_resumeLayer {s : State} {n t p} (ht' : Tame s t) : Tame s (resumeLayer n t p) := by
  unfold resumeLayer
  split
  · exact tame_ite (P := Tame s) (tame_rerunStatistics ‹_›) (tame_convertSpills ‹_›)
  · assumption
theorem tame_spareServes {s : State} {t n} (ht' : Tame s t) : Tame s (spareServes t n) := by
  unfold spareServes
  extract_lets -underBinder -merge +onlyGivenNames x0
  have h1 : Tame s x0 := tame_setF (tame_setF ‹_›)
  try clear_value x0
  extract_lets -underBinder -merge +onlyGivenNames x2
  have h3 : Tame s x2 := tame_putCay (tame_wipe (tame_wipe ‹_›))
  try clear_value x2
  extract_lets -underBinder -merge +onlyGivenNames x4
  have h5 : Tame s x4 := tame_mapEntries ‹_› (fun u6 u7 h8 => tame_setF ‹_›)
  try clear_value x4
  exact tame_cayEvent ‹_›
theorem goes_spareResumes {s : State} {n t} (ht' : Tame s t) : Goes s (spareResumes n t) := by
  unfold spareResumes
  exact tame_ite (P := Goes s) (goes_next ‹_›) (goes_next (tame_streamsGo (tame_moveBuckets (tame_foldl (fun u0 y1 h2 =>
      tame_resumeLayer ‹_›) ‹_›))))
theorem goes_execSpareInService {s : State} {n t} (ht' : Tame s t) : Goes s (execSpareInService n t) := by
  unfold execSpareInService
  exact tame_ite (P := Goes s) (goes_next ‹_›) (goes_underUpsets (tame_spareServes ‹_›) (fun u0 h1 => goes_spareResumes ‹_›))
theorem tame_decayF {s : State} {t f} (ht' : Tame s t) : Tame s (decayF t f) := by
  unfold decayF
  exact tame_setF ‹_›
theorem tame_decayAll {s : State} {t} (ht' : Tame s t) : Tame s (decayAll t) := by
  unfold decayAll
  extract_lets -underBinder -merge +onlyGivenNames x0
  have h1 : Tame s x0 := tame_foldl (fun u2 y3 h4 => tame_ite (P := Tame s) (tame_decayF ‹_›) ‹_›) ‹_›
  try clear_value x0
  extract_lets -underBinder -merge +onlyGivenNames x5
  have h6 : Tame s x5 := tame_foldl (fun u7 y8 h9 => tame_decayF ‹_›) ‹_›
  try clear_value x5
  exact tame_decayF ‹_›
theorem tame_softFence {s : State} {t} (ht' : Tame s t) : Tame s (softFence t) := by
  unfold softFence
  split
  · assumption
  · exact tame_ite (P := Tame s) (tame_cayFence (tame_mk ‹_›)) (tame_bump ‹_›)
theorem goes_execScoreDecay {s : State} {t} (ht' : Tame s t) : Goes s (execScoreDecay t) := by
  unfold execScoreDecay
  exact tame_ite (P := Goes s) (goes_next (tame_softFence (tame_decayAll (tame_mk ‹_›)))) (goes_next ‹_›)

end Sys2Proof.Machine
end

