-- ==== Sys2Proof/Laws/Tame5.lean ====
section
/-! SUPPORT. `Tame` through the functions of Milar, MilarScalar, MilarMemory, MilarVector, MilarTile, MilarStream, Kernels:
one lemma per function. -/

namespace Sys2Proof.Machine

set_option linter.unusedVariables false

/-! ## Milar -/

theorem tame_stopCall {s : State} {t n c st} (ht' : Tame s t) : Tame s (stopCall t n c st) := by
  unfold stopCall
  exact tame_ite (P := Tame s) (tame_pump (tame_endKernel ‹_›)) (tame_failUpdate ‹_›)
theorem tame_captureTrap {s : State} {t n c pc cause arg addr} (ht' : Tame s t) : Tame s (captureTrap t n c pc cause arg addr)
    := by
  unfold captureTrap
  extract_lets -underBinder -merge +onlyGivenNames x0
  have h1 : Tame s x0 := tame_bump ‹_›
  try clear_value x0
  refine tame_ite (P := Tame s) ‹_› ?_
  extract_lets -underBinder -merge +onlyGivenNames x2
  try clear_value x2
  extract_lets -underBinder -merge +onlyGivenNames x3
  have h4 : Tame s x3 := tame_wr ‹_›
  try clear_value x3
  extract_lets -underBinder -merge +onlyGivenNames x5
  have h6 : Tame s x5 := tame_wr ‹_›
  try clear_value x5
  exact tame_wr (tame_wr ‹_›)
theorem tame_trapCall {s : State} {t n c pc cause arg addr} (ht' : Tame s t) : Tame s (trapCall t n c pc cause arg addr) := by
  unfold trapCall
  exact tame_stopCall (tame_captureTrap ‹_›)
theorem tame_endCall {s : State} {t n c} (ht' : Tame s t) : Tame s (endCall t n c) := by
  unfold endCall
  exact tame_ite (P := Tame s) (tame_pump (tame_endKernel ‹_›)) (tame_endRun ‹_›)
theorem goes_milarRun {s : State} {t n c f} (ht' : Tame s t) (hf' : ∀ u0 u1 u2, Tame s u0 → TameM s (f u0 u1 u2)) : Goes s
    (milarRun t n c f) := by
  unfold milarRun
  extract_lets -underBinder -merge +onlyGivenNames x0
  try clear_value x0
  split
  · have h1 := tame_of_eq (P := TameM s) ‹_ = _› (hf' _ _ _ ‹_›)
    exact goes_next (tame_putCay ‹_›)
  · have h2 := tame_of_eq (P := TameM s) ‹_ = _› (hf' _ _ _ ‹_›)
    exact goes_next (tame_endCall (tame_putCay ‹_›))
  · exact goes_next (tame_trapCall ‹_›)
  · have h3 := tame_of_eq (P := TameM s) ‹_ = _› (hf' _ _ _ ‹_›)
    exact goes_next (tame_stopCall ‹_›)
  · exact goes_next ‹_›
theorem goes_milar {s : State} {t n w f} (ht' : Tame s t) (hf' : ∀ u0 u1 u2, Tame s u0 → TameM s (f u0 u1 u2)) : Goes s (milar t
    n w f) := by
  unfold milar
  extract_lets -underBinder -merge +onlyGivenNames x0
  try clear_value x0
  split
  · exact goes_next ‹_›
  · refine tame_ite (P := Goes s) (goes_next (tame_trapCall ‹_›)) ?_
    refine tame_ite (P := Goes s) (goes_next (tame_trapCall ‹_›)) ?_
    refine tame_ite (P := Goes s) (goes_next ‹_›) ?_
    split
    · exact goes_next (tame_stopCall ‹_›)
    · split
      · exact goes_milarRun ‹_› (fun u1 u2 u3 h4 => hf' _ _ _ ‹_›)
      · exact tame_ite (P := Goes s) (goes_milarRun (tame_upsetMet ‹_›) (fun u5 u6 u7 h8 => hf' _ _ _ ‹_›)) (goes_next
            (tame_upsetMet ‹_›))
theorem tameM_legal {s : State} {w b r} (hr' : TameM s r) : TameM s (legal w b r) := by
  unfold legal
  exact tame_ite (P := TameM s) ‹_› (tame_ite (P := TameM s) trivial trivial)
theorem tameM_waitFor {s : State} {k t r} (hr' : TameM s r) : TameM s (waitFor k t r) := by
  unfold waitFor
  refine tame_ite (P := TameM s) trivial ?_
  split
  · exact trivial
  · assumption
theorem tameM_loadAs {s : State} {t m c n a len al f} (ht' : Tame s t) (hf' : ∀ u0, TameM s (f u0)) : TameM s (loadAs t m c n a
    len al f) := by
  unfold loadAs
  refine tame_ite (P := TameM s) trivial ?_
  refine tame_ite (P := TameM s) trivial ?_
  split
  · exact tameM_waitFor (hf' _)
  · split
    · exact show Tame s _ from ‹_›
    · exact hf' _
theorem tame_putBytes {s : State} {t c a bs} (ht' : Tame s t) : Tame s (putBytes t c a bs) := by
  unfold putBytes
  exact tame_ite (P := Tame s) (tame_poke ‹_›) (tame_withTask ‹_›)
theorem tameM_storeAs {s : State} {t m c n a al bs} (ht' : Tame s t) : TameM s (storeAs t m c n a al bs) := by
  unfold storeAs
  refine tame_ite (P := TameM s) trivial ?_
  refine tame_ite (P := TameM s) trivial ?_
  refine tame_ite (P := TameM s) trivial ?_
  split
  · exact tameM_waitFor (show Tame s _ from (tame_putBytes ‹_›))
  · split
    · exact show Tame s _ from ‹_›
    · exact show Tame s _ from (tame_putBytes ‹_›)
theorem tameP_raise {s : State} {t m c n tag per fs} (ht' : Tame s t) : TameP s (raise t m c n tag per fs) := by
  unfold raise
  extract_lets -underBinder -merge +onlyGivenNames x0
  try clear_value x0
  extract_lets -underBinder -merge +onlyGivenNames x1
  have h2 : Tame s x1 := tame_cayFlags ‹_›
  try clear_value x1
  split
  · exact tameP_mk ‹_›
  · extract_lets -underBinder -merge +onlyGivenNames x3
    have h4 : Tame s x3 := tame_cayNv ‹_›
    try clear_value x3
    extract_lets -underBinder -merge +onlyGivenNames x5
    have h6 : Tame s x5 := tame_ite (P := Tame s) ‹_› (tame_countNv ‹_›)
    try clear_value x5
    exact tameP_mk ‹_›
theorem tameM_writeV {s : State} {t m c n vd tag per w rs} (ht' : Tame s t) : TameM s (writeV t m c n vd tag per w rs) := by
  unfold writeV
  extract_lets -underBinder -merge +onlyGivenNames x0
  have h1 : TameP s x0 := tameP_raise ‹_›
  try clear_value x0
  exact show Tame s _ from (tame_fst ‹_›)

/-! ## MilarScalar -/

theorem goes_regForm {s : State} {n w fn f t} (ht' : Tame s t) : Goes s (regForm n w fn f t) := by
  unfold regForm
  exact goes_milar ‹_› (fun u0 u1 u2 h3 => tameM_legal (show Tame s _ from ‹_›))
theorem goes_shiftForm {s : State} {n w fn f t} (ht' : Tame s t) : Goes s (shiftForm n w fn f t) := by
  unfold shiftForm
  exact goes_milar ‹_› (fun u0 u1 u2 h3 => tameM_legal (show Tame s _ from ‹_›))
theorem goes_immForm {s : State} {n w major zs f t} (ht' : Tame s t) : Goes s (immForm n w major zs f t) := by
  unfold immForm
  exact goes_milar ‹_› (fun u0 u1 u2 h3 => tameM_legal (show Tame s _ from ‹_›))
theorem goes_compareForm {s : State} {n w fn f g t} (ht' : Tame s t) : Goes s (compareForm n w fn f g t) := by
  unfold compareForm
  refine goes_milar ‹_› (fun u0 u1 u2 h3 => ?_)
  extract_lets -underBinder -merge +onlyGivenNames x4 x5
  try clear_value x4 x5
  exact tame_ite (P := TameM s) (show Tame s _ from ‹_›) (tameM_legal (show Tame s _ from ‹_›))
theorem goes_predForm {s : State} {n w fn zs f t} (ht' : Tame s t) : Goes s (predForm n w fn zs f t) := by
  unfold predForm
  exact goes_milar ‹_› (fun u0 u1 u2 h3 => tameM_legal (show Tame s _ from ‹_›))
theorem goes_branchForm {s : State} {n w major f t} (ht' : Tame s t) : Goes s (branchForm n w major f t) := by
  unfold branchForm
  exact goes_milar ‹_› (fun u0 u1 u2 h3 => tameM_legal (show Tame s _ from ‹_›))
theorem goes_predBranch {s : State} {n w sense t} (ht' : Tame s t) : Goes s (predBranch n w sense t) := by
  unfold predBranch
  exact goes_milar ‹_› (fun u0 u1 u2 h3 => tameM_legal (show Tame s _ from ‹_›))
theorem goes_execAddD {s : State} {n w t} (ht' : Tame s t) : Goes s (execAddD n w t) := by
  unfold execAddD
  exact goes_regForm ‹_›
theorem goes_execSubD {s : State} {n w t} (ht' : Tame s t) : Goes s (execSubD n w t) := by
  unfold execSubD
  exact goes_regForm ‹_›
theorem goes_execAddW {s : State} {n w t} (ht' : Tame s t) : Goes s (execAddW n w t) := by
  unfold execAddW
  exact goes_regForm ‹_›
theorem goes_execSubW {s : State} {n w t} (ht' : Tame s t) : Goes s (execSubW n w t) := by
  unfold execSubW
  exact goes_regForm ‹_›
theorem goes_execSAnd {s : State} {n w t} (ht' : Tame s t) : Goes s (execSAnd n w t) := by
  unfold execSAnd
  exact goes_regForm ‹_›
theorem goes_execSOr {s : State} {n w t} (ht' : Tame s t) : Goes s (execSOr n w t) := by
  unfold execSOr
  exact goes_regForm ‹_›
theorem goes_execSXor {s : State} {n w t} (ht' : Tame s t) : Goes s (execSXor n w t) := by
  unfold execSXor
  exact goes_regForm ‹_›
theorem goes_execMulD {s : State} {n w t} (ht' : Tame s t) : Goes s (execMulD n w t) := by
  unfold execMulD
  exact goes_regForm ‹_›
theorem goes_execMulW {s : State} {n w t} (ht' : Tame s t) : Goes s (execMulW n w t) := by
  unfold execMulW
  exact goes_regForm ‹_›
theorem goes_execShlD {s : State} {n w t} (ht' : Tame s t) : Goes s (execShlD n w t) := by
  unfold execShlD
  exact goes_regForm ‹_›
theorem goes_execShrD {s : State} {n w t} (ht' : Tame s t) : Goes s (execShrD n w t) := by
  unfold execShrD
  exact goes_regForm ‹_›
theorem goes_execSarD {s : State} {n w t} (ht' : Tame s t) : Goes s (execSarD n w t) := by
  unfold execSarD
  exact goes_regForm ‹_›
theorem goes_execShliD {s : State} {n w t} (ht' : Tame s t) : Goes s (execShliD n w t) := by
  unfold execShliD
  exact goes_shiftForm ‹_›
theorem goes_execShriD {s : State} {n w t} (ht' : Tame s t) : Goes s (execShriD n w t) := by
  unfold execShriD
  exact goes_shiftForm ‹_›
theorem goes_execSariD {s : State} {n w t} (ht' : Tame s t) : Goes s (execSariD n w t) := by
  unfold execSariD
  exact goes_shiftForm ‹_›
theorem goes_execMinD {s : State} {n w t} (ht' : Tame s t) : Goes s (execMinD n w t) := by
  unfold execMinD
  exact goes_regForm ‹_›
theorem goes_execMaxD {s : State} {n w t} (ht' : Tame s t) : Goes s (execMaxD n w t) := by
  unfold execMaxD
  exact goes_regForm ‹_›
theorem goes_execMinuD {s : State} {n w t} (ht' : Tame s t) : Goes s (execMinuD n w t) := by
  unfold execMinuD
  exact goes_regForm ‹_›
theorem goes_execMaxuD {s : State} {n w t} (ht' : Tame s t) : Goes s (execMaxuD n w t) := by
  unfold execMaxuD
  exact goes_regForm ‹_›
theorem goes_execPselD {s : State} {n w t} (ht' : Tame s t) : Goes s (execPselD n w t) := by
  unfold execPselD
  exact goes_milar ‹_› (fun u0 u1 u2 h3 => tameM_legal (show Tame s _ from ‹_›))
theorem goes_execAddiD {s : State} {n w t} (ht' : Tame s t) : Goes s (execAddiD n w t) := by
  unfold execAddiD
  exact goes_immForm ‹_›
theorem goes_execAddiW {s : State} {n w t} (ht' : Tame s t) : Goes s (execAddiW n w t) := by
  unfold execAddiW
  exact goes_immForm ‹_›
theorem goes_execAndi {s : State} {n w t} (ht' : Tame s t) : Goes s (execAndi n w t) := by
  unfold execAndi
  exact goes_immForm ‹_›
theorem goes_execOri {s : State} {n w t} (ht' : Tame s t) : Goes s (execOri n w t) := by
  unfold execOri
  exact goes_immForm ‹_›
theorem goes_execXori {s : State} {n w t} (ht' : Tame s t) : Goes s (execXori n w t) := by
  unfold execXori
  exact goes_immForm ‹_›
theorem goes_execLui {s : State} {n w t} (ht' : Tame s t) : Goes s (execLui n w t) := by
  unfold execLui
  exact goes_immForm ‹_›
theorem goes_execCeq {s : State} {n w t} (ht' : Tame s t) : Goes s (execCeq n w t) := by
  unfold execCeq
  exact goes_compareForm ‹_›
theorem goes_execCne {s : State} {n w t} (ht' : Tame s t) : Goes s (execCne n w t) := by
  unfold execCne
  exact goes_compareForm ‹_›
theorem goes_execClt {s : State} {n w t} (ht' : Tame s t) : Goes s (execClt n w t) := by
  unfold execClt
  exact goes_compareForm ‹_›
theorem goes_execCge {s : State} {n w t} (ht' : Tame s t) : Goes s (execCge n w t) := by
  unfold execCge
  exact goes_compareForm ‹_›
theorem goes_execCltu {s : State} {n w t} (ht' : Tame s t) : Goes s (execCltu n w t) := by
  unfold execCltu
  exact goes_compareForm ‹_›
theorem goes_execCgeu {s : State} {n w t} (ht' : Tame s t) : Goes s (execCgeu n w t) := by
  unfold execCgeu
  exact goes_compareForm ‹_›
theorem goes_execPand {s : State} {n w t} (ht' : Tame s t) : Goes s (execPand n w t) := by
  unfold execPand
  exact goes_predForm ‹_›
theorem goes_execPor {s : State} {n w t} (ht' : Tame s t) : Goes s (execPor n w t) := by
  unfold execPor
  exact goes_predForm ‹_›
theorem goes_execPxor {s : State} {n w t} (ht' : Tame s t) : Goes s (execPxor n w t) := by
  unfold execPxor
  exact goes_predForm ‹_›
theorem goes_execPnot {s : State} {n w t} (ht' : Tame s t) : Goes s (execPnot n w t) := by
  unfold execPnot
  exact goes_predForm ‹_›
theorem goes_execBeqD {s : State} {n w t} (ht' : Tame s t) : Goes s (execBeqD n w t) := by
  unfold execBeqD
  exact goes_branchForm ‹_›
theorem goes_execBneD {s : State} {n w t} (ht' : Tame s t) : Goes s (execBneD n w t) := by
  unfold execBneD
  exact goes_branchForm ‹_›
theorem goes_execBltD {s : State} {n w t} (ht' : Tame s t) : Goes s (execBltD n w t) := by
  unfold execBltD
  exact goes_branchForm ‹_›
theorem goes_execBgeD {s : State} {n w t} (ht' : Tame s t) : Goes s (execBgeD n w t) := by
  unfold execBgeD
  exact goes_branchForm ‹_›
theorem goes_execBltuD {s : State} {n w t} (ht' : Tame s t) : Goes s (execBltuD n w t) := by
  unfold execBltuD
  exact goes_branchForm ‹_›
theorem goes_execBgeuD {s : State} {n w t} (ht' : Tame s t) : Goes s (execBgeuD n w t) := by
  unfold execBgeuD
  exact goes_branchForm ‹_›
theorem goes_execBp {s : State} {n w t} (ht' : Tame s t) : Goes s (execBp n w t) := by
  unfold execBp
  exact goes_predBranch ‹_›
theorem goes_execBnp {s : State} {n w t} (ht' : Tame s t) : Goes s (execBnp n w t) := by
  unfold execBnp
  exact goes_predBranch ‹_›
theorem goes_execJal {s : State} {n w t} (ht' : Tame s t) : Goes s (execJal n w t) := by
  unfold execJal
  exact goes_milar ‹_› (fun u0 u1 u2 h3 => tameM_legal (show Tame s _ from ‹_›))
theorem goes_execJalr {s : State} {n w t} (ht' : Tame s t) : Goes s (execJalr n w t) := by
  unfold execJalr
  exact goes_milar ‹_› (fun u0 u1 u2 h3 => tameM_legal (show Tame s _ from ‹_›))
theorem goes_execNop {s : State} {n w t} (ht' : Tame s t) : Goes s (execNop n w t) := by
  unfold execNop
  exact goes_milar ‹_› (fun u0 u1 u2 h3 => tameM_legal (show Tame s _ from ‹_›))
theorem goes_execRdkc {s : State} {n w t} (ht' : Tame s t) : Goes s (execRdkc n w t) := by
  unfold execRdkc
  exact goes_milar ‹_› (fun u0 u1 u2 h3 => tameM_legal (show Tame s _ from ‹_›))
theorem goes_execWrkc {s : State} {n w t} (ht' : Tame s t) : Goes s (execWrkc n w t) := by
  unfold execWrkc
  exact goes_milar ‹_› (fun u0 u1 u2 h3 => tameM_legal (show Tame s _ from ‹_›))
theorem goes_execTrap {s : State} {n w t} (ht' : Tame s t) : Goes s (execTrap n w t) := by
  unfold execTrap
  exact goes_milar ‹_› (fun u0 u1 u2 h3 => tameM_legal trivial)
theorem goes_execRet {s : State} {n w t} (ht' : Tame s t) : Goes s (execRet n w t) := by
  unfold execRet
  refine goes_milar ‹_› (fun u0 u1 u2 h3 => ?_)
  refine tameM_legal ?_
  refine tame_ite (P := TameM s) trivial ?_
  split
  · exact tameM_waitFor (show Tame s _ from ‹_›)
  · exact show Tame s _ from ‹_›

/-! ## MilarMemory -/

theorem goes_execLd {s : State} {n w t} (ht' : Tame s t) : Goes s (execLd n w t) := by
  unfold execLd
  refine goes_milar ‹_› (fun u0 u1 u2 h3 => ?_)
  refine tameM_legal ?_
  extract_lets -underBinder -merge +onlyGivenNames x4
  try clear_value x4
  exact tameM_loadAs ‹_› (fun u5 => show Tame s _ from ‹_›)
theorem goes_execLdu {s : State} {n w t} (ht' : Tame s t) : Goes s (execLdu n w t) := by
  unfold execLdu
  refine goes_milar ‹_› (fun u0 u1 u2 h3 => ?_)
  refine tameM_legal ?_
  extract_lets -underBinder -merge +onlyGivenNames x4
  try clear_value x4
  exact tameM_loadAs ‹_› (fun u5 => show Tame s _ from ‹_›)
theorem goes_execSt {s : State} {n w t} (ht' : Tame s t) : Goes s (execSt n w t) := by
  unfold execSt
  refine goes_milar ‹_› (fun u0 u1 u2 h3 => ?_)
  refine tameM_legal ?_
  extract_lets -underBinder -merge +onlyGivenNames x4
  try clear_value x4
  exact tameM_storeAs ‹_›
theorem goes_execVld {s : State} {n w t} (ht' : Tame s t) : Goes s (execVld n w t) := by
  unfold execVld
  exact goes_milar ‹_› (fun u0 u1 u2 h3 => tameM_legal (tameM_loadAs ‹_› (fun u4 => show Tame s _ from ‹_›)))
theorem goes_execVst {s : State} {n w t} (ht' : Tame s t) : Goes s (execVst n w t) := by
  unfold execVst
  exact goes_milar ‹_› (fun u0 u1 u2 h3 => tameM_legal (tameM_storeAs ‹_›))
theorem goes_execAld {s : State} {n w t} (ht' : Tame s t) : Goes s (execAld n w t) := by
  unfold execAld
  exact goes_milar ‹_› (fun u0 u1 u2 h3 => tameM_legal (tameM_loadAs ‹_› (fun u4 => show Tame s _ from ‹_›)))
theorem goes_execAst {s : State} {n w t} (ht' : Tame s t) : Goes s (execAst n w t) := by
  unfold execAst
  exact goes_milar ‹_› (fun u0 u1 u2 h3 => tameM_legal (tameM_storeAs ‹_›))

/-! ## MilarVector -/

theorem goes_vfForm {s : State} {n w fn zs srcs f t} (ht' : Tame s t) : Goes s (vfForm n w fn zs srcs f t) := by
  unfold vfForm
  refine goes_milar ‹_› (fun u0 u1 u2 h3 => ?_)
  refine tameM_legal ?_
  extract_lets -underBinder -merge +onlyGivenNames x4 x5
  try clear_value x4 x5
  exact tameM_writeV ‹_›
theorem goes_execVfadd {s : State} {n w t} (ht' : Tame s t) : Goes s (execVfadd n w t) := by
  unfold execVfadd
  exact goes_vfForm ‹_›
theorem goes_execVfsub {s : State} {n w t} (ht' : Tame s t) : Goes s (execVfsub n w t) := by
  unfold execVfsub
  exact goes_vfForm ‹_›
theorem goes_execVfmul {s : State} {n w t} (ht' : Tame s t) : Goes s (execVfmul n w t) := by
  unfold execVfmul
  exact goes_vfForm ‹_›
theorem goes_execVfdiv {s : State} {n w t} (ht' : Tame s t) : Goes s (execVfdiv n w t) := by
  unfold execVfdiv
  exact goes_vfForm ‹_›
theorem goes_execVfsqrt {s : State} {n w t} (ht' : Tame s t) : Goes s (execVfsqrt n w t) := by
  unfold execVfsqrt
  exact goes_vfForm ‹_›
theorem goes_execVffma {s : State} {n w t} (ht' : Tame s t) : Goes s (execVffma n w t) := by
  unfold execVffma
  exact goes_vfForm ‹_›
theorem goes_execVfmin {s : State} {n w t} (ht' : Tame s t) : Goes s (execVfmin n w t) := by
  unfold execVfmin
  exact goes_vfForm ‹_›
theorem goes_execVfmax {s : State} {n w t} (ht' : Tame s t) : Goes s (execVfmax n w t) := by
  unfold execVfmax
  exact goes_vfForm ‹_›
theorem goes_execVfabs {s : State} {n w t} (ht' : Tame s t) : Goes s (execVfabs n w t) := by
  unfold execVfabs
  exact goes_vfForm ‹_›
theorem goes_execVfneg {s : State} {n w t} (ht' : Tame s t) : Goes s (execVfneg n w t) := by
  unfold execVfneg
  exact goes_vfForm ‹_›
theorem goes_execVfeq {s : State} {n w t} (ht' : Tame s t) : Goes s (execVfeq n w t) := by
  unfold execVfeq
  exact goes_vfForm ‹_›
theorem goes_execVflt {s : State} {n w t} (ht' : Tame s t) : Goes s (execVflt n w t) := by
  unfold execVflt
  exact goes_vfForm ‹_›
theorem goes_execVfle {s : State} {n w t} (ht' : Tame s t) : Goes s (execVfle n w t) := by
  unfold execVfle
  exact goes_vfForm ‹_›
theorem goes_viForm {s : State} {n w fn srcs f t} (ht' : Tame s t) : Goes s (viForm n w fn srcs f t) := by
  unfold viForm
  refine goes_milar ‹_› (fun u0 u1 u2 h3 => ?_)
  refine tameM_legal ?_
  extract_lets -underBinder -merge +onlyGivenNames x4
  try clear_value x4
  exact show Tame s _ from ‹_›
theorem goes_viForm2 {s : State} {n w fn f t} (ht' : Tame s t) : Goes s (viForm2 n w fn f t) := by
  unfold viForm2
  exact goes_viForm ‹_›
theorem goes_execVadd {s : State} {n w t} (ht' : Tame s t) : Goes s (execVadd n w t) := by
  unfold execVadd
  exact goes_viForm2 ‹_›
theorem goes_execVsub {s : State} {n w t} (ht' : Tame s t) : Goes s (execVsub n w t) := by
  unfold execVsub
  exact goes_viForm2 ‹_›
theorem goes_execVmul {s : State} {n w t} (ht' : Tame s t) : Goes s (execVmul n w t) := by
  unfold execVmul
  exact goes_viForm2 ‹_›
theorem goes_execVand {s : State} {n w t} (ht' : Tame s t) : Goes s (execVand n w t) := by
  unfold execVand
  exact goes_viForm2 ‹_›
theorem goes_execVor {s : State} {n w t} (ht' : Tame s t) : Goes s (execVor n w t) := by
  unfold execVor
  exact goes_viForm2 ‹_›
theorem goes_execVxor {s : State} {n w t} (ht' : Tame s t) : Goes s (execVxor n w t) := by
  unfold execVxor
  exact goes_viForm2 ‹_›
theorem goes_execVshl {s : State} {n w t} (ht' : Tame s t) : Goes s (execVshl n w t) := by
  unfold execVshl
  exact goes_viForm2 ‹_›
theorem goes_execVshr {s : State} {n w t} (ht' : Tame s t) : Goes s (execVshr n w t) := by
  unfold execVshr
  exact goes_viForm2 ‹_›
theorem goes_execVsar {s : State} {n w t} (ht' : Tame s t) : Goes s (execVsar n w t) := by
  unfold execVsar
  exact goes_viForm2 ‹_›
theorem goes_execVmin {s : State} {n w t} (ht' : Tame s t) : Goes s (execVmin n w t) := by
  unfold execVmin
  exact goes_viForm2 ‹_›
theorem goes_execVmax {s : State} {n w t} (ht' : Tame s t) : Goes s (execVmax n w t) := by
  unfold execVmax
  exact goes_viForm2 ‹_›
theorem goes_execVminu {s : State} {n w t} (ht' : Tame s t) : Goes s (execVminu n w t) := by
  unfold execVminu
  exact goes_viForm2 ‹_›
theorem goes_execVmaxu {s : State} {n w t} (ht' : Tame s t) : Goes s (execVmaxu n w t) := by
  unfold execVmaxu
  exact goes_viForm2 ‹_›
theorem goes_execVeq {s : State} {n w t} (ht' : Tame s t) : Goes s (execVeq n w t) := by
  unfold execVeq
  exact goes_viForm2 ‹_›
theorem goes_execVlt {s : State} {n w t} (ht' : Tame s t) : Goes s (execVlt n w t) := by
  unfold execVlt
  exact goes_viForm2 ‹_›
theorem goes_execVsel {s : State} {n w t} (ht' : Tame s t) : Goes s (execVsel n w t) := by
  unfold execVsel
  exact goes_viForm ‹_›
theorem goes_execVbcast {s : State} {n w t} (ht' : Tame s t) : Goes s (execVbcast n w t) := by
  unfold execVbcast
  refine goes_milar ‹_› (fun u0 u1 u2 h3 => ?_)
  refine tameM_legal ?_
  extract_lets -underBinder -merge +onlyGivenNames x4
  try clear_value x4
  exact show Tame s _ from ‹_›
theorem goes_execVext {s : State} {n w t} (ht' : Tame s t) : Goes s (execVext n w t) := by
  unfold execVext
  refine goes_milar ‹_› (fun u0 u1 u2 h3 => ?_)
  refine tameM_legal ?_
  extract_lets -underBinder -merge +onlyGivenNames x4
  try clear_value x4
  split
  · exact trivial
  · exact show Tame s _ from ‹_›
theorem goes_execVins {s : State} {n w t} (ht' : Tame s t) : Goes s (execVins n w t) := by
  unfold execVins
  refine goes_milar ‹_› (fun u0 u1 u2 h3 => ?_)
  refine tameM_legal ?_
  extract_lets -underBinder -merge +onlyGivenNames x4
  try clear_value x4
  split
  · exact trivial
  · exact show Tame s _ from ‹_›
theorem goes_execVmov {s : State} {n w t} (ht' : Tame s t) : Goes s (execVmov n w t) := by
  unfold execVmov
  exact goes_milar ‹_› (fun u0 u1 u2 h3 => tameM_legal (show Tame s _ from ‹_›))
theorem tameM_convAs {s : State} {w k r} (h : ∀ a b, TameM s (r a b)) : TameM s (convAs w k r) := by
  unfold convAs
  refine tameM_legal ?_
  split
  · exact trivial
  · exact h _ _
theorem goes_execVcvt {s : State} {n w t} (h : Tame s t) : Goes s (execVcvt n w t) :=
  goes_milar h fun _ _ _ hu => tameM_convAs fun _ _ => tameM_writeV hu
theorem goes_execVcvtw {s : State} {n w t} (h : Tame s t) : Goes s (execVcvtw n w t) :=
  goes_milar h fun _ _ _ hu => tameM_convAs fun _ _ => tame_ite (P := TameM s) trivial (tameM_writeV hu)
theorem goes_execVcvtn {s : State} {n w t} (h : Tame s t) : Goes s (execVcvtn n w t) :=
  goes_milar h fun _ _ _ hu => tameM_convAs fun _ _ => tame_ite (P := TameM s) trivial (tameP_raise hu)

/-! ## MilarTile -/

theorem goes_execAclr {s : State} {n w t} (ht' : Tame s t) : Goes s (execAclr n w t) := by
  unfold execAclr
  exact goes_milar ‹_› (fun u0 u1 u2 h3 => tameM_legal (show Tame s _ from ‹_›))
theorem tameM_accumulate {s : State} {t m c n ad va part width conv} (ht' : Tame s t) : TameM s (accumulate t m c n ad va part
    width conv) := by
  unfold accumulate
  extract_lets -underBinder -merge +onlyGivenNames x0
  try clear_value x0
  refine tame_ite (P := TameM s) trivial ?_
  extract_lets -underBinder -merge +onlyGivenNames x1 x2 x3 x4 x5
  try clear_value x1 x2 x3 x4 x5
  extract_lets -underBinder -merge +onlyGivenNames x6
  have h7 : TameP s x6 := tameP_raise ‹_›
  try clear_value x6
  exact show Tame s _ from (tame_fst ‹_›)
theorem goes_execVacc {s : State} {n w t} (ht' : Tame s t) : Goes s (execVacc n w t) := by
  unfold execVacc
  refine goes_milar ‹_› (fun u0 u1 u2 h3 => ?_)
  refine tameM_legal ?_
  split
  · exact trivial
  · exact tameM_accumulate ‹_›
theorem goes_execVsqacc {s : State} {n w t} (ht' : Tame s t) : Goes s (execVsqacc n w t) := by
  unfold execVsqacc
  refine goes_milar ‹_› (fun u0 u1 u2 h3 => ?_)
  refine tameM_legal ?_
  split
  · exact tameM_accumulate ‹_›
  · exact trivial
theorem goes_execAadd {s : State} {n w t} (ht' : Tame s t) : Goes s (execAadd n w t) := by
  unfold execAadd
  refine goes_milar ‹_› (fun u0 u1 u2 h3 => ?_)
  refine tameM_legal ?_
  extract_lets -underBinder -merge +onlyGivenNames x4
  try clear_value x4
  extract_lets -underBinder -merge +onlyGivenNames x5
  have h6 : TameP s x5 := tameP_raise ‹_›
  try clear_value x5
  exact show Tame s _ from (tame_fst ‹_›)
theorem goes_execAfcvtW {s : State} {n w t} (ht' : Tame s t) : Goes s (execAfcvtW n w t) := by
  unfold execAfcvtW
  exact goes_milar ‹_› (fun u0 u1 u2 h3 => tameM_legal (tameM_writeV ‹_›))
theorem goes_execAfcvtD {s : State} {n w t} (ht' : Tame s t) : Goes s (execAfcvtD n w t) := by
  unfold execAfcvtD
  refine goes_milar ‹_› (fun u0 u1 u2 h3 => ?_)
  refine tameM_legal ?_
  extract_lets -underBinder -merge +onlyGivenNames x4
  try clear_value x4
  exact tame_ite (P := TameM s) trivial (tameM_writeV ‹_›)
theorem goes_execTclrL8 {s : State} {n w t} (ht' : Tame s t) : Goes s (execTclrL8 n w t) := by
  unfold execTclrL8
  exact goes_milar ‹_› (fun u0 u1 u2 h3 => tameM_legal (show Tame s _ from ‹_›))
theorem goes_execTclrL16 {s : State} {n w t} (ht' : Tame s t) : Goes s (execTclrL16 n w t) := by
  unfold execTclrL16
  exact goes_milar ‹_› (fun u0 u1 u2 h3 => tameM_legal (show Tame s _ from ‹_›))
theorem goes_tileMac {s : State} {f fn n w t} (ht' : Tame s t) : Goes s (tileMac f fn n w t) := by
  unfold tileMac
  refine goes_milar ‹_› (fun u0 u1 u2 h3 => ?_)
  refine tameM_legal ?_
  extract_lets -underBinder -merge +onlyGivenNames x4 x5
  try clear_value x4 x5
  refine tame_ite (P := TameM s) trivial ?_
  extract_lets -underBinder -merge +onlyGivenNames x6
  try clear_value x6
  extract_lets -underBinder -merge +onlyGivenNames x7
  have h8 : TameP s x7 := tameP_raise ‹_›
  try clear_value x7
  exact show Tame s _ from (tame_fst ‹_›)
theorem goes_execTmacL8 {s : State} {n w t} (ht' : Tame s t) : Goes s (execTmacL8 n w t) := by
  unfold execTmacL8
  exact goes_tileMac ‹_›
theorem goes_execTmacL16 {s : State} {n w t} (ht' : Tame s t) : Goes s (execTmacL16 n w t) := by
  unfold execTmacL16
  exact goes_tileMac ‹_›
theorem goes_execTmovA {s : State} {n w t} (ht' : Tame s t) : Goes s (execTmovA n w t) := by
  unfold execTmovA
  refine goes_milar ‹_› (fun u0 u1 u2 h3 => ?_)
  refine tameM_legal ?_
  refine tame_ite (P := TameM s) trivial ?_
  extract_lets -underBinder -merge +onlyGivenNames x4
  try clear_value x4
  exact show Tame s _ from ‹_›
theorem goes_execTmovW {s : State} {n w t} (ht' : Tame s t) : Goes s (execTmovW n w t) := by
  unfold execTmovW
  exact goes_milar ‹_› (fun u0 u1 u2 h3 => tameM_legal (tame_ite (P := TameM s) trivial (tameM_writeV ‹_›)))
theorem goes_execTmovD {s : State} {n w t} (ht' : Tame s t) : Goes s (execTmovD n w t) := by
  unfold execTmovD
  exact goes_milar ‹_› (fun u0 u1 u2 h3 => tameM_legal (tameM_writeV ‹_›))
theorem goes_execTnormA {s : State} {n w t} (ht' : Tame s t) : Goes s (execTnormA n w t) := by
  unfold execTnormA
  refine goes_milar ‹_› (fun u0 u1 u2 h3 => ?_)
  refine tameM_legal ?_
  extract_lets -underBinder -merge +onlyGivenNames x4
  try clear_value x4
  extract_lets -underBinder -merge +onlyGivenNames x5
  have h6 : TameP s x5 := tameP_raise ‹_›
  try clear_value x5
  exact show Tame s _ from (tame_fst ‹_›)

/-! ## MilarStream -/

theorem tameP_streamRead {s : State} {t c a n} (ht' : Tame s t) : TameP s (streamRead t c a n) := by
  unfold streamRead
  exact tameP_mk (tame_askHost (tame_mk ‹_›))
theorem tame_streamWrite {s : State} {t c a bs} (ht' : Tame s t) : Tame s (streamWrite t c a bs) := by
  unfold streamWrite
  exact tame_ite (P := Tame s) (tame_poke ‹_›) (tame_hostSend (tame_poke ‹_›))
theorem tameP_xIndex {s : State} {t n c op d r} (ht' : Tame s t) : TameP s (xIndex t n c op d r) := by
  unfold xIndex
  refine tame_ite (P := TameP s) (tameP_mk ‹_›) ?_
  extract_lets -underBinder -merge +onlyGivenNames x0
  try clear_value x0
  split
  · exact tameP_mk ‹_›
  · extract_lets -underBinder -merge +onlyGivenNames x1
    have h2 : TameP s x1 := tameP_streamRead ‹_›
    try clear_value x1
    extract_lets -underBinder -merge +onlyGivenNames x3
    try clear_value x3
    exact tameP_mk (tame_fst ‹_›)
theorem tameP_xRows {s : State} {n c op d k r t x} (h : Tame s t) : TameP s (xRows n c op d k r t x) := by
  induction k generalizing r t x with
  | zero => exact h
  | succ k ih =>
    have g : TameP s (xIndex t n c op d r) := tameP_xIndex h
    unfold xRows
    revert g
    generalize xIndex t n c op d r = q
    intro g
    split
    · exact g
    · extract_lets a b reads z
      split
      · exact g
      · refine tame_ite (P := TameP s) (ih g) ?_
        split
        · exact g
        · exact ih (tame_streamWrite (tameP_streamRead g))
theorem tameM_afterStreams {s : State} {m reads writes r} (hr' : TameM s r) : TameM s (afterStreams m reads writes r) := by
  unfold afterStreams
  split
  · exact tameM_waitFor ‹_›
  · assumption
theorem tameM_startStream {s : State} {t m c n k op d} (ht' : Tame s t) : TameM s (startStream t m c n k op d) := by
  unfold startStream
  extract_lets -underBinder -merge +onlyGivenNames x0
  have h1 : TameP s x0 := tameP_xRows ‹_›
  try clear_value x0
  extract_lets -underBinder -merge +onlyGivenNames x2
  try clear_value x2
  extract_lets -underBinder -merge +onlyGivenNames x3
  have h4 : Tame s x3 := tame_mk ‹_›
  try clear_value x3
  exact tameM_afterStreams (tameM_afterStreams (show Tame s _ from (tame_ite (P := Tame s) (tame_askHost ‹_›) ‹_›)))
theorem tameP_moveRow {s : State} {c z} (hz' : TameP s z) : TameP s (moveRow c z) := by
  unfold moveRow
  extract_lets -underBinder -merge +onlyGivenNames x0
  have h1 : Tame s x0 := tame_fst ‹_›
  try clear_value x0
  split
  · assumption
  · split
    · exact tameP_mk ‹_›
    · extract_lets -underBinder -merge +onlyGivenNames x2
      have h3 : TameP s x2 := tameP_streamRead ‹_›
      try clear_value x2
      exact tame_ite (P := TameP s) (tameP_mk (tame_fst ‹_›)) (tameP_mk (tame_streamWrite (tame_fst ‹_›)))
theorem tameP_moveRows {s : State} {c k} {z : State × StreamSt} (h : TameP s z) : TameP s (moveRows c k z) := by
  induction k generalizing z with
  | zero => exact h
  | succ k ih => exact ih (tameP_moveRow h)
theorem tame_runStream {s : State} {t n k count} (ht' : Tame s t) : Tame s (runStream t n k count) := by
  unfold runStream
  extract_lets -underBinder -merge +onlyGivenNames x0
  try clear_value x0
  split
  · refine tame_ite (P := Tame s) ?_ ‹_›
    extract_lets -underBinder -merge +onlyGivenNames x1
    have h2 : TameP s x1 := tameP_moveRows (tameP_mk ‹_›)
    try clear_value x1
    exact tame_putCay (tame_fst ‹_›)
  · assumption
theorem tame_moveStreams {s : State} {t} (ht' : Tame s t) : Tame s (moveStreams t) := by
  unfold moveStreams
  exact tame_foldl (fun u0 y1 h2 => tame_foldl (fun u3 y4 h5 => tame_runStream ‹_›) ‹_›) ‹_›
theorem goes_xForm {s : State} {op fn n w t} (ht' : Tame s t) : Goes s (xForm op fn n w t) := by
  unfold xForm
  refine goes_milar ‹_› (fun u0 u1 u2 h3 => ?_)
  refine tameM_legal ?_
  refine tame_ite (P := TameM s) trivial ?_
  extract_lets -underBinder -merge +onlyGivenNames x4 x5
  try clear_value x4 x5
  extract_lets -underBinder -merge +onlyGivenNames x6
  have h7 : TameM s x6 := by
    unfold x6
    split
    · exact show Tame s _ from ‹_›
    · extract_lets -underBinder -merge +onlyGivenNames x8
      try clear_value x8
      exact tame_ite (P := TameM s) trivial (tameM_startStream ‹_›)
  try clear_value x6
  extract_lets -underBinder -merge +onlyGivenNames x9
  have h10 : TameM s x9 := by
    unfold x9
    refine tame_ite (P := TameM s) trivial ?_
    refine tame_ite (P := TameM s) trivial ?_
    split
    · exact tameM_waitFor ‹_›
    · assumption
  try clear_value x9
  split
  · exact tameM_waitFor ‹_›
  · assumption
theorem goes_execXgather {s : State} {n w t} (ht' : Tame s t) : Goes s (execXgather n w t) := by
  unfold execXgather
  exact goes_xForm ‹_›
theorem goes_execXscatter {s : State} {n w t} (ht' : Tame s t) : Goes s (execXscatter n w t) := by
  unfold execXscatter
  exact goes_xForm ‹_›
theorem goes_execXcopy {s : State} {n w t} (ht' : Tame s t) : Goes s (execXcopy n w t) := by
  unfold execXcopy
  exact goes_xForm ‹_›
theorem goes_execXpref {s : State} {n w t} (ht' : Tame s t) : Goes s (execXpref n w t) := by
  unfold execXpref
  exact goes_xForm ‹_›
theorem goes_execXwait {s : State} {n w t} (ht' : Tame s t) : Goes s (execXwait n w t) := by
  unfold execXwait
  refine goes_milar ‹_› (fun u0 u1 u2 h3 => ?_)
  refine tameM_legal ?_
  refine tame_ite (P := TameM s) trivial ?_
  split
  · exact tameM_waitFor (show Tame s _ from ‹_›)
  · exact show Tame s _ from ‹_›
theorem goes_execStreamComplete {s : State} {n k t} (ht' : Tame s t) : Goes s (execStreamComplete n k t) := by
  unfold execStreamComplete
  extract_lets -underBinder -merge +onlyGivenNames x0
  try clear_value x0
  extract_lets -underBinder -merge +onlyGivenNames x1
  have h2 : Tame s x1 := tame_runStream ‹_›
  try clear_value x1
  extract_lets -underBinder -merge +onlyGivenNames x3
  try clear_value x3
  split
  · refine tame_ite (P := Goes s) ?_ (goes_next ‹_›)
    split
    · exact goes_next (tame_stopCall ‹_›)
    · exact goes_next (tame_putCay ‹_›)
  · exact goes_next ‹_›
theorem goes_execKlimitExceeded {s : State} {n t} (ht' : Tame s t) : Goes s (execKlimitExceeded n t) := by
  unfold execKlimitExceeded
  extract_lets -underBinder -merge +onlyGivenNames x0
  try clear_value x0
  split
  · exact goes_next ‹_›
  · exact tame_ite (P := Goes s) (goes_next (tame_trapCall ‹_›)) (goes_next ‹_›)

/-! ## Kernels -/

theorem tameP_readThen {α : Type} {s : State} {r : State × Except Nat (List Byte)} {k : State → List Byte → State × Except Nat α} (hr : TameP s r)
    (hk : ∀ u bs, Tame s u → TameP s (k u bs)) : TameP s (readThen r k) := by
  unfold readThen
  split
  · exact hr
  · exact hk _ _ hr
theorem tameP_launchRead {s : State} {t n} (h : Tame s t) : TameP s (launchRead t n) := by
  unfold launchRead
  refine tame_ite (P := TameP s) h (tame_ite (P := TameP s) h (tame_ite (P := TameP s) h ?_))
  refine tameP_readThen (tameP_memRead h) fun u hd hu => tame_ite (P := TameP s) hu ?_
  exact tameP_readThen (tameP_memRead hu) fun v _ hv => tameP_readThen (tameP_memRead hv) fun w _ hw => hw
theorem tame_launch {s : State} {t n} (ht' : Tame s t) : Tame s (launch t n) := by
  unfold launch
  split
  · have h0 := tame_of_eq (P := TameP s) ‹_ = _› (tameP_launchRead ‹_›)
    exact tame_endKernel ‹_›
  · have h1 := tame_of_eq (P := TameP s) ‹_ = _› (tameP_launchRead ‹_›)
    extract_lets -underBinder -merge +onlyGivenNames x2
    try clear_value x2
    extract_lets -underBinder -merge +onlyGivenNames x3
    have h4 : Tame s x3 := tame_putCay ‹_›
    try clear_value x3
    exact tame_setF (tame_setF ‹_›)
theorem tame_abortKernel {s : State} {t n} (ht' : Tame s t) : Tame s (abortKernel t n) := by
  unfold abortKernel
  exact tame_pump (tame_endKernel ‹_›)
theorem tame_klWrite {s : State} {t n v} (ht' : Tame s t) : Tame s (klWrite t n v) := by
  unfold klWrite
  extract_lets -underBinder -merge +onlyGivenNames x0
  try clear_value x0
  exact tame_ite (P := Tame s) (tame_ite (P := Tame s) (tame_launch ‹_›) ‹_›) (tame_ite (P := Tame s) (tame_abortKernel ‹_›)
      ‹_›)
theorem goes_execCayKlStart {s : State} {r n v t} (ht' : Tame s t) : Goes s (execCayKlStart r n v t) := by
  unfold execCayKlStart
  exact goes_access ‹_› (fun u0 h1 => tame_klWrite ‹_›)
theorem goes_execCayKlAbort {s : State} {r n v t} (ht' : Tame s t) : Goes s (execCayKlAbort r n v t) := by
  unfold execCayKlAbort
  exact goes_access ‹_› (fun u0 h1 => tame_klWrite ‹_›)
theorem goes_execKernelRun {s : State} {n t} (ht' : Tame s t) : Goes s (execKernelRun n t) := by
  unfold execKernelRun
  extract_lets -underBinder -merge +onlyGivenNames x0
  try clear_value x0
  split
  · exact goes_next ‹_›
  · refine tame_ite (P := Goes s) (goes_next ‹_›) ?_
    extract_lets -underBinder -merge +onlyGivenNames x1 x2 x3 x4
    try clear_value x1 x2 x3 x4
    extract_lets -underBinder -merge +onlyGivenNames x5
    have h6 : Tame s x5 := tame_ite (P := Tame s) ‹_› (tame_wipe ‹_›)
    try clear_value x5
    extract_lets -underBinder -merge +onlyGivenNames x7
    have h8 : Tame s x7 := tame_enterCall (tame_placeCode ‹_›)
    try clear_value x7
    exact goes_next (tame_setF (tame_putCay ‹_›))

end Sys2Proof.Machine
end

