-- ==== Sys2Proof/Laws/Tame6.lean ====
section
/-! SUPPORT. `Tame` through the functions of Links, Access, Closing: one lemma per function. -/

namespace Sys2Proof.Machine

set_option linter.unusedVariables false

/-! ## Links -/

theorem tame_setPhase {s : State} {t p ph} (ht' : Tame s t) : Tame s (setPhase t p ph) := by
  unfold setPhase
  extract_lets -underBinder -merge +onlyGivenNames x0
  try clear_value x0
  extract_lets -underBinder -merge +onlyGivenNames x1
  have h2 : Tame s x1 := tame_setF (tame_withTorus ‹_›)
  try clear_value x1
  exact tame_ite (P := Tame s) ‹_› (tame_pfMsix ‹_›)
theorem tame_startPort {s : State} {t p} (ht' : Tame s t) : Tame s (startPort t p) := by
  unfold startPort
  exact tame_ite (P := Tame s) ‹_› (tame_setPhase (tame_withTorus ‹_›))
theorem tame_clearPort {s : State} {t p} (ht' : Tame s t) : Tame s (clearPort t p) := by
  unfold clearPort
  extract_lets -underBinder -merge +onlyGivenNames x0
  have h1 : Tame s x0 := tame_flushEgress ‹_›
  try clear_value x0
  extract_lets -underBinder -merge +onlyGivenNames x2
  have h3 : Tame s x2 := tame_mk ‹_›
  try clear_value x2
  extract_lets -underBinder -merge +onlyGivenNames x4
  have h5 : Tame s x4 := tame_setPhase (tame_withTorus ‹_›)
  try clear_value x4
  extract_lets -underBinder -merge +onlyGivenNames x6
  have h7 : Tame s x6 := tame_mk ‹_›
  try clear_value x6
  extract_lets -underBinder -merge +onlyGivenNames x8
  have h9 : Tame s x8 := tame_foldl (fun u10 y11 h12 => tame_setF ‹_›) ‹_›
  try clear_value x8
  exact tame_foldl (fun u13 y14 h15 => tame_wr ‹_›) ‹_›
theorem tame_portDown {s : State} {t p cause} (ht' : Tame s t) : Tame s (portDown t p cause) := by
  unfold portDown
  extract_lets -underBinder -merge +onlyGivenNames x0
  try clear_value x0
  extract_lets -underBinder -merge +onlyGivenNames x1
  have h2 : Tame s x1 := tame_setF (tame_clearPort ‹_›)
  try clear_value x1
  refine tame_ite (P := Tame s) ?_ ‹_›
  extract_lets -underBinder -merge +onlyGivenNames x3
  have h4 : Tame s x3 := tame_scorePort (tame_bump ‹_›)
  try clear_value x3
  extract_lets -underBinder -merge +onlyGivenNames x5
  have h6 : Tame s x5 := tame_startPort ‹_›
  try clear_value x5
  exact tame_ite (P := Tame s) (tame_originateDown ‹_›) ‹_›
theorem tame_lanePortWrite {s : State} {t p v} (ht' : Tame s t) : Tame s (lanePortWrite t p v) := by
  unfold lanePortWrite
  extract_lets -underBinder -merge +onlyGivenNames x0
  try clear_value x0
  extract_lets -underBinder -merge +onlyGivenNames x1
  have h2 : Tame s x1 := tame_setF (tame_setF (tame_setF ‹_›))
  try clear_value x1
  exact tame_ite (P := Tame s) (tame_startPort ‹_›) (tame_ite (P := Tame s) (tame_clearPort ‹_›) ‹_›)
theorem goes_execLanePortEnable {s : State} {r p v t} (ht' : Tame s t) : Goes s (execLanePortEnable r p v t) := by
  unfold execLanePortEnable
  exact goes_access ‹_› (fun u0 h1 => tame_lanePortWrite ‹_›)
theorem goes_execLanePortDown {s : State} {p cause t} (ht' : Tame s t) : Goes s (execLanePortDown p cause t) := by
  unfold execLanePortDown
  exact tame_ite (P := Goes s) (goes_next ‹_›) (goes_next (tame_portDown ‹_›))
theorem goes_execLinkDown {s : State} {p _cause t} (ht' : Tame s t) : Goes s (execLinkDown p _cause t) := by
  unfold execLinkDown
  exact tame_ite (P := Goes s) (goes_next ‹_›) (goes_next (tame_portDown ‹_›))
theorem goes_execBlockLock {s : State} {p t} (ht' : Tame s t) : Goes s (execBlockLock p t) := by
  unfold execBlockLock
  extract_lets -underBinder -merge +onlyGivenNames x0
  try clear_value x0
  split
  · exact goes_next (tame_setPhase ‹_›)
  · refine tame_ite (P := Goes s) ?_ (goes_next ‹_›)
    extract_lets -underBinder -merge +onlyGivenNames x1
    have h2 : Tame s x1 := tame_withTorus ‹_›
    try clear_value x1
    exact goes_next (tame_setPhase (tame_setF ‹_›))
  · exact goes_next ‹_›
theorem tame_beginStep {s : State} {t p rate again} (ht' : Tame s t) : Tame s (beginStep t p rate again) := by
  unfold beginStep
  exact tame_setPhase (tame_withTorus ‹_›)
theorem tame_afterRate {s : State} {t p} (ht' : Tame s t) : Tame s (afterRate t p) := by
  unfold afterRate
  extract_lets -underBinder -merge +onlyGivenNames x0
  try clear_value x0
  exact tame_ite (P := Tame s) (tame_beginStep ‹_›) (tame_setPhase ‹_›)
theorem goes_execTrainExchangeEnd {s : State} {p t} (ht' : Tame s t) : Goes s (execTrainExchangeEnd p t) := by
  unfold execTrainExchangeEnd
  extract_lets -underBinder -merge +onlyGivenNames x0
  try clear_value x0
  exact tame_ite (P := Goes s) (goes_next (tame_afterRate ‹_›)) (goes_next ‹_›)
theorem goes_execLinkStep {s : State} {p rate t} (ht' : Tame s t) : Goes s (execLinkStep p rate t) := by
  unfold execLinkStep
  split
  · exact goes_next (tame_withTorus ‹_›)
  · exact goes_next (tame_withTorus ‹_›)
  · exact goes_next (tame_withTorus ‹_›)
  · exact goes_next ‹_›
theorem goes_execQualifyDone {s : State} {p t} (ht' : Tame s t) : Goes s (execQualifyDone p t) := by
  unfold execQualifyDone
  extract_lets -underBinder -merge +onlyGivenNames x0
  try clear_value x0
  exact tame_ite (P := Goes s) (goes_next (tame_afterRate ‹_›)) (goes_next ‹_›)
theorem tame_qualifyFails {s : State} {t p} (ht' : Tame s t) : Tame s (qualifyFails t p) := by
  unfold qualifyFails
  extract_lets -underBinder -merge +onlyGivenNames x0
  try clear_value x0
  refine tame_ite (P := Tame s) (tame_beginStep ‹_›) ?_
  extract_lets -underBinder -merge +onlyGivenNames x1
  try clear_value x1
  extract_lets -underBinder -merge +onlyGivenNames x2
  have h3 : Tame s x2 := tame_withTorus ‹_›
  try clear_value x2
  exact tame_setPhase (tame_setF (tame_setF ‹_›))
theorem goes_execBringupPhaseTimeout {s : State} {p t} (ht' : Tame s t) : Goes s (execBringupPhaseTimeout p t) := by
  unfold execBringupPhaseTimeout
  extract_lets -underBinder -merge +onlyGivenNames x0
  try clear_value x0
  refine tame_ite (P := Goes s) (goes_next ‹_›) ?_
  split
  · exact goes_next (tame_portDown ‹_›)
  · exact goes_next (tame_portDown ‹_›)
  · exact goes_next (tame_portDown ‹_›)
  · exact goes_next (tame_qualifyFails ‹_›)
  · exact goes_next (tame_portDown ‹_›)
  · exact goes_next ‹_›
  · exact goes_next ‹_›
theorem tame_recordRefusal {s : State} {t p cause a3} (ht' : Tame s t) : Tame s (recordRefusal t p cause a3) := by
  unfold recordRefusal
  extract_lets -underBinder -merge +onlyGivenNames x0
  have h1 : Tame s x0 := tame_bump ‹_›
  try clear_value x0
  refine tame_ite (P := Tame s) ‹_› ?_
  extract_lets -underBinder -merge +onlyGivenNames x2
  have h3 : Tame s x2 := tame_wr ‹_›
  try clear_value x2
  exact tame_wr (tame_wr ‹_›)
theorem tame_learnPeer {s : State} {t p a2} (ht' : Tame s t) : Tame s (learnPeer t p a2) := by
  unfold learnPeer
  extract_lets -underBinder -merge +onlyGivenNames x0
  have h1 : Tame s x0 := tame_withTorus ‹_›
  try clear_value x0
  extract_lets -underBinder -merge +onlyGivenNames x2
  have h3 : Tame s x2 := tame_wr (tame_wr ‹_›)
  try clear_value x2
  extract_lets -underBinder -merge +onlyGivenNames x4
  have h5 : Tame s x4 := tame_wr ‹_›
  try clear_value x4
  exact tame_setF ‹_›
theorem tame_takeAck {s : State} {t p ack} (ht' : Tame s t) : Tame s (takeAck t p ack) := by
  unfold takeAck
  extract_lets -underBinder -merge +onlyGivenNames x0
  try clear_value x0
  split
  · assumption
  · extract_lets -underBinder -merge +onlyGivenNames x1
    try clear_value x1
    refine tame_ite (P := Tame s) ‹_› ?_
    extract_lets -underBinder -merge +onlyGivenNames x2
    try clear_value x2
    exact tame_withTorus ‹_›
theorem goes_execLinkTrain {s : State} {p u t} (ht' : Tame s t) : Goes s (execLinkTrain p u t) := by
  unfold execLinkTrain
  split
  · split
    · extract_lets -underBinder -merge +onlyGivenNames x0
      have h1 : Tame s x0 := tame_ite (P := Tame s) (tame_takeAck ‹_›) ‹_›
      try clear_value x0
      exact goes_next (tame_learnPeer ‹_›)
    · exact goes_next (tame_portDown (tame_emit (tame_recordRefusal ‹_›)))
  · split
    · extract_lets -underBinder -merge +onlyGivenNames x2
      have h3 : Tame s x2 := tame_ite (P := Tame s) (tame_takeAck ‹_›) ‹_›
      try clear_value x2
      exact goes_next (tame_learnPeer ‹_›)
    · exact goes_next (tame_portDown (tame_emit (tame_recordRefusal ‹_›)))
  · exact goes_next ‹_›
theorem goes_execLanePortUp {s : State} {p t} (ht' : Tame s t) : Goes s (execLanePortUp p t) := by
  unfold execLanePortUp
  extract_lets -underBinder -merge +onlyGivenNames x0
  try clear_value x0
  split
  · exact goes_next ‹_›
  · refine tame_ite (P := Goes s) (goes_next ‹_›) ?_
    extract_lets -underBinder -merge +onlyGivenNames x1
    have h2 : Tame s x1 := tame_withTorus ‹_›
    try clear_value x1
    extract_lets -underBinder -merge +onlyGivenNames x3
    have h4 : Tame s x3 := tame_withEgress ‹_›
    try clear_value x3
    extract_lets -underBinder -merge +onlyGivenNames x5
    have h6 : Tame s x5 := tame_setF (tame_setPhase ‹_›)
    try clear_value x5
    extract_lets -underBinder -merge +onlyGivenNames x7
    have h8 : Tame s x7 := tame_withBeacon ‹_›
    try clear_value x7
    extract_lets -underBinder -merge +onlyGivenNames x9
    have h10 : Tame s x9 := tame_emit ‹_›
    try clear_value x9
    exact goes_next (tame_sendSync ‹_›)
theorem tame_retrainPorts {s : State} {t} (ht' : Tame s t) : Tame s (retrainPorts t) := by
  unfold retrainPorts
  exact tame_foldl (fun u0 y1 h2 => tame_ite (P := Tame s) (tame_emit (tame_withTorus ‹_›)) ‹_›) ‹_›
theorem tame_resendFrom {s : State} {t p cs} (ht' : Tame s t) : Tame s (resendFrom t p cs) := by
  unfold resendFrom
  extract_lets -underBinder -merge +onlyGivenNames x0
  try clear_value x0
  exact tame_ite (P := Tame s) ‹_› (tame_ite (P := Tame s) (tame_portDown ‹_›) (tame_withTorus ‹_›))
theorem goes_execLinkIdle {s : State} {p ack t} (ht' : Tame s t) : Goes s (execLinkIdle p ack t) := by
  unfold execLinkIdle
  exact tame_ite (P := Goes s) (goes_next (tame_takeAck ‹_›)) (goes_next ‹_›)
theorem goes_execLinkNak {s : State} {p ack idx t} (ht' : Tame s t) : Goes s (execLinkNak p ack idx t) := by
  unfold execLinkNak
  refine tame_ite (P := Goes s) ?_ (goes_next ‹_›)
  extract_lets -underBinder -merge +onlyGivenNames x0
  have h1 : Tame s x0 := tame_takeAck ‹_›
  try clear_value x0
  exact goes_next (tame_resendFrom ‹_›)
theorem goes_execLaneRetryTimeout {s : State} {p t} (ht' : Tame s t) : Goes s (execLaneRetryTimeout p t) := by
  unfold execLaneRetryTimeout
  extract_lets -underBinder -merge +onlyGivenNames x0
  try clear_value x0
  exact tame_ite (P := Goes s) (goes_next (tame_resendFrom ‹_›)) (goes_next ‹_›)
theorem tame_countSync {s : State} {t p ls} (ht' : Tame s t) : Tame s (countSync t p ls) := by
  unfold countSync
  exact tame_foldl (fun u0 y1 h2 => tame_bump ‹_›) ‹_›
theorem tame_qualError {s : State} {t p} (ht' : Tame s t) : Tame s (qualError t p) := by
  unfold qualError
  exact tame_withTorus ‹_›
theorem tame_syncSeen {s : State} {t p ls} (ht' : Tame s t) : Tame s (syncSeen t p ls) := by
  unfold syncSeen
  exact tame_ite (P := Tame s) ‹_› (tame_qualError (tame_countSync ‹_›))
theorem goes_execLinkCheckFail {s : State} {p f t} (ht' : Tame s t) : Goes s (execLinkCheckFail p f t) := by
  unfold execLinkCheckFail
  split
  · exact goes_next ‹_›
  · exact goes_next ‹_›
  · exact goes_next (tame_qualError (tame_bump (tame_countSync ‹_›)))
  · exact goes_next (tame_syncSeen ‹_›)
  · extract_lets -underBinder -merge +onlyGivenNames x0
    have h1 : Tame s x0 := tame_syncSeen ‹_›
    try clear_value x0
    exact tame_ite (P := Goes s) (goes_next (tame_cellFails ‹_›)) (goes_next ‹_›)
theorem goes_execControlUnitDue {s : State} {p t} (ht' : Tame s t) : Goes s (execControlUnitDue p t) := by
  unfold execControlUnitDue
  extract_lets -underBinder -merge +onlyGivenNames x0
  try clear_value x0
  split
  · exact goes_next ‹_›
  · exact goes_next (tame_emit ‹_›)
  · exact goes_next (tame_emit (tame_withTorus ‹_›))
  · exact tame_ite (P := Goes s) (goes_next (tame_sendControl (tame_countStalls (tame_slotGains ‹_›)))) (goes_next ‹_›)
  · exact goes_next (tame_emit ‹_›)
  · exact goes_next (tame_emit ‹_›)
  · exact goes_next (tame_emit ‹_›)
theorem tame_countRows {s : State} {t p f} (ht' : Tame s t) : Tame s (countRows t p f) := by
  unfold countRows
  exact tame_foldl (fun u0 y1 h2 => tame_bump ‹_›) ‹_›
theorem goes_execIdleRow {s : State} {p act laneOrder t} (ht' : Tame s t) : Goes s (execIdleRow p act laneOrder t) := by
  unfold execIdleRow
  refine tame_ite (P := Goes s) (goes_next ‹_›) ?_
  refine tame_ite (P := Goes s) (goes_next (tame_portDown ‹_›)) ?_
  split
  · exact goes_next ‹_›
  · exact goes_next (tame_countRows ‹_›)
  · exact goes_next (tame_countRows ‹_›)
theorem goes_execIdleRowDue {s : State} {p t} (ht' : Tame s t) : Goes s (execIdleRowDue p t) := by
  unfold execIdleRowDue
  exact tame_ite (P := Goes s) (goes_next ‹_›) (goes_next (tame_emit ‹_›))
theorem goes_execLockLoss {s : State} {p l badBlock t} (ht' : Tame s t) : Goes s (execLockLoss p l badBlock t) := by
  unfold execLockLoss
  split
  · exact goes_next ‹_›
  · exact goes_next ‹_›
  · extract_lets -underBinder -merge +onlyGivenNames x0
    have h1 : Tame s x0 := tame_ite (P := Tame s) (tame_bump ‹_›) ‹_›
    try clear_value x0
    exact goes_next (tame_portDown ‹_›)
theorem tame_eyeWrite {s : State} {t p l v} (ht' : Tame s t) : Tame s (eyeWrite t p l v) := by
  unfold eyeWrite
  extract_lets -underBinder -merge +onlyGivenNames x0
  have h1 : Tame s x0 := tame_setF (tame_setF (tame_setF ‹_›))
  try clear_value x0
  refine tame_ite (P := Tame s) ?_ ‹_›
  extract_lets -underBinder -merge +onlyGivenNames x2
  have h3 : Tame s x2 := tame_setF ‹_›
  try clear_value x2
  exact tame_ite (P := Tame s) ‹_› (tame_mk ‹_›)
theorem goes_execLaneEyeStart {s : State} {r p l v t} (ht' : Tame s t) : Goes s (execLaneEyeStart r p l v t) := by
  unfold execLaneEyeStart
  exact goes_access ‹_› (fun u0 h1 => tame_eyeWrite ‹_›)
theorem goes_execEyeScanDone {s : State} {p l count t} (ht' : Tame s t) : Goes s (execEyeScanDone p l count t) := by
  unfold execEyeScanDone
  refine tame_ite (P := Goes s) ?_ (goes_next ‹_›)
  extract_lets -underBinder -merge +onlyGivenNames x0
  try clear_value x0
  exact goes_next (tame_wr (tame_mk ‹_›))

/-! ## Access -/

theorem tame_withAcc {s : State} {t a f} (ht' : Tame s t) : Tame s (withAcc t a f) := by
  unfold withAcc
  exact tame_mk ‹_›
theorem tame_withRun {s : State} {t k f} (ht' : Tame s t) : Tame s (withRun t k f) := by
  unfold withRun
  exact tame_mk ‹_›
theorem tame_pieceFromModule {s : State} {t r} (ht' : Tame s t) : Tame s (pieceFromModule t r) := by
  unfold pieceFromModule
  split
  · have h0 := tame_of_eq (P := TameP s) ‹_ = _› (tameP_memRead ‹_›)
    exact tame_endRunCopy ‹_›
  · have h1 := tame_of_eq (P := TameP s) ‹_ = _› (tameP_memRead ‹_›)
    exact tame_withRun ‹_›
theorem tame_pieceFromAcc {s : State} {t r a} (ht' : Tame s t) : Tame s (pieceFromAcc t r a) := by
  unfold pieceFromAcc
  extract_lets -underBinder -merge +onlyGivenNames x0
  have h1 : Tame s x0 := tame_withAcc ‹_›
  try clear_value x0
  exact tame_withRun ‹_›
theorem tame_pieceToAcc {s : State} {t r a} (ht' : Tame s t) : Tame s (pieceToAcc t r a) := by
  unfold pieceToAcc
  split
  · assumption
  · refine tame_ite (P := Tame s) ‹_› ?_
    extract_lets -underBinder -merge +onlyGivenNames x0
    have h1 : Tame s x0 := tame_withAcc ‹_›
    try clear_value x0
    exact tame_withRun ‹_›
theorem tame_copyStep {s : State} {t k} (ht' : Tame s t) : Tame s (copyStep t k) := by
  unfold copyStep
  extract_lets -underBinder -merge +onlyGivenNames x0
  have h1 : Tame s x0 := by
    unfold x0
    split
    · refine tame_ite (P := Tame s) ?_ ‹_›
      split
      · exact tame_pieceFromAcc ‹_›
      · exact tame_pieceFromModule ‹_›
    · assumption
  try clear_value x0
  split
  · split
    · exact tame_pieceToAcc ‹_›
    · assumption
  · assumption
theorem tame_copySteps {s : State} {n t k} (h : Tame s t) : Tame s (copySteps n t k) := by
  induction n generalizing t with
  | zero => exact h
  | succ n ih => exact ih (tame_copyStep h)
theorem tame_copyGo {s : State} {t} (ht' : Tame s t) : Tame s (copyGo t) := by
  unfold copyGo
  exact tame_foldl (fun u0 y1 h2 => tame_copySteps ‹_›) ‹_›
theorem tame_copyLanded {s : State} {t k n} (ht' : Tame s t) : Tame s (copyLanded t k n) := by
  unfold copyLanded
  split
  · assumption
  · exact tame_ite (P := Tame s) (tame_endRunCopy ‹_›) (tame_withRun ‹_›)
theorem tame_putFrame {s : State} {t a b} (ht' : Tame s t) : Tame s (putFrame t a b) := by
  unfold putFrame
  extract_lets -underBinder -merge +onlyGivenNames x0
  try clear_value x0
  extract_lets -underBinder -merge +onlyGivenNames x1
  have h2 : Tame s x1 := tame_withAcc ‹_›
  try clear_value x1
  exact tame_emit ‹_›
theorem tameP_gatherCells {s : State} {n t e xs} (h : Tame s t) : TameP s (gatherCells n t e xs) := by
  induction n generalizing t xs with
  | zero => exact h
  | succ n ih =>
    unfold gatherCells
    extract_lets u
    have hu : Tame s u := tame_slotGains h
    split
    · exact hu
    · exact ih (tameP_takeGrant (tame_withEgress hu))
theorem tame_cellsOut {s : State} {t a} (ht' : Tame s t) : Tame s (cellsOut t a) := by
  unfold cellsOut
  extract_lets -underBinder -merge +onlyGivenNames x0
  have h1 : TameP s x0 := tameP_gatherCells ‹_›
  try clear_value x0
  exact tame_ite (P := Tame s) (tame_fst ‹_›) (tame_putFrame (tame_fst ‹_›))
theorem tame_accSlot {s : State} {t a} (ht' : Tame s t) : Tame s (accSlot t a) := by
  unfold accSlot
  refine tame_ite (P := Tame s) ‹_› ?_
  extract_lets -underBinder -merge +onlyGivenNames x0
  try clear_value x0
  split
  · exact tame_ite (P := Tame s) (tame_putFrame (tame_withAcc ‹_›)) (tame_cellsOut ‹_›)
  · exact tame_cellsOut ‹_›
theorem tame_accDrop {s : State} {t a} (ht' : Tame s t) : Tame s (accDrop t a) := by
  unfold accDrop
  exact tame_bump ‹_›
theorem tame_learnAcc {s : State} {t a p chassis} (ht' : Tame s t) : Tame s (learnAcc t a p chassis) := by
  unfold learnAcc
  extract_lets -underBinder -merge +onlyGivenNames x0 x1
  try clear_value x0 x1
  exact tame_ite (P := Tame s) ‹_› (tame_emit (tame_withAcc ‹_›))
theorem tame_ackBody {s : State} {t x} (ht' : Tame s t) : Tame s (ackBody t x) := by
  unfold ackBody
  split
  · exact tame_copyLanded ‹_›
  · assumption
theorem tame_accAck {s : State} {t a ack} (ht' : Tame s t) : Tame s (accAck t a ack) := by
  unfold accAck
  extract_lets -underBinder -merge +onlyGivenNames x0
  try clear_value x0
  split
  · assumption
  · extract_lets -underBinder -merge +onlyGivenNames x1
    try clear_value x1
    refine tame_ite (P := Tame s) ‹_› ?_
    extract_lets -underBinder -merge +onlyGivenNames x2
    have h3 : Tame s x2 := tame_withAcc ‹_›
    try clear_value x2
    exact tame_copyGo (tame_foldl (fun u4 y5 h6 => tame_ackBody ‹_›) ‹_›)
theorem tame_accHead {s : State} {t a a2} (ht' : Tame s t) : Tame s (accHead t a a2) := by
  unfold accHead
  extract_lets -underBinder -merge +onlyGivenNames x0
  have h1 : Tame s x0 := tame_learnAcc ‹_›
  try clear_value x0
  exact tame_accAck (tame_withAcc ‹_›)
theorem goes_accFrame {s : State} {t a a2 n f} (ht' : Tame s t) (hf' : ∀ u0, Tame s u0 → Tame s (f u0)) : Goes s (accFrame t a
    a2 n f) := by
  unfold accFrame
  refine tame_ite (P := Goes s) (goes_next ‹_›) ?_
  refine tame_ite (P := Goes s) (goes_next (tame_accDrop ‹_›)) ?_
  refine tame_ite (P := Goes s) (goes_next ‹_›) ?_
  extract_lets -underBinder -merge +onlyGivenNames x0
  have h1 : Tame s x0 := tame_accHead ‹_›
  try clear_value x0
  exact goes_next (hf' _ (tame_withAcc ‹_›))
theorem tame_accCell {s : State} {a t c} (ht' : Tame s t) : Tame s (accCell a t c) := by
  unfold accCell
  extract_lets -underBinder -merge +onlyGivenNames x0
  try clear_value x0
  exact tame_ite (P := Tame s) (tame_accDrop ‹_›) (tame_ite (P := Tame s) (tame_portTrailer ‹_›) (tame_ite (P := Tame s)
      (tame_cwFromPort ‹_›) (tame_portData ‹_›)))
theorem goes_execCellsFrame {s : State} {a a1 cells t} (ht' : Tame s t) : Goes s (execCellsFrame a a1 cells t) := by
  unfold execCellsFrame
  exact tame_ite (P := Goes s) (goes_next (tame_accDrop ‹_›)) (goes_underUpsets ‹_› (fun u0 h1 => goes_accFrame ‹_› (fun u2 h3
      => tame_foldl (fun u4 y5 h6 => tame_accCell ‹_›) ‹_›)))
theorem tame_replyBytes {s : State} {t r off bs} (ht' : Tame s t) : Tame s (replyBytes t r off bs) := by
  unfold replyBytes
  split
  · exact tame_copyGo (tame_withRun ‹_›)
  · split
    · have h0 := tame_of_eq (P := TameP s) ‹_ = _› (tameP_memWrite ‹_›)
      exact tame_endRunCopy ‹_›
    · have h1 := tame_of_eq (P := TameP s) ‹_ = _› (tameP_memWrite ‹_›)
      exact tame_copyGo (tame_copyLanded ‹_›)
theorem goes_execMemData {s : State} {a a1 tag ok data t} (ht' : Tame s t) : Goes s (execMemData a a1 tag ok data t) := by
  unfold execMemData
  refine goes_accFrame ‹_› (fun u0 h1 => ?_)
  split
  · exact tame_accDrop ‹_›
  · extract_lets -underBinder -merge +onlyGivenNames x2
    have h3 : Tame s x2 := tame_withAcc ‹_›
    try clear_value x2
    split
    · assumption
    · exact tame_ite (P := Tame s) (tame_endRunCopy ‹_›) (tame_replyBytes ‹_›)
theorem goes_execMemWrite {s : State} {a f t} (ht' : Tame s t) : Goes s (execMemWrite a f t) := by
  unfold execMemWrite
  exact goes_accFrame ‹_› (fun u0 h1 => tame_accDrop ‹_›)
theorem goes_execMemRead {s : State} {a a1 t} (ht' : Tame s t) : Goes s (execMemRead a a1 t) := by
  unfold execMemRead
  exact goes_accFrame ‹_› (fun u0 h1 => tame_accDrop ‹_›)
theorem goes_execPaceFrame {s : State} {a a1 t} (ht' : Tame s t) : Goes s (execPaceFrame a a1 t) := by
  unfold execPaceFrame
  exact tame_ite (P := Goes s) (goes_next ‹_›) (tame_ite (P := Goes s) (goes_next (tame_accDrop ‹_›)) (goes_next (tame_accHead
      ‹_›)))
theorem goes_execNeighborSolicitation {s : State} {a peer target t} (ht' : Tame s t) : Goes s (execNeighborSolicitation a peer
    target t) := by
  unfold execNeighborSolicitation
  exact tame_ite (P := Goes s) (goes_next ‹_›) (tame_ite (P := Goes s) (goes_next (tame_accDrop ‹_›)) (goes_next (tame_emit
      (tame_learnAcc ‹_›))))
theorem goes_execEchoRequest {s : State} {a peer target body t} (ht' : Tame s t) : Goes s (execEchoRequest a peer target body t)
    := by
  unfold execEchoRequest
  exact tame_ite (P := Goes s) (goes_next ‹_›) (tame_ite (P := Goes s) (goes_next (tame_accDrop ‹_›)) (goes_next (tame_emit
      (tame_learnAcc ‹_›))))
theorem goes_execLldpFrame {s : State} {a peer chassis t} (ht' : Tame s t) : Goes s (execLldpFrame a peer chassis t) := by
  unfold execLldpFrame
  exact tame_ite (P := Goes s) (goes_next (tame_emit (tame_learnAcc ‹_›))) (goes_next ‹_›)
theorem goes_execForeignFrame {s : State} {a badFcs t} (ht' : Tame s t) : Goes s (execForeignFrame a badFcs t) := by
  unfold execForeignFrame
  exact tame_ite (P := Goes s) (goes_next ‹_›) (tame_ite (P := Goes s) (goes_next (tame_scorePort (tame_bump ‹_›))) (goes_next
      (tame_accDrop ‹_›)))
theorem goes_execFrameAckDue {s : State} {a t} (ht' : Tame s t) : Goes s (execFrameAckDue a t) := by
  unfold execFrameAckDue
  extract_lets -underBinder -merge +onlyGivenNames x0
  try clear_value x0
  exact tame_ite (P := Goes s) (goes_next (tame_emit (tame_withAcc ‹_›))) (goes_next ‹_›)
theorem tame_setAccState {s : State} {t a st} (ht' : Tame s t) : Tame s (setAccState t a st) := by
  unfold setAccState
  exact tame_ite (P := Tame s) ‹_› (tame_pfMsix (tame_setF ‹_›))
theorem tame_startAcc {s : State} {t a} (ht' : Tame s t) : Tame s (startAcc t a) := by
  unfold startAcc
  exact tame_ite (P := Tame s) ‹_› (tame_setAccState ‹_›)
theorem tame_stopAcc {s : State} {t a} (ht' : Tame s t) : Tame s (stopAcc t a) := by
  unfold stopAcc
  extract_lets -underBinder -merge +onlyGivenNames x0
  have h1 : Tame s x0 := tame_purgeEgress ‹_›
  try clear_value x0
  extract_lets -underBinder -merge +onlyGivenNames x2
  try clear_value x2
  extract_lets -underBinder -merge +onlyGivenNames x3
  have h4 : Tame s x3 := tame_foldl (fun u5 y6 h7 => tame_endRunCopy ‹_›) ‹_›
  try clear_value x3
  exact tame_setF (tame_setAccState (tame_mk ‹_›))
theorem tame_accDown {s : State} {t a} (ht' : Tame s t) : Tame s (accDown t a) := by
  unfold accDown
  extract_lets -underBinder -merge +onlyGivenNames x0
  have h1 : Tame s x0 := tame_stopAcc ‹_›
  try clear_value x0
  exact tame_streamsGo (tame_ite (P := Tame s) (tame_startAcc ‹_›) ‹_›)
theorem tame_accCtrlWrite {s : State} {t a v} (ht' : Tame s t) : Tame s (accCtrlWrite t a v) := by
  unfold accCtrlWrite
  extract_lets -underBinder -merge +onlyGivenNames x0
  try clear_value x0
  extract_lets -underBinder -merge +onlyGivenNames x1
  have h2 : Tame s x1 := tame_setF (tame_setF (tame_setF ‹_›))
  try clear_value x1
  exact tame_ite (P := Tame s) (tame_startAcc ‹_›) (tame_ite (P := Tame s) (tame_streamsGo (tame_stopAcc ‹_›)) ‹_›)
theorem goes_execAccEnable {s : State} {r a v t} (ht' : Tame s t) : Goes s (execAccEnable r a v t) := by
  unfold execAccEnable
  exact goes_access ‹_› (fun u0 h1 => tame_accCtrlWrite ‹_›)
theorem goes_execAccessLinkUp {s : State} {a rate t} (ht' : Tame s t) : Goes s (execAccessLinkUp a rate t) := by
  unfold execAccessLinkUp
  extract_lets -underBinder -merge +onlyGivenNames x0 x1
  try clear_value x0 x1
  refine tame_ite (P := Goes s) (goes_next ‹_›) ?_
  extract_lets -underBinder -merge +onlyGivenNames x2
  have h3 : Tame s x2 := tame_withAcc ‹_›
  try clear_value x2
  extract_lets -underBinder -merge +onlyGivenNames x4
  have h5 : Tame s x4 := tame_setF (tame_setAccState (tame_setAccState ‹_›))
  try clear_value x4
  exact goes_next (tame_emit ‹_›)
theorem goes_execAccessLinkDown {s : State} {a t} (ht' : Tame s t) : Goes s (execAccessLinkDown a t) := by
  unfold execAccessLinkDown
  exact tame_ite (P := Goes s) (goes_next (tame_accDown ‹_›)) (goes_next ‹_›)
theorem goes_execAccRto {s : State} {a t} (ht' : Tame s t) : Goes s (execAccRto a t) := by
  unfold execAccRto
  extract_lets -underBinder -merge +onlyGivenNames x0
  try clear_value x0
  refine tame_ite (P := Goes s) (goes_next ‹_›) ?_
  refine tame_ite (P := Goes s) (goes_next (tame_accDown ‹_›)) ?_
  extract_lets -underBinder -merge +onlyGivenNames x1
  have h2 : Tame s x1 := tame_withAcc ‹_›
  try clear_value x1
  exact goes_next (tame_foldl (fun u3 y4 h5 => tame_emit (tame_scorePort (tame_bump ‹_›))) ‹_›)
theorem goes_execAccMemTimeout {s : State} {a tag t} (ht' : Tame s t) : Goes s (execAccMemTimeout a tag t) := by
  unfold execAccMemTimeout
  split
  · exact goes_next ‹_›
  · split
    · exact goes_next ‹_›
    · exact tame_ite (P := Goes s) (goes_next (tame_endRunCopy ‹_›)) (goes_next ‹_›)
theorem tame_copyInside {s : State} {t k i c src dst n} (ht' : Tame s t) : Tame s (copyInside t k i c src dst n) := by
  unfold copyInside
  split
  · have h0 := tame_of_eq (P := TameP s) ‹_ = _› (tameP_memRead ‹_›)
    exact tame_endCmd ‹_›
  · have h1 := tame_of_eq (P := TameP s) ‹_ = _› (tameP_memRead ‹_›)
    split
    · have h2 := tame_of_eq (P := TameP s) ‹_ = _› (tameP_memWrite ‹_›)
      exact tame_endCmd ‹_›
    · have h3 := tame_of_eq (P := TameP s) ‹_ = _› (tameP_memWrite ‹_›)
      exact tame_endCmd ‹_›
theorem tame_copyCmd {s : State} {t k i c b} (ht' : Tame s t) : Tame s (copyCmd t k i c b) := by
  unfold copyCmd
  extract_lets -underBinder -merge +onlyGivenNames x0 x1 x2
  try clear_value x0 x1 x2
  split
  · exact tame_ite (P := Tame s) (tame_endCmd ‹_›) (tame_ite (P := Tame s) (tame_endCmd ‹_›) (tame_ite (P := Tame s)
        (tame_endCmd ‹_›) (tame_ite (P := Tame s) (tame_copyInside ‹_›) (tame_copySteps (tame_mk ‹_›)))))
  · exact tame_endCmd ‹_›
theorem goes_execCopy {s : State} {c q i t} (ht' : Tame s t) : Goes s (execCopy c q i t) := by
  unfold execCopy
  exact goes_runCmd ‹_› (fun u0 u1 u2 h3 => tame_copyCmd ‹_›)
theorem goes_execSyncNotify {s : State} {o t} (ht' : Tame s t) : Goes s (execSyncNotify o t) := by
  unfold execSyncNotify
  extract_lets -underBinder -merge +onlyGivenNames x0 x1
  try clear_value x0 x1
  refine tame_ite (P := Goes s) (goes_next ‹_›) ?_
  split
  · exact goes_next (tame_mk ‹_›)
  · extract_lets -underBinder -merge +onlyGivenNames x2
    have h3 : Tame s x2 := tame_mk ‹_›
    try clear_value x2
    split
    · exact tame_ite (P := Goes s) (goes_next (tame_fst (tameP_memWrite ‹_›))) (goes_next ‹_›)
    · exact goes_next (tame_ctxMsix ‹_›)
    · exact tame_ite (P := Goes s) (goes_next ‹_›) (tame_ite (P := Goes s) (goes_next ‹_›) (goes_next (tame_withAcc ‹_›)))
    · exact goes_next ‹_›
theorem tame_ownerNextWrite {s : State} {t a v} (ht' : Tame s t) : Tame s (ownerNextWrite t a v) := by
  unfold ownerNextWrite
  exact tame_setF (tame_setF ‹_›)
theorem goes_execHealthPortOwnerWrite {s : State} {r a v t} (ht' : Tame s t) : Goes s (execHealthPortOwnerWrite r a v t) := by
  unfold execHealthPortOwnerWrite
  exact goes_access ‹_› (fun u0 h1 => tame_ownerNextWrite ‹_›)
theorem goes_execPortSwitch {s : State} {a t} (ht' : Tame s t) : Goes s (execPortSwitch a t) := by
  unfold execPortSwitch
  exact tame_ite (P := Goes s) (goes_next (tame_setF (tame_setF ‹_›))) (goes_next ‹_›)

/-! ## Closing -/

theorem tame_fenceQueryCmd {s : State} {t k i c b} (ht' : Tame s t) : Tame s (fenceQueryCmd t k i c b) := by
  unfold fenceQueryCmd
  extract_lets -underBinder -merge +onlyGivenNames x0 x1 x2
  try clear_value x0 x1 x2
  refine tame_ite (P := Tame s) (tame_endCmd ‹_›) ?_
  extract_lets -underBinder -merge +onlyGivenNames x3
  try clear_value x3
  refine tame_ite (P := Tame s) (tame_endCmd ‹_›) ?_
  refine tame_ite (P := Tame s) (tame_endCmd ‹_›) ?_
  split
  · have h4 := tame_of_eq (P := TameP s) ‹_ = _› (tameP_memWrite ‹_›)
    exact tame_endCmd ‹_›
  · have h5 := tame_of_eq (P := TameP s) ‹_ = _› (tameP_memWrite ‹_›)
    exact tame_endCmd ‹_›
theorem goes_execFenceQuery {s : State} {c q i t} (ht' : Tame s t) : Goes s (execFenceQuery c q i t) := by
  unfold execFenceQuery
  exact goes_runCmd ‹_› (fun u0 u1 u2 h3 => tame_fenceQueryCmd ‹_›)
theorem tame_closeLayer {s : State} {t l} (ht' : Tame s t) : Tame s (closeLayer t l) := by
  unfold closeLayer
  split
  · assumption
  · refine tame_ite (P := Tame s) ‹_› ?_
    refine tame_ite (P := Tame s) (tame_recordTide ‹_›) ?_
    split
    · exact tame_leaveLayer ‹_›
    · exact tame_ite (P := Tame s) (tame_leaveLayer ‹_›) (tame_dropCache (tame_recordTide (tame_moveJournal ‹_›)))
theorem tame_closeLayers {s : State} {t c} (ht' : Tame s t) : Tame s (closeLayers t c) := by
  unfold closeLayers
  extract_lets -underBinder -merge +onlyGivenNames x0
  have h1 : Tame s x0 := tame_foldl (fun u2 y3 h4 => tame_closeLayer ‹_›) ‹_›
  try clear_value x0
  exact tame_postAll ‹_›
theorem tame_retryScratch {s : State} {t c} (ht' : Tame s t) : Tame s (retryScratch t c) := by
  unfold retryScratch
  refine tame_foldl (fun u0 y1 h2 => ?_) ‹_›
  split
  · exact tame_ite (P := Tame s) (tame_remakeScratch ‹_›) ‹_›
  · assumption
theorem tameP_writeStepRecord {s : State} {t c} (h : Tame s t) : TameP s (writeStepRecord t c) := by
  unfold writeStepRecord
  extract_lets bs u r
  have hu : Tame s u := by
    unfold u
    split
    · exact tame_poke h
    · exact h
  have hr : TameP s r := tameP_memWrite hu
  clear_value r
  exact tameP_mk (tame_fst hr)
theorem tame_dropTide {s : State} {t c} (ht' : Tame s t) : Tame s (dropTide t c) := by
  unfold dropTide
  extract_lets -underBinder -merge +onlyGivenNames x0 x1
  try clear_value x0 x1
  exact tame_mk ‹_›
theorem tame_stepCloseRun {s : State} {t k i c} (ht' : Tame s t) : Tame s (stepCloseRun t k i c) := by
  unfold stepCloseRun
  extract_lets -underBinder -merge +onlyGivenNames x0
  have h1 : Tame s x0 := tame_closeLayers ‹_›
  try clear_value x0
  extract_lets -underBinder -merge +onlyGivenNames x2
  have h3 : TameP s x2 := tameP_writeStepRecord ‹_›
  try clear_value x2
  extract_lets -underBinder -merge +onlyGivenNames x4
  try clear_value x4
  extract_lets -underBinder -merge +onlyGivenNames x5
  have h6 : Tame s x5 := tame_dropTide (tame_fst ‹_›)
  try clear_value x5
  extract_lets -underBinder -merge +onlyGivenNames x7
  have h8 : Tame s x7 := tame_expireCopies (tame_mk ‹_›)
  try clear_value x7
  exact tame_endCmdWith (tame_retryMoves (tame_retryScratch ‹_›))
theorem goes_execStepClose {s : State} {c q i t} (ht' : Tame s t) : Goes s (execStepClose c q i t) := by
  unfold execStepClose
  exact tame_ite (P := Goes s) (goes_next ‹_›) (goes_runCmd ‹_› (fun u0 u1 u2 h3 => tame_stepCloseRun ‹_›))
theorem tame_dropBucket {s : State} {t b} (ht' : Tame s t) : Tame s (dropBucket t b) := by
  unfold dropBucket
  extract_lets -underBinder -merge +onlyGivenNames x0
  have h1 : Tame s x0 := tame_releaseBucket (tame_freeKept ‹_›)
  try clear_value x0
  exact tame_mk ‹_›
theorem tame_dropLayer {s : State} {t l} (ht' : Tame s t) : Tame s (dropLayer t l) := by
  unfold dropLayer
  extract_lets -underBinder -merge +onlyGivenNames x0
  have h1 : Tame s x0 := tame_nextMoves (tame_endMove (tame_clearCalls ‹_›))
  try clear_value x0
  extract_lets -underBinder -merge +onlyGivenNames x2
  have h3 : Tame s x2 := tame_wr (tame_wr ‹_›)
  try clear_value x2
  exact tame_mk ‹_›
theorem tame_releaseCtx {s : State} {t c} (ht' : Tame s t) : Tame s (releaseCtx t c) := by
  unfold releaseCtx
  extract_lets -underBinder -merge +onlyGivenNames x0
  try clear_value x0
  extract_lets -underBinder -merge +onlyGivenNames x1
  have h2 : Tame s x1 := tame_foldl (fun u3 y4 h5 => tame_dropFerry ‹_›) ‹_›
  try clear_value x1
  extract_lets -underBinder -merge +onlyGivenNames x6
  have h7 : Tame s x6 := tame_foldl (fun u8 y9 h10 => tame_dropBucket ‹_›) ‹_›
  try clear_value x6
  extract_lets -underBinder -merge +onlyGivenNames x11
  have h12 : Tame s x11 := tame_foldl (fun u13 y14 h15 => tame_dropLayer ‹_›) ‹_›
  try clear_value x11
  extract_lets -underBinder -merge +onlyGivenNames x16
  have h17 : Tame s x16 := tame_foldl (fun u18 y19 h20 => tame_evictCopy ‹_›) ‹_›
  try clear_value x16
  extract_lets -underBinder -merge +onlyGivenNames x21
  have h22 : Tame s x21 := tame_mk ‹_›
  try clear_value x21
  exact tame_releaseAllocs ‹_›
theorem goes_execCtxClosed {s : State} {c t} (ht' : Tame s t) : Goes s (execCtxClosed c t) := by
  unfold execCtxClosed
  refine tame_ite (P := Goes s) (goes_next ‹_›) ?_
  extract_lets -underBinder -merge +onlyGivenNames x0
  have h1 : Tame s x0 := tame_releaseCtx ‹_›
  try clear_value x0
  extract_lets -underBinder -merge +onlyGivenNames x2
  have h3 : Tame s x2 := tame_wipe ‹_›
  try clear_value x2
  extract_lets -underBinder -merge +onlyGivenNames x4
  have h5 : Tame s x4 := tame_wipe ‹_›
  try clear_value x4
  extract_lets -underBinder -merge +onlyGivenNames x6
  have h7 : Tame s x6 := tame_setF (tame_setF ‹_›)
  try clear_value x6
  extract_lets -underBinder -merge +onlyGivenNames x8
  have h9 : Tame s x8 := tame_foldl (fun u10 y11 h12 => tame_setF ‹_›) ‹_›
  try clear_value x8
  exact goes_next (tame_setF ‹_›)

end Sys2Proof.Machine
end

