-- ==== Sys2Proof/Laws/Tame7.lean ====
section
/-! SUPPORT. `Tame` through the functions of Boundary, Power, Trust, Readmit, Scrub: one lemma per function. -/

namespace Sys2Proof.Machine

set_option linter.unusedVariables false

/-! ## Boundary -/

theorem tame_withdrawCoord {s : State} {t} (ht' : Tame s t) : Tame s (withdrawCoord t) := by
  unfold withdrawCoord
  refine tame_ite (P := Tame s) ‹_› ?_
  extract_lets -underBinder -merge +onlyGivenNames x0
  have h1 : Tame s x0 := tame_dropTraffic (tame_setF ‹_›)
  try clear_value x0
  exact tame_foldl (fun u2 y3 h4 => tame_flushEgress ‹_›) ‹_›
theorem tame_torusDimWrite {s : State} {t v} (ht' : Tame s t) : Tame s (torusDimWrite t v) := by
  unfold torusDimWrite
  exact tame_ite (P := Tame s) (tame_ite (P := Tame s) ‹_› (tame_wr ‹_›)) (tame_setF (tame_withdrawCoord ‹_›))
theorem tame_coordWrite {s : State} {t v} (ht' : Tame s t) : Tame s (coordWrite t v) := by
  unfold coordWrite
  exact tame_ite (P := Tame s) (tame_ite (P := Tame s) ‹_› (tame_checkCays (tame_retrainPorts (tame_clearView (tame_wr ‹_›)))))
      (tame_withdrawCoord ‹_›)
theorem goes_execGlobalTorusDimWrite {s : State} {r v t} (ht' : Tame s t) : Goes s (execGlobalTorusDimWrite r v t) := by
  unfold execGlobalTorusDimWrite
  exact goes_access ‹_› (fun u0 h1 => tame_torusDimWrite ‹_›)
theorem goes_execGlobalCoordWrite {s : State} {r v t} (ht' : Tame s t) : Goes s (execGlobalCoordWrite r v t) := by
  unfold execGlobalCoordWrite
  exact goes_access ‹_› (fun u0 h1 => tame_coordWrite ‹_›)
theorem tame_queueHostDown {s : State} {t k} (ht' : Tame s t) : Tame s (queueHostDown t k) := by
  unfold queueHostDown
  exact tame_ite (P := Tame s) (tame_stopFetch (tame_queError ‹_›)) ‹_›
theorem tame_hostDown {s : State} {t a1} (ht' : Tame s t) : Tame s (hostDown t a1) := by
  unfold hostDown
  refine tame_ite (P := Tame s) ‹_› ?_
  extract_lets -underBinder -merge +onlyGivenNames x0
  have h1 : Tame s x0 := tame_bump (tame_wr ‹_›)
  try clear_value x0
  extract_lets -underBinder -merge +onlyGivenNames x2
  have h3 : Tame s x2 := tame_mk ‹_›
  try clear_value x2
  extract_lets -underBinder -merge +onlyGivenNames x4
  have h5 : Tame s x4 := tame_foldl (fun u6 y7 h8 => tame_foldl (fun u9 y10 h11 => tame_queueHostDown ‹_›) ‹_›) ‹_›
  try clear_value x4
  exact tame_msix ‹_›
theorem tame_flushRecord {s : State} {t k w} (ht' : Tame s t) : Tame s (flushRecord t k w) := by
  unfold flushRecord
  extract_lets -underBinder -merge +onlyGivenNames x0
  try clear_value x0
  extract_lets -underBinder -merge +onlyGivenNames x1
  have h2 : Tame s x1 := tame_hostSend (tame_poke ‹_›)
  try clear_value x1
  exact tame_ite (P := Tame s) (tame_msix ‹_›) ‹_›
theorem tame_flushRecords {s : State} {t k} (ht' : Tame s t) : Tame s (flushRecords t k) := by
  unfold flushRecords
  extract_lets -underBinder -merge +onlyGivenNames x0 x1
  try clear_value x0 x1
  exact tame_ite (P := Tame s) ‹_› (tame_foldl (fun u2 y3 h4 => tame_flushRecord ‹_›) (tame_withQueue ‹_›))
theorem tame_portReturned {s : State} {t} (ht' : Tame s t) : Tame s (portReturned t) := by
  unfold portReturned
  exact tame_foldl (fun u0 y1 h2 => tame_flushRecords ‹_›) ‹_›
theorem tame_repeatBacks {s : State} {old t} (hold' : Tame s old) (ht' : Tame s t) : Tame s (repeatBacks old t) := by
  unfold repeatBacks
  exact tame_foldl (fun u0 y1 h2 => tame_ite (P := Tame s) (tame_sendBack (tame_withLayer ‹_›)) ‹_›) ‹_›
theorem tame_setBme {s : State} {t a1 fn b} (ht' : Tame s t) : Tame s (setBme t a1 fn b) := by
  unfold setBme
  extract_lets -underBinder -merge +onlyGivenNames x0
  try clear_value x0
  extract_lets -underBinder -merge +onlyGivenNames x1
  have h2 : Tame s x1 := tame_mk ‹_›
  try clear_value x1
  exact tame_repeatBacks ‹_› (tame_portReturned ‹_›)
theorem goes_execHostLinkDown {s : State} {a0 t} (ht' : Tame s t) : Goes s (execHostLinkDown a0 t) := by
  unfold execHostLinkDown
  exact goes_next (tame_hostDown ‹_›)
theorem goes_execPerst {s : State} {a0 t} (ht' : Tame s t) : Goes s (execPerst a0 t) := by
  unfold execPerst
  exact goes_next (tame_hostDown ‹_›)
theorem goes_execHostLinkUp {s : State} {a0 gen width t} (ht' : Tame s t) : Goes s (execHostLinkUp a0 gen width t) := by
  unfold execHostLinkUp
  refine tame_ite (P := Goes s) (goes_next ‹_›) ?_
  extract_lets -underBinder -merge +onlyGivenNames x0
  have h1 : Tame s x0 := tame_wr ‹_›
  try clear_value x0
  exact goes_next (tame_emit (tame_msix ‹_›))
theorem tame_vfReset {s : State} {t a1 fn} (ht' : Tame s t) : Tame s (vfReset t a1 fn) := by
  unfold vfReset
  extract_lets -underBinder -merge +onlyGivenNames x0
  have h1 : Tame s x0 := tame_mk ‹_›
  try clear_value x0
  refine tame_foldl (fun u2 y3 h4 => ?_) ‹_›
  refine tame_foldl (fun u5 y6 h7 => ?_) ‹_›
  extract_lets -underBinder -merge +onlyGivenNames x8
  try clear_value x8
  exact tame_stopFetch (tame_queError (tame_setF ‹_›))
theorem goes_execVfFlr {s : State} {a0 n t} (ht' : Tame s t) : Goes s (execVfFlr a0 n t) := by
  unfold execVfFlr
  exact tame_ite (P := Goes s) (goes_next (tame_vfReset ‹_›)) (goes_next ‹_›)
theorem goes_execPfFlr {s : State} {a0 t} (ht' : Tame s t) : Goes s (execPfFlr a0 t) := by
  unfold execPfFlr
  refine tame_ite (P := Goes s) ?_ (goes_next ‹_›)
  extract_lets -underBinder -merge +onlyGivenNames x0
  have h1 : Tame s x0 := tame_foldl (fun u2 y3 h4 => tame_vfReset ‹_›) ‹_›
  try clear_value x0
  exact goes_next (tame_mk ‹_›)
theorem tame_releaseMsix {s : State} {t a1 fn} (ht' : Tame s t) : Tame s (releaseMsix t a1 fn) := by
  unfold releaseMsix
  extract_lets -underBinder -merge +onlyGivenNames x0
  try clear_value x0
  exact tame_ite (P := Tame s) ‹_› (tame_foldl (fun u1 y2 h3 => tame_emit ‹_›) (tame_withPcie ‹_›))
theorem tame_setVfs {s : State} {t a1 n} (ht' : Tame s t) : Tame s (setVfs t a1 n) := by
  unfold setVfs
  extract_lets -underBinder -merge +onlyGivenNames x0
  have h1 : Tame s x0 := tame_withPcie ‹_›
  try clear_value x0
  exact tame_mk ‹_›
theorem tame_cfgWrite {s : State} {t a1 fn w} (ht' : Tame s t) : Tame s (cfgWrite t a1 fn w) := by
  unfold cfgWrite
  split
  · exact tame_setBme ‹_›
  · exact tame_ite (P := Tame s) (tame_setVfs ‹_›) ‹_›
  · exact tame_releaseMsix (tame_withPcie ‹_›)
  · refine tame_ite (P := Tame s) ‹_› ?_
    extract_lets -underBinder -merge +onlyGivenNames x0
    try clear_value x0
    exact tame_releaseMsix (tame_withPcie ‹_›)
  · extract_lets -underBinder -merge +onlyGivenNames x1
    have h2 : Tame s x1 := tame_withPcie ‹_›
    try clear_value x1
    exact tame_repeatBacks ‹_› (tame_portReturned ‹_›)
  · exact tame_withPcie ‹_›
  · exact tame_withPcie ‹_›
  · exact tame_withPcie ‹_›
  · exact tame_withPcie ‹_›
theorem goes_execConfigRequest {s : State} {a0 fn w t} (ht' : Tame s t) : Goes s (execConfigRequest a0 fn w t) := by
  unfold execConfigRequest
  exact tame_ite (P := Goes s) (goes_next ‹_›) (tame_ite (P := Goes s) (goes_next (tame_ite (P := Tame s) (tame_emit ‹_›) ‹_›))
      (tame_ite (P := Goes s) (goes_next ‹_›) (tame_ite (P := Goes s) (goes_next ‹_›) (goes_next (tame_emit (tame_getD
      (tameO_map (fun u0 => tame_cfgWrite ‹_›)) ‹_›))))))

/-! ## Power -/

theorem tame_strapped {s : State} {t} (ht' : Tame s t) : Tame s (strapped t) := by
  unfold strapped
  extract_lets -underBinder -merge +onlyGivenNames x0
  try clear_value x0
  extract_lets -underBinder -merge +onlyGivenNames x1
  have h2 : Tame s x1 := tame_wr (tame_wr ‹_›)
  try clear_value x1
  exact tame_setF (tame_setF ‹_›)
theorem tame_refEvent {s : State} {t} (ht' : Tame s t) : Tame s (refEvent t) := by
  unfold refEvent
  exact tame_ite (P := Tame s) (tame_setF ‹_›) ‹_›
theorem tame_restart {s : State} {t p} (h : Tame s t) : Tame s (restart t p) :=
  tame_refEvent (tame_strapped ⟨h.1, h.2.1, h.2.2.1, fun hm => memWf_filter _ (h.2.2.2 hm)⟩)
theorem tame_moduleReset {s : State} {t} (ht' : Tame s t) : Tame s (moduleReset t) := by
  unfold moduleReset
  exact tame_restart ‹_›
theorem tame_shutdown {s : State} {t cause latched} (ht' : Tame s t) : Tame s (shutdown t cause latched) := by
  unfold shutdown
  exact tame_ite (P := Tame s) (tame_restart ‹_›) (tame_ite (P := Tame s) (tame_strapped (tame_mk ‹_›)) ‹_›)
theorem goes_execPowerStart {s : State} {p t} (ht' : Tame s t) : Goes s (execPowerStart p t) := by
  unfold execPowerStart
  exact tame_ite (P := Goes s) (goes_next (tame_restart ‹_›)) (goes_next ‹_›)
theorem goes_execRailGoodTimeout {s : State} {_rail t} (ht' : Tame s t) : Goes s (execRailGoodTimeout _rail t) := by
  unfold execRailGoodTimeout
  exact tame_ite (P := Goes s) (goes_next (tame_shutdown ‹_›)) (goes_next ‹_›)
theorem goes_execModEnLow {s : State} {t} (ht' : Tame s t) : Goes s (execModEnLow t) := by
  unfold execModEnLow
  exact goes_next (tame_shutdown ‹_›)
theorem goes_execInputLow {s : State} {t} (ht' : Tame s t) : Goes s (execInputLow t) := by
  unfold execInputLow
  exact goes_next (tame_shutdown ‹_›)
theorem goes_execInputHigh {s : State} {t} (ht' : Tame s t) : Goes s (execInputHigh t) := by
  unfold execInputHigh
  exact goes_next (tame_shutdown ‹_›)
theorem goes_execThermal {s : State} {t} (ht' : Tame s t) : Goes s (execThermal t) := by
  unfold execThermal
  exact goes_next (tame_shutdown ‹_›)
theorem goes_execConverter {s : State} {t} (ht' : Tame s t) : Goes s (execConverter t) := by
  unfold execConverter
  exact goes_next (tame_shutdown ‹_›)
theorem goes_execLatchRelease {s : State} {t} (ht' : Tame s t) : Goes s (execLatchRelease t) := by
  unfold execLatchRelease
  exact tame_ite (P := Goes s) (goes_next (tame_mk ‹_›)) (goes_next ‹_›)
theorem goes_execVinBelow40 {s : State} {t} (ht' : Tame s t) : Goes s (execVinBelow40 t) := by
  unfold execVinBelow40
  exact goes_next (tame_restart ‹_›)
theorem goes_execVinAbove40 {s : State} {t} (ht' : Tame s t) : Goes s (execVinAbove40 t) := by
  unfold execVinAbove40
  exact tame_ite (P := Goes s) (goes_next (tame_strapped (tame_mk ‹_›))) (goes_next ‹_›)
theorem tame_powerEvent {s : State} {t f} (ht' : Tame s t) : Tame s (powerEvent t f) := by
  unfold powerEvent
  exact tame_ite (P := Tame s) ‹_› (tame_pfMsix (tame_setF ‹_›))
theorem goes_execVinBelow56 {s : State} {t} (ht' : Tame s t) : Goes s (execVinBelow56 t) := by
  unfold execVinBelow56
  exact tame_ite (P := Goes s) (goes_next (tame_powerEvent ‹_›)) (goes_next ‹_›)
theorem goes_execVinBelow54 {s : State} {t} (ht' : Tame s t) : Goes s (execVinBelow54 t) := by
  unfold execVinBelow54
  exact goes_next (tame_mk ‹_›)
theorem tame_driveTherm {s : State} {t hot} (ht' : Tame s t) : Tame s (driveTherm t hot) := by
  unfold driveTherm
  exact tame_mk ‹_›
theorem goes_execThermWarnN {s : State} {hot t} (ht' : Tame s t) : Goes s (execThermWarnN hot t) := by
  unfold execThermWarnN
  exact tame_ite (P := Goes s) (goes_next ‹_›) (goes_next (tame_driveTherm ‹_›))
theorem tame_putPresent {s : State} {t d} (ht' : Tame s t) : Tame s (putPresent t d) := by
  unfold putPresent
  exact tame_wr ‹_›
theorem tame_setLimit {s : State} {t d v} (ht' : Tame s t) : Tame s (setLimit t d v) := by
  unfold setLimit
  exact tame_putPresent (tame_mk ‹_›)
theorem tame_loopDie {s : State} {t d watts tj} (ht' : Tame s t) : Tame s (loopDie t d watts tj) := by
  unfold loopDie
  refine tame_ite (P := Tame s) ?_ (tame_ite (P := Tame s) (tame_setLimit ‹_›) ‹_›)
  extract_lets -underBinder -merge +onlyGivenNames x0
  try clear_value x0
  extract_lets -underBinder -merge +onlyGivenNames x1
  have h2 : Tame s x1 := tame_setLimit ‹_›
  try clear_value x1
  extract_lets -underBinder -merge +onlyGivenNames x3
  have h4 : Tame s x3 := tame_ite (P := Tame s) (tame_powerEvent ‹_›) ‹_›
  try clear_value x3
  exact tame_ite (P := Tame s) (tame_powerEvent ‹_›) ‹_›
theorem goes_execPowerLoop {s : State} {watts tjA tjB t} (ht' : Tame s t) : Goes s (execPowerLoop watts tjA tjB t) := by
  unfold execPowerLoop
  refine tame_ite (P := Goes s) (goes_next ‹_›) ?_
  extract_lets -underBinder -merge +onlyGivenNames x0
  have h1 : Tame s x0 := tame_setF ‹_›
  try clear_value x0
  extract_lets -underBinder -merge +onlyGivenNames x2
  have h3 : Tame s x2 := tame_setF (tame_setF ‹_›)
  try clear_value x2
  extract_lets -underBinder -merge +onlyGivenNames x4
  have h5 : Tame s x4 := tame_driveTherm ‹_›
  try clear_value x4
  extract_lets -underBinder -merge +onlyGivenNames x6
  have h7 : Tame s x6 := tame_loopDie (tame_loopDie ‹_›)
  try clear_value x6
  exact goes_next (tame_mk ‹_›)
theorem goes_execPowerFastStep {s : State} {watts t} (ht' : Tame s t) : Goes s (execPowerFastStep watts t) := by
  unfold execPowerFastStep
  refine tame_ite (P := Goes s) (goes_next ‹_›) ?_
  extract_lets -underBinder -merge +onlyGivenNames x0
  have h1 : Tame s x0 := tame_setF ‹_›
  try clear_value x0
  extract_lets -underBinder -merge +onlyGivenNames x2
  have h3 : ∀ u4 u5, Tame s u4 → Tame s (x2 u4 u5) := by
    intro u4 u5 g6
    unfold x2
    exact tame_setLimit ‹_›
  try clear_value x2
  extract_lets -underBinder -merge +onlyGivenNames x7
  have h8 : Tame s x7 := tame_bump (tame_powerEvent (h3 _ _ (h3 _ _ ‹_›)))
  try clear_value x7
  exact goes_next (tame_mk ‹_›)
theorem tame_capWrite {s : State} {t v} (ht' : Tame s t) : Tame s (capWrite t v) := by
  unfold capWrite
  exact tame_setF ‹_›
theorem goes_execPowerCapWrite {s : State} {r v t} (ht' : Tame s t) : Goes s (execPowerCapWrite r v t) := by
  unfold execPowerCapWrite
  exact goes_access ‹_› (fun u0 h1 => tame_capWrite ‹_›)
theorem tame_targetWrite {s : State} {t d v} (ht' : Tame s t) : Tame s (targetWrite t d v) := by
  unfold targetWrite
  extract_lets -underBinder -merge +onlyGivenNames x0
  try clear_value x0
  exact tame_putPresent (tame_wr ‹_›)
theorem goes_execVcoreTargetWrite {s : State} {r d v t} (ht' : Tame s t) : Goes s (execVcoreTargetWrite r d v t) := by
  unfold execVcoreTargetWrite
  exact goes_access ‹_› (fun u0 h1 => tame_targetWrite ‹_›)
/-- A write of the replay-protected area that lowers no floor and takes no revocation back. -/
theorem tame_areaWrite {s t : State} {r : Rpa} (hf : t.rpa.floor ≤ r.floor)
    (hr : ∀ k, k < 4 → t.rpa.revoked.testBit k = true → r.revoked.testBit k = true) (h : Tame s t) : Tame s (writeRpa t r) := by
  unfold writeRpa
  exact tame_ite (P := Tame s) h (tame_emit ⟨h.1, Nat.le_trans h.2.1 hf, fun k hk hs => hr k hk (h.2.2.1 k hk hs), h.2.2.2⟩)
/-- One that keeps both. -/
theorem tame_writeRpa {s t : State} {r : Rpa} (h : Tame s t) (hf : r.floor = t.rpa.floor := by rfl)
    (hr : r.revoked = t.rpa.revoked := by rfl) : Tame s (writeRpa t r) :=
  tame_areaWrite (Nat.le_of_eq hf.symm) (fun _ _ g => hr ▸ g) h
theorem tame_endSession {s : State} {t m} (h : Tame s t) : Tame s (endSession t m) := by
  unfold endSession
  extract_lets -underBinder -merge +onlyGivenNames o r u
  have hu : Tame s u := tame_mk h
  clear_value u
  exact tame_ite (P := Tame s) hu (tame_setF (tame_writeRpa hu))
theorem goes_execRefLost {s : State} {t} (ht' : Tame s t) : Goes s (execRefLost t) := by
  unfold execRefLost
  refine tame_ite (P := Goes s) (goes_next ‹_›) ?_
  extract_lets -underBinder -merge +onlyGivenNames x0
  try clear_value x0
  extract_lets -underBinder -merge +onlyGivenNames x1
  have h2 : Tame s x1 := tame_mk ‹_›
  try clear_value x1
  extract_lets -underBinder -merge +onlyGivenNames x3
  have h4 : Tame s x3 := tame_foldl (fun u5 y6 h7 => tame_ite (P := Tame s) ‹_› (tame_portDown ‹_›)) ‹_›
  try clear_value x3
  extract_lets -underBinder -merge +onlyGivenNames x8
  have h9 : Tame s x8 := tame_foldl (fun u10 y11 h12 => tame_ite (P := Tame s) ‹_› (tame_accDown ‹_›)) ‹_›
  try clear_value x8
  extract_lets -underBinder -merge +onlyGivenNames x13
  have h14 : Tame s x13 := tame_foldl (fun u15 y16 h17 => tame_endSession ‹_›) ‹_›
  try clear_value x13
  exact goes_next (tame_powerEvent ‹_›)
theorem goes_execRefRestored {s : State} {t} (ht' : Tame s t) : Goes s (execRefRestored t) := by
  unfold execRefRestored
  refine tame_ite (P := Goes s) (goes_next ‹_›) ?_
  extract_lets -underBinder -merge +onlyGivenNames x0
  try clear_value x0
  extract_lets -underBinder -merge +onlyGivenNames x1
  have h2 : Tame s x1 := tame_mk ‹_›
  try clear_value x1
  extract_lets -underBinder -merge +onlyGivenNames x3
  have h4 : Tame s x3 := tame_foldl (fun u5 y6 h7 => tame_ite (P := Tame s) (tame_startPort ‹_›) ‹_›) ‹_›
  try clear_value x3
  exact goes_next (tame_foldl (fun u8 y9 h10 => tame_ite (P := Tame s) (tame_startAcc ‹_›) ‹_›) ‹_›)

/-! ## Trust -/

theorem countTrial_keeps (r : Rpa) : (countTrial r).floor = r.floor ∧ (countTrial r).revoked = r.revoked := by
  unfold countTrial
  split
  · exact ⟨rfl, rfl⟩
  · split
    · exact ⟨rfl, rfl⟩
    · exact ⟨rfl, rfl⟩
theorem tameP_chooseSlot {s : State} {t} (h : Tame s t) : TameP s (chooseSlot t) := by
  obtain ⟨hf, hr⟩ := countTrial_keeps t.rpa
  unfold chooseSlot
  exact tame_ite (P := TameP s) (tame_writeRpa h hf hr) (tame_ite (P := TameP s) (tame_writeRpa (t := t) h hf hr) (tame_writeRpa h hf hr))
theorem tame_trustState {s : State} {t st cause} (ht' : Tame s t) : Tame s (trustState t st cause) := by
  unfold trustState
  extract_lets -underBinder -merge +onlyGivenNames x0
  try clear_value x0
  extract_lets -underBinder -merge +onlyGivenNames x1
  have h2 : Tame s x1 := tame_setF (tame_setF ‹_›)
  try clear_value x1
  exact tame_ite (P := Tame s) ‹_› (tame_pfMsix ‹_›)
theorem tame_showRpa {s : State} {t} (ht' : Tame s t) : Tame s (showRpa t) := by
  unfold showRpa
  extract_lets -underBinder -merge +onlyGivenNames x0
  have h1 : Tame s x0 := tame_setF ‹_›
  try clear_value x0
  extract_lets -underBinder -merge +onlyGivenNames x2
  have h3 : Tame s x2 := tame_setF ‹_›
  try clear_value x2
  exact tame_wr ‹_›
theorem tame_bootFail {s : State} {t cause} (ht' : Tame s t) : Tame s (bootFail t cause) := by
  unfold bootFail
  exact tame_trustState ‹_›
theorem tame_bootReady {s : State} {t k} (ht' : Tame s t) : Tame s (bootReady t k) := by
  unfold bootReady
  extract_lets -underBinder -merge +onlyGivenNames x0 x1
  try clear_value x0 x1
  extract_lets -underBinder -merge +onlyGivenNames x2
  have h3 : Tame s x2 := tame_mk ‹_›
  try clear_value x2
  extract_lets -underBinder -merge +onlyGivenNames x4
  have h5 : Tame s x4 := tame_setF (tame_wr (tame_wr ‹_›))
  try clear_value x4
  extract_lets -underBinder -merge +onlyGivenNames x6
  have h7 : Tame s x6 := tame_trustState ‹_›
  try clear_value x6
  extract_lets -underBinder -merge +onlyGivenNames x8
  have h9 : Tame s x8 := tame_setF ‹_›
  try clear_value x8
  exact tame_foldl (fun u10 y11 h12 => tame_startPort (tame_setF ‹_›)) ‹_›
theorem tame_bootStage1 {s : State} {t b k} (ht' : Tame s t) : Tame s (bootStage1 t b k) := by
  unfold bootStage1
  exact tame_ite (P := Tame s) (tame_bootFail ‹_›) (tame_ite (P := Tame s) (tame_bootFail ‹_›) (tame_bootReady ‹_›))
theorem tame_bootSlot {s : State} {t b} (ht' : Tame s t) : Tame s (bootSlot t b) := by
  unfold bootSlot
  refine tame_ite (P := Tame s) (tame_trustState ‹_›) ?_
  split
  · have h0 := tame_of_eq (P := TameP s) ‹_ = _› (tameP_chooseSlot ‹_›)
    exact tame_bootStage1 (tame_showRpa ‹_›)
  · have h1 := tame_of_eq (P := TameP s) ‹_ = _› (tameP_chooseSlot ‹_›)
    exact tame_trustState (tame_showRpa ‹_›)
theorem tame_dieSpeed {s : State} {t d v} (ht' : Tame s t) : Tame s (dieSpeed t d v) := by
  unfold dieSpeed
  extract_lets -underBinder -merge +onlyGivenNames x0
  try clear_value x0
  exact tame_putPresent (tame_wr ‹_›)
theorem tame_takeRecord {s : State} {t r b} (ht' : Tame s t) : Tame s (takeRecord t r b) := by
  unfold takeRecord
  exact tame_dieSpeed (tame_dieSpeed (tame_mk ‹_›))
theorem tame_bootRun {s : State} {t b} (h : Tame s t) : Tame s (bootRun t b) := by
  unfold bootRun
  refine tame_ite (P := Tame s) (tame_bootFail h) (tame_ite (P := Tame s) (tame_bootFail h) ?_)
  extract_lets -underBinder -merge +onlyGivenNames a u r v
  have hu : Tame s u := tame_mk h
  have hv : Tame s v := tame_showRpa (tame_writeRpa hu)
  clear_value v
  split
  · exact tame_bootFail hv
  · extract_lets -underBinder -merge +onlyGivenNames w
    have hw : Tame s w := tame_takeRecord hv
    clear_value w
    split
    · exact tame_bootFail hw
    · exact tame_bootSlot (tame_mk hw)
theorem goes_execResetRelease {s : State} {b t} (ht' : Tame s t) : Goes s (execResetRelease b t) := by
  unfold execResetRelease
  exact tame_ite (P := Goes s) (goes_next ‹_›) (goes_next (tame_bootRun (tame_mk ‹_›)))
theorem goes_execTrialTimeout {s : State} {t} (ht' : Tame s t) : Goes s (execTrialTimeout t) := by
  unfold execTrialTimeout
  exact tame_ite (P := Goes s) (goes_next (tame_moduleReset ‹_›)) (goes_next ‹_›)
theorem tame_confirmImage {s : State} {t} (h : Tame s t) : Tame s (confirmImage t) := by
  unfold confirmImage
  refine tame_ite (P := Tame s) h ?_
  extract_lets hd own more
  refine tame_showRpa (tame_areaWrite (Nat.le_max_left _ _) (fun k hk hb => ?_) h)
  have key : ∀ a b c d : Bool, ∀ k, k < 4 → [a, b, c, d][k]? = some true →
      ([if a then 2 ^ 0 else 0, if b then 2 ^ 1 else 0, if c then 2 ^ 2 else 0, if d then 2 ^ 3 else 0].foldl (· + ·) 0).testBit k = true := by
    decide
  refine key _ _ _ _ k hk ?_
  rcases k with _ | _ | _ | _ | k
  · simp [bit, hb]
  · simp [bit, hb]
  · simp [bit, hb]
  · simp [bit, hb]
  · omega
theorem tame_trustCtrlWrite {s : State} {t v} (ht' : Tame s t) : Tame s (trustCtrlWrite t v) := by
  unfold trustCtrlWrite
  extract_lets -underBinder -merge +onlyGivenNames x0
  have h1 : Tame s x0 := tame_ite (P := Tame s) (tame_confirmImage ‹_›) ‹_›
  try clear_value x0
  exact tame_ite (P := Tame s) (tame_moduleReset ‹_›) ‹_›
theorem goes_execConfirm {s : State} {r v t} (ht' : Tame s t) : Goes s (execConfirm r v t) := by
  unfold execConfirm
  exact goes_access ‹_› (fun u0 h1 => tame_trustCtrlWrite ‹_›)
theorem goes_execModuleReset {s : State} {r v t} (ht' : Tame s t) : Goes s (execModuleReset r v t) := by
  unfold execModuleReset
  exact goes_access ‹_› (fun u0 h1 => tame_trustCtrlWrite ‹_›)
theorem tame_flash {s t : State} (a : Nat) (bs : List Byte) (h : Tame s t) : Tame s { t with mem := cellsPut t.mem a bs } :=
  ⟨h.1, h.2.1, h.2.2.1, fun hm => memWf_cellsPut a bs (h.2.2.2 hm)⟩
theorem tame_eraseHeader {s : State} {t k} (h : Tame s t) : Tame s (eraseHeader t k) := tame_flash _ _ h
theorem tameP_writeImage {s : State} {t bs f} (h : Tame s t) : TameP s (writeImage t bs f) := by
  have g : Tame s { t with mem := cellsPut t.mem (flashBase + slotBase (updateSlot t)) bs } := tame_flash _ _ h
  unfold writeImage
  refine tame_ite (P := TameP s) h (tame_ite (P := TameP s) h (tame_ite (P := TameP s) g (tame_ite (P := TameP s) g (tame_ite (P := TameP s) g ?_))))
  exact tame_showRpa (tame_writeRpa g)
theorem tameP_hostRead {s : State} {t a n} (ht' : Tame s t) : TameP s (hostRead t a n) := by
  unfold hostRead
  refine tame_ite (P := TameP s) (tameP_mk ‹_›) ?_
  split
  · have h0 := tame_of_eq (P := TameP s) ‹_ = _› (tameP_memRead ‹_›)
    exact tameP_mk ‹_›
  · have h1 := tame_of_eq (P := TameP s) ‹_ = _› (tameP_memRead ‹_›)
    exact tameP_mk ‹_›
theorem tame_updateGo {s : State} {t v} (ht' : Tame s t) : Tame s (updateGo t v) := by
  unfold updateGo
  extract_lets -underBinder -merge +onlyGivenNames x0
  try clear_value x0
  refine tame_ite (P := Tame s) ‹_› ?_
  extract_lets -underBinder -merge +onlyGivenNames x1
  have h2 : Tame s x1 := tame_ite (P := Tame s) ‹_› (tame_eraseHeader ‹_›)
  try clear_value x1
  exact tame_setF (tame_setF ‹_›)
theorem goes_execTrustUpdateGo {s : State} {r v t} (ht' : Tame s t) : Goes s (execTrustUpdateGo r v t) := by
  unfold execTrustUpdateGo
  exact goes_access ‹_› (fun u0 h1 => tame_updateGo ‹_›)
theorem tame_updateEnd {s : State} {t res} (ht' : Tame s t) : Tame s (updateEnd t res) := by
  unfold updateEnd
  extract_lets -underBinder -merge +onlyGivenNames x0
  have h1 : Tame s x0 := tame_pfMsix (tame_setF (tame_setF ‹_›))
  try clear_value x0
  exact tame_ite (P := Tame s) (tame_moduleReset ‹_›) ‹_›
theorem goes_execImageUpdateDone {s : State} {hostOk flashOk t} (ht' : Tame s t) : Goes s (execImageUpdateDone hostOk flashOk t)
    := by
  unfold execImageUpdateDone
  refine tame_ite (P := Goes s) (goes_next ‹_›) ?_
  extract_lets -underBinder -merge +onlyGivenNames x0
  try clear_value x0
  refine tame_ite (P := Goes s) (goes_next (tame_updateEnd ‹_›)) ?_
  extract_lets -underBinder -merge +onlyGivenNames x1
  try clear_value x1
  split
  · have h2 := tame_of_eq (P := TameP s) ‹_ = _› (tame_ite (P := TameP s) (tameP_hostRead ‹_›) (tameP_mk ‹_›))
    exact goes_next (tame_updateEnd ‹_›)
  · have h3 := tame_of_eq (P := TameP s) ‹_ = _› (tame_ite (P := TameP s) (tameP_hostRead ‹_›) (tameP_mk ‹_›))
    extract_lets -underBinder -merge +onlyGivenNames x4
    have h5 : TameP s x4 := tameP_writeImage ‹_›
    try clear_value x4
    exact goes_next (tame_updateEnd (tame_fst ‹_›))
theorem tame_askSign {s : State} {t w nonce} (ht' : Tame s t) : Tame s (askSign t w nonce) := by
  unfold askSign
  exact tame_mk ‹_›
theorem tame_attestEnd {s : State} {t} (ht' : Tame s t) : Tame s (attestEnd t) := by
  unfold attestEnd
  exact tame_pfMsix (tame_setF ‹_›)
theorem tame_attestGo {s : State} {t v} (ht' : Tame s t) : Tame s (attestGo t v) := by
  unfold attestGo
  refine tame_ite (P := Tame s) ‹_› ?_
  extract_lets -underBinder -merge +onlyGivenNames x0
  try clear_value x0
  split
  · have h1 := tame_of_eq (P := TameP s) ‹_ = _› (tameP_hostRead ‹_›)
    exact tame_attestEnd ‹_›
  · have h2 := tame_of_eq (P := TameP s) ‹_ = _› (tameP_hostRead ‹_›)
    exact tame_ite (P := Tame s) (tame_askSign (tame_setF ‹_›)) (tame_attestEnd ‹_›)
theorem goes_execTrustAttestGo {s : State} {r v t} (ht' : Tame s t) : Goes s (execTrustAttestGo r v t) := by
  unfold execTrustAttestGo
  exact goes_access ‹_› (fun u0 h1 => tame_attestGo ‹_›)
theorem tame_flushReplies {s : State} {n t m} (h : Tame s t) : Tame s (flushReplies n t m) := by
  induction n generalizing t with
  | zero => exact h
  | succ n ih =>
    unfold flushReplies
    split
    · exact ih (tame_mk (tame_emit h))
    · exact h
theorem tame_reply {s : State} {t m kind body} (ht' : Tame s t) : Tame s (reply t m kind body) := by
  unfold reply
  extract_lets -underBinder -merge +onlyGivenNames x0
  have h1 : Tame s x0 := tame_mk ‹_›
  try clear_value x0
  exact tame_flushReplies ‹_›
theorem tame_reportReply {s : State} {t m bs} (ht' : Tame s t) : Tame s (reportReply t m bs) := by
  unfold reportReply
  extract_lets -underBinder -merge +onlyGivenNames x0
  have h1 : Tame s x0 := tame_mk ‹_›
  try clear_value x0
  exact tame_flushReplies ‹_›
theorem tame_sendMgmt {s : State} {t p req tag bs} (ht' : Tame s t) : Tame s (sendMgmt t p req tag bs) := by
  unfold sendMgmt
  extract_lets -underBinder -merge +onlyGivenNames x0
  try clear_value x0
  refine tame_foldl (fun u1 y2 h3 => ?_) ‹_›
  extract_lets -underBinder -merge +onlyGivenNames x4
  try clear_value x4
  exact tame_ite (P := Tame s) (tame_injectAt ‹_›) (tame_sendTo ‹_›)
theorem tame_deliverReport {s : State} {t w bs} (ht' : Tame s t) : Tame s (deliverReport t w bs) := by
  unfold deliverReport
  split
  · exact tame_attestEnd (tame_fst (tameP_memWrite ‹_›))
  · exact tame_sendMgmt (tame_mk ‹_›)
  · exact tame_reportReply ‹_›
theorem tame_signNext {s : State} {t} (ht' : Tame s t) : Tame s (signNext t) := by
  unfold signNext
  split
  · assumption
  · exact tame_deliverReport (tame_mk ‹_›)
theorem tame_signAll {s : State} {t} (ht' : Tame s t) : Tame s (signAll t) := by
  unfold signAll
  exact tame_foldl (fun u0 y1 h2 => tame_signNext ‹_›) ‹_›
theorem goes_execAttestationComplete {s : State} {t} (ht' : Tame s t) : Goes s (execAttestationComplete t) := by
  unfold execAttestationComplete
  exact goes_next (tame_signNext ‹_›)
theorem tame_ownerWrite {s : State} {t r v} (ht' : Tame s t) : Tame s (ownerWrite t r v) := by
  unfold ownerWrite
  extract_lets -underBinder -merge +onlyGivenNames x0
  try clear_value x0
  extract_lets -underBinder -merge +onlyGivenNames x1
  have h2 : Tame s x1 := tame_setF ‹_›
  try clear_value x1
  extract_lets -underBinder -merge +onlyGivenNames x3
  try clear_value x3
  refine tame_ite (P := Tame s) ‹_› ?_
  split
  · have h4 := tame_of_eq (P := TameP s) ‹_ = _› (tameP_hostRead ‹_›)
    assumption
  · have h5 := tame_of_eq (P := TameP s) ‹_ = _› (tameP_hostRead ‹_›)
    exact tame_showRpa (tame_writeRpa ‹_›)
theorem goes_execTrustOwnerSet {s : State} {r v t} (ht' : Tame s t) : Goes s (execTrustOwnerSet r v t) := by
  unfold execTrustOwnerSet
  exact goes_access ‹_› (fun u0 h1 => tame_ownerWrite ‹_›)

/-! ## Readmit -/

theorem tame_sendChallenge {s : State} {t p e} (ht' : Tame s t) : Tame s (sendChallenge t p e) := by
  unfold sendChallenge
  exact tame_sendMgmt ‹_›
theorem tame_startExchange {s : State} {t p} (ht' : Tame s t) : Tame s (startExchange t p) := by
  unfold startExchange
  extract_lets -underBinder -merge +onlyGivenNames x0
  try clear_value x0
  exact tame_sendChallenge (tame_withBeacon (tame_mk ‹_›))
theorem tame_failExchange {s : State} {t p} (ht' : Tame s t) : Tame s (failExchange t p) := by
  unfold failExchange
  exact tame_bump (tame_withBeacon ‹_›)
theorem tame_maybeExchange {s : State} {t p} (ht' : Tame s t) : Tame s (maybeExchange t p) := by
  unfold maybeExchange
  extract_lets -underBinder -merge +onlyGivenNames x0
  try clear_value x0
  exact tame_ite (P := Tame s) (tame_startExchange ‹_›) ‹_›
theorem tame_takeBeacon {s : State} {t p b} (ht' : Tame s t) : Tame s (takeBeacon t p b) := by
  unfold takeBeacon
  extract_lets -underBinder -merge +onlyGivenNames x0
  have h1 : Tame s x0 := tame_withBeacon ‹_›
  try clear_value x0
  extract_lets -underBinder -merge +onlyGivenNames x2
  have h3 : Tame s x2 := tame_setF ‹_›
  try clear_value x2
  extract_lets -underBinder -merge +onlyGivenNames x4
  have h5 : Tame s x4 := tame_foldl (fun u6 y7 h8 => tame_adopt ‹_›) ‹_›
  try clear_value x4
  extract_lets -underBinder -merge +onlyGivenNames x9
  have h10 : Tame s x9 := tame_checkCays ‹_›
  try clear_value x9
  exact tame_ite (P := Tame s) (tame_maybeExchange (tame_countReadmit ‹_›)) ‹_›
theorem goes_execBeaconCell {s : State} {p x t} (ht' : Tame s t) : Goes s (execBeaconCell p x t) := by
  unfold execBeaconCell
  exact tame_ite (P := Goes s) (goes_receive ‹_› (fun u0 h1 => tameO_some (tame_takeBeacon ‹_›))) (goes_next ‹_›)
theorem tame_takeMgmt {s : State} {t p x} (ht' : Tame s t) : Tame s (takeMgmt t p x) := by
  unfold takeMgmt
  refine tame_ite (P := Tame s) (tame_bump ‹_›) ?_
  extract_lets -underBinder -merge +onlyGivenNames x0 x1
  try clear_value x0 x1
  exact tame_mk ‹_›
theorem goes_execMgmtCell {s : State} {p x t} (ht' : Tame s t) : Goes s (execMgmtCell p x t) := by
  unfold execMgmtCell
  exact tame_ite (P := Goes s) (goes_receive ‹_› (fun u0 h1 => tameO_some (tame_takeMgmt ‹_›))) (goes_next ‹_›)
theorem goes_execMgmtAssemblyTimeout {s : State} {src tag t} (ht' : Tame s t) : Goes s (execMgmtAssemblyTimeout src tag t) := by
  unfold execMgmtAssemblyTimeout
  exact goes_next (tame_mk ‹_›)
theorem tame_answerChallenge {s : State} {t a} (ht' : Tame s t) : Tame s (answerChallenge t a) := by
  unfold answerChallenge
  extract_lets -underBinder -merge +onlyGivenNames x0 x1
  try clear_value x0 x1
  extract_lets -underBinder -merge +onlyGivenNames x2
  have h3 : Tame s x2 := by
    unfold x2
    split
    · exact tame_sendMgmt ‹_›
    · extract_lets -underBinder -merge +onlyGivenNames x4
      try clear_value x4
      exact tame_ite (P := Tame s) ‹_› (tame_askSign ‹_›)
  try clear_value x2
  exact tame_ite (P := Tame s) (tame_startExchange ‹_›) ‹_›
theorem goes_execChallenge {s : State} {p src tag t} (ht' : Tame s t) : Goes s (execChallenge p src tag t) := by
  unfold execChallenge
  split
  · exact goes_next ‹_›
  · exact goes_next (tame_answerChallenge (tame_mk ‹_›))
theorem tame_clearFence {s : State} {t p} (ht' : Tame s t) : Tame s (clearFence t p) := by
  unfold clearFence
  exact tame_ite (P := Tame s) (tame_originate ‹_›) (tame_ite (P := Tame s) (tame_originate ‹_›) ‹_›)
theorem tame_takeIdentity {s : State} {t p tag b} (ht' : Tame s t) : Tame s (takeIdentity t p tag b) := by
  unfold takeIdentity
  split
  · assumption
  · exact tame_ite (P := Tame s) ‹_› (tame_ite (P := Tame s) (tame_clearFence (tame_withBeacon ‹_›)) (tame_failExchange ‹_›))
theorem goes_execIdentity {s : State} {p src tag t} (ht' : Tame s t) : Goes s (execIdentity p src tag t) := by
  unfold execIdentity
  split
  · exact goes_next ‹_›
  · extract_lets -underBinder -merge +onlyGivenNames x0
    have h1 : Tame s x0 := tame_mk ‹_›
    try clear_value x0
    exact goes_next (tame_ite (P := Tame s) (tame_takeIdentity ‹_›) ‹_›)
theorem goes_execChallengeResend {s : State} {p t} (ht' : Tame s t) : Goes s (execChallengeResend p t) := by
  unfold execChallengeResend
  split
  · exact goes_next ‹_›
  · refine tame_ite (P := Goes s) (goes_next ‹_›) ?_
    extract_lets -underBinder -merge +onlyGivenNames x0
    have h1 : Tame s x0 := tame_withBeacon ‹_›
    try clear_value x0
    exact goes_next (tame_sendChallenge ‹_›)
theorem goes_execReadmitTimeout {s : State} {p t} (ht' : Tame s t) : Goes s (execReadmitTimeout p t) := by
  unfold execReadmitTimeout
  split
  · exact goes_next ‹_›
  · exact tame_ite (P := Goes s) (goes_next (tame_failExchange ‹_›)) (goes_next ‹_›)

/-! ## Scrub -/

theorem tame_memErrLog {s : State} {t space found a} (ht' : Tame s t) : Tame s (memErrLog t space found a) := by
  unfold memErrLog
  refine tame_ite (P := Tame s) ‹_› ?_
  extract_lets -underBinder -merge +onlyGivenNames x0
  have h1 : Tame s x0 := tame_setF (tame_setF (tame_setF ‹_›))
  try clear_value x0
  exact tame_wr64 ‹_›
theorem tame_poisonBlock {s : State} {t space found a count} (ht' : Tame s t) (hcount' : ∀ u0, Tame s u0 → Tame s (count u0)) :
    Tame s (poisonBlock t space found a count) := by
  unfold poisonBlock
  exact tame_ite (P := Tame s) ‹_› (tame_memErrLog (hcount' _ (tame_mk ‹_›)))
theorem tame_scrubLagoon {s : State} {t found block f} (ht' : Tame s t) : Tame s (scrubLagoon t found block f) := by
  unfold scrubLagoon
  extract_lets -underBinder -merge +onlyGivenNames x0 x1
  try clear_value x0 x1
  refine tame_ite (P := Tame s) ‹_› ?_
  split
  · assumption
  · exact tame_scoreCay (tame_bump ‹_›)
  · exact tame_poisonBlock ‹_› (fun u2 h3 => tame_scoreCay (tame_bump ‹_›))
theorem tame_scrubHbm {s : State} {t found block f} (ht' : Tame s t) : Tame s (scrubHbm t found block f) := by
  unfold scrubHbm
  extract_lets -underBinder -merge +onlyGivenNames x0 x1
  try clear_value x0 x1
  refine tame_ite (P := Tame s) ‹_› ?_
  split
  · assumption
  · exact tame_scoreModule (tame_bump ‹_›)
  · exact tame_poisonBlock ‹_› (fun u2 h3 => tame_scoreModule (tame_bump ‹_›))
theorem tame_scrubStore {s : State} {t found a f} (ht' : Tame s t) : Tame s (scrubStore t found a f) := by
  unfold scrubStore
  extract_lets -underBinder -merge +onlyGivenNames x0
  try clear_value x0
  refine tame_ite (P := Tame s) ‹_› ?_
  split
  · assumption
  · exact tame_scoreCay ‹_›
  · exact tame_poisonBlock ‹_› (fun u1 h2 => tame_scoreCay ‹_›)
theorem tame_scrubPoolCell {s : State} {t a f} (ht' : Tame s t) : Tame s (scrubPoolCell t a f) := by
  unfold scrubPoolCell
  split
  · assumption
  · exact tame_bump ‹_›
  · extract_lets -underBinder -merge +onlyGivenNames x0
    have h1 : Tame s x0 := tame_bump ‹_›
    try clear_value x0
    extract_lets -underBinder -merge +onlyGivenNames x2
    have h3 : Tame s x2 := tame_mk ‹_›
    try clear_value x2
    exact tame_foldl (fun u4 y5 h6 => tame_dropFerry ‹_›) ‹_›
theorem tame_quarantine {s : State} {t a} (ht' : Tame s t) : Tame s (quarantine t a) := by
  unfold quarantine
  extract_lets -underBinder -merge +onlyGivenNames x0 x1
  try clear_value x0 x1
  refine tame_ite (P := Tame s) ‹_› ?_
  extract_lets -underBinder -merge +onlyGivenNames x2
  have h3 : Tame s x2 := tame_bump ‹_›
  try clear_value x2
  extract_lets -underBinder -merge +onlyGivenNames x4
  have h5 : Tame s x4 := tame_ite (P := Tame s) ‹_› (tame_setF ‹_›)
  try clear_value x4
  extract_lets -underBinder -merge +onlyGivenNames x6
  have h7 : Tame s x6 := tame_mk ‹_›
  try clear_value x6
  extract_lets -underBinder -merge +onlyGivenNames x8
  have h9 : Tame s x8 := tame_bump (tame_setDesc ‹_›)
  try clear_value x8
  exact tame_scoreModule (tame_poolLog ‹_›)
theorem tame_scrubPoolDesc {s : State} {t a f} (ht' : Tame s t) : Tame s (scrubPoolDesc t a f) := by
  unfold scrubPoolDesc
  split
  · assumption
  · exact tame_bump ‹_›
  · exact tame_quarantine ‹_›
theorem tame_hurtBuckets {s : State} {t a} (ht' : Tame s t) : Tame s (hurtBuckets t a) := by
  unfold hurtBuckets
  exact tame_ite (P := Tame s) (tame_mk ‹_›) ‹_›
theorem tame_readError {s : State} {t found a2 bad} (ht' : Tame s t) : Tame s (readError t found a2 bad) := by
  unfold readError
  split
  · exact tame_hurtBuckets (tame_scrubLagoon ‹_›)
  · exact tame_scrubHbm ‹_›
  · exact tame_scrubStore ‹_›
  · exact tame_scrubPoolCell ‹_›
  · exact tame_scrubPoolDesc ‹_›
  · assumption
theorem goes_execPatrolScrub {s : State} {t bad a2} (ha2' : Tame s a2) : Goes s (execPatrolScrub t bad a2) := by
  unfold execPatrolScrub
  exact tame_ite (P := Goes s) (goes_next ‹_›) (goes_next (tame_readError ‹_›))

end Sys2Proof.Machine
end

