-- ==== Sys2Proof/Laws/Tame8.lean ====
section
/-! SUPPORT. `Tame` through the functions of Slots, Bus, Manage, Tick: one lemma per function. -/

namespace Sys2Proof.Machine

set_option linter.unusedVariables false

/-! ## Slots -/

theorem tameO_consume {s : State} {t p x} (ht' : Tame s t) : TameO s (consume t p x) := by
  unfold consume
  extract_lets -underBinder -merge +onlyGivenNames x0
  try clear_value x0
  exact tame_ite (P := TameO s) (tameO_admitArrives ‹_›) (tame_ite (P := TameO s) (tameO_openArrives ‹_›) (tameO_some (tame_ite
      (P := Tame s) (tame_grantAdmitted ‹_›) (tame_ite (P := Tame s) (tame_grantRefused ‹_›) (tame_ite (P := Tame s)
      (tame_grantRelease ‹_›) (tame_ite (P := Tame s) (tame_grantDone ‹_›) (tame_ite (P := Tame s) (tame_grantResend ‹_›)
      (tame_ite (P := Tame s) (tame_cwFromArm ‹_›) (tame_ite (P := Tame s) (tame_armData ‹_›) (tame_ite (P := Tame s)
      (tame_armTrailer ‹_›) (tame_ite (P := Tame s) (tame_ite (P := Tame s) (tame_planTaken ‹_›) (tame_dataTaken ‹_›)) (tame_ite
      (P := Tame s) (tame_permCellTaken ‹_›) (tame_ite (P := Tame s) (tame_takeBeacon ‹_›) (tame_ite (P := Tame s)
      (tame_takeMgmt ‹_›) (tame_ite (P := Tame s) (tame_echoTaken ‹_›) (tame_ite (P := Tame s) (tame_ferryAborted ‹_›) (tame_ite
      (P := Tame s) (tame_ferryAccepted ‹_›) (tame_ite (P := Tame s) (tame_ferryBusied ‹_›) (tame_ite (P := Tame s)
      (tame_ferryWindowed ‹_›) (tame_ite (P := Tame s) (tame_childFinished ‹_›) (tame_ite (P := Tame s) (tame_readyTaken ‹_›)
      (tame_ite (P := Tame s) (tame_completeTaken ‹_›) ‹_›))))))))))))))))))))))
theorem tame_ejectHead {s : State} {t q} (ht' : Tame s t) : Tame s (ejectHead t q) := by
  unfold ejectHead
  split
  · split
    · assumption
    · have h0 := tame_of_eq (P := TameO s) ‹_ = _› (tame_ite (P := TameO s) (tameO_consume ‹_›) tameO_none)
      exact tame_ejectedFrom (tame_mk ‹_›)
  · assumption
theorem tame_ejectHeads {s : State} {t} (ht' : Tame s t) : Tame s (ejectHeads t) := by
  unfold ejectHeads
  exact tame_foldl (fun u0 y1 h2 => tame_ejectHead ‹_›) ‹_›
theorem tame_ejectGo {s : State} {t} (ht' : Tame s t) : Tame s (ejectGo t) := by
  unfold ejectGo
  exact tame_foldl (fun u0 y1 h2 => tame_bridgeGo (tame_ejectHeads ‹_›)) ‹_›
theorem goes_egressSlot {s : State} {e t} (ht' : Tame s t) : Goes s (egressSlot e t) := by
  unfold egressSlot
  exact tame_ite (P := Goes s) (tame_ite (P := Goes s) (goes_next (tame_ejectGo (tame_streamsGo (tame_torusSlot ‹_›))))
      (goes_next ‹_›)) (goes_next (tame_ejectGo (tame_copyGo (tame_streamsGo (tame_accSlot ‹_›)))))
theorem goes_execEgressSlot {s : State} {e t} (ht' : Tame s t) : Goes s (execEgressSlot e t) := by
  unfold execEgressSlot
  exact goes_underUpsets ‹_› (fun u0 h1 => goes_egressSlot ‹_›)

/-! ## Bus -/

theorem tame_writeField {s : State} {off v i j t f} (ht' : Tame s t) : Tame s (writeField off v i j t f) := by
  unfold writeField
  extract_lets -underBinder -merge +onlyGivenNames x0 x1
  try clear_value x0 x1
  split
  · assumption
  · assumption
  · exact tame_setF ‹_›
  · exact tame_setF ‹_›
  · exact tame_setF ‹_›
  · exact tame_wr64 ‹_›
  · exact tame_wr64 ‹_›
  · exact tame_ite (P := Tame s) ‹_› (tame_setF ‹_›)
theorem tame_writeFields {s : State} {t off r i j v} (ht' : Tame s t) : Tame s (writeFields t off r i j v) := by
  unfold writeFields
  exact tame_foldl (fun u0 y1 h2 => tame_writeField ‹_›) ‹_›
theorem tame_rateWrite {s : State} {t v} (ht' : Tame s t) : Tame s (rateWrite t v) := by
  unfold rateWrite
  extract_lets -underBinder -merge +onlyGivenNames x0
  have h1 : Tame s x0 := tame_wr ‹_›
  try clear_value x0
  extract_lets -underBinder -merge +onlyGivenNames x2
  have h3 : Tame s x2 := tame_ite (P := Tame s) (tame_setF ‹_›) ‹_›
  try clear_value x2
  exact tame_ite (P := Tame s) (tame_setF ‹_›) ‹_›
theorem tameO_ownWrite {s : State} {t r b i j v} (ht' : Tame s t) : TameO s (ownWrite t r b i j v) := by
  unfold ownWrite
  exact tame_ite (P := TameO s) (tameO_some (tame_torusDimWrite ‹_›)) (tame_ite (P := TameO s) (tameO_some (tame_coordWrite
      ‹_›)) (tame_ite (P := TameO s) (tameO_some (tame_ctxCloseWrite (tame_ctxOpenWrite ‹_›))) (tame_ite (P := TameO s)
      (tameO_some (tame_writeQueCtrl ‹_›)) (tame_ite (P := TameO s) (tameO_some (tame_doorbell ‹_›)) (tame_ite (P := TameO s)
      (tameO_some (tame_wr ‹_›)) (tame_ite (P := TameO s) (tameO_some (tame_post ‹_›)) (tame_ite (P := TameO s) (tameO_some
      (tame_klWrite ‹_›)) (tame_ite (P := TameO s) (tameO_some (tame_lanePortWrite ‹_›)) (tame_ite (P := TameO s) (tameO_some
      (tame_eyeWrite ‹_›)) (tame_ite (P := TameO s) (tameO_some (tame_rateWrite ‹_›)) (tame_ite (P := TameO s) (tameO_some
      (tame_accCtrlWrite ‹_›)) tameO_none)))))))))))
theorem tameO_ownWriteLate {s : State} {t r b i v} (ht' : Tame s t) : TameO s (ownWriteLate t r b i v) := by
  unfold ownWriteLate
  exact tame_ite (P := TameO s) (tameO_some (tame_ite (P := Tame s) (tame_kick ‹_›) ‹_›)) (tame_ite (P := TameO s) (tameO_some
      (tame_healthCtrlWrite ‹_›)) (tame_ite (P := TameO s) (tameO_some (tame_selfFenceWrite ‹_›)) (tame_ite (P := TameO s)
      (tameO_some (tame_readmitWrite ‹_›)) (tame_ite (P := TameO s) (tameO_some (tame_beaconWrite ‹_›)) (tame_ite (P := TameO s)
      (tameO_some (tame_levelWrite ‹_›)) (tame_ite (P := TameO s) (tameO_some (tame_ownerNextWrite ‹_›)) (tame_ite (P := TameO
      s) (tameO_some (tame_capWrite ‹_›)) (tame_ite (P := TameO s) (tameO_some (tame_targetWrite ‹_›)) (tame_ite (P := TameO s)
      (tameO_some (tame_targetWrite ‹_›)) (tame_ite (P := TameO s) (tameO_some (tame_trustCtrlWrite ‹_›)) (tame_ite (P := TameO
      s) (tameO_some (tame_updateGo ‹_›)) (tame_ite (P := TameO s) (tameO_some (tame_attestGo ‹_›)) (tame_ite (P := TameO s)
      (tameO_some (tame_ownerWrite ‹_›)) tameO_none)))))))))))))
theorem tame_regWriteAt {s : State} {t r off v} (ht' : Tame s t) : Tame s (regWriteAt t r off v) := by
  unfold regWriteAt
  split
  · assumption
  · exact tame_ite (P := Tame s) (tame_getD (tameO_ownWrite ‹_›) (tame_ite (P := Tame s) (tame_writeFields ‹_›) ‹_›)) (tame_getD
        (tameO_ownWriteLate ‹_›) (tame_writeFields ‹_›))
theorem tame_writeWord {s : State} {r off v t} (ht' : Tame s t) : Tame s (writeWord r off v t) := by
  unfold writeWord
  split
  · exact tame_regWriteAt ‹_›
  · exact tame_bump ‹_›
  · assumption
theorem tame_idlePart {s : State} {t r off} (ht' : Tame s t) : Tame s (idlePart t r off) := by
  unfold idlePart
  exact tame_ite (P := Tame s) (tame_bump ‹_›) ‹_›
theorem tame_writeWords {s : State} {r off vs t} (h : Tame s t) : Tame s (writeWords r off vs t) := by
  induction vs generalizing off t with
  | nil => exact h
  | cons v vs ih =>
    cases v with
    | none => exact ih (tame_idlePart h)
    | some v => exact ih (tame_writeWord h)
theorem tame_setShadow {s : State} {t r off w} (ht' : Tame s t) : Tame s (setShadow t r off w) := by
  unfold setShadow
  exact tame_mk ‹_›
theorem tameP_liveWord {s : State} {t off row i j} (ht' : Tame s t) : TameP s (liveWord t off row i j) := by
  unfold liveWord
  extract_lets -underBinder -merge +onlyGivenNames x0
  try clear_value x0
  split
  · extract_lets -underBinder -merge +onlyGivenNames x1
    try clear_value x1
    exact tameP_mk (tame_mk ‹_›)
  · exact tameP_mk ‹_›
theorem tameP_regReadAt {s : State} {t r off} (ht' : Tame s t) : TameP s (regReadAt t r off) := by
  unfold regReadAt
  split
  · exact tameP_mk ‹_›
  · extract_lets -underBinder -merge +onlyGivenNames x0
    have h1 : TameP s x0 := tameP_liveWord ‹_›
    try clear_value x0
    refine tame_ite (P := TameP s) (tameP_mk (tame_setShadow (tame_fst ‹_›))) ?_
    split
    · exact tame_ite (P := TameP s) (tameP_mk (tame_fst ‹_›)) ‹_›
    · assumption
theorem tameP_readWord {s : State} {r off t} (ht' : Tame s t) : TameP s (readWord r off t) := by
  unfold readWord
  split
  · exact tameP_regReadAt ‹_›
  · exact tameP_mk (tame_bump ‹_›)
  · exact tameP_mk ‹_›
theorem tameP_readWords {s : State} {r off en t} (h : Tame s t) : TameP s (readWords r off en t) := by
  induction en generalizing off t with
  | nil => exact h
  | cons e en ih =>
    cases e with
    | false => exact ih (tame_idlePart h)
    | true =>
      unfold readWords
      split
      · exact ih (tame_compatRead h)
      · exact ih (tameP_readWord h)
theorem tame_answerRead {s : State} {r p} (hp' : TameP s p) : Tame s (answerRead r p) := by
  unfold answerRead
  exact tame_ite (P := Tame s) (tame_fst ‹_›) (tame_emit (tame_fst ‹_›))
theorem tame_readParts {s : State} {t r off en} (ht' : Tame s t) : Tame s (readParts t r off en) := by
  unfold readParts
  exact tame_ite (P := Tame s) (tame_answerRead (tameP_readWords ‹_›)) ‹_›
theorem goes_execRegisterWrite {s : State} {r off vs t} (ht' : Tame s t) : Goes s (execRegisterWrite r off vs t) := by
  unfold execRegisterWrite
  exact tame_ite (P := Goes s) (goes_next ‹_›) (goes_next (tame_writeWords ‹_›))
theorem goes_execRegisterPairLowRead {s : State} {r off en t} (ht' : Tame s t) : Goes s (execRegisterPairLowRead r off en t) :=
    by
  unfold execRegisterPairLowRead
  exact tame_ite (P := Goes s) (goes_next ‹_›) (goes_next (tame_readParts ‹_›))
theorem goes_execUnmappedAccess {s : State} {r off v t} (ht' : Tame s t) : Goes s (execUnmappedAccess r off v t) := by
  unfold execUnmappedAccess
  refine tame_ite (P := Goes s) (goes_next ‹_›) ?_
  split
  · exact goes_next (tame_writeWord ‹_›)
  · exact goes_next (tame_readParts ‹_›)
theorem goes_execNarrowAccess {s : State} {r off len wr t} (ht' : Tame s t) : Goes s (execNarrowAccess r off len wr t) := by
  unfold execNarrowAccess
  refine tame_ite (P := Goes s) (goes_next ‹_›) ?_
  refine tame_ite (P := Goes s) (goes_next ‹_›) ?_
  extract_lets -underBinder -merge +onlyGivenNames x0
  have h1 : Tame s x0 := tame_idlePart ‹_›
  try clear_value x0
  exact goes_next (tame_ite (P := Tame s) ‹_› (tame_emit ‹_›))

/-! ## Manage -/

theorem goes_execTlsHandshake {s : State} {m t a2} (ha2' : Tame s a2) : Goes s (execTlsHandshake m t a2) := by
  unfold execTlsHandshake
  refine tame_ite (P := Goes s) (goes_next ‹_›) ?_
  refine tame_ite (P := Goes s) ?_ (goes_next (tame_emit ‹_›))
  extract_lets -underBinder -merge +onlyGivenNames x0
  have h1 : Tame s x0 := tame_signAll ‹_›
  try clear_value x0
  extract_lets -underBinder -merge +onlyGivenNames x2
  have h3 : Tame s x2 := tame_emit (tame_mk ‹_›)
  try clear_value x2
  exact goes_next (tame_emit (tame_mk ‹_›))
theorem goes_inSession {s : State} {t m f} (ht' : Tame s t) (hf' : ∀ u0, Tame s u0 → Tame s (f u0)) : Goes s (inSession t m f)
    := by
  unfold inSession
  exact tame_ite (P := Goes s) (goes_next (hf' _ ‹_›)) (goes_next ‹_›)
theorem tame_sessionWrite {s : State} {m t x} (ht' : Tame s t) : Tame s (sessionWrite m t x) := by
  unfold sessionWrite
  exact tame_ite (P := Tame s) (tame_writeWord ‹_›) (tame_idlePart ‹_›)
theorem goes_execRegWrite {s : State} {m ws t} (ht' : Tame s t) : Goes s (execRegWrite m ws t) := by
  unfold execRegWrite
  refine goes_inSession ‹_› (fun u0 h1 => ?_)
  extract_lets -underBinder -merge +onlyGivenNames x2
  have h3 : Tame s x2 := tame_foldl (fun u4 y5 h6 => tame_sessionWrite ‹_›) ‹_›
  try clear_value x2
  exact tame_ite (P := Tame s) (tame_reply ‹_›) ‹_›
theorem tameP_sessionRead {s : State} {m t off} (ht' : Tame s t) : TameP s (sessionRead m t off) := by
  unfold sessionRead
  exact tame_ite (P := TameP s) (tameP_readWord ‹_›) (tameP_mk (tame_idlePart ‹_›))
theorem tameP_sessionReads {s : State} {m os t} (h : Tame s t) : TameP s (sessionReads m os t) := by
  induction os generalizing t with
  | nil => exact h
  | cons o os ih => exact ih (tameP_sessionRead h)
theorem goes_execRegRead {s : State} {m offs t} (ht' : Tame s t) : Goes s (execRegRead m offs t) := by
  unfold execRegRead
  refine goes_inSession ‹_› (fun u0 h1 => ?_)
  extract_lets -underBinder -merge +onlyGivenNames x2
  have h3 : TameP s x2 := tameP_sessionReads ‹_›
  try clear_value x2
  exact tame_reply (tame_fst ‹_›)
theorem goes_execAttest {s : State} {m ch t} (ht' : Tame s t) : Goes s (execAttest m ch t) := by
  unfold execAttest
  exact goes_inSession ‹_› (fun u0 h1 => tame_ite (P := Tame s) (tame_askSign (tame_mk ‹_›)) (tame_reply ‹_›))
theorem goes_execImageData {s : State} {m off data t} (ht' : Tame s t) : Goes s (execImageData m off data t) := by
  unfold execImageData
  exact goes_inSession ‹_› (fun u0 h1 => tame_ite (P := Tame s) (tame_reply ‹_›) (tame_reply (tame_mk ‹_›)))
theorem tameP_imageUpdate {s : State} {t m n flashOk} (ht' : Tame s t) : TameP s (imageUpdate t m n flashOk) := by
  unfold imageUpdate
  refine tame_ite (P := TameP s) (tameP_mk ‹_›) ?_
  refine tame_ite (P := TameP s) (tameP_mk ‹_›) ?_
  split
  · exact tameP_mk ‹_›
  · extract_lets -underBinder -merge +onlyGivenNames x0
    have h1 : Tame s x0 := tame_ite (P := Tame s) ‹_› (tame_eraseHeader ‹_›)
    try clear_value x0
    extract_lets -underBinder -merge +onlyGivenNames x2
    have h3 : TameP s x2 := tameP_writeImage ‹_›
    try clear_value x2
    exact tameP_mk (tame_updateEnd (tame_fst ‹_›))
theorem goes_execImageEnd {s : State} {m len flashOk t} (ht' : Tame s t) : Goes s (execImageEnd m len flashOk t) := by
  unfold execImageEnd
  refine goes_inSession ‹_› (fun u0 h1 => ?_)
  extract_lets -underBinder -merge +onlyGivenNames x2
  have h3 : TameP s x2 := tameP_imageUpdate ‹_›
  try clear_value x2
  refine tame_reply ?_
  extract_lets -underBinder -merge +onlyGivenNames x4
  have h5 : Tame s x4 := tame_fst ‹_›
  try clear_value x4
  exact tame_mk ‹_›
theorem goes_execReleaseOwner {s : State} {m t} (ht' : Tame s t) : Goes s (execReleaseOwner m t) := by
  unfold execReleaseOwner
  exact goes_inSession ‹_› (fun u0 h1 => tame_reply (tame_ite (P := Tame s) ‹_› (tame_mk ‹_›)))
theorem goes_execMgmtSessionClose {s : State} {m t} (ht' : Tame s t) : Goes s (execMgmtSessionClose m t) := by
  unfold execMgmtSessionClose
  exact goes_inSession ‹_› (fun u0 h1 => tame_endSession ‹_›)

/-! ## Tick -/

theorem tame_strike {s : State} {t x} (ht' : Tame s t) : Tame s (strike t x) := by
  unfold strike
  split
  · exact tame_mk ‹_›
  · assumption
theorem tame_meetError {s : State} {t x} (ht' : Tame s t) : Tame s (meetError t x) := by
  unfold meetError
  split
  · exact tame_readError ‹_›
  · assumption
theorem tame_tick {s : State} {t} (ht' : Tame s t) : Tame s (tick t) := by
  unfold tick
  exact tame_ite (P := Tame s) ‹_› (tame_moveStreams (tame_meetError (tame_strike (tame_mk ‹_›))))

end Sys2Proof.Machine
end

