-- ==== Sys2Proof/Tests/Slice0.lean ====
section
/-! SUPPORT. Tests of the model, each about one step on a small state, and the witnesses of the statements' hypotheses. -/

namespace Sys2Proof.Tests

open Sys2Proof.Machine Sys2Proof.Safety
set_option Elab.async false

/-- A kernel call of context 0 on a code of 8 words. -/
def kCall : MCall := { ctx := 0, job := 0x1234, kernel := true, codeLen := 8 }
/-- A state in which Cay 0 runs that call. -/
def sMilar : State := { State.reset with cays := [(0, { call := some kCall })] }
/-- The same with g2 at the program scratch less 8. -/
def sStore : State := { State.reset with cays := [(0, { call := some kCall, g := 0 :: 0 :: 0xFFF8#64 :: List.replicate 29 0 })] }
/-- A state whose Cay 0 finds a word at its PC, word 0 of its store. -/
def atWord (s : State) (w : Word) : State := poke s (cayStore 0) (natLe 4 w.toNat)

/-- A word of a register form: rd 1, ra 2, rb 1, a function. -/
def wordOf (major fn : Nat) : Word := BitVec.ofNat 32 (major * 2 ^ 26 + 2 ^ 21 + 2 * 2 ^ 16 + 2 ^ 11 + fn)
/-- A conversion word: vd 1, va 2, a part, destination and source formats. -/
def convWord (src dst part : Nat) : Word := BitVec.ofNat 32 (0x32 * 2 ^ 26 + 2 ^ 21 + 2 * 2 ^ 16 + part * 512 + dst * 32 + src * 2)
/-- Tile 0 cleared for L8. -/
def sTile : State := { State.reset with cays := [(0, { call := some kCall, t := ⟨.l8, clearLanes 4 (-45)⟩ :: List.replicate 7 ⟨.l16, clearLanes 4 (-157)⟩ })] }
/-- g2 at a descriptor of one row of 4 bytes copied from scratch 0x10040 to 0x10080. -/
def sStream : State := { State.reset with
  cays := [(0, { call := some kCall, g := 0 :: 0 :: 0x10000#64 :: List.replicate 29 0 })]
  mem := [(0x10000, 0x40), (0x10002, 1), (0x10008, 0x80), (0x1000A, 1), (0x10018, 1), (0x1001C, 4)] }
/-- The same with indices of 4 bytes at 0x100C0 and limit 1. -/
def sIndexed : State := { sStream with
  mem := [(0x10000, 0x40), (0x10002, 1), (0x10008, 0x80), (0x1000A, 1), (0x10010, 0xC0), (0x10012, 1), (0x10018, 1), (0x1001C, 4), (0x10028, 4), (0x1002C, 1)] }
/-- A call with its last stream active. -/
def sActive : State := { State.reset with cays := [(0, { call := some kCall, streams := [({} : StreamSt), ({} : StreamSt), ({} : StreamSt), { active := true }] })] }
/-- A call whose last stream has one row of 4 bytes left. -/
def sRows : State := { State.reset with
  mem := [(0x10040, 9)]
  cays := [(0, { call := some kCall, streams := [({} : StreamSt), ({} : StreamSt), ({} : StreamSt), { active := true, rows := [(0x10040, 0x10080, 4)] }] })] }
/-- A call of an update entry. -/
def sEntry : State := { State.reset with cays := [(0, { call := some { kCall with kernel := false } })] }
/-- A call that has executed all the instructions of the reset CAY_KLIMIT. -/
def sLimit : State := { State.reset with cays := [(0, { call := some kCall, count := 2 ^ 32 })] }
/-- The command answers the state. -/
def nextIs (i : Instr) (s t : State) : Bool := match exec i s with | .next u => decide (u = t) | _ => false
/-- The command answers a state with the property. -/
def nextHas (i : Instr) (s : State) (p : State → Bool) : Bool := match exec i s with | .next u => p u | _ => false
/-- A state with fields set. -/
def sets (s : State) (l : List (Fld × Nat)) : State := l.foldl (fun s x => setF s x.1 x.2) s
/-- A module in READY at (1, 1, 1) of a torus of 4, H0 up, context 0 open for job 0x1234 on VF 1, its objects 0 to 511. -/
def sReady : State := sets { State.reset with
    bme := [(0, 0), (0, 1)]
    pcie := [(0, { vfs := 32, msixOn := true, unmasked := List.range 8 }), (1, { msixOn := true, unmasked := List.range 17 })] }
  [(TRUST_STATE_STATE, 3), (HOSTIF_PORT_UP 0, 1), (CTX_STATE_STATE 0, 1), (CTX_JOB_JOB 0, 0x1234), (CTX_CFG_VF 0, 1),
    (CTX_SYNC_COUNT 0, 512), (GLOBAL_TORUS_DIM_LEN_X, 4), (GLOBAL_TORUS_DIM_LEN_Y, 4), (GLOBAL_TORUS_DIM_LEN_Z, 4), (GLOBAL_TORUS_DIM_VALID, 1),
    (GLOBAL_COORD_X, 1), (GLOBAL_COORD_Y, 1), (GLOBAL_COORD_Z, 1), (GLOBAL_COORD_VALID, 1)]
/-- Queue 3 of context 0 enabled with 1,024 entries, TAIL 44, RETIRE 40 (the example of R278). -/
def sQueue : State := sets sReady [(QUE_SIZE_LOG2 3, 10), (QUE_CTRL_ENABLE 3, 1), (QUE_TAIL_TAIL 3, 44), (QUE_RETIRE_RETIRE 3, 40)]
/-- The same in fetch run 1, nothing fetched. -/
def sFetch : State := sets { sQueue with queues := [(3, { run := 1 })] } [(QUE_HEAD_HEAD 3, 42)]
/-- Command 40 of queue 3 with these first bytes, fetched. -/
def sFetched (l : List Byte) : State :=
  { sQueue with queues := [(3, { run := 1, cmds := [(40, { bytes := l ++ zeros (64 - l.length) })] })] }
/-- Its bytes. -/
def cmdOf (l : List Byte) : CmdSt := { bytes := l ++ zeros (64 - l.length) }
/-- A wait for object 10 at 1. -/
def waiting : List Byte := [0x0D, 4, 10, 0, 0, 0, 0, 0, 1]
/-- Context 0 with one host window of 256 pages from the base of H0's memory, READ and WRITE; queue 3's rings and mirror in it. -/
def sRings : State := sets sReady [(QUE_SIZE_LOG2 3, 10), (MEM_HOSTWIN_BASE_HI_VALID 0 0, 1), (MEM_HOSTWIN_SIZE_PAGES 0 0, 256),
  (MEM_HOSTWIN_CTRL_READ 0 0, 1), (MEM_HOSTWIN_CTRL_WRITE 0 0, 1), (QUE_RING_HI_ADDR 3, 0x80000000), (QUE_CPL_HI_ADDR 3, 0x80000000),
  (QUE_CPL_LO_ADDR 3, 0x10000 / 16), (QUE_MIRROR_HI_ADDR 3, 0x80000000), (QUE_MIRROR_LO_ADDR 3, 0x20000 / 64)]
/-- The same command started. -/
def startedWith (l : List Byte) : CmdSt := { cmdOf l with started := true }
/-- A state in which it is command 40 of queue 3. -/
def sStarted (l : List Byte) : State := { sQueue with queues := [(3, { run := 1, cmds := [(40, startedWith l)] })] }
/-- Access port 2 up for context 0, a COPY of 16 bytes into HBM whose read of TAG 7 has left. -/
def sAcc : State := sets { sReady with
    access := [(2, { reads := [⟨7, (3, 40), 0, 16, some 0⟩] })]
    copying := [{ cmd := (3, 40), ctx := 0, srcAcc := some 2, dstAcc := none, src := 0, dst := hbmBase, bytes := 16, asked := 16, left := 16 }] }
  [(ACC_STATUS_STATE 2, 3), (HEALTH_PORT_OWNER_VALID 2, 1)]
/-- A frame head with the next number of a fresh port. -/
def fHead : FrameHead := ⟨0, 0, 0x400, ⟨0x020000000001, 1⟩, true, true⟩
/-- A Causeway group descriptor of the module alone: PAIR op 1, format 1, count 1. -/
def aloneDesc : List Byte := natLe 2 0x1234 ++ [0xFF, 0xFF, 2, 2, 0x24, 0, 1, 1, 0, 1, 1, 0, 1, 1, 0, 1, 1, 1] ++ zeros 108
/-- A gradient group descriptor of layer 7 that the module alone owns. -/
def gradDesc : List Byte := natLe 2 0x1234 ++ [7, 0, 1, 2, 0x24, 0, 1, 1, 0, 1, 1, 0, 1, 1, 0, 0, 0, 0, 0, 0, 1] ++ zeros 105
/-- Port +X up with credits on every sub-channel, its neighbours' ports too; three returns pending. -/
def sFabric : State := sets { sReady with
    torus := [(0, { credits := List.replicate 16 100, returns := 8 :: List.replicate 15 0 }), (1, { credits := List.replicate 16 100 })] }
  [(FAB_PORT_STATE_UP 0, 1), (FAB_PORT_STATE_UP 1, 1)]
/-- A DATA_W32 cell on VC1 of job 0x1234 for a coordinate. -/
def xW32 (dest : Coord) : Cell := { dest := dest, type := 1, vc := 1, job := 0x1234, payload := zeros 64 }
/-- The reset state with the rails coming on. -/
def sBoot : State := { State.reset with power := { phase := .starting } }
/-- A group of layer 7 over (1, 1, 1) and (2, 1, 1), its root at an offset. -/
def pairDesc (root : Byte) : List Byte := natLe 2 0x1234 ++ [7, 0, 1, 2, 0x24, 0, 1, 2, root, 1, 1, 0, 1, 1, 0, 0, 0, 0, 0, 0, 1] ++ zeros 105
/-- Port +X up, group 5 with this module as its owner (root 0) or not, a bucket of tag 7 and 256 elements. -/
def sPair (root : Byte) (e : Bucket) : State := { sFabric with
  groups := [(5, ⟨0, pairDesc root⟩)], buckets := [(3, { e with job := 0x1234, tag := 7, ctx := some 0, group := 5, n := 256 })] }
/-- A member with its reservations and its memory. -/
def member : Bucket := { job := 0, tag := 0, created := 0, reserved := true, emReady := true }
/-- A cell of a type for this module, with its first payload bytes. -/
def xHere (type : BitVec 4) (vc : BitVec 3) (l : List Byte) : Cell :=
  { dest := 1057, type := type, vc := vc, job := 0x1234, tag := 7, payload := l ++ zeros (64 - l.length) }
/-- The cell lands, no other waiting before it. -/
def landed (s : State) (p : TorusPort) (x : Cell) : Bool :=
  match arrive s p.val x with | .here u => !behindAtEject u p.val x | _ => false
/-- A key of 4,096 bits whose exponent inverts 65,537 on what is coprime to 3. -/
def testKey : Nat × Nat := (3 ^ 2584, (1 + 35332 * (2 * 3 ^ 2583)) / 65537)
/-- A READY module with a byte in a Cay store and one in its flash. -/
def sFlash : State := { sReady with mem := [(5, 7), (flashBase, 9)] }
/-- One that has lost its reference, port +Y enabled. -/
def sNoRef : State := sets { sReady with power := { refLost := true } } [(LANE_PORT_CTRL_ENABLE 2, 1)]
/-- A READY module on an unconfirmed trial of an image with floor 3 that revokes key slots 0 and 2. -/
def sTrial : State := { sReady with now := 9375000000, rpa := { trial := true, floor := 1 }, boot := { released := true, header := zeros 0x0C ++ [5] ++ zeros 7 ++ [3] ++ zeros 4075 } }

/-! ### Ill-formed commands are refused, one for each check -/

theorem smoke_short_cell : [Instr.cellForward 0 {}, .dataW32 0 {}, .dataS1 0 {}, .trailerCell 0 {}, .admitCell 0 {}, .grantAdmitted 0 {},
    .grantRefused 0 {}, .grantRelease 0 {}, .grantDone 0 {}, .grantResend 0 {}, .causewayCell 0 {}, .ferryOpen 0 {}, .ferryAbort 0 {},
    .ferryAccept 0 {}, .ferryBusy 0 {}, .ferryWindow 0 {}, .ferryFinished 0 {}, .dataParam 0 {}, .planCell 0 {}, .permuteReady 0 {},
    .permuteCell 0 {}, .permuteComplete 0 {}, .ecnEcho 0 {}, .creditCell 0 {}, .beaconCell 0 {}, .mgmtCell 0 {}].all
    (fun i => !i.wellFormed) = true := by decide +kernel
theorem smoke_fetch : (Instr.commandFetch 0 0 1 (some [])).wellFormed = false ∧ (Instr.commandFetch 0 0 1 (some [1, 2])).wellFormed = false ∧
    (Instr.commandFetch 0 0 1 (some (List.replicate 576 0))).wellFormed = false := by decide +kernel
theorem smoke_registers : (Instr.registerWrite (.pf 0) 2 [none]).wellFormed = false ∧ (Instr.registerWrite (.pf 0) 4 []).wellFormed = false ∧
    (Instr.registerPairLowRead (.pf 0) 1 [true, true]).wellFormed = false ∧ (Instr.registerPairLowRead (.pf 0) 4 []).wellFormed = false ∧
    (Instr.unmappedAccess (.pf 0) 3 none).wellFormed = false ∧ (Instr.narrowAccess (.pf 0) 4 8 true).wellFormed = false ∧
    (Instr.narrowAccess (.pf 0) 4 0 true).wellFormed = false := by decide +kernel
theorem smoke_share : (Instr.poolShare 0 0 32 0).wellFormed = false := by decide +kernel
theorem smoke_frames : let h : FrameHead := { fseq := 0, ack := 0, credit := 0, peer := fHead.peer, hopOk := true, udpOk := true }
    (Instr.cellsFrame 0 h []).wellFormed = false ∧ (Instr.cellsFrame 0 h [{}]).wellFormed = false ∧
    (Instr.cellsFrame 0 h (List.replicate 109 { payload := zeros 64 })).wellFormed = false ∧
    (Instr.memData 0 h 0 true []).wellFormed = false ∧ (Instr.memData 0 h 0 false [1]).wellFormed = false := by decide +kernel
theorem smoke_messages : (Instr.configRequest 0 33 none).wellFormed = false ∧ (Instr.attest 0 [1]).wellFormed = false ∧
    (Instr.imageData 0 0 (List.replicate 16385 0)).wellFormed = false := by decide +kernel
theorem smoke_well_formed : (Instr.cellForward 0 { payload := zeros 64 }).wellFormed = true ∧
    (Instr.commandFetch 0 0 1 (some (zeros 64))).wellFormed = true ∧ (Instr.registerWrite (.pf 0) 4 [none]).wellFormed = true := by decide +kernel

/-! ### ScalarRegisterRowsWriteTheirResult -/

theorem wit_scalar_executing : Executing (atWord sMilar (wordOf 1 0)) 0 kCall (wordOf 1 0) ∧
    Executing (atWord sMilar (wordOf 9 0x13)) 0 kCall (wordOf 9 0x13) := by decide +kernel
theorem wit_scalar_words :
    (List.range 12).all (fun f => encodes (wordOf 1 f) 0x01 (some (5, 0, f)) [(10, 6)]) = true ∧
    ([12, 13, 14].all (fun f => encodes (wordOf 1 f + 0x40#32) 0x01 (some (5, 0, f)) [(10, 7)])) = true ∧
    ([15, 16, 17, 18].all (fun f => encodes (wordOf 1 f) 0x01 (some (5, 0, f)) [(10, 6)])) = true ∧
    encodes (wordOf 1 0x13) 0x01 (some (5, 0, 0x13)) [(10, 9)] = true := by decide

/-! ### ImmediateAndControlRowsWriteTheirResult -/

theorem wit_immediate_words :
    ([2, 3, 4, 5, 6].all (fun o => encodes (BitVec.ofNat 32 (o * 2 ^ 26 + 0xFFFF)) o none [])) = true ∧
    encodes (BitVec.ofNat 32 (7 * 2 ^ 26 + 0x8000)) 0x07 none [(20, 16)] = true ∧
    encodes (BitVec.ofNat 32 (0x14 * 2 ^ 26 + 2 ^ 21 + 2)) 0x14 (some (5, 0, 2)) [(10, 6)] = true ∧
    encodes (BitVec.ofNat 32 (0x14 * 2 ^ 26 + 2 ^ 16 + 3)) 0x14 (some (5, 0, 3)) [(10, 6)] = true ∧
    encodes (BitVec.ofNat 32 (0x14 * 2 ^ 26)) 0x14 (some (5, 0, 0)) [(25, 6)] = true := by decide

/-! ### CompareAndPredicateRowsWriteTheirPredicate -/

theorem wit_compare_words :
    ([0, 1, 2, 3, 4, 5, 8, 9, 10, 11, 12, 13].all (fun f => encodes (wordOf 9 f) 0x09 (some (5, 0, f)) [(25, 24), (10, 6)])) = true ∧
    ([0x10, 0x11, 0x12].all (fun f =>
      encodes (wordOf 9 f) 0x09 (some (5, 0, f)) [(25, 24), (20, 19), (10, 6), (15, 14)])) = true ∧
    encodes (wordOf 9 0x13 - 0x800#32) 0x09 (some (5, 0, 0x13)) [(25, 24), (20, 19), (10, 6), (15, 11)] = true := by decide

/-! ### BranchesAndJumpsMoveTheProgramCounter -/

theorem wit_branch_words :
    ([0x0A, 0x0B, 0x0C, 0x0D, 0x0E, 0x0F, 0x12, 0x13].all (fun o => encodes (BitVec.ofNat 32 (o * 2 ^ 26 + 0xFFFF)) o none [])) = true ∧
    encodes 0x40200001#32 0x10 (some (20, 20, 0)) [(25, 24), (19, 16)] = true ∧
    encodes 0x40300001#32 0x10 (some (20, 20, 1)) [(25, 24), (19, 16)] = true ∧
    (cayAt sMilar 0).pc < 2 ^ 19 := by decide

/-! ### LoadsAndStoresMoveTheirBytes -/

theorem wit_memory_executing : Executing (atWord sStore 0x60220008#32) 0 kCall 0x60220008#32 := by decide +kernel
theorem wit_memory_loads :
    ([0x60220008#32, 0x70220008#32].all (fun w =>
      decide ((getG (fetched sStore 0) (wRa w) + (BitVec.ofNat 16 (wb w 15 0)).signExtend 64).toNat = 0x10000)
        && allIn (loadRanges sStore 0 kCall) 0x10000 1)) = true ∧
    Clear sStore (fetched sStore 0) kCall 0x10000 1 false := by decide
theorem wit_memory_stores :
    allIn (storeReach sStore 0 kCall) 0x10000 1 = true ∧ allIn (storeRanges sStore 0 kCall) 0x10000 1 = true ∧
    Clear sStore (fetched sStore 0) kCall 0x10000 1 true ∧ wMajor 0x80220008#32 = 0x20 := by decide
theorem wit_memory_wide_ranges :
    allIn (loadRanges sStore 0 kCall) 0x10000 256 = true ∧ allIn (storeReach sStore 0 kCall) 0x10000 256 = true ∧
    allIn (storeRanges sStore 0 kCall) 0x10000 256 = true := by decide +kernel
theorem wit_memory_wide_load : Clear sStore (fetched sStore 0) kCall 0x10000 256 false := by decide +kernel
theorem wit_memory_wide_store : Clear sStore (fetched sStore 0) kCall 0x10000 256 true := by decide +kernel
theorem wit_memory_group :
    (wideBytes ((getA (fetched sStore 0) 0).getD 0 (clearLanes 16 floorW96))).length = 208 := by decide +kernel
theorem wit_memory_words :
    encodes 0xB0220008#32 0x2C none [(25, 25)] = true ∧ encodes 0xB4220008#32 0x2D none [(25, 25)] = true ∧
    wMajor 0x90220008#32 = 0x24 ∧ wMajor 0xA0220008#32 = 0x28 := by decide

/-! ### VectorFloatRowsWriteEveryLane -/

theorem wit_vector_float_words :
    ([0, 1, 2, 3, 6, 7, 10, 11, 12].all (fun f => encodes (wordOf 0x30 f) 0x30 (some (4, 0, f)) [(10, 6)])) = true ∧
    encodes (wordOf 0x30 5) 0x30 (some (4, 0, 5)) [] = true ∧
    ([4, 8, 9].all (fun f => encodes (wordOf 0x30 f - 0x800#32) 0x30 (some (4, 0, f)) [(15, 6)])) = true ∧
    encodes (wordOf 0x30 0x20) 0x30 (some (4, 0, 0)) [(10, 6)] = true := by decide

/-! ### VectorIntegerRowsWriteEveryLane -/

theorem wit_vector_int_words :
    ([0, 1, 2, 3, 4, 5, 6, 7, 8, 9, 10, 11, 12, 13, 14].all (fun f => [0, 0x30].all (fun v =>
      encodes (wordOf 0x31 (f + v)) 0x31 (some (3, 0, f)) []))) = true ∧
    encodes (wordOf 0x31 15) 0x31 (some (3, 0, 15)) [] = true := by decide

/-! ### LaneMovesAndConversionsWriteTheirLanes -/

theorem wit_lane_words :
    encodes 0xCC220000#32 0x33 (some (5, 2, 0)) [] = true ∧ encodes 0xCC220804#32 0x33 (some (5, 2, 1)) [] = true ∧
    encodes 0xCC220808#32 0x33 (some (5, 2, 2)) [] = true ∧ encodes 0xCC22002F#32 0x33 (some (5, 0, 0xF)) [] = false ∧
    encodes 0xCC22000F#32 0x33 (some (5, 0, 0xF)) [] = true ∧ (getG (fetched sMilar 0) 1).toNat < 2048 / 64 := by decide
theorem wit_conversion_words :
    ((convPair (convWord 2 3 0)).map (fun p => laneWidth p.1 == laneWidth p.2)) = some true ∧
    ((convPair (convWord 2 0 1)).map (fun p => decide (laneWidth p.1 < laneWidth p.2))) = some true ∧
    ((convPair (convWord 0 2 0)).map (fun p => decide (laneWidth p.2 < laneWidth p.1))) = some true ∧
    ([convWord 2 3 0, convWord 2 0 1, convWord 0 2 0].all (fun w => encodes w 0x32 none [(0, 0)])) = true := by decide

/-! ### AccumulatorAndTileRowsDoTheirCombine -/

theorem wit_accumulator_words :
    encodes 0xD0000000#32 0x34 (some (5, 0, 0)) [(23, 6)] = true ∧ encodes 0xD0000001#32 0x34 (some (5, 0, 1)) [(23, 21), (9, 6)] = true ∧
    laneFmt (wb 0xD0000001#32 15 12) = some (.flt .fp32) ∧ wb 0xD0000001#32 11 10 < accParts (2048 / 32) ∧
    encodes 0xD0007402#32 0x34 (some (5, 0, 2)) [(23, 21), (9, 6)] = true ∧ laneFmt (wb 0xD0007402#32 15 12) = some (.lg .l16) ∧
    wb 0xD0007402#32 11 10 < accParts (2048 / 16) ∧ encodes 0xD0000003#32 0x34 (some (5, 0, 3)) [(21, 6)] = true ∧
    encodes 0xD0000004#32 0x34 (some (5, 0, 4)) [(25, 24), (21, 21), (15, 6)] = true ∧
    encodes 0xD0000405#32 0x34 (some (5, 0, 5)) [(25, 24), (21, 21), (15, 12), (9, 6)] = true ∧ wb 0xD0000405#32 11 10 < 2 := by decide
theorem wit_tile_words :
    ([0, 1, 2, 3, 4, 5, 6, 7].all (fun k => encodes (BitVec.ofNat 32 (0x38 * 2 ^ 26 + 15 * 64 + k)) 0x38 (some (5, 0, k)) [])) = true ∧
    wb (BitVec.ofNat 32 (0x38 * 2 ^ 26 + 15 * 64 + 4)) 10 6 < 16 ∧ (getT (fetched sMilar 0) 0).fmt = .l16 ∧
    (getT (fetched sTile 0) 0).fmt = .l8 ∧
    Executing (atWord sTile 0xE0000000#32) 0 kCall 0xE0000000#32 := by decide +kernel

/-! ### StreamRowsMoveTheirRows -/

theorem wit_stream_words :
    ([0, 1, 2, 3].all (fun k => encodes (BitVec.ofNat 32 (0x3C * 2 ^ 26 + 2 * 2 ^ 21 + k)) 0x3C (some (5, 0, k)) [(20, 16), (13, 6)])) = true ∧
    encodes (BitVec.ofNat 32 (0x3C * 2 ^ 26 + 4)) 0x3C (some (5, 0, 4)) [(25, 16), (13, 6)] = true := by decide
theorem wit_stream_state : Executing (atWord sStream 0xF0400000#32) 0 kCall 0xF0400000#32 ∧
    (fetched sStream 0).streams[0]? = some ({} : StreamSt) ∧
    (getG (fetched sStream 0) 2).toNat = 0x10000 ∧ allIn [codeRange 0, scratchRange 0] 0x10000 64 = true := by decide +kernel
theorem wit_stream_entry : Executing (atWord sEntry 0xF0400000#32) 0 { kCall with kernel := false } 0xF0400000#32 := by decide +kernel
theorem wit_stream_clear : Clear sStream (fetched sStream 0) kCall 0x10000 64 false := by decide +kernel
theorem wit_stream_copy : xBad .copy (xDesc (bytesAt sStream.mem 0 0x10000 64)) = false ∧
    earlierStream (fetched sStream 0) [(0x10040, 4)] [(0x10080, 4)] = none ∧
    (xRows 0 0 .copy (xDesc (bytesAt sStream.mem 0 0x10000 64)) 1 0 sStream {}).2.2 = .done := by decide +kernel
theorem wit_stream_prefetch : xBad .prefetch (xDesc (bytesAt sIndexed.mem 0 0x10000 64)) = false ∧
    (xRows 0 0 .prefetch (xDesc (bytesAt sIndexed.mem 0 0x10000 64)) 1 0 sIndexed {}).2.2 = .done := by decide +kernel
theorem wit_stream_indexed : xBad .gather (xDesc (bytesAt sIndexed.mem 0 0x10000 64)) = false ∧
    xBad .scatter (xDesc (bytesAt sIndexed.mem 0 0x10000 64)) = false ∧
    (xRows 0 0 .gather (xDesc (bytesAt sIndexed.mem 0 0x10000 64)) 1 0 sIndexed {}).2.2 = .done ∧
    (xRows 0 0 .scatter (xDesc (bytesAt sIndexed.mem 0 0x10000 64)) 1 0 sIndexed {}).2.2 = .done := by decide +kernel
theorem wit_stream_active : (cayAt sActive 0).streams[3]? = some { active := true } ∧ (cayAt sActive 0).call = some kCall ∧
    (cayAt sRows 0).streams[3]? = some { active := true, rows := [(0x10040, 0x10080, 4)] } ∧
    accessFault sRows (some 0) 0x10040 4 false = none ∧ accessFault sRows (some 0) 0x10080 4 true = none ∧
    (accessFault sRows (some 0) hostBase 4 false).isSome = true := by decide +kernel
theorem test_stream_complete : nextHas (.streamComplete 0 3) sRows (fun t => t.mem == [(0x10040, 9), (0x10080, 9)] &&
    (cayAt t 0).streams[3]? == some ({} : StreamSt)) = true := by decide +kernel

/-! ### CallsEndByReturnOrTrap -/

theorem wit_ret_word : encodes 0x50000001#32 0x14 (some (5, 0, 1)) [(10, 6)] = true ∧
    encodes 0x50001804#32 0x14 (some (5, 0, 4)) [(10, 6)] = true ∧
    (fetched sMilar 0).streams.all (fun t => !t.active && t.fault.isNone) = true := by decide
/-- An update's task at its end on Cay 0. -/
def sTaskEnd : State := { sEntry with layers := [(0, { ctx := 0, desc := zeros 192, upd := some { image := [], const := [], tasks := [⟨0, 0, 0, [], false, false⟩] } })] }
theorem wit_ends : (cayAt sMilar 0).call = some kCall ∧ kCall.kernel = true ∧ flag sMilar (CAY_TRAP0_VALID 0) = false ∧
    flag (setF sMilar (CAY_TRAP0_VALID 0) 1) (CAY_TRAP0_VALID 0) = true ∧
    ((cayAt sTaskEnd 0).call.map (fun c => (c.kernel, c.layer, c.task))) = some (false, 0, 0) ∧
    ((tget sTaskEnd.layers 0).bind (fun x => x.upd.bind (fun u => u.tasks.find? (fun k => k.t == 0)))).isSome = true ∧
    (∀ p ∈ sMilar.layers, p.2.upd = none) := by decide
theorem test_trap_captured : nextHas (.trap 0 0x50001804#32) (atWord sMilar 0x50001804#32) (fun t =>
    (rd t (CAY_TRAP0 0)).toNat == 0xC0071234 && (rd t (CAY_TRAP1 0)).toNat == 3 && getF t (CAY_TRAP_COUNT_COUNT 0) == 1 &&
    getF t (CAY_KL_STATE_STATUS 0) == 0x13 && (cayAt t 0).call.isNone) = true := by decide +kernel
theorem wit_klimit : (rd sLimit (CAY_KLIMIT 0)).toNat ≤ (cayAt sLimit 0).count ∧ (cayAt sLimit 0).call = some kCall := by decide

/-! ### DoorbellMovesTailForwardOrIsIgnored -/

theorem wit_doorbell :
    reach sQueue (.pf 0) (QUE_TAIL (qkey 0 3)) = .yes ∧ flag sQueue (QUE_CTRL_ENABLE 3) = true ∧
    nextIs (.doorbell (.pf 0) 0 3 1064) sQueue (wr sQueue (QUE_TAIL 3) 1064) ∧
    nextIs (.doorbell (.pf 0) 0 3 1065) sQueue (queError sQueue 3 (QUE_ERR_OVERRUN 3)) ∧
    nextIs (.doorbell (.pf 0) 0 3 42) sQueue (queError sQueue 3 (QUE_ERR_REWIND 3)) ∧
    nextIs (.doorbell (.pf 0) 0 3 44) sQueue sQueue := by decide +kernel
theorem wit_doorbell_off : reach sReady (.pf 0) (QUE_TAIL (qkey 0 3)) = .yes ∧
    flag sReady (QUE_CTRL_ENABLE 3) = false := by decide +kernel

/-! ### FetchMovesHeadPastTheCommandsOfItsRead -/

theorem wit_fetch : flag sFetch (QUE_CTRL_ENABLE 3) = true ∧ ctxState sFetch 0 = 1 ∧ ctxHostUp sFetch 0 = true ∧
    1 = (queueAt sFetch 3).run ∧ flag sFetch (QUE_ERR_FETCH_FAIL 3) = false ∧ fetchOk (some (zeros 128)) = true ∧
    min ((zeros 128).length / 64) (fetchRoom sFetch 3) = 2 := by decide +kernel
theorem wit_fetch_ring : hostBase ≤ queRing (setF sFetch (QUE_RING_HI_ADDR 3) 0x80000000) 3 := by decide +kernel
theorem wit_fetch_discarded : 0 ≠ (queueAt sFetch 3).run ∧
    flag (setF sFetch (QUE_ERR_FETCH_FAIL 3) 1) (QUE_ERR_FETCH_FAIL 3) = true := by decide +kernel

/-! ### ACommandStartsInItsTurn -/

theorem wit_start : (cBarrier (cmdOf [0x0D, 1]).bytes || queCompat (sFetched [0x0D, 1]) 3) = true ∧
    queRetire (sFetched [0x0D, 1]) 3 = 40 ∧ cmdAt (sFetched [0x0D, 1]) 3 40 = some (cmdOf [0x0D, 1]) ∧
    (headerBad (cmdOf [0x0D, 1]).bytes || payloadBad (cmdOf [0x0D, 1]).bytes) = false := by decide +kernel
theorem wit_start_malformed : cWait (cmdOf [0x10]).bytes = false ∧
    (headerBad (cmdOf [0x10]).bytes || payloadBad (cmdOf [0x10]).bytes) = true := by decide +kernel
theorem wit_start_waits : cWait (cmdOf waiting).bytes = true ∧
    (latchCmd sQueue (cmdOf waiting)).waits.getD 0 none = none ∧
    (latchCmd (post sQueue 10 .add 1 0x12) (cmdOf waiting)).waits.getD 0 none = some 0x12 ∧ rank 0x12 ≤ 7 ∧
    (latchCmd (post sQueue 10 .add 1 0x60) (cmdOf waiting)).waits.getD 0 none = some 0x60 ∧ 7 < rank 0x60 := by decide +kernel
theorem wit_start_out_of_turn : (cBarrier (cmdOf [0x0D, 1]).bytes || queCompat sQueue 3) = true ∧ queRetire sQueue 3 ≠ 41 := by
  decide +kernel

/-! ### ACompletionPostsRecordsAndMovesTheIndices -/

/-- Command 40 of queue 3, the oldest, with POST to object 10 and IRQ, ended with a status; its ring in the host tier. -/
def sEnded : State := sets { sQueue with
    queues := [(3, { run := 1, cmds := [(40, { (cmdOf [0x0D, 0xA, 0, 0, 10]) with started := true, ran := true, status := some 0x60 })] })] }
  [(QUE_CPL_HI_ADDR 3, 0x80000000)]
theorem wit_complete : cmdAt sEnded 3 40 = some { (cmdOf [0x0D, 0xA, 0, 0, 10]) with started := true, ran := true, status := some 0x60 } ∧
    cPost (cmdOf [0x0D, 0xA, 0, 0, 10]).bytes = true ∧ inSyncRange sEnded 0 (cPostSig (cmdOf [0x0D, 0xA, 0, 0, 10]).bytes) = true ∧
    rd sEnded (QUE_RETIRE 3) = 40 ∧ (40 + 1) ∉ (queueAt sEnded 3).done ∧ ctxHostUp sEnded 0 = true ∧
    hostBase ≤ queCpl sEnded 3 + 16 * (40 % 2 ^ getF sEnded (QUE_SIZE_LOG2 3)) ∧
    hostUp sEnded (bits (queCpl sEnded 3 + 16 * (40 % 2 ^ getF sEnded (QUE_SIZE_LOG2 3))) 62 62) (ctxVf sEnded 0) = true := by decide +kernel
/-- The same with the port's Bus Master Enable clear: the record waits, and leaves when it is set. -/
def sEndedDown : State := { sEnded with bme := [(0, 1)] }
/-- A record that waits. -/
def sWaiting : State := { sQueue with bme := [(0, 1)], queues := [(3, { run := 1, waiting := [⟨1, hostBase + 16, zeros 16, true⟩] })] }
theorem wit_complete_down : ctxHostUp sEndedDown 0 = false ∧ bit (fieldAt (cmdOf [0x0D, 0xA, 0, 0, 10]).bytes 1 1) 1 = true ∧
    (pcieAt sEnded (ctxHost sEnded 0) (ctxVf sEnded 0)).msixOn = true ∧ (pcieAt sEnded (ctxHost sEnded 0) (ctxVf sEnded 0)).fnMask = false ∧
    3 ∈ (pcieAt sEnded (ctxHost sEnded 0) (ctxVf sEnded 0)).unmasked ∧
    flag sWaiting (HOSTIF_PORT_UP 0) = true ∧ hostUp { sWaiting with bme := [(0, 1), (0, 0)] } 0 1 = true := by decide +kernel
theorem test_waits : nextHas (.commandComplete 0 3 40) sEndedDown (fun t => (queueAt t 3).waiting.length == 1 && t.out == []) = true ∧
    nextHas (.configRequest 0 0 (some (.bme true))) sWaiting (fun t => (queueAt t 3).waiting == [] &&
      t.out == [.configReply 0 0 false, .msix 0 1 3, .hostWrite 0 1 (hostBase + 16) (zeros 16)]) = true := by decide +kernel
/-- The same completion seen: the object, the indices, the record before the interrupt. -/
theorem test_complete : nextHas (.commandComplete 0 3 40) sEnded (fun t =>
    syncValue t 10 == 1 && syncStatus t 10 == 0x60 && rd t (QUE_RETIRE 3) == 41 && rd t (QUE_DONE 3) == 1 &&
    t.out == [.msix 0 1 3, .hostWrite 0 1 (hostBase + 16 * 40) ([40, 0, 0, 0, 0x0D, 0x60] ++ zeros 10)]) = true := by decide +kernel

/-! ### MirrorAndBlockingDoorbellReportTheQueue -/

/-- Queue 3 with its mirror in the host tier and due. -/
def sMirror : State := sets { sQueue with queues := [(3, { run := 1, mirrorDue := true })] }
  [(QUE_CTRL_MIRROR 3, 1), (QUE_MIRROR_HI_ADDR 3, 0x80000000)]
theorem wit_mirror : (queueAt sMirror 3).mirrorDue = true ∧ flag sMirror (QUE_CTRL_MIRROR 3) = true ∧ ctxHostUp sMirror 0 = true ∧
    flag sMirror (QUE_CTRL_COMPAT 3) = false ∧ hostBase ≤ queMirror sMirror 3 ∧ queMirror sMirror 3 < 2 ^ 64 ∧
    hostUp sMirror (bits (queMirror sMirror 3) 62 62) (ctxVf sMirror 0) = true ∧ 0 < (queueAt sMirror 3).run ∧
    flag (setF sMirror (QUE_CTRL_COMPAT 3) 1) (QUE_CTRL_COMPAT 3) = true ∧
    ctxHostUp (setF sMirror (QUE_CTRL_COMPAT 3) 1) 0 = true := by decide +kernel
/-- Queue 3 full, a read of QUE_COMPAT_WAIT held from tick 0 and 4,375 ticks gone. -/
def sHeld : State := sets { sQueue with now := 4375, queues := [(3, { run := 1, held := [(.vf 0 0, 0), (.pf 0, 1)] })] } [(QUE_TAIL_TAIL 3, 1064)]
theorem wit_compat : reach sMirror (.vf 0 0) (QUE_COMPAT_WAIT 3) = .yes ∧
    flag (setF sMirror (QUE_CTRL_ENABLE 3) 0) (QUE_CTRL_ENABLE 3) = false ∧ flag sMirror (QUE_CTRL_ENABLE 3) = true ∧
    0 < 2 ^ getF sMirror (QUE_SIZE_LOG2 3) - (rd sMirror (QUE_TAIL 3) - rd sMirror (QUE_RETIRE 3)).toNat ∧
    reach sHeld (.vf 0 0) (QUE_COMPAT_WAIT 3) = .yes ∧
    2 ^ getF sHeld (QUE_SIZE_LOG2 3) - (rd sHeld (QUE_TAIL 3) - rd sHeld (QUE_RETIRE 3)).toNat = 0 ∧
    (queueAt sHeld 3).held.filter (fun x => decide (x.2 + (rd sHeld (QUE_COMPAT_HOLD 3)).toNat ≤ sHeld.now)) = [(.vf 0 0, 0)] ∧
    (queueAt sMirror 3).held = [] := by decide +kernel
/-- Its oldest command ended: the completion frees a slot, and both reads are answered. -/
def sFreed : State := { sHeld with queues := [(3, { (queueAt sHeld 3) with cmds := [(40, { (cmdOf [0x0D]) with started := true, ran := true, status := some 0 })] })] }
theorem test_freed : nextHas (.commandComplete 0 3 40) sFreed (fun t => (queueAt t 3).held == [] &&
    t.out.take 2 == [.readData (.pf 0) [1], .readData (.vf 0 0) [1]]) = true ∧ 0 < (queueAt sFreed 3).run ∧
    (cmdAt sFreed 3 40).isSome = true := by decide +kernel
/-- The mirror record of the idle queue, whose 64 entries are free, with SEQ 1. -/
theorem test_mirror : nextHas (.mirrorWrite 0 3) sMirror (fun t => (queueAt t 3).seq == 1 && !(queueAt t 3).mirrorDue &&
    t.out.length == 1) = true := by decide +kernel
/-- One of two held reads has been held long enough. -/
theorem test_hold : nextHas (.compatHoldExpiry 0 3) sHeld (fun t => t.out == [.readData (.vf 0 0) [0x80000000]] &&
    (queueAt t 3).held == [(.pf 0, 1)]) = true := by decide +kernel

/-! ### QueuesAreEnabledUnderTheirConditionsAndDisabledAtOnce -/

theorem wit_enable : reach sRings (.vf 0 0) (QUE_CTRL 3) = .yes ∧ flag sRings (QUE_CTRL_ENABLE 3) = false ∧ ctxState sRings 0 = 1 ∧
    (6 ≤ getF sRings (QUE_SIZE_LOG2 3) ∧ getF sRings (QUE_SIZE_LOG2 3) ≤ 16) ∧
    ringOk sRings 3 (queRing sRings 3) (64 * 2 ^ getF sRings (QUE_SIZE_LOG2 3)) false = true ∧
    ringOk sRings 3 (queCpl sRings 3) (16 * 2 ^ getF sRings (QUE_SIZE_LOG2 3)) true = true ∧ mirrorOk sRings 3 = true ∧
    (queueAt sRings 3).cmds.length = 0 := by decide +kernel
theorem wit_enable_refused : reach sReady (.vf 0 0) (QUE_CTRL 3) = .yes ∧ flag sReady (QUE_CTRL_ENABLE 3) = false ∧
    ringOk sReady 3 (queRing sReady 3) (64 * 2 ^ getF sReady (QUE_SIZE_LOG2 3)) false = false := by decide +kernel
theorem wit_disable : reach sFetch (.vf 0 0) (QUE_CTRL 3) = .yes ∧ flag sFetch (QUE_CTRL_ENABLE 3) = true ∧ 0 < (queueAt sFetch 3).run := by
  decide +kernel
theorem wit_mirror_enable : flag (setF sRings (QUE_CTRL_ENABLE 3) 1) (QUE_CTRL_ENABLE 3) = true ∧
    flag (setF sRings (QUE_CTRL_ENABLE 3) 1) (QUE_CTRL_MIRROR 3) = false ∧ mirrorOk (setF sRings (QUE_CTRL_ENABLE 3) 1) 3 = true ∧
    flag sFetch (QUE_CTRL_MIRROR 3) = false ∧ mirrorOk sFetch 3 = false := by decide +kernel
theorem test_enable : nextHas (.queueEnable (.vf 0 0) 0 3 5) sRings (fun t => flag t (QUE_CTRL_ENABLE 3) && flag t (QUE_CTRL_MIRROR 3) &&
    (queueAt t 3).run == 1) = true := by decide +kernel
theorem test_enable_refused : nextHas (.queueEnable (.vf 0 0) 0 3 1) sReady (fun t => !flag t (QUE_CTRL_ENABLE 3) && flag t (QUE_ERR_CONFIG 3) &&
    t.out == [.msix 0 1 16]) = true := by decide +kernel

/-! ### ContextsOpenCloseAndEnd -/

/-- Context 1 CLOSED with the settings of an open: job 7 on VF 2, axes data, sequence, model, a host window for its records. -/
def sOpening : State := sets sReady [(CTX_JOB_JOB 1, 7), (CTX_CFG_VF 1, 2), (CTX_CFG_AXES 1, 0x24), (MEM_HOSTWIN_BASE_HI_VALID 1 0, 1),
  (MEM_HOSTWIN_SIZE_PAGES 1 0, 256), (MEM_HOSTWIN_CTRL_WRITE 1 0, 1), (CTX_STEPREC_HI_ADDR 1, 0x80000000),
  (CTX_SYNC_BASE 1, 512), (CTX_SYNC_COUNT 1, 4), (SYNC_STATUS_STATUS 515, 0x30), (MEM_CTX_HBM_QUOTA_MIB 1, 4)]
theorem wit_open : reach sOpening (.pf 0) (CTX_CTRL 1) = .yes ∧ isVf (.pf 0) = false ∧ openStatus sOpening 1 = 0 ∧
    openStatus (setF sOpening (MEM_CTX_HBM_QUOTA_MIB 1) 2) 1 = 0x40 ∧ openStatus (setF sOpening (CTX_CFG_VF 1) 0) 1 = 0x13 ∧
    openStatus (setF sOpening (CTX_JOB_JOB 1) 0x1234) 1 = 0x12 := by decide +kernel
theorem wit_open_space : (openCtx sOpening 1).2 = 0 ∧
    (openCtx { sOpening with allocs := [⟨hbmBase, 0xA000000000, 5, .cache⟩] } 1).2 = 0x40 := by decide +kernel
theorem test_open : nextHas (.ctxOpen (.pf 0) 1 1) sOpening (fun t => ctxState t 1 == 1 && syncStatus t 515 == 0 && inSyncRange t 1 515 &&
    getF t (MEM_CTX_HBM_USED_UNITS 1) == 40) = true := by decide +kernel
theorem wit_close : reach (sFetched waiting) (.pf 0) (CTX_CTRL 0) = .yes ∧ ctxState (sFetched waiting) 0 = 1 := by decide +kernel
theorem wit_closed : ctxState (setF sReady (CTX_STATE_STATE 0) 2) 0 = 2 ∧ ctxBusy (setF sReady (CTX_STATE_STATE 0) 2) 0 = false ∧
    reach (setF sReady (TRUST_STATE_STATE) 3) (.vf 0 0) (CTX_JOB 0) = .yes := by decide +kernel

/-! ### PostsWaitsAndNotificationsFollowTheObjects -/

/-- Object 5 notified by interrupt 9, object 6 by a host write, object 7 through access port 2; each due. -/
def sNotify : State := sets { sRings with notify := [5, 6, 7] }
  [(SYNC_NOTIFY_KIND 5, 2), (SYNC_NOTIFY_VECTOR 5, 9), (SYNC_NOTIFY_KIND 6, 1), (SYNC_NADDR_HI_ADDR 6, 0x80000000), (SYNC_NOTIFY_KIND 7, 3),
    (SYNC_NOTIFY_PORT 7, 2), (ACC_STATUS_STATE 2, 3), (SYNC_NOTIFY_KIND 8, 1), (SYNC_NOTIFY_KIND 9, 3)]
theorem wit_post : reach sNotify (.vf 0 0) (SYNC_POST 5) = .yes ∧ objCtx sNotify 5 = some 0 ∧
    reach sNotify (.pf 0) (SYNC_POST 600) = .yes ∧ objCtx sNotify 600 = none := by decide +kernel
theorem wit_signal_post : cmdAt (sStarted ([0x0C] ++ zeros 15 ++ [10, 0, 1, 0x60, 0, 0, 0, 0, 7])) 3 40 = some (startedWith ([0x0C] ++ zeros 15 ++ [10, 0, 1, 0x60, 0, 0, 0, 0, 7])) ∧
    cOp (startedWith ([0x0C] ++ zeros 15 ++ [10, 0, 1, 0x60, 0, 0, 0, 0, 7])).bytes = 0x0C ∧
    fieldAt (startedWith ([0x0C] ++ zeros 15 ++ [10, 0, 1, 0x60, 0, 0, 0, 0, 7])).bytes 0x12 1 = 1 ∧ rank 0x60 < 11 ∧ objCtx sQueue 10 = some 0 ∧
    ¬ (fieldAt (startedWith ([0x0C] ++ zeros 15 ++ [10, 0, 2])).bytes 0x12 1 ≤ 1) := by decide +kernel
theorem test_signal_post : nextHas (.signalPost 0 3 40) (sStarted ([0x0C] ++ zeros 15 ++ [10, 0, 1, 0x60, 0, 0, 0, 0, 7]))
    (fun t => syncValue t 10 == 7 && syncStatus t 10 == 0x60) = true := by decide +kernel
/-- SIGNAL_WAIT for object 10 at 1 in its first condition. -/
def waitCond : List Byte := [0x0B] ++ zeros 15 ++ [10, 0x80, 0, 0, 0, 0, 0, 0, 1]
theorem wit_signal_wait : cOp (startedWith waitCond).bytes = 0x0B ∧
    (((cWaits (startedWith waitCond).bytes).zip (latchCmd sQueue (startedWith waitCond)).waits).all (fun p => p.1.isNone || p.2.isSome)) = false ∧
    (((cWaits (startedWith waitCond).bytes).zip (latchCmd (post sQueue 10 .add 1 0x60) (startedWith waitCond)).waits).all
      (fun p => p.1.isNone || p.2.isSome)) = true := by decide +kernel
theorem wit_notify : [5, 6, 7] = sNotify.notify ∧ objCtx sNotify 5 = some 0 ∧ objCtx sNotify 6 = some 0 ∧ objCtx sNotify 7 = some 0 ∧
    getF sNotify (SYNC_NOTIFY_KIND 5) = 2 ∧ getF sNotify (SYNC_NOTIFY_KIND 6) = 1 ∧ getF sNotify (SYNC_NOTIFY_KIND 7) = 3 ∧
    inHostWin sNotify 0 (notifyAddr sNotify 6) 16 true = true ∧ hostUp sNotify (bits (notifyAddr sNotify 6) 62 62) (ctxVf sNotify 0) = true ∧
    accUp sNotify (getF sNotify (SYNC_NOTIFY_PORT 7)) = true ∧ notifyWaits sNotify 2 (notifyAddr sNotify 7) = false ∧
    inHostWin sNotify 0 (notifyAddr sNotify 8) 16 true = false ∧ accUp sNotify (getF sNotify (SYNC_NOTIFY_PORT 9)) = false := by decide +kernel
theorem wit_posts : objCtx sNotify 5 = some 0 ∧ ([⟨5, .set, 3, 0⟩, ⟨5, .add, 2, 0x60⟩, ⟨6, .add, 1, 0⟩] : List Post).all
    (fun p => decide (p.obj < 16384 ∧ p.status < 256)) = true := by decide +kernel
theorem test_posts : (let t := postAll sNotify [⟨5, .add, 2, 0x60⟩, ⟨5, .set, 3, 0⟩, ⟨6, .add, 1, 0⟩]
    (syncValue t 5, syncStatus t 5, syncValue t 6)) = (5, 0x60, 1) := by decide +kernel

/-! ### AccessPortsTakeFramesInOrder -/

theorem wit_frames : accUp sAcc 2 = true ∧ fHead.hopOk = true ∧ fHead.udpOk = true ∧ fHead.fseq.toNat = (accAt sAcc 2).rxSeq ∧
    ({ fHead with fseq := 1 } : FrameHead).fseq.toNat ≠ (accAt sAcc 2).rxSeq ∧
    (accAt (frameTaken sAcc 2 fHead 1) 2).reads.find? (fun r => r.tag == 7 && r.sent.isSome) = some ⟨7, (3, 40), 0, 16, some 0⟩ ∧
    sAcc.upsets = [] ∧ (runOf (withAcc (frameTaken sAcc 2 fHead 1) 2 (fun t => { t with reads := t.reads.filter (fun r => r.tag != 7) })) (3, 40)).isSome = true ∧
    accessFault (withAcc (frameTaken sAcc 2 fHead 1) 2 (fun t => { t with reads := t.reads.filter (fun r => r.tag != 7) }))
      (some 0) (hbmBase + 0) 16 true = none := by decide +kernel
theorem wit_frame_cells : flag sAcc (HEALTH_PORT_OWNER_VALID 2) = true ∧ ctxState sAcc (getF sAcc (HEALTH_PORT_OWNER_CONTEXT 2)) ≠ 0 ∧
    ctxJob sAcc (getF sAcc (HEALTH_PORT_OWNER_CONTEXT 2)) = (0x1234 : BitVec 16).toNat ∧
    ctxJob sAcc (getF sAcc (HEALTH_PORT_OWNER_CONTEXT 2)) ≠ (0x1235 : BitVec 16).toNat := by decide +kernel
theorem test_mem_data : nextHas (.memData 2 fHead 7 true (List.replicate 16 0x5A)) sAcc
    (fun t => byteAt t.mem 0 (hbmBase + 15) == 0x5A && t.copying.isEmpty && (accAt t 2).rxSeq == 1) = true := by decide +kernel
theorem test_cell_of_another_job : nextHas (.cellsFrame 2 fHead [{ type := 0, vc := 1, job := 0x1235, payload := zeros 64 }]) sAcc
    (fun t => getF t (ACC_DROP_COUNT_COUNT 2) == 1) = true := by decide +kernel

/-! ### AccessPortsStartStopResendAndSwitch -/

theorem wit_acc_enable : reach sReady (.pf 0) (ACC_CTRL 2) = .yes ∧ sReady.power.refLost = false ∧
    flag sReady (ACC_CTRL_ENABLE 2) = false ∧ getF sReady (ACC_STATUS_STATE 2) = 0 ∧
    flag (setF sReady (ACC_CTRL_ENABLE 2) 1) (ACC_CTRL_ENABLE 2) = true := by decide +kernel
theorem wit_acc_up : getF (setF sReady (ACC_STATUS_STATE 2) 1) (ACC_STATUS_STATE 2) = 1 ∧ getF sReady (ACC_CTRL_MAXRATE 2) ≤ 2 ∧
    flag sReady (ACC_CTRL_AN 2) = true := by decide +kernel
/-- Access port 2 up with one frame kept since tick 0. -/
def sKept : State := sets { sReady with now := 100000, access := [(2, { kept := [(0, .cells [])], txSeq := 1, ackDue := some 5, timeouts := 6 })] }
  [(ACC_STATUS_STATE 2, 3)]
theorem wit_acc_kept : getF sKept (ACC_STATUS_STATE 2) = 3 ∧ (accAt sKept 2).ackDue = some 5 ∧ (accAt sKept 2).kept = [(0, .cells [])] ∧
    (accAt sKept 2).lastAck + (rd sKept (ACC_RTO 2)).toNat ≤ sKept.now ∧ (accAt sKept 2).timeouts < 7 := by decide +kernel
theorem test_acc_rto : nextHas (.accRto 2) sKept (fun t => (accAt t 2).timeouts == 7 && t.out == [.frame 2 0 0 1024 (.cells [])]) = true := by
  decide +kernel
theorem wit_acc_memory : (accAt sAcc 2).reads.find? (fun r => r.tag == (7 : BitVec 16).toNat) = some ⟨7, (3, 40), 0, 16, some 0⟩ ∧
    sAcc.now < 0 + (rd sAcc ACC_MEM_TIMEOUT).toNat ∧
    0 + (rd { sAcc with now := 2 ^ 32 } ACC_MEM_TIMEOUT).toNat ≤ ({ sAcc with now := 2 ^ 32 } : State).now := by decide +kernel
theorem wit_switch : reach sReady (.pf 0) (HEALTH_PORT_OWNER 2) = .yes ∧ switchWanted sAcc 2 = true ∧ portUsed sAcc 2 = true ∧
    switchWanted (setF sReady (HEALTH_PORT_OWNER_NEXT_VALID 2) 1) 2 = true ∧
    portUsed (setF sReady (HEALTH_PORT_OWNER_NEXT_VALID 2) 1) 2 = false := by decide +kernel

/-! ### PoolCellsObeyTheirNamedOwner -/

/-- Cell 5 held by 0x4001, its last owner, and two more; cell 6 with one reference linked to cell 7; cell 9 quarantined. -/
def sPool : State := { sReady with
  descs := [(5, { state := true, count := 3, last := 0x4001 }), (6, { state := true, count := 1, last := 0x4001, endc := false, next := 7, charged := true }),
    (7, { state := true, count := 1, last := 0x4001 }), (8, { state := true, count := 2, last := 0x4001, pending := true }), (9, { quarantined := true })]
  freeList := [[4], []] }
theorem wit_pool : sPool.freeList.getD 0 [] = 4 :: [] ∧ (descAt sPool 9).quarantined = true ∧ (descAt sPool 4).state = false ∧
    (descAt sPool 5).state = true ∧ (0x4001 : OwnerId) = (descAt sPool 5).last ∧ (descAt sPool 5).count + 28 ≤ 31 ∧
    31 < (descAt sPool 5).count + 29 ∧ (0x4002 : OwnerId) ≠ (descAt sPool 5).last ∧ (descAt sPool 7).count = 1 ∧
    (descAt sPool 8).pending = true ∧ (descAt sPool 8).count = 2 ∧ (descAt sPool 6).charged = true := by decide
/-- Context 0 with a bucket of 3 reserved pool cells whose downward port 0 is on die A. -/
def sPoolBucket : State := { sPair 1 { member with poolLeft := 3 } with freeList := [[4], []] }
theorem wit_pool_left : cellsHeld sPool 0 (ownIngress 0) < setAside 0 (ownIngress 0) ∧ setAside 0 0x4001 ≤ cellsHeld sPool 0 0x4001 ∧
    reservingBucket sPool 0 0 = none ∧ reservingBucket sPoolBucket 0 0 = some 3 := by decide +kernel
theorem wit_pool_chain : [6, 7].Nodup ∧ [6, 7].head? = some (6 : CellAddr).toNat ∧ (descAt sPool 6).endc = decide (0 + 1 = 2) ∧
    (descAt sPool 6).next = 7 ∧ (descAt sPool 7).endc = decide (1 + 1 = 2) ∧ (descAt sPool 7).last = 0x4001 := by decide
theorem test_pool_charged : nextHas (.poolAllocate 0 0x4001 (some 0)) sPoolBucket (fun t => t.freeList == [[], []] &&
    (t.buckets.map (fun p => p.2.poolLeft)) == [2]) = true := by decide +kernel
theorem test_pool_chain : nextHas (.poolFree 6 0x4001 true) sPool (fun t => t.freeList == [[7, 6, 4], []]) = true := by decide +kernel
theorem test_pool_over_drop : nextHas (.poolDrop 7 0x4002) sPool (fun t => getF t POOL_OWNER_ERR_COUNT_COUNT == 1 && getF t POOL_ERR_LOG0_KIND == 3 &&
    getF t POOL_ERR_LOG0_CELL == 7 && t.descs == sPool.descs) = true := by decide +kernel

/-! ### ArrivingCellsGoOnOrAreDiscarded -/

theorem wit_forward : portUp sFabric 0 = true ∧ unitExpected (torusAt sFabric 0) (xW32 1056) = true ∧ headerGood (xW32 1056) = true ∧
    headerGood { xW32 1056 with crc := some 0 } = false ∧ unitExpected (torusAt sFabric 0) { xW32 1056 with idx := some 7 } = false ∧
    torusVcOk (xW32 1056) = true ∧
    torusVcOk { xW32 1056 with vc := 4 } = false ∧ coordOk sFabric 2047 = false ∧ coordValid sFabric = true ∧
    coordOk sFabric 1056 = true ∧ nextHop sFabric (ownCoord sFabric) 1056 false (some 0) = some (1, false) ∧
    portBlocked sFabric 1 = false ∧ coordOk sFabric (1057 + 32) = true ∧
    nextHop sFabric (ownCoord sFabric) (1057 + 32) false (some 0) = some (2, false) ∧ portBlocked sFabric 2 = true ∧
    nextHop sFabric (ownCoord sFabric) 1057 false (some 0) = none ∧ jobCtx sFabric 0x1235 = none := by decide +kernel
theorem wit_credit : (torusAt sFabric 0).store.length < 512 ∧ 8 ∈ (torusAt sFabric 0).returns ∧ (torusAt sFabric 0).resend = [] ∧
    controlDue sFabric 0 = false ∧ creditIsDue sFabric 0 = true := by decide +kernel
theorem test_forward_job : nextHas (.cellForward 0 { xW32 1057 with job := 0x1235 }) sFabric
    (fun t => getF t (FAB_PORT_DROP_JOB_COUNT 0) == 1 && t.cells.isEmpty) = true := by decide +kernel

/-! ### EgressSlotsFollowTheOrderOfGrants -/

/-- Port +X with a VC0 and a VC1 cell of the module's own waiting, its rate counters full, nothing to return. -/
def sSlot : State := { sFabric with
  cells := [{ cell := xW32 1058, src := .inject 0, sub := 0, egress := 0, since := 0 },
    { cell := { dest := 1058, type := 5, vc := 0, job := 0x1234 }, src := .inject 0, sub := 0, egress := 0, since := 0 }]
  torus := [(0, { credits := List.replicate 16 100 })]
  egress := [(0, { c0 := 1000, c7 := 1000 })] }
theorem wit_slot : portUp sSlot 0 = true ∧ (torusAt sSlot 0).resend = [] ∧ (torusAt sSlot 0).store.length < 512 ∧
    creditIsDue sSlot 0 = false ∧ creditIsDue { sFabric with now := 1 } 0 = true ∧
    (chooseGrant (countStalls (slotGains sSlot 0) 0) 0).1.map (fun r => (r.1.cell.vc, r.2)) = some (0, false) ∧
    (chooseGrant (countStalls (slotGains { sSlot with cells := [] } 0) 0) 0).1 = none ∧ sSlot.upsets = [] ∧
    controlDue sSlot 0 = false ∧ controlDue (withTorus sSlot 0 (fun t => { t with nakDue := some 3 })) 0 = true ∧
    controlDue (withTorus sSlot 0 (fun t => { t with sinceUnit := 128 })) 0 = true := by decide +kernel
/-- After 100,000 ticks the VC1 head has aged. -/
theorem wit_slot_aged : (chooseGrant (countStalls (slotGains { sSlot with now := 2 ^ 32 } 0) 0) 0).1.map (fun r => r.2) = some true := by
  decide +kernel
theorem test_slot : nextHas (.egressSlot 0) sSlot (fun t => (t.out.head?.map (fun o => match o with | .cell 0 x false => x.vc == 0 | _ => false)) == some true &&
    (torusAt t 0).credits.getD 0 0 == 99) = true := by decide +kernel

/-! ### EchoesCutLimitersThatRecover -/

/-- An ECHO for VC1 of job 0x1234 from (2, 1, 1). -/
def xEcho : Cell := { dest := 1057, src := 1058, type := 9, echo := true, vc := 0, job := 0x1234, payload := [0xA0, 1, 1, 0] ++ zeros 60 }
theorem wit_echo : portUp sFabric 0 = true ∧ unitExpected (torusAt sFabric 0) xEcho = true ∧ headerGood xEcho = true ∧ behindAtEject sFabric 0 xEcho = false ∧ xEcho.type.toNat = tRSP ∧ coordValid sFabric = true ∧
    coordOk sFabric xEcho.dest.toNat = true ∧ xEcho.dest.toNat = ownCoord sFabric ∧ jobCtx sFabric xEcho.job.toNat = some 0 ∧
    nextHop sFabric (ownCoord sFabric) xEcho.src.toNat false none = some (0, false) ∧
    (limiterAt sFabric 0 0 1).cutAt = none ∧
    (limiterAt { sFabric with egress := [(0, { limiters := [⟨0, 1, 768, 2048, some 0⟩] })] } 0 0 1).cutAt = some 0 ∧
    sFabric.now < 0 + getF sFabric FAB_ECN_TIMING_CUT_GAP := by decide +kernel
theorem test_echo : nextHas (.ecnEcho 0 xEcho) sFabric (fun t => (limiterAt t 0 0 1).rate == 768) = true := by decide +kernel
/-- Two echo entries on die A, one with a count. -/
def sEcho : State := { sFabric with now := 2 ^ 20, echo := [[⟨1058, 0x1234, 1, 3, 0⟩, ⟨1059, 0x1234, 2, 0, 0⟩], []] }
theorem wit_echo_gap : (sEcho.echo.getD 0 []).find? (fun e => e.src == 1058 && e.job == 0x1234 && e.vc == 1) = some ⟨1058, 0x1234, 1, 3, 0⟩ ∧
    (sEcho.echo.getD 0 []).find? (fun e => e.src == 1059 && e.job == 0x1234 && e.vc == 2) = some ⟨1059, 0x1234, 2, 0, 0⟩ ∧
    0 + getF sEcho FAB_ECN_ECHO_GAP ≤ sEcho.now ∧ 0 < 0 + getF { sEcho with now := 0 } FAB_ECN_ECHO_GAP ∧
    sEcho.lastRecover + getF sEcho FAB_ECN_TIMING_RECOVER ≤ sEcho.now ∧
    sFabric.now < sFabric.lastRecover + getF sFabric FAB_ECN_TIMING_RECOVER := by decide +kernel

/-! ### RegisterAccessesActUnderTheirCodes -/

theorem wit_bus_write : meets sReady (.pf 0) (CTX_STEPREC_HI 1) = (.yes, CTX_STEPREC_HI 1) ∧
    (regAt (CTX_STEPREC_HI 1)).isSome = true ∧ (ownWrite sReady (.pf 0) (CTX_STEPREC_HI 0) 1 0 5).isNone = true ∧
    (ownWriteLate sReady (.pf 0) (CTX_STEPREC_HI 0) 1 5).isNone = true ∧ writable sReady (.pf 0) (CTX_STEPREC_HI 0) 1 = true := by decide +kernel
theorem wit_bus_read : meets sReady (.pf 0) (SYNC_VALUE_LO 5) = (.yes, SYNC_VALUE_LO 5) ∧
    (regAt (SYNC_VALUE_LO 5)).map (fun x => (pairLow x.1.base, sensed x.1.base)) = some (true, none) ∧ decoded sReady (.pf 0) = true ∧
    (regAt (SYNC_VALUE_HI 5)).map (fun x => pairLow x.1.base) = some false ∧
    (regAt (SYNC_STATUS 5)).map (fun x => pairLow x.1.base) = some false := by decide +kernel
/-- Rail 1 of 800 mV, rail 4 of 1,100 mV. -/
theorem wit_rail : meets sReady (.pf 0) (POWER_RAIL 4) = (.yes, POWER_RAIL 4) ∧ railRange sReady 1 = (790, 810) ∧
    railRange sReady 4 = (1078, 1122) := by decide +kernel
theorem wit_bus_unmapped : meets sReady (.pf 0) 0x30 = (.unmapped, 0x30) ∧ meets sReady (.pf 0) 0x31 = (.unmapped, 0x31) ∧
    (meets sReady (.pf 0) 0x4000000).1 = .absent ∧ writable (setF sReady (CTX_STATE_STATE 1) 1) (.pf 0) (CTX_STEPREC_HI 0) 1 = false := by decide +kernel
/-- R17's pair: 0x1_0000_0005 less 7 by the low word, less 1 × 2^32 by the high one; an unaligned access counts once. -/
theorem test_pair_counts : nextHas (.registerWrite (.pf 0) (BitVec.ofNat 32 (FAB_PORT_TX_CELLS 0 1)) [some 7])
      (wr64 sReady (FAB_PORT_TX_CELLS 0 1) 0x100000005) (fun t => rd64 t (FAB_PORT_TX_CELLS 0 1) == 0xFFFFFFFE) = true ∧
    nextHas (.registerWrite (.pf 0) (BitVec.ofNat 32 (FAB_PORT_TX_CELLS 0 1) + 4) [some 1])
      (wr64 sReady (FAB_PORT_TX_CELLS 0 1) 0x100000005) (fun t => rd64 t (FAB_PORT_TX_CELLS 0 1) == 5) = true ∧
    nextHas (.narrowAccess (.pf 0) 0x31 4 true) sReady (fun t => getF t GLOBAL_UNMAPPED_COUNT_COUNT == 1) = true := by decide +kernel
theorem wit_bus_pair : meets sReady (.pf 0) (FAB_PORT_TX_CELLS 0 1) = (.yes, FAB_PORT_TX_CELLS 0 1) ∧
    (regAt (FAB_PORT_TX_CELLS 0 1)).map (fun x => decide (x.1.fields = [⟨31, 0, .countLo⟩])) = some true ∧
    (regAt (FAB_PORT_TX_CELLS 0 1 + 4)).map (fun x => decide (x.1.fields = [⟨31, 0, .countHi⟩])) = some true ∧
    meets sReady (.pf 0) POWER_TEMP = (.yes, POWER_TEMP) ∧ (regAt POWER_TEMP).map (fun x => sensed x.1.base) = some (some (23, 16)) := by
  decide +kernel
/-- R17's example: four flag bits 0b0011, a write of 0b0001 leaves 0b0010; and 6 less 5 is 1. -/
theorem test_flags_and_counts : nextHas (.registerWrite (.pf 0) (BitVec.ofNat 32 GLOBAL_UNMAPPED_COUNT) [some 5])
      (setF sReady GLOBAL_UNMAPPED_COUNT_COUNT 6) (fun t => getF t GLOBAL_UNMAPPED_COUNT_COUNT == 1) = true ∧
    nextHas (.registerWrite (.pf 0) (BitVec.ofNat 32 (QUE_ERR 3)) [some 1])
      (setF (setF sReady (QUE_ERR_OVERRUN 3) 1) (QUE_ERR_CONFIG 3) 1) (fun t => rd t (QUE_ERR 3) == 2) = true := by decide +kernel
/-- R15's example: the high word read is the shadow's. -/
theorem test_shadow : nextHas (.registerPairLowRead (.pf 0) (BitVec.ofNat 32 (SYNC_VALUE_HI 5)) [true])
    (match exec (.registerPairLowRead (.pf 0) (BitVec.ofNat 32 (SYNC_VALUE_LO 5)) [true]) (wr64 sReady (SYNC_VALUE_LO 5) 0x1FFFFFFFF) with
      | .next t => wr64 t (SYNC_VALUE_LO 5) 0x200000000 | _ => sReady)
    (fun t => t.out.head? == some (.readData (.pf 0) [1])) = true := by decide +kernel

/-! ### CoordinatesAreAssignedOnceAndWithdrawn -/

theorem wit_global : reach sReady (.pf 0) GLOBAL_TORUS_DIM = .yes ∧ reach sReady (.pf 0) GLOBAL_COORD = .yes ∧
    flag sReady GLOBAL_TORUS_DIM_VALID = true ∧ flag sReady GLOBAL_COORD_VALID = true ∧
    reach (setF sReady TRUST_STATE_STATE 3) (.pf 0) GLOBAL_COORD = .yes ∧
    flag (setF sReady GLOBAL_COORD_VALID 0) GLOBAL_COORD_VALID = false ∧ reach sReady (.vf 0 0) GLOBAL_COORD = .unmapped ∧
    reach sReady (.vf 0 0) GLOBAL_TORUS_DIM = .unmapped := by decide +kernel
/-- A cell of a job and a beacon wait for +X, an OPEN is queued. -/
def sWithdraw : State := { sFabric with cells := [{ cell := xW32 1058, src := .inject 0, sub := 2, egress := 0, since := 0 },
  { cell := { dest := 0x7FFF, type := BitVec.ofNat 4 tBEACON }, src := .inject 0, sub := 2, egress := 0, since := 0 }] }
theorem wit_withdraw : coordValid sWithdraw = true ∧ sWithdraw.buckets = [] ∧ sWithdraw.causeway = [] ∧ sWithdraw.permutes = [] ∧
    sWithdraw.ferries = [] ∧ sWithdraw.layers = [] := by decide +kernel
theorem test_withdraw : nextHas (.globalCoordWrite (.pf 0) 0) sWithdraw (fun t => !coordValid t && t.cells.length == 1 &&
    getF t GLOBAL_COORD_X == getF sWithdraw GLOBAL_COORD_X && dimValid t) = true := by decide +kernel
/-- A Causeway operation, a permute with one other member and a Ferry slot that a parent feeds, the coordinate withdrawn. -/
def sGone : State := setF { sFabric with
  causeway := [(6, { slot := 0, admitted := true, op := some { n := 0, cmd := some (3, 40) } })]
  permutes := [{
    ctx := 0, cmd := (3, 40), job := 0x1234, tag := 5, width := 4, srcBase := hbmBase, dstBase := hbmBase + 8192
    staging := hbmBase + 12288, peers := [{ coord := 1058, sends := [0], recvs := [1] }] }]
  ferries := [{ key := 0, ctx := 0, job := 0x1234, tag := 7, src := .parent 1058 0, head := ⟨1, 1, 0, false, true, 9, 0, 0, 16, 0, 1⟩ }] } GLOBAL_COORD_VALID 0
theorem wit_gone : coordValid sGone = false ∧ (sGone.permutes.map (fun m => (permOthers sGone m).all (fun p => p.complete.isSome))) = [false] ∧
    sGone.ferries.map (fun f => decide (f.src = .parent 1058 0)) = [true] ∧
    (cwAt sGone 6).map (fun q => q.op.map (fun o => o.cmd)) = some (some (some (3, 40))) := by decide +kernel
/-- The example of R22: 25 × 5 × 8 is 0x800020B9. -/
theorem test_torus_dim : nextHas (.globalTorusDimWrite (.pf 0) 0x800020B9) (setF State.reset TRUST_STATE_STATE 3)
    (fun t => axisLen t 0 == 25 && axisLen t 1 == 5 && axisLen t 2 == 8 && dimValid t) = true ∧
    nextIs (.globalTorusDimWrite (.pf 0) 0x800020BA) (setF State.reset TRUST_STATE_STATE 3) (setF State.reset TRUST_STATE_STATE 3) = true := by
  decide +kernel

/-! ### RetainedCopiesAreReservedAndReleased -/

/-- RETAIN of label 5, parameter stream, Tide 9, 100,000 bytes; and RELEASE of it. -/
def retainCmdBytes : List Byte := [0x09] ++ zeros 15 ++ [5, 0, 0, 1, 9, 0, 0, 0, 0xA0, 0x86, 1]
def releaseCmdBytes : List Byte := [0x0A] ++ zeros 15 ++ [5, 0, 0, 0, 9]
def keptCopy : RetCopy := { ctx := 0, label := 5, region := false, tide := 9, keep := 1, size := 100000, cmd := none, parts := [(lagoonBase, 131072)] }
theorem wit_retain : Running (sStarted retainCmdBytes) 0 3 40 0x09 (startedWith retainCmdBytes).bytes ∧
    (sStarted retainCmdBytes).copies = [] ∧ fitsQuota (sStarted retainCmdBytes) false 0 2 = false ∧
    fitsQuota (setF (sStarted retainCmdBytes) (MEM_CTX_LAGOON_QUOTA_MIB 0) 4) false 0 2 = true ∧
    (fillSlices 0 (.retained 5 false 9 0) (List.range 128) 131072 (setF (sStarted retainCmdBytes) (MEM_CTX_LAGOON_QUOTA_MIB 0) 4)).isSome = true := by
  refine ⟨⟨startedWith retainCmdBytes, ?_⟩, ?_⟩ <;> decide +kernel
theorem wit_release : Running (sStarted releaseCmdBytes) 0 3 40 0x0A (startedWith releaseCmdBytes).bytes ∧
    ({ sStarted releaseCmdBytes with copies := [keptCopy] }).copies.find? (fun x => x.ctx == 0 && x.label == 5 && x.tide == 9) = some keptCopy := by
  refine ⟨⟨startedWith releaseCmdBytes, ?_⟩, ?_⟩ <;> decide +kernel
theorem test_retain : nextHas (.retain 0 3 40) (setF (sStarted retainCmdBytes) (MEM_CTX_LAGOON_QUOTA_MIB 0) 4)
    (fun t => (t.copies.map (fun x => (x.label, x.tide, x.size))) == [(5, 9, 100000)] && getF t (MEM_CTX_LAGOON_USED_UNITS 0) == 2) = true := by
  decide +kernel
theorem test_retain_again : nextHas (.retain 0 3 40) { setF (sStarted retainCmdBytes) (MEM_CTX_LAGOON_QUOTA_MIB 0) 4 with copies := [{ keptCopy with region := true }] }
    (fun t => (t.copies.map (fun x => x.n)) == [0, 1]) = true := by decide +kernel
theorem test_release : nextHas (.release 0 3 40) { sStarted releaseCmdBytes with copies := [keptCopy] } (fun t => t.copies.isEmpty) = true := by
  decide +kernel

/-! ### ProgramsCopiesAndReportsUseTheContextsMemory -/

/-- Slot 3, image and constants in context 0's HBM window; an image of 4 words. -/
def loadBytes : List Byte := [0x08] ++ zeros 15 ++ [3] ++ zeros 7 ++ natLe 8 hbmBase ++ natLe 8 (hbmBase + 4096)
def sLoad : State := poke (setF (sStarted loadBytes) (MEM_CTX_HBM_WIN_SIZE_MIB 0) 1) hbmBase
  (natLe 4 3 ++ natLe 4 3 ++ natLe 4 4 ++ natLe 4 0x12345678)
theorem wit_load : Running sLoad 0 3 40 0x08 (startedWith loadBytes).bytes ∧ inWindows sLoad 0 hbmBase 12 false = true ∧
    inWindows sLoad 0 (hbmBase + 4096) 4096 false = true ∧ sLoad.slots = [] ∧
    ((memRead sLoad (some 0) hbmBase 12).2.toOption.map (fun h => (fieldAt h 0 4, fieldAt h 4 4, fieldAt h 8 4))) = some (3, 3, 4) := by
  refine ⟨⟨startedWith loadBytes, ?_⟩, ?_⟩ <;> decide +kernel
theorem test_load : nextHas (.updateProgramLoad 0 3 40) sLoad (fun t => match tget t.slots 3 with
    | some p => p.ctx == 0 && (p.image == natLe 4 3 ++ natLe 4 3 ++ natLe 4 4 ++ natLe 4 0x12345678)
    | none => false) = true := by decide +kernel
/-- A COPY of 16 bytes within the window. -/
def copyBytes (sp : Byte) : List Byte := [0x0F] ++ zeros 15 ++ [sp] ++ zeros 7 ++ natLe 8 hbmBase ++ natLe 8 (hbmBase + 4096) ++ natLe 8 16
def sCopy (sp : Byte) : State := poke (sets (sStarted (copyBytes sp)) [(MEM_CTX_HBM_WIN_SIZE_MIB 0, 1), (HEALTH_PORT_OWNER_VALID 2, 1)]) hbmBase [1, 2, 3]
theorem wit_copy : Running (sCopy 0) 0 3 40 0x0F (startedWith (copyBytes 0)).bytes ∧ copySideBad (sCopy 0) 0 none hbmBase 16 false = false ∧
    copySideBad (sCopy 0) 0 none (hbmBase + 4096) 16 true = false ∧ stateProtected (sCopy 0) (hbmBase + 4096) 16 = false ∧
    copySideBad (sCopy 18) 0 (some 2) 0 16 false = false ∧ accUp (sCopy 18) 2 = false ∧ accUp (setF (sCopy 18) (ACC_STATUS_STATE 2) 3) 2 = true := by
  refine ⟨⟨startedWith (copyBytes 0), ?_⟩, ?_⟩ <;> decide +kernel
theorem test_copy : nextHas (.copy 0 3 40) (sCopy 0) (fun t => bytesAt t.mem 0 (hbmBase + 4096) 3 == [1, 2, 3]) = true := by decide +kernel
theorem test_copy_port : nextHas (.copy 0 3 40) (setF (sCopy 18) (ACC_STATUS_STATE 2) 3) (fun t => t.copying.length == 1) = true := by decide +kernel
/-- A Causeway group of the module alone, its report into the window. -/
def queryBytes : List Byte := [0x0D] ++ zeros 15 ++ [5, 0, 0, 0, 0, 0, 0, 0] ++ natLe 8 hbmBase
def sQuery : State := { sets (sStarted queryBytes) [(MEM_CTX_HBM_WIN_SIZE_MIB 0, 1)] with groups := [(5, ⟨0, aloneDesc⟩)] }
theorem wit_query : Running sQuery 0 3 40 0x0D (startedWith queryBytes).bytes ∧ groupCtx sQuery 5 = some 0 ∧ runsFit sQuery (groupDesc sQuery 5) = true ∧
    inWindows sQuery 0 hbmBase (fenceReport sQuery 0 (groupDesc sQuery 5)).length true = true ∧
    stateProtected sQuery hbmBase (fenceReport sQuery 0 (groupDesc sQuery 5)).length = false := by
  refine ⟨⟨startedWith queryBytes, ?_⟩, ?_⟩ <;> decide +kernel
theorem test_query : nextHas (.fenceQuery 0 3 40) sQuery (fun t => bytesAt t.mem 0 hbmBase 8 == [0x21, 4, 4, 0, 1, 0, 0, 0]) = true := by decide +kernel

/-! ### LayersAreBoundUnderTheirCodesAndClosedTogether -/

/-- The Causeway group of `aloneDesc` at the base of the HBM window, for entry 5; and STEP_CLOSE. -/
def bindBytes : List Byte := [0x07] ++ zeros 15 ++ [5, 0] ++ zeros 6 ++ natLe 8 hbmBase
def sBind : State := poke (sets (sStarted bindBytes) [(MEM_CTX_HBM_WIN_SIZE_MIB 0, 1), (CTX_CFG_AXES 0, 0x24)]) hbmBase aloneDesc
theorem wit_bind : Running sBind 0 3 40 0x07 (startedWith bindBytes).bytes ∧ inWindows sBind 0 hbmBase 128 false = true ∧
    groupBad sBind 0 aloneDesc = false ∧ runsFit sBind aloneDesc = true ∧ groupCtx sBind 5 = none ∧ groupBusy sBind 5 = false ∧
    gKind aloneDesc = 2 ∧ (installGroup sBind 0 5 aloneDesc).isSome = true ∧ groupBad sBind 0 (zeros 128) = true ∧
    ((memRead sBind (some 0) hbmBase 128).2.toOption) = some aloneDesc := by
  refine ⟨⟨startedWith bindBytes, ?_⟩, ?_⟩ <;> decide +kernel
theorem test_bind : nextHas (.layerBind 0 3 40) sBind (fun t => groupDesc t 5 == aloneDesc &&
    (cmdAt t 3 40).map (fun m => (m.status, m.detail)) == some (some 0, 0xFFFF)) = true := by decide +kernel
/-- Its layer descriptor of 128 elements. -/
def layerDesc : List Byte := natLe 2 0x1234 ++ [7, 0, 5, 0, 10, 0] ++ natLe 4 128 ++ [0, 1, 0, 0] ++ natLe 8 (hbmBase + 0x10000) ++ zeros 16 ++ zeros 4 ++ natLe 4 128 ++ zeros 80
def bindOwner : List Byte := [0x07] ++ zeros 15 ++ [5, 0] ++ zeros 6 ++ natLe 8 hbmBase ++ natLe 8 (hbmBase + 128)
def sBindOwner : State := { poke (sets (sStarted bindOwner) [(MEM_CTX_HBM_WIN_SIZE_MIB 0, 16), (CTX_CFG_AXES 0, 0x24),
  (MEM_CTX_LAGOON_QUOTA_MIB 0, 16)]) hbmBase (gradDesc ++ layerDesc) with slots := [(0, ⟨0, [], []⟩)] }
theorem wit_bind_owner : Running sBindOwner 0 3 40 0x07 (startedWith bindOwner).bytes ∧ groupBad sBindOwner 0 gradDesc = false ∧
    runsFit sBindOwner gradDesc = true ∧ isOwner sBindOwner gradDesc = true := by
  refine ⟨⟨startedWith bindOwner, ?_⟩, ?_⟩ <;> decide +kernel
theorem wit_layer : layerBad sBindOwner 0 [(5, ⟨0, gradDesc⟩)] layerDesc = false := by decide +kernel
theorem test_bind_owner : nextHas (.layerBind 0 3 40) sBindOwner (fun t => (tget t.layers 0).map (fun x => x.desc) == some layerDesc &&
    (cmdAt t 3 40).map (fun m => (m.status, m.detail)) == some (some 0, 0) && jTide t 0 == 0xFFFFFFFF) = true := by decide +kernel
theorem wit_close_tide : Running (sStarted [0x0E]) 0 3 40 0x0E (startedWith [0x0E]).bytes ∧ (sStarted [0x0E]).layers = [] := by
  refine ⟨⟨startedWith [0x0E], ?_⟩, ?_⟩ <;> decide +kernel
/-- An owned layer that received no bucket, and an INCONSISTENT one, each with its commit signal: both post at STEP_CLOSE. -/
def sCloseTwo : State := setF { sStarted [0x0E] with layers := [(0, { ctx := 0, desc := layerDesc }),
  (1, { ctx := 0, desc := [0x34, 0x12, 8, 0, 5, 0, 11, 0] ++ layerDesc.drop 8 })] } (LAYER_JNL_A_INCONSISTENT 1) 1
theorem wit_close_two : (tget sCloseTwo.layers 0).map (fun x => (x.ctx, x.posted, x.halted, x.staged.isEmpty)) = some (0, false, none, true) ∧
    (tget sCloseTwo.layers 1).map (fun x => (x.ctx, x.posted)) = some (0, false) ∧ jBroken sCloseTwo 1 = true ∧ jBroken sCloseTwo 0 = false ∧
    sCloseTwo.layers.all (fun p => !closeWaits sCloseTwo p.1) = true := by decide +kernel
theorem test_close_posts : (let t := (ownLayers sCloseTwo 0).foldl closeLayer sCloseTwo
    (commitPosts sCloseTwo t 0).map (fun p => (p.obj, p.status))) = [(10, 0), (11, 0)] := by decide +kernel

/-! ### BucketsAndCausewayOperationsAreOpenedUnderTheirCodes -/

/-- BUCKET_OPEN of bucket 7 of group 5 in Tide 0: 256 elements from element 0. -/
def openBytes : List Byte := [0x01] ++ zeros 15 ++ [5, 0, 7, 0, 0, 1, 0, 0]
/-- The module owns group 5 of layer 7 (128 elements), whose descriptor is installed. -/
def sOpen (l : List Byte) : State := { sets (sStarted l) [(MEM_CTX_HBM_WIN_SIZE_MIB 0, 16), (MEM_CTX_LAGOON_QUOTA_MIB 0, 16),
    (MEM_CTX_HBM_QUOTA_MIB 0, 64)] with
  groups := [(5, ⟨0, gradDesc⟩), (6, ⟨0, aloneDesc⟩)], causeway := [(6, { slot := 0 })] }
theorem wit_open_bucket : Running (sOpen openBytes) 0 3 40 0x01 (startedWith openBytes).bytes ∧ groupCtx (sOpen openBytes) 5 = some 0 ∧
    gKind (groupDesc (sOpen openBytes) 5) = 1 ∧ gCut (groupDesc (sOpen openBytes) 5) = 0 ∧ selfFenced (sOpen openBytes) = false ∧
    coordValid (sOpen openBytes) = true ∧ runsFit (sOpen openBytes) (groupDesc (sOpen openBytes) 5) = true ∧
    ctxTide (sOpen openBytes) 0 % 8 = 0 ∧ (findBucket (sOpen openBytes) 0x1234 7 false).isNone = true ∧ freeBucket (sOpen openBytes) = some 0 ∧
    isOwner (sOpen openBytes) gradDesc = true := by
  refine ⟨⟨startedWith openBytes, ?_⟩, ?_⟩ <;> decide +kernel
/-- No layer is bound, so the owner refuses with NO_ADMISSION (R145). -/
theorem test_open_bucket : nextHas (.bucketOpen 0 3 40) (sOpen openBytes) (fun t => getF t FAB_RED_REFUSE_COUNT_COUNT == 1 &&
    (cmdAt t 3 40).map (fun m => m.status) == some (some 0x41)) = true := by decide +kernel
/-- The group of two with its root at the neighbour on +X: the module's ADMIT goes there. -/
def sOpenPair : State := sets { sOpen openBytes with groups := [(5, ⟨0, pairDesc 1⟩)], torus := sFabric.torus } [(FAB_PORT_STATE_UP 0, 1), (MEM_CTX_POOL_QUOTA_A_CELLS 0, 1000), (MEM_CTX_POOL_QUOTA_B_CELLS 0, 1000)]
/-- The module alone owns the group, and its layer of 128 elements accepts. -/
def ownBytes : List Byte := [0x01] ++ zeros 15 ++ [5, 0, 7, 0, 128]
def sOpenOwn : State := sets { sOpen ownBytes with layers := [(2, { ctx := 0, desc := natLe 2 0x1234 ++ [7, 0, 5, 0, 10, 0, 128, 0, 0, 0, 0, 1, 0, 0] ++ natLe 8 hbmBase ++ zeros 16 ++ natLe 4 0 ++ natLe 4 128 ++ zeros 80, present := true })] } [(LAYER_JNL_A_VALID 2, 1)]
theorem wit_opened : Running sOpenPair 0 3 40 0x01 (startedWith openBytes).bytes ∧ Running sOpenOwn 0 3 40 0x01 (startedWith ownBytes).bytes ∧
    groupUps sOpenPair (pairDesc 1) = [] ∧ isOwner sOpenPair (pairDesc 1) = false ∧ needsEm sOpenPair (pairDesc 1) = false ∧
    neighbourFenced sOpenPair (pairDesc 1) = false ∧ barredMember sOpenPair 0 (pairDesc 1) = false ∧
    groupUps sOpenOwn gradDesc = [] ∧ isOwner sOpenOwn gradDesc = true ∧ needsEm sOpenOwn gradDesc = false ∧ gLevelMin gradDesc ≤ ownLevel sOpenOwn ∧
    ownerCode sOpenOwn 0 gradDesc 7 0 128 = none := by
  refine ⟨⟨startedWith openBytes, ?_⟩, ⟨startedWith ownBytes, ?_⟩, ?_⟩ <;> decide +kernel
/-- The leaf has sent its ADMIT; the owner alone is admitted at once and its command ends with OK. -/
theorem test_opened : nextHas (.bucketOpen 0 3 40) sOpenPair (fun t => (bucketAt t 0).map (fun e => (e.reserved, e.sentAdmit, e.verdict)) == some (true, true, none) &&
      t.cells.map (fun q => (q.egress, q.cell.type)) == [(0, 5)]) = true ∧
    nextHas (.bucketOpen 0 3 40) sOpenOwn (fun t => (bucketAt t 0).map (fun e => e.verdict) == some (some .admitted) &&
      (cmdAt t 3 40).map (fun m => m.status) == some (some 0)) = true := by decide +kernel
/-- REDUCE of tag 7, group 5; and the bucket admitted. -/
def reduceBytes : List Byte := [0x02] ++ zeros 15 ++ [5, 0, 7]
def sReduce : State := { sOpen reduceBytes with
  buckets := [(3, { job := 0x1234, tag := 7, created := 0, ctx := some 0, group := 5, n := 256, verdict := some .admitted })] }
theorem wit_reduce : Running sReduce 0 3 40 0x02 (startedWith reduceBytes).bytes := by
  refine ⟨startedWith reduceBytes, ?_⟩; decide +kernel
theorem test_reduce : nextHas (.reduce 0 3 40) sReduce (fun t => (bucketAt t 3).map (fun e => e.reduceCmd) == some (some (3, 40))) = true := by
  decide +kernel
/-- The same bucket ended here with OK: REDUCE ends at once. -/
theorem test_reduce_ended : nextHas (.reduce 0 3 40) { sReduce with buckets := sReduce.buckets.map (fun p => (p.1, { p.2 with outcome := some 0, excluded := 2 })) }
    (fun t => (cmdAt t 3 40).map (fun m => (m.status, m.detail)) == some (some 0, 0x20000)) = true := by decide +kernel
theorem test_reduce_none : nextHas (.reduce 0 3 40) (sOpen reduceBytes)
    (fun t => (cmdAt t 3 40).map (fun m => m.status) == some (some 0x12)) = true := by decide +kernel
/-- CAUSEWAY_OP on entry 6, whose group is the module alone: it is admitted at once and ends. -/
def opBytes : List Byte := [0x06] ++ zeros 15 ++ [6]
theorem wit_causeway : Running (sOpen opBytes) 0 3 40 0x06 (startedWith opBytes).bytes ∧ groupCtx (sOpen opBytes) 6 = some 0 ∧
    gKind (groupDesc (sOpen opBytes) 6) = 2 ∧ runsFit (sOpen opBytes) aloneDesc = true ∧ cwFenced (sOpen opBytes) aloneDesc = false ∧
    cwAt (sOpen opBytes) 6 = some { slot := 0 } := by
  refine ⟨⟨startedWith opBytes, ?_⟩, ?_⟩ <;> decide +kernel
/-- The slot admitted before: the operation of the module alone is number 0 and ends with OK. -/
def sOpAlone : State := { sOpen opBytes with causeway := [(6, { slot := 0, admitted := true })] }
theorem wit_op_alone : Running sOpAlone 0 3 40 0x06 (startedWith opBytes).bytes ∧ gPorts aloneDesc = [] ∧ groupUps sOpAlone aloneDesc = [] ∧
    groupDown sOpAlone aloneDesc = none ∧ fieldAt (startedWith opBytes).bytes 0x18 8 = 0 := by
  refine ⟨⟨startedWith opBytes, ?_⟩, ?_⟩ <;> decide +kernel
theorem test_op_alone : nextHas (.causewayOp 0 3 40) sOpAlone (fun t => (cmdAt t 3 40).map (fun m => (m.status, m.detail)) == some (some 0, 0) &&
    (cwAt t 6).map (fun w => w.next) == some 1) = true := by decide +kernel
theorem test_causeway : nextHas (.causewayOp 0 3 40) (sOpen opBytes) (fun t => (cmdAt t 3 40).map (fun m => m.status) == some (some 0)) = true := by
  decide +kernel

/-! ### SendsGathersAndPermutesBeginUnderTheirCodes -/

/-- FERRY_SEND of 16 raw FP32 values of the window's second page, its plan of one entry, (2, 1, 1), at the window's base. -/
def sendBytes : List Byte := [0x04] ++ zeros 15 ++ [1, 0, 3, 0, 9, 0, 0, 0] ++ natLe 8 hbmBase ++ natLe 8 (hbmBase + 4096) ++ natLe 4 0 ++ natLe 4 16
def sSend : State := poke (sets (sStarted sendBytes) [(MEM_CTX_HBM_WIN_SIZE_MIB 0, 1), (FAB_PORT_STATE_UP 0, 1)]) hbmBase
  ([1, 0] ++ zeros 30 ++ natLe 2 1058 ++ zeros 6)
theorem wit_send : Running sSend 0 3 40 0x04 (startedWith sendBytes).bytes ∧ within hbmBase 32 (hbmWin sSend 0) = true ∧
    (match sendChecks sSend 0 (startedWith sendBytes).bytes with | .ok x => x == (.region (hbmBase + 4096), 0, 0) | .error _ => false) = true ∧
    planBad sSend ([1, 0] ++ zeros 30) [planEntry (natLe 2 1058 ++ zeros 6) 0] 16 16 = false := by
  refine ⟨⟨startedWith sendBytes, ?_⟩, ?_⟩ <;> decide +kernel
theorem test_send : nextHas (.ferrySend 0 3 40) sSend (fun t => t.ferries.map (fun f => (f.key, f.head.cells, f.children.length)) == [(256, 1, 1)]) = true := by
  decide +kernel
/-- GATHER of label 9, Tide 0, source STREAM, then RETAINED. -/
def gatherBytes (src : Byte) : List Byte := [0x03] ++ zeros 15 ++ [9, 0, src, 1, 0, 0, 0, 0, 0, 0, 0, 0, 4]
theorem wit_gather : Running (sStarted (gatherBytes 0)) 0 3 40 0x03 (startedWith (gatherBytes 0)).bytes := by
  refine ⟨startedWith (gatherBytes 0), ?_⟩; decide +kernel
theorem test_gather : nextHas (.gather 0 3 40) (sStarted (gatherBytes 0)) (fun t => t.gathers.map (fun g => (g.label, g.region, g.chunk)) == [(9, true, 4)]) = true ∧
    nextHas (.gather 0 3 40) (sStarted (gatherBytes 1)) (fun t => (cmdAt t 3 40).map (fun m => m.status) == some (some 0x31)) = true := by decide +kernel
/-- PERMUTE of the module with itself: element 1 of SRC to element 0 of DST, 4 bytes. -/
def permuteBytes : List Byte := [0x05] ++ zeros 15 ++ natLe 8 hbmBase ++ [2]
def sPermute : State := poke (sets (sStarted permuteBytes) [(MEM_CTX_HBM_WIN_SIZE_MIB 0, 1)]) hbmBase
  ([1, 0, 4] ++ zeros 5 ++ natLe 8 (hbmBase + 4096) ++ natLe 8 (hbmBase + 8192) ++ natLe 8 (hbmBase + 12288) ++
    natLe 2 1057 ++ zeros 2 ++ natLe 4 1 ++ natLe 8 (hbmBase + 256) ++ natLe 4 1 ++ zeros 4 ++ natLe 8 (hbmBase + 512) ++ zeros 192 ++ natLe 4 1)
theorem wit_permute : Running sPermute 0 3 40 0x05 (startedWith permuteBytes).bytes ∧ within hbmBase 32 (hbmWin sPermute 0) = true := by
  refine ⟨⟨startedWith permuteBytes, ?_⟩, ?_⟩ <;> decide +kernel
theorem wit_permute_alone : (ownCoord sPermute) = 1057 ∧ sPermute.readies = [] ∧ sPermute.upsets = [] ∧ sSend.upsets = [] := by decide +kernel
theorem test_permute : nextHas (.permute 0 3 40) (poke sPermute (hbmBase + 4100) [7]) (fun t => bytesAt t.mem 0 (hbmBase + 8192) 4 == [7, 0, 0, 0] &&
    (cmdAt t 3 40).map (fun m => m.status) == some (some 0)) = true := by decide +kernel
/-- Two elements sent and one received: the PERMUTE of the module alone ends with MISMATCH. -/
theorem test_permute_mismatch : nextHas (.permute 0 3 40) (poke sPermute (hbmBase + 36) [2]) (fun t =>
    (cmdAt t 3 40).map (fun m => m.status) == some (some 0x10)) = true := by decide +kernel
/-- A member at (2, 1, 1) beside the module: READY leaves for it. -/
theorem test_permute_ready : nextHas (.permute 0 3 40) (poke (sets sPermute [(FAB_PORT_STATE_UP 0, 1)]) hbmBase ([2, 0] ) |> fun s => poke s (hbmBase + 64) (natLe 2 1058))
    (fun t => t.permutes.length == 1 && t.cells.length == 1) = true := by decide +kernel
/-- A stream of the label that has finished: the GATHER ends at once. -/
theorem test_gather_done : nextHas (.gather 0 3 40) { sStarted (gatherBytes 0) with finished := [⟨0, 0, 9, true, 0, 5⟩] } (fun t =>
    (cmdAt t 3 40).map (fun m => (m.status, m.detail)) == some (some 0, 5)) = true := by decide +kernel

/-! ### KernelsLaunchRunAndAbort -/

/-- A launch on Cay 9 for context 0: image of 4 words and its page in the HBM window. -/
def sKernel : State := poke (sets sReady [(MEM_CTX_HBM_WIN_SIZE_MIB 0, 1), (⟨CAY_KL_IMAGE_HI 9, 31, 0⟩, 0x100), (⟨CAY_KL_CONST_HI 9, 31, 0⟩, 0x100),
  (⟨CAY_KL_CONST_LO 9, 31, 0⟩, 4096)]) hbmBase (natLe 4 3 ++ natLe 4 3 ++ natLe 4 4 ++ natLe 4 0x12345678)
theorem wit_kernel_start : reach sKernel (.pf 0) (CAY_KL_CTRL 9) = .yes ∧ getF sKernel (CAY_KL_STATE_STATE 9) = 0 ∧ ctxState sKernel 0 = 1 ∧
    cayUp sKernel 9 = true ∧ within hbmBase 12 (hbmWin sKernel 0) = true ∧ pairAddr sKernel (CAY_KL_IMAGE_LO 9) (CAY_KL_IMAGE_HI 9) = hbmBase ∧
    pairAddr sKernel (CAY_KL_CONST_LO 9) (CAY_KL_CONST_HI 9) = hbmBase + 4096 ∧
    ctxState (setF sKernel (CAY_KL_CTX_CTX 9) 5) 5 = 0 ∧ getF (setF sKernel (CAY_KL_STATE_STATE 9) 1) (CAY_KL_STATE_STATE 9) = 1 := by decide +kernel
theorem test_kernel_start : nextHas (.cayKlStart (.pf 0) 9 1) sKernel (fun t => getF t (CAY_KL_STATE_STATE 9) == 1) = true ∧
    nextHas (.cayKlStart (.pf 0) 9 1) (setF sKernel (CAY_KL_CTX_CTX 9) 5)
      (fun t => getF t (CAY_KL_STATE_STATE 9) == 3 && getF t (CAY_KL_STATE_STATUS 9) == 0x12) = true ∧
    nextHas (.cayKlAbort (.pf 0) 9 2) (setF sKernel (CAY_KL_STATE_STATE 9) 1)
      (fun t => getF t (CAY_KL_STATE_STATE 9) == 3 && getF t (CAY_KL_STATE_STATUS 9) == 0x60) = true := by decide +kernel
/-- The same kernel queued. -/
def sQueued : State := { setF sKernel (CAY_KL_STATE_STATE 9) 1 with
  cays := [(9, { queued := some (natLe 4 3 ++ natLe 4 3 ++ natLe 4 4 ++ natLe 4 0x12345678, zeros 0x1000) })] }
theorem wit_kernel_run : (cayAt sQueued 9).call = none ∧ cayUp sQueued 9 = true ∧ getF sQueued (CAY_KL_STATE_STATE 9) = 1 ∧
    (cayAt sQueued 9).queued.isSome = true ∧ (cayAt sQueued 9).lastCtx = none := by decide +kernel
theorem test_kernel_run : nextHas (.kernelRun 9) sQueued (fun t => getF t (CAY_KL_STATE_STATE 9) == 2 && (cayAt t 9).pc == 3 &&
    (cayAt t 9).g.getD 9 0 == 0x1204000) = true := by decide +kernel

/-! ### TheScrubberMarksWhatItFinds -/

theorem wit_scrub : getF sReady MEM_SCRUB_HOURS ≠ 0 ∧ cayUp sReady 1 = true ∧ (lagoonBase + 64 * 2097152) / 64 ∉ sReady.poison ∧
    cayUp (setF sReady (HEALTH_CAY_STATE 1) 2) 1 = false ∧ flag sReady MEM_ERR_LOG0_VALID = false ∧
    getF (setF sReady MEM_SCRUB_HOURS 0) MEM_SCRUB_HOURS = 0 ∧ hbmBase + 64 * 64 < 0x1A000000000 ∧ (descAt sReady 5).quarantined = false ∧ (1 : WrongSymbols).val = 1 ∧ (3 : WrongSymbols).val = 3 := by decide +kernel
theorem test_scrub : nextHas (.patrolScrub (.lagoon 2097153) 3) sReady (fun t => getF t (MEM_ECC_LAGOON_UNCORRECTED 1) == 1 &&
    rd64 t MEM_ERR_LOG1 == lagoonBase + 0x8000040 && getF t (HEALTH_CAY_SCORE 1) == 2048) = true ∧
    nextHas (.patrolScrub (.poolDesc 5) 2) sReady (fun t => (descAt t 5).quarantined && getF t POOL_QUARANTINE_COUNT == 1 &&
      getF t POOL_ERR_LOG0_KIND == 4 && getF t POOL_ERR_LOG0_CELL == 5) = true := by
  decide +kernel
/-- A range of one charge unit waits to be zeroed. -/
def sZero : State := { poke sReady lagoonBase [1, 2, 3] with zeroing := [(lagoonBase, 65536)] }
theorem wit_zero : sZero.zeroing.find? (fun z => z.1 == lagoonBase) = some (lagoonBase, 65536) ∧ lagoonBase + 65536 ≤ hostBase := by decide +kernel
theorem test_zero : nextHas (.rangeZeroed lagoonBase) sZero (fun t => t.zeroing.isEmpty && t.mem.isEmpty) = true := by decide +kernel

/-! ### EyeScansCountDisagreements -/

theorem wit_eye : reach sReady (.pf 0) (LANE_EYE_CTRL 2 7) = .yes ∧ (2, 7) ∉ sReady.eyes ∧ (2, 7) ∈ ({ sReady with eyes := [(2, 7)] }).eyes := by
  decide +kernel
theorem test_eye : nextHas (.eyeScanDone 2 7 5) { setF sReady (LANE_EYE_CTRL_LOG2 2 7) 0 with eyes := [(2, 7)] } (fun t => rd t (LANE_EYE_RESULT 2 7) == 0x80000001) = true ∧
    nextHas (.eyeScanDone 2 7 5) { setF sReady (LANE_EYE_CTRL_LOG2 2 7) 10 with eyes := [(2, 7)] } (fun t => rd t (LANE_EYE_RESULT 2 7) == 0x80000005) = true := by
  decide +kernel

/-! ### ViewsTakeTheNewestRecordsAndBeaconsKeepTime -/

/-- Port +X up with its beacons' clocks at 0, a miss short of FENCE_MISS. -/
def sBeacon : State := { sFabric with now := 32768, beacons := [(0, { misses := 7 })] }
/-- A beacon with one record: (2, 1, 1) FENCED at EPOCH 1. -/
def xBeacon : Cell := { dest := 0x7FFF, type := BitVec.ofNat 4 tBEACON, payload := [1, 3, 0, 0, 1, 8, 0, 0] ++ natLe 2 1058 ++ [1, 0, 1, 2, 0, 0] ++ zeros 48 }
theorem wit_beacon : (match arrive sBeacon 0 xBeacon with | .here _ => true | _ => false) = true ∧ portUp sBeacon 0 = true ∧
    (beaconAt sBeacon 0).heard + getF sBeacon HEALTH_BEACON_INTERVAL ≤ sBeacon.now ∧
    (beaconAt sBeacon 0).misses + 1 = getF sBeacon HEALTH_BEACON_FENCE_MISS ∧ getF sBeacon HEALTH_BEACON_SUSPECT_MISS < 8 ∧
    coordValid sBeacon = true ∧ (beaconAt sBeacon 0).nextAt ≤ sBeacon.now ∧ beaconsOn sBeacon = true ∧
    (viewRec sBeacon (ownCoord sBeacon)).epoch < 0xFFFF ∧ reach sBeacon (.pf 0) HEALTH_SELF_FENCE = .yes ∧
    reach sBeacon (.pf 0) HEALTH_KICK = .yes ∧ (rd sBeacon HEALTH_WATCHDOG).toNat ≠ 0 ∧
    sBeacon.kickAt + (rd sBeacon HEALTH_WATCHDOG).toNat ≤ sBeacon.now := by decide +kernel
theorem wit_records : lacks 2 1 = true ∧ lacks 1 1 = false ∧ (viewRec sBeacon 1058).epoch < 1 := by decide +kernel
theorem test_beacon : nextHas (.beaconCell 0 xBeacon) sBeacon (fun t => fenced t 1058 && (beaconAt t 0).misses == 0) = true := by decide +kernel
theorem test_miss : nextHas (.beaconMiss 0) sBeacon (fun t => fenced t 1058 && getF t (HEALTH_VIEW_CAUSE 1058) == 2) = true := by decide +kernel
theorem test_self : nextHas (.selfFenceManager (.pf 0) 2) sBeacon (fun t => selfFenced t && getF t (HEALTH_VIEW_CAUSE 1057) == 4) = true := by decide +kernel

/-! ### FenceRegistersTakeAllowedValues -/

theorem wit_health : reach sReady (.pf 0) HEALTH_BEACON = .yes ∧ reach sReady (.pf 0) HEALTH_LEVEL = .yes ∧
    reach sReady (.pf 0) HEALTH_READMIT = .yes ∧ coordValid (setF sReady GLOBAL_COORD_VALID 0) = false := by decide +kernel
theorem test_level : nextHas (.healthLevelWrite (.pf 0) 2) (setF sReady GLOBAL_COORD_VALID 0) (fun t => getF t HEALTH_LEVEL_OWN == 2) = true ∧
    nextIs (.healthLevelWrite (.pf 0) 2) sReady sReady = true := by decide +kernel

/-! ### CaysAreFencedReplacedAndScored -/

/-- Cay 9 hangs in a call since tick 0; Cay 70 is activating. -/
def sHang : State := sets { sReady with now := 200000, cays := [(9, { call := some kCall })] } [(HEALTH_CAY_STATE 70, 4), (FAB_RED_CAY_MAP_VALID 70, 0)]
theorem wit_hang : cayUp sHang 9 = true ∧ (cayAt sHang 9).since + 1024 ≤ sHang.now ∧ getF sHang (HEALTH_CAY_STATE 70) = 4 ∧
    sHang.layers = [] ∧ sHang.buckets = [] ∧ sHang.copies = [] ∧ sHang.ferries = [] ∧ sHang.copying = [] ∧ sHang.upsets = [] ∧ getF sHang HEALTH_CTRL_MIN_CAYS < inService sHang 0 ∧
    getF sHang HEALTH_CTRL_MIN_CAYS < inService sHang 1 ∧ 0 < getF sHang (spares 0) ∧
    getF (setF sHang (spares 0) 0) (spares 0) = 0 ∧ 1 < inService sHang 0 ∧ getF sHang (FAB_RED_CAY_MAP_CAY 9) = 9 ∧ ctxState sHang 0 = 1 := by decide +kernel
/-- Cay 9's slice holds a part of a copy, a bucket folds on it, an access-port COPY reads it. -/
def sLoses : State := { sHang with
  copies := [{ ctx := 0, label := 5, region := false, tide := 9, keep := 1, size := 64, cmd := some (3, 40), parts := [(lagoonBase + 9 * 0x8000000, 65536)] }]
  buckets := [(3, { member with job := 0x1234, tag := 7, ctx := some 0, group := 2, n := 128, cay := 9, verdict := some .admitted })]
  copying := [{ cmd := (3, 41), ctx := 0, srcAcc := none, dstAcc := some 2, src := lagoonBase + 9 * 0x8000000, dst := 0, bytes := 64, left := 64 }]
  queues := [(3, { run := 1, cmds := [(40, startedWith [0x09]), (41, startedWith [0x0F])] })] }
theorem wit_loses : (∃ x ∈ sLoses.copies, ∃ p ∈ x.parts, overlap p.1 p.2 (lagoonBase + 9 * 0x8000000) 0x8000000 = true) ∧
    (∃ r ∈ sLoses.copying, runMeets sLoses r (lagoonBase + 9 * 0x8000000) 0x8000000 = true) ∧
    (bucketAt sLoses 3).map (fun e => (bLive e, e.cay)) = some (true, 9) ∧ (mapEntry sLoses ((bucketAt sLoses 3).getD member)).2 = 9 ∧
    (cmdAt sLoses 3 40).map (fun m => m.status) = some none ∧ hostUp sReady 0 0 = true := by
  refine ⟨⟨_, List.mem_singleton_self _, _, List.mem_singleton_self _, ?_⟩, ⟨_, List.mem_singleton_self _, ?_⟩, ?_⟩ <;> decide +kernel
/-- The host's function 0 may send vector 0. -/
def sVector : State := withPcie sHang 0 0 (fun p => { p with msixOn := true, unmasked := [0] })
theorem wit_vector : hostUp sVector 0 0 = true ∧ (pcieAt sVector 0 0).msixOn = true ∧ (pcieAt sVector 0 0).fnMask = false ∧
    0 ∈ (pcieAt sVector 0 0).unmasked ∧ 1 ∉ (pcieAt sVector 0 0).unmasked ∧ flag sVector HEALTH_FENCE_LOG0_VALID = false := by decide +kernel
theorem test_vector : nextHas (.cayHang 9) sVector (fun t => t.out.contains (.msix 0 0 0) && rd t HEALTH_FENCE_LOG0 == 0x81000009) = true := by
  decide +kernel
/-- The copy is lost, the COPY ends, the bucket's entry awaits the spare. -/
theorem test_loses : nextHas (.cayHang 9) sLoses (fun t => t.copies.isEmpty && t.copying.isEmpty &&
    (cmdAt t 3 40).map (fun m => m.status) == some (some 0x31) && (cmdAt t 3 41).map (fun m => m.status) == some (some 0x31) &&
    getF t FAB_FERRY_RET_LOST_COUNT_COUNT == 1 && getF t HEALTH_FENCE_COUNT_HARD == 1) = true := by decide +kernel
/-- Without a spare the bucket restarts on Cay 10. -/
theorem test_moves : nextHas (.cayHang 9) (sets sLoses [(spares 0, 0), (FAB_RED_CAY_MAP_CAY 9, 9)]) (fun t =>
    (bucketAt t 3).map (fun e => (e.cay, e.codes)) == some (10, [0x32]) && getF t FAB_RED_EM_RESTART_COUNT_COUNT == 1) = true := by
  decide +kernel
/-- A region stream of a page of Cay 9's slice. -/
def sRegion : State := { sHang with ferries := [{ key := 256, ctx := 0, job := 0x1234, tag := 7, src := .region (lagoonBase + 9 * 0x8000000)
                                                  head := ⟨1, 1, 0, false, true, 9, 0, 0, 16, 0, 1⟩ }] }
theorem test_region : nextHas (.cayHang 9) sRegion (fun t => t.ferries.isEmpty) = true := by decide +kernel
/-- A layer with scratch on Cay 9's slice and an update in pass 1 that needs nothing else there. -/
def sScratch : State := { sHang with layers := [(2, { ctx := 0, desc := zeros 192, scratch := some (lagoonBase + 9 * 0x8000000, 64)
                                                      upd := some { image := [], const := [], tasks := [] } })] }
theorem wit_scratch : (tget sScratch.layers 2).map (fun x => (scratchOn x 9, scratchOn x 8, x.upd.map (fun u => needsSlice sScratch 2 x u 9))) =
    some (true, false, some false) := by decide +kernel
theorem test_hang : nextHas (.cayHang 9) sHang (fun t => getF t (HEALTH_CAY_STATE 9) == 4 && getF t (spares 0) == 1) = true ∧
    nextHas (.cayHang 9) (setF sHang (spares 0) 0) (fun t => getF t (FAB_RED_CAY_MAP_CAY 9) == 10) = true := by decide +kernel
theorem test_spare : nextHas (.spareInService 70) sHang (fun t => cayUp t 70 && flag t (FAB_RED_CAY_MAP_VALID 70)) = true := by decide +kernel
/-- Cay 9 runs a kernel and its next operation meets an upset; an update's task in its place. -/
def sUpset (u : Upset) (w : Word) : State := { poke sHang (cayStore 9) (natLe 4 w.toNat) with upsets := [(9, u)] }
theorem wit_upset : [Upset.repeated, .failed, .corrected, .uncorrected].all (fun u => (cayAt (sUpset u 0) 9).call == some kCall &&
    decide ((cayAt (sUpset u 0) 9).count < (rd (sUpset u 0) (CAY_KLIMIT 9)).toNat) && decide ((cayAt (sUpset u 0) 9).pc < kCall.codeLen) &&
    codeWord (sUpset u (wordOf 1 0)) 9 0 == wordOf 1 0 && (accessFault (sUpset u 0) (some 0) (cayStore 9) 4 false).isNone &&
    tget (sUpset u 0).upsets 9 == some u && (cayAt { sUpset u 0 with cays := [(9, { call := some { kCall with kernel := false } })] } 9).call ==
      some { kCall with kernel := false } && kCall.kernel) = true := by decide +kernel
theorem test_upset_right_on_repeat : nextHas (.addD 9 (wordOf 1 0)) (sUpset .repeated (wordOf 1 0)) (fun t => getF t (CAY_RESIDUE_COUNT_RETRIED 9) == 1 &&
    getF t (HEALTH_CAY_SCORE 9) == 256 && (cayAt t 9).count == 1) = true := by decide +kernel
/-- R92: the work ends with RESIDUE and the Cay is fenced hard. -/
theorem test_upset_failing : nextHas (.vfadd 9 0) (sUpset .failed 0) (fun t => getF t (CAY_RESIDUE_COUNT_FAILED 9) == 1 &&
    getF t (CAY_KL_STATE_STATUS 9) == 0x21 && !cayUp t 9 && t.upsets.isEmpty) = true := by decide +kernel
/-- A candidate of a soft fence: Cay 9 with a score of 20,000. -/
def sScore : State := setF sHang (HEALTH_CAY_SCORE 9) 20000
theorem wit_soft : flag sScore HEALTH_CTRL_SOFT_EN = true ∧ getF sScore HEALTH_CTRL_THRESH ≤ getF sScore (HEALTH_CAY_SCORE 9) ∧
    sScore.decayAt + 156250 ≤ sScore.now ∧ softUsed sScore < getF sScore HEALTH_BUDGET_MAX := by decide +kernel
theorem test_decay : nextHas .scoreDecay sScore (fun t => getF t (HEALTH_CAY_STATE 9) == 4 && getF t (HEALTH_CAY_SCORE 9) == 19980) = true := by
  decide +kernel

/-! ### LinksAcknowledgeResendAndDiscard -/

/-- Port +X up, three copies from index 5 in its store since tick 0, one unit to acknowledge. -/
def sLink : State := { sFabric with now := 100000, torus := [(0, { phase := .up, store := [(5, xW32 1056), (6, xW32 1056), (7, xW32 1056)], txIdx := 8, sinceUnit := 1 }), (2, { phase := .lock })] }
theorem wit_link : portUp sLink 0 = true ∧ portUp sLink 2 = false ∧ (torusAt sLink 0).store.length = 3 ∧ (5 + 2) % 65536 = (7 : BitVec 16).toNat ∧
    (torusAt sLink 0).lastAck + (rd sLink (LANE_RETRY_TIMEOUT 0)).toNat ≤ sLink.now ∧ (torusAt sLink 0).discarding = false ∧
    (torusAt sLink 0).phase = .up ∧ (torusAt sLink 2).phase = .lock ∧ (torusAt sLink 3).phase = .off ∧ (torusAt sLink 0).unitAt < sLink.now := by decide +kernel
theorem test_idle : nextHas (.linkIdle 0 7) sLink (fun t => (torusAt t 0).store.map (fun c => c.1) == [7]) = true ∧
    nextHas (.linkNak 0 5 6) sLink (fun t => (torusAt t 0).resend.map (fun c => c.1) == [6, 7]) = true := by decide +kernel
theorem test_sync_in_qualify : nextHas (.linkCheckFail 1 ⟨.passed, [3]⟩) { sLink with torus := [(1, { phase := .qualify })] } (fun t =>
    (torusAt t 1).qualBad && getF t (LANE_SYNC_ERR_COUNT 1 3) == 1 && getF t (LANE_CHECK_FAIL_COUNT 1) == 0) = true := by decide +kernel
theorem test_check_fail : nextHas (.linkCheckFail 0 ⟨.cell 0 true none, [3]⟩) sLink (fun t => getF t (FAB_PORT_HDR_CRC_COUNT 0) == 1 &&
    (torusAt t 0).discarding && (torusAt t 0).nakDue == some 0 && getF t (LANE_SYNC_ERR_COUNT 0 3) == 1) = true := by
  decide +kernel

/-! ### TorusPortsComeUpPhaseByPhase -/

/-- What the peer on +X says of itself: (2, 1, 1), port −X. -/
def peerTrain : TrainBody := ⟨0x17000001, 0x1234567890, 1, 3, 1, 2, 1058, List.replicate 16 100⟩
/-- Port 0 in TRAIN with that, 1 in a step agreed, 2 in LOCK, 3 qualifying too long for the second time, 4 with credits to exchange. -/
def sBring : State := sets { sReady with now := 500000, torus := [(0, { phase := .train, trainRx := some peerTrain }),
    (1, { phase := .step, stepTx := true, stepRx := some 1, nextRate := 1 }), (2, { phase := .lock }),
    (3, { phase := .qualify, repeatDone := true, linkRate := 2 }), (4, { phase := .credits, trainRx := some peerTrain })] } [(LANE_PORT_CTRL_MAXRATE 0, 2)]
theorem wit_bring : reach sBring (.pf 0) (LANE_PORT_CTRL 5) = .yes ∧ flag sBring (LANE_PORT_CTRL_ENABLE 5) = false ∧ sBring.power.refLost = false ∧
    (torusAt sBring 0).phase = .train ∧ (torusAt sBring 1).stepRx = some (torusAt sBring 1).nextRate ∧ (torusAt sBring 2).phaseAt + 78125 < sBring.now ∧
    (torusAt sBring 3).phaseAt + 156250 < sBring.now ∧ trainRefusal sBring 0 peerTrain = none ∧ creditsOk (ownCredits sBring) = true ∧
    trainRefusal sBring 0 { peerTrain with id := 0x16000000 } = some 4 ∧ trainRefusal sBring 0 { peerTrain with levelMin := 4 } = some 5 ∧
    trainRefusal sBring 0 { peerTrain with port := 3 } = some 6 ∧ trainRefusal sBring 0 { peerTrain with credits := [] } = some 10 ∧ sBring.cells = [] := by decide +kernel
theorem test_bring : nextHas (.trainExchangeEnd 0) sBring (fun t => (torusAt t 0).phase == .step && (torusAt t 0).nextRate == 1) = true ∧
    nextHas (.blockLock 1) sBring (fun t => getF t (LANE_PORT_STATUS_STATE 1) == 4 && getF t (LANE_PORT_STATUS_RATE 1) == 1) = true ∧
    nextHas (.lanePortUp 4) sBring (fun t => portUp t 4 && (torusAt t 4).credits == List.replicate 16 100) = true := by decide +kernel
theorem test_refused : nextHas (.linkTrain 0 ⟨0, { peerTrain with port := 3 }⟩) sBring
    (fun t => getF t (TEL_REFUSE_COUNT_MISWIRE 0) == 1 && getF t (LANE_PORT_STATUS_CAUSE 0) == 6) = true := by decide +kernel
theorem test_enable_port : nextHas (.lanePortEnable (.pf 0) 5 1) sBring (fun t => getF t (LANE_PORT_STATUS_STATE 5) == 1) = true := by decide +kernel

/-! ### TheBootEndsInItsFirstFailureOrReady -/

def badArea : BootOutcome := ⟨[], [], true, 700, 700⟩
theorem wit_boot : sBoot.boot.released = false ∧ sBoot.power.phase = .starting ∧ sBoot.power.straps.vcore = 1 ∧
    getF sTrial TRUST_STATE_STATE = 3 ∧ sTrial.rpa.trial = true ∧ getF sTrial TRUST_STATE_SLOT = sTrial.rpa.active ∧
    sTrial.boot.at_ + 9375000000 ≤ sTrial.now ∧ reach sTrial (.pf 0) TRUST_CTRL = .yes ∧ sTrial.power.low54 = false := by decide +kernel
theorem test_boot : nextHas (.resetRelease badArea) sBoot
    (fun t => getF t TRUST_STATE_STATE == 5 && getF t TRUST_STATE_CAUSE == 2 && t.power.pgOut) = true := by decide +kernel
theorem test_confirm : nextHas (.confirm (.pf 0) 1) sTrial (fun t => !t.rpa.trial && t.rpa.attempts == 0 && t.rpa.floor == 3 && t.rpa.revoked == 4) = true := by decide +kernel
theorem test_reset : nextHas (.moduleReset (.pf 0) 2) sTrial (fun t => ctxState t 0 == 0 && t.rpa.trial) = true ∧
    nextHas .trialTimeout sTrial (fun t => ctxState t 0 == 0) = true ∧
    nextIs (.moduleReset (.pf 0) 2) (setF sTrial TRUST_STATE_STATE 5) (setF sTrial TRUST_STATE_STATE 5) = true := by decide +kernel

/-! ### UpdatesReportsAndTheOwnerAreGuarded -/

/-- A module in READY with its update and attestation addresses at the base of H0's memory, an update of 8 bytes busy. -/
def sTrust : State := sets { sReady with boot := { sReady.boot with rpaKey := [1] } } [(⟨TRUST_UPDATE_ADDR_HI, 31, 0⟩, 0x80000000), (⟨TRUST_ATTEST_ADDR_HI, 31, 0⟩, 0x80000000),
  (⟨TRUST_OWNER_ADDR_HI, 31, 0⟩, 0x80000000), (⟨TRUST_UPDATE_LEN, 31, 0⟩, 8)]
def sBusy : State := setF sTrust TRUST_UPDATE_STATUS_STATE 1
theorem wit_trust : reach sTrust (.pf 0) TRUST_UPDATE_CTRL = .yes ∧ reach sTrust (.pf 0) TRUST_ATTEST_CTRL = .yes ∧
    reach sTrust (.pf 0) TRUST_OWNER_CTRL = .yes ∧ getF sTrust TRUST_STATE_STATE = 3 ∧ getF sTrust TRUST_UPDATE_STATUS_STATE ≠ 1 ∧
    getF sTrust TRUST_ATTEST_STATUS_STATE ≠ 1 ∧ sTrust.rpa.ownerSet = false ∧ sTrust.boot.rpaKey ≠ [] ∧ sTrust.power.low54 = false ∧
    (hostRead sTrust hostBase 48).2.isSome = true ∧ (hostRead sBusy hostBase 8).2.isSome = true ∧
    (hostRead sBusy (hostBase + 2 ^ 62) 8).2.isSome = false := by decide +kernel
theorem test_update_go : nextHas (.trustUpdateGo (.pf 0) 1) sTrust (fun t => getF t TRUST_UPDATE_STATUS_STATE == 1) = true ∧
    nextHas (.imageUpdateDone true true) sBusy (fun t => getF t TRUST_UPDATE_STATUS_STATE == 2 && getF t TRUST_UPDATE_STATUS_RESULT == 4) = true ∧
    nextHas (.imageUpdateDone false true) sBusy (fun t => getF t TRUST_UPDATE_STATUS_RESULT == 5) = true := by decide +kernel
/-- The host asks with a good CHALLENGE. -/
theorem test_attest_go : nextHas (.trustAttestGo (.pf 0) 1) (poke sTrust hostBase ([1, 1] ++ zeros 14 ++ List.replicate 32 7))
    (fun t => t.signs.length == 1 && getF t TRUST_ATTEST_STATUS_STATE == 1) = true := by decide +kernel
theorem test_owner : nextHas (.trustOwnerSet (.pf 0) 9) (poke sTrust hostBase [1, 2, 3, 4]) (fun t => t.rpa.ownerSet && flag t TRUST_STATE_OWNER_SET) = true ∧
    nextHas (.trustOwnerSet (.pf 0) 9) (setF (poke sTrust hostBase [1]) TRUST_STATE_STATE 4) (fun t => t.rpa.ownerSet) = true ∧
    nextHas (.trustOwnerSet (.vf 0 0) 9) sTrust (fun t => !t.rpa.ownerSet) = true := by decide +kernel
theorem wit_signature : modPow 17 (modPow 4096 (beNat (pssEncode [] (zeros 64))) testKey.2 testKey.1) 65537 testKey.1 =
    beNat (pssEncode [] (zeros 64)) := by decide +kernel
theorem test_signature : pssVerify (natBe 512 testKey.1) [] (pssSign testKey [] (zeros 64)) = true ∧
    pssVerify (natBe 512 testKey.1) [1] (pssSign testKey [] (zeros 64)) = false := by decide +kernel

/-! ### PowerStartsAndShutsDownUnderItsCauses -/

/-- Off since tick 0 with cause 4, latched; the same released. -/
def sDown : State := { State.reset with power := { phase := .off, last := 4, latched := true } }
def sOff : State := { State.reset with power := { phase := .off, last := 4 } }
theorem wit_power : sDown.power.phase = .off ∧ sDown.power.latched = true ∧ sDown.now = 0 ∧ sDown.power.last ≠ 0 ∧ sOff.power.latched = false ∧
    sReady.power.phase = .running ∧ sReady.power.refLost = false ∧ sNoRef.power.refLost = true ∧ sBoot.power.phase = .starting ∧
    sReady.torus = [] ∧ (∀ a, a < 16 → getF sReady (ACC_STATUS_STATE a) = 0) ∧ sReady.sessions = [] := by decide +kernel
theorem test_start : nextHas (.powerStart ⟨true, 0, false⟩) sOff (fun t => t.power.phase == .starting && vtarget t 1 == 750 && flag t GLOBAL_ID_VARIANT) = true ∧
    nextIs (.powerStart ⟨true, 0, false⟩) sDown sDown = true := by decide +kernel
theorem test_shutdown : nextHas .thermal sFlash (fun t => t.power.latched && getF t POWER_LAST_SHUTDOWN_CAUSE == 4 && t.mem == [(flashBase, 9)]) = true ∧
    nextHas .modEnLow sDown (fun t => t.power.latched && getF t POWER_LAST_SHUTDOWN_CAUSE == 1) = true := by decide +kernel
theorem test_ref : nextHas .refRestored sNoRef (fun t => phaseOf t 2 == .lock && phaseOf t 1 == .off) = true := by decide +kernel

/-! ### ThePowerLoopFollowsPowerAndTemperature -/

/-- A running module, VMIN 660 mV on both dies, TARGET 800. -/
def sPower : State := sets { sReady with now := 156250, boot := { released := true, record := [1] } } [(POWER_VCORE_A_VMIN, 660), (POWER_VCORE_B_VMIN, 660)]
theorem wit_loop : reach sPower (.pf 0) POWER_CAP = .yes ∧ reach sPower (.pf 0) (vcoreReg 1) = .yes ∧
    sPower.power.phase = .running ∧ sPower.boot.released = true ∧ sPower.power.loopAt + 156250 ≤ sPower.now ∧ 11 * sPower.power.cap < 10 * 1761 ∧
    flag sPower POWER_EVENT_INPUT_LOW = false ∧ hostUp sPower 0 0 = true ∧ sOff.power.phase ≠ .running ∧ sOff.boot.released = false := by decide +kernel
/-- A module without a record keeps V_L; the pin stays low while the die is hot. -/
theorem test_no_record : nextHas (.powerLoop 1601 60 100) { sPower with boot := { released := true } } (fun t => vlimit t 0 == 900 && t.power.thermWarn) = true ∧
    nextHas (.thermWarnN false) (setF sPower POWER_TEMP_TJ_B 100) (fun t => t.power.thermWarn) = true := by decide +kernel
theorem test_cap : nextHas (.powerCapWrite (.pf 0) 0x64) sPower (fun t => getF t POWER_CAP_WATTS == 800) = true ∧
    nextHas (.vcoreTargetWrite (.pf 0) 1 0) sPower (fun t => getF t POWER_VCORE_B_TARGET == 660 && getF t POWER_VCORE_B_PRESENT == 660) = true := by decide +kernel
theorem test_loop : nextHas (.powerLoop 1601 60 100) sPower (fun t => vlimit t 0 == 890 && flag t POWER_EVENT_THERM_WARN && getF t POWER_VCORE_A_PRESENT == 800) = true ∧
    nextHas (.powerFastStep 1761) sPower (fun t => vlimit t 1 == 850 && t.power.fast) = true := by decide +kernel

/-! ### AdmissionIsHeldDecidedAndRelayed -/

theorem wit_admit : landed (sPair 0 member) 0 (xHere 5 0 []) = true ∧ landed (sPair 1 { member with sentAdmit := true }) 0 (xHere 6 0 [1]) = true ∧
    groupUps (sPair 0 member) (pairDesc 0) = [0] ∧ groupDown (sPair 0 member) (pairDesc 0) = none ∧
    groupDown (sPair 1 member) (pairDesc 1) = some 0 ∧ bucketAt (sPair 0 member) 3 ≠ none ∧ freeBucket (sPair 0 member) = some 0 ∧
    awaiting (sPair 1 { member with sentAdmit := true }) 0 (xHere 6 0 [1]) = some 3 ∧
    moveRuns { sPair 0 member with moves := [{ kind := .emPrefetch 3, die := 0, active := true }] } (.emPrefetch 3) = true := by decide +kernel
/-- A Causeway exchange waits at this module: an ADMIT of its job and digest finds it, one of another job does not. -/
theorem wit_exchange : let s := { sFabric with buckets := [(3, { member with job := 0x1234, cw := true, digest := 9 })] }
    (cwExchange s 0 0x1234 9).map (fun y => y.1) = some 3 ∧ cwExchange s 0 0x1235 9 = none ∧ (findBucket s 0x1234 0 false).isNone = true := by
  decide +kernel
theorem test_admit : nextHas (.admitCell 0 (xHere 5 0 (zeros 8 ++ [0, 1, 0, 0, 3]))) (sPair 0 { member with digest := 0 })
    (fun t => (bucketAt t 3).map (fun e => e.verdict) == some (some .admitted)) = true ∧
    nextHas (.admitCell 0 (xHere 5 0 (zeros 8 ++ [0, 1, 0, 0, 1]))) (sPair 0 member)
    (fun t => (bucketAt t 3).map (fun e => e.verdict) == some (some (.refused 0x11))) = true := by decide +kernel
theorem test_grant : nextHas (.grantRefused 0 (xHere 6 0 [2, 0x30])) (sPair 1 { member with sentAdmit := true })
    (fun t => (bucketAt t 3).map (fun e => e.verdict) == some (some (.refused 0x30))) = true ∧
    nextHas (.grantAdmitted 0 (xHere 6 0 [1])) (sPair 1 member) (fun t => getF t FAB_RED_STRAY_COUNT_COUNT == 1) = true := by decide +kernel

/-! ### StreamsAreTakenCheckedExcludedAndEnded -/

/-- The bucket of the pair admitted, RELEASE given to its upstream neighbour. -/
def sStream2 : State := sPair 0 { member with verdict := some .admitted, arms := [(0, { released := true })] }
def live : Bucket := { member with verdict := some .admitted }
theorem wit_arms : landed sStream2 0 (xHere 1 1 []) = true ∧ (liveBucket sStream2 (xHere 1 1 [])).map (fun y => y.1) = some 3 ∧ bucketAt sStream2 3 ≠ none ∧
    landed sStream2 0 (xHere 4 1 []) = true ∧ (liveBucket sFabric (xHere 1 1 [])).isNone = true ∧ landed sFabric 0 (xHere 2 1 []) = true ∧
    (bucketAt sStream2 3).any (bReady sStream2) = true ∧ sStream2.upsets = [] ∧ bLive live = true ∧ grantee (sPair 1 live) 0 (xHere 6 0 [3]) ≠ none ∧
    grantee (sPair 0 live) 0 (xHere 6 0 [3]) = none ∧ armHops (sPair 0 live) (pairDesc 0) 0 = 1 ∧ gPorts (pairDesc 0) = [] := by decide +kernel
/-- A late record of the arm, deferring or counted already. -/
theorem wit_late : let s := { sFabric with lates := [⟨0x1234, 7, 0, 5, true, 0, 0, 256, 0, 0, false, false⟩] }
    landed s 0 (xHere 1 1 []) = true ∧ (liveBucket s (xHere 1 1 [])).isNone = true ∧ (findLate s 0x1234 7 true 0).isSome = true := by decide +kernel
theorem wit_upset_fold : let s := { sStream2 with upsets := [(0, Upset.failed)] }
    landed s 0 (xHere 1 1 []) = true ∧ (liveBucket s (xHere 1 1 [])).map (fun y => y.2.cay) = some 0 ∧ cayUp s 0 = true ∧
    (cayAt s 0).call = none ∧ tget s.upsets 0 = some .failed := by decide +kernel
/-- The example of Table 13-7: the fold's failing repeat counts, fences the Cay and takes a spare. -/
theorem test_upset_fold : nextHas (.dataW32 0 (xHere 1 1 [])) { sStream2 with upsets := [(0, .failed)] }
    (fun t => getF t (CAY_RESIDUE_COUNT_FAILED 0) == 1 && getF t (HEALTH_CAY_STATE 0) == 4 && getF t (spares 0) == 1 &&
      !flag t (FAB_RED_CAY_MAP_VALID 0)) = true := by decide +kernel
theorem test_data : nextHas (.dataW32 0 (xHere 1 1 [])) sStream2
    (fun t => (bucketAt t 3).map (fun e => ((tget e.arms 0).getD {}).got) == some 1) = true ∧
    nextHas (.dataS1 0 (xHere 2 1 [])) sStream2 (fun t => getF t FAB_RED_STRAY_COUNT_COUNT == 1) = true := by decide +kernel
/-- A TRAILER that says 3 cells after none fails its check. -/
theorem test_trailer : nextHas (.trailerCell 0 (xHere 4 1 (zeros 16 ++ [3]))) sStream2
    (fun t => (bucketAt t 3).map (fun e => ((tget e.arms 0).getD {}).bad) == some true) = true := by decide +kernel
theorem test_arm_deadline : nextHas (.armDeadline 3 0) { sPair 0 live with now := 2 ^ 40 } (fun t => getF t FAB_RED_LATE_COUNT_DROPPED == 1) = true ∧
    nextHas (.grantRelease 0 (xHere 6 0 [3])) (sPair 1 live) (fun t => (bucketAt t 3).map (fun e => e.go) == some true) = true := by decide +kernel

/-! ### CausewayOperationsFoldAndDeliver -/

/-- The pair's group as a Causeway sum of one FP32 element, this module at its root (0) or not, its CAUSEWAY_OP waiting for the arm. -/
def pairOp (root : Byte) : List Byte := natLe 2 0x1234 ++ [0xFF, 0xFF, 2, 2, 0x24, 0, 1, 2, root, 1, 1, 0, 1, 1, 0, 0, 1, 1] ++ zeros 108
def sCause (root : Byte) (op : CwOp) : State := { sFabric with
  groups := [(6, ⟨0, pairOp root⟩)], causeway := [(6, { slot := 0, admitted := true, op := some op })] }
def xCause (seq : BitVec 16) (l : List Byte) : Cell := { xHere 7 0 l with tag := 0, seq := seq }
theorem wit_cause : landed (sCause 0 { n := 0, cmd := some (3, 40) }) 0 (xCause 0 []) = true ∧
    (cwFind (sCause 0 { n := 0, cmd := some (3, 40) }) (xCause 0 []) (fun g op =>
      (groupUps sFabric (groupDesc (sCause 0 { n := 0 }) g)).contains 0 && (tget op.arms 0).isNone)).isSome = true ∧
    groupDown (sCause 1 { n := 0 }) (pairOp 1) = some 0 ∧ gCwOp (pairOp 0) = 0 ∧ cwFind sFabric (xCause 0 []) (fun _ _ => true) = none := by
  decide +kernel
/-- The arm's 1.0 completes the operation at the root (its own term is the identity): the slot is free for number 1. -/
theorem test_cause : nextHas (.causewayCell 0 (xCause 0 [0, 0, 0x80, 0x3F])) (sCause 0 { n := 0, cmd := some (3, 40) })
    (fun t => (cwAt t 6).map (fun q => (q.op, q.next)) == some (none, 1)) = true := by decide +kernel
/-- A result from downstream does the same at the member that sent its term. -/
theorem test_result : nextHas (.causewayCell 0 (xCause 1 [0, 0, 0x80, 0x3F])) (sCause 1 { n := 0, cmd := some (3, 40), sent := true })
    (fun t => (cwAt t 6).map (fun q => (q.op, q.next)) == some (none, 1)) = true := by decide +kernel

/-! ### FerryHopsFollowTheirExchange -/

/-- A stream of 16 raw FP32 values at depth 1 from (2, 1, 1), taken in slot 0; one of the module's own with a child there. -/
def headOf : StreamHead := ⟨1, 1, 0, false, true, 9, 0, 0, 16, 0, 1⟩
def sFSlot : State := { sFabric with ferries := [{ key := 0, ctx := 0, job := 0x1234, tag := 7, src := .parent 1058 0, head := headOf }] }
def sChild (st : ChildState) : State := { sFabric with now := 10000000, ferries := [{
  key := 256, ctx := 0, job := 0x1234, tag := 7, src := .region hbmBase, head := headOf, plan := [(1057, 0, 1), (1058, 1, 0)], children := [⟨1058, 1, 1, st, 0, 0, false⟩] }] }
/-- A Ferry cell from (2, 1, 1). -/
def xFerry (type : BitVec 4) (vc : BitVec 3) (l : List Byte) : Cell := { xHere type vc l with src := 1058 }
def xOpen : Cell := xFerry 8 4 [1, 1, 1, 0, 0, 2, 9, 0, 0, 0, 0, 0, 0, 0, 0, 0, 16, 0, 0, 0, 0, 0, 0, 0, 1]
theorem wit_ferry : landed sFabric 0 xOpen = true ∧ landed sFSlot 0 (xFerry 3 6 []) = true ∧ isPlanCell sFSlot (xFerry 3 6 []) = true ∧
    isPlanCell sFabric (xFerry 3 6 []) = false ∧ (fromParent sFSlot (xFerry 3 6 [])).isSome = true ∧
    landed (sChild .opening) 0 (xFerry 9 5 [0x81]) = true ∧ (fromChild (sChild .opening) (xFerry 9 5 [0x81]) childLive).isSome = true ∧
    (fromChild sFabric (xFerry 9 5 [0x81]) childLive).isNone = true ∧ (fromChild (sChild .accepted) (xFerry 9 5 [0x83]) (fun c => c.state == .accepted)).isSome = true ∧
    (ferryAt (sChild (.busy 0)) 256).isSome = true ∧ 0 + (rd (sChild (.busy 0)) FAB_FERRY_BUSY_RETRY).toNat ≤ 10000000 := by decide +kernel
theorem test_ferry_open : nextHas (.ferryOpen 0 xOpen) sFabric (fun t => t.opens.map (fun o => (o.die, o.parent, o.head)) == [(0, 1058, headOf)]) = true ∧
    nextHas (.streamSlotTaken 0 0) { sFabric with opens := [⟨0, 0, 1058, 0x1234, 7, headOf⟩] } (fun t => t.ferries.map (fun f => f.key) == [0] &&
      t.opens.length == 0) = true := by decide +kernel
theorem test_child : nextHas (.ferryBusy 0 (xFerry 9 5 [0x82])) (sChild .opening) (fun t => t.ferries.map (fun f => f.children.map (fun c => c.state)) == [[.busy 10000000]]) = true ∧
    nextHas (.ferryBusyRetry 256) (sChild (.busy 0)) (fun t => t.ferries.map (fun f => f.children.map (fun c => c.state)) == [[.opening]]) = true := by
  decide +kernel
theorem test_plan : nextHas (.planCell 0 (xFerry 3 6 (natLe 2 1057 ++ [4]))) sFSlot (fun t => t.ferries.map (fun f => f.plan) == [[(1057, 4, 0)]]) = true ∧
    nextHas (.ferryAbort 0 (xFerry 8 4 [2])) sFSlot (fun t => t.ferries.length == 0) = true := by decide +kernel

/-! ### PermutesExchangeAndComplete -/

/-- A PERMUTE of the module with (2, 1, 1): one element of 4 bytes each way. -/
def permOf (q : PermPeer) : Perm := {
  cmd := (3, 40), ctx := 0, job := 0x1234, tag := 7, width := 4, srcBase := hbmBase + 4096
  dstBase := hbmBase + 8192, staging := hbmBase + 12288, peers := [q] }
def peerOf : PermPeer := { coord := 1058, sends := [0], recvs := [1] }
def sPerm (q : PermPeer) (done : Bool) : State := { sFabric with permutes := [{ permOf q with completeSent := done }] }
theorem wit_perm : landed (sPerm peerOf false) 0 (xFerry 9 5 [0x85]) = true ∧ isOp (xFerry 9 5 [0x85]) 9 0x85 = true ∧
    landed (sPerm peerOf false) 0 (xFerry 0xD 6 []) = true ∧ (permAt (sPerm peerOf false) 0x1234 7).isSome = true ∧
    permAt (sPerm peerOf false) 0x1234 7 = some (permOf peerOf) ∧ permAt sFabric 0x1234 7 = none ∧
    (permOthers (sPerm peerOf false) (permOf peerOf)).length = 1 ∧ landed sFabric 0 (xFerry 9 5 [0x86]) = true := by decide +kernel
/-- The source or the staging on the slice of a Cay that is not in service, poisoned, or readable. -/
theorem wit_perm_faults : let s := setF (sPerm peerOf false) (HEALTH_CAY_STATE 0) 2
    gatherFault s { permOf peerOf with srcBase := lagoonBase } [0] = some 0x31 ∧ gatherFault s (permOf peerOf) [0] = none ∧
    stagingFault { sPerm peerOf true with poison := [(hbmBase + 12288) / 64] } (permOf peerOf) = some 0x22 ∧
    stagingFault (sPerm peerOf true) (permOf peerOf) = none := by decide +kernel
theorem test_ready : nextHas (.permuteReady 0 (xFerry 9 5 [0x85])) (sPerm peerOf false) (fun t => t.permutes.map (fun m => m.peers.map (fun p => p.ready)) == [[true]]) = true ∧
    nextHas (.permuteReady 0 (xFerry 9 5 [0x85])) sFabric (fun t => t.readies == [(0x1234, 7, 1058)]) = true := by decide +kernel
theorem test_elements : nextHas (.permuteCell 0 { xFerry 0xD 6 [5, 6] with last := true }) (sPerm { peerOf with ready := true } false)
    (fun t => bytesAt t.mem 0 (hbmBase + 12288) 4 == [5, 6, 0, 0] && t.permutes.map (fun m => m.completeSent) == [true]) = true := by decide +kernel
theorem test_ferry_complete : nextHas (.permuteComplete 0 (xFerry 9 5 [0x86])) (poke (sPerm { peerOf with ready := true, ended := true } true) (hbmBase + 12288) [9])
    (fun t => t.permutes.length == 0 && bytesAt t.mem 0 (hbmBase + 8196) 1 == [9]) = true := by decide +kernel

/-! ### LayersAreStagedAppliedAndCommitted -/

/-- A layer of 128 elements in one section of one row, program 0, its weights and journal at the base of HBM. -/
def stateDesc : List Byte := natLe 2 0x1234 ++ [7, 0, 5, 0, 10, 0, 128, 0, 0, 0, 0, 1, 0, 0] ++ natLe 8 hbmBase ++ zeros 16 ++ natLe 4 0 ++ natLe 4 128 ++ zeros 80
/-- Layer 2 of context 0, complete, in Tide 0 with the context in Tide 1. -/
def sLayer (y : Layer) : State := sets { sReady with
  layers := [(2, { y with ctx := 0, desc := stateDesc })], slots := [(0, ⟨0, natLe 4 3 ++ natLe 4 3 ++ natLe 4 4 ++ zeros 4, zeros 4096⟩)] }
  [(⟨CTX_TIDE 0, 31, 0⟩, 1), (LAYER_JNL_A_VALID 2, 1)]
def whole : Layer := { ctx := 0, desc := [], staged := [⟨7, 0, 128, 0, lagoonBase, none⟩], scratch := some (lagoonBase + 4096, 4096) }
def sPass (p : Nat) (y : Layer) : State := setF (sLayer { y with
  upd := some { image := zeros 16, const := zeros 4096, pass := p, tasks := [{ t := 0, cay := 0, done := true }] } }) (LAYER_JNL_A_PHASE 2) p
theorem wit_layer_states : (tget (sLayer whole).layers 2).isSome = true ∧ updateReady (sLayer whole) 2 { whole with desc := stateDesc } = true ∧
    cayUp (sLayer whole) (leadCay (sLayer whole) stateDesc) = true ∧ (tget (sLayer whole).slots (ldProgram stateDesc)).isSome = true ∧
    tasks stateDesc = 1 ∧ hasMatrix stateDesc = false ∧ jPhase (sPass 2 whole) 2 = 2 ∧ tget sReady.layers 2 = none ∧ hostReach sReady 0 (2 ^ 63) = true ∧ (sLayer whole).upsets = [] ∧ rangeFault (sPass 2 whole) { whole with desc := stateDesc } (normRanges stateDesc) = none ∧
    rangeFault (sPass 2 whole) { whole with desc := stateDesc } (applyRanges (sPass 2 whole) 2 { whole with desc := stateDesc } true 0) = none ∧
    moveRuns { sReady with moves := [⟨.layerPrefetch 2, 0, true⟩] } (.layerPrefetch 2) = true := by decide +kernel
theorem test_update_start : nextHas (.updateStart 2) (sLayer { whole with bad := 1 }) (fun t => getF t LAYER_ABANDON_COUNT_COUNT == 1 && jTide t 2 == 1) = true := by
  decide +kernel
theorem test_task : nextHas (.taskApply 2 0) (sPass 1 { whole with staged := [] }) (fun t => jPhase t 2 == 2) = true := by decide +kernel
theorem test_timeout : nextHas (.layerStateTimeout 2) { sLayer { whole with present := false, completeAt := some 0 } with now := 2 ^ 40 }
    (fun t => (tget t.layers 2).map (fun y => y.posted) == some true) = true := by decide +kernel

/-! ### OnlyAVerifiedIdentityClearsAFence -/

/-- An exchange of message 5 with the peer on +X since tick 0, its whole IDENTITY here; a CHALLENGE of message 6 too. -/
def exch : Exchange := ⟨List.replicate 32 1, 5, 0, 1, 0⟩
def msgOf (tag total : Nat) (p : List Byte) : Assembly :=
  { port := 0, src := 1058, tag := tag, near := true, first := 0, parts := (List.range total).map (fun k => (k, p)), total := some total }
def sExch : State := { sFabric with
  now := 10000000, beacons := [(0, { exchange := some exch })],
  assemblies := [msgOf 5 16 ([2, 1] ++ zeros 62), msgOf 6 1 ([1, 1] ++ zeros 14 ++ List.replicate 48 7),
    { msgOf 9 1 [] with total := none, parts := [(1, zeros 64)] }] }
/-- A link-local management cell. -/
def xMgmt : Cell := { xHere 0xC 7 [1, 1] with dest := 0x7FFF, src := 1058, tag := 8, last := true }
theorem wit_exch : landed sExch 0 xMgmt = true ∧ mgmtHeld sExch 0 = 18 ∧ (wholeMsg sExch 0 1058 6 1).isSome = true ∧
    (wholeMsg sExch 0 1058 5 16).isSome = true ∧ (wholeMsg sExch 0 1058 7 1).isNone = true ∧ (beaconAt sExch 0).exchange = some exch ∧
    exch.lastSend + 1875000 ≤ sExch.now ∧ exch.start + 7812500 ≤ sExch.now ∧ ownsDownLink sExch 0 = false ∧
    fenced sExch (peerCoord sExch 0) = false ∧ identityHeld sExch 0 5 = true ∧ identityHeld { sExch with assemblies := [] } 0 5 = false := by
  decide +kernel
theorem test_mgmt : nextHas (.mgmtCell 0 xMgmt) sExch (fun t => t.assemblies.length == 4) = true ∧
    nextHas (.mgmtAssemblyTimeout 1058 9) sExch (fun t => t.assemblies.length == 2) = true := by decide +kernel
theorem test_challenge : nextHas (.challenge 0 1058 6) sExch (fun t => t.signs.length == 1 && t.assemblies.length == 2) = true := by decide +kernel
theorem test_exchange : nextHas (.challengeResend 0) { sExch with assemblies := [] } (fun t => (beaconAt t 0).exchange == some { exch with sends := 2, lastSend := 10000000 }) = true ∧
    nextHas (.readmitTimeout 0) sExch (fun t => getF t HEALTH_READMIT_FAIL_COUNT_COUNT == 1 && (beaconAt t 0).exchange == none) = true := by
  decide +kernel

/-! ### HostPortsStopQueuesAndKeepContexts -/

theorem wit_host : flag sQueue (HOSTIF_PORT_UP 0) = true ∧ flag sQueue (HOSTIF_PORT_UP 1) = false ∧ ctxLive sQueue 0 = true ∧ ctxHost sQueue 0 = 0 ∧
    ctxVf sQueue 0 = 1 ∧ queOn sQueue (qkey 0 3) = true ∧ getF sQueue TRUST_STATE_STATE = 3 ∧ getF State.reset TRUST_STATE_STATE = 0 ∧
    flag sBoot (HOSTIF_PORT_UP 0) = false := by decide +kernel
theorem wit_config : powered sBoot = true ∧ powered { sBoot with power := { phase := .off } } = false ∧ getF sBoot TRUST_STATE_STATE = 0 ∧
    (pcieAt sQueue 0 0).vfs = 32 ∧ (pcieAt sQueue 1 0).vfs = 0 := by decide +kernel
theorem test_perst : nextHas (.perst 0) sQueue (fun t => flag t (QUE_ERR_HOST_DOWN 3) && t.bme.length == 0 && ctxLive t 0) = true ∧
    nextHas (.hostLinkUp 1 4 4) sQueue (fun t => flag t (HOSTIF_PORT_UP 1)) = true := by decide +kernel
theorem test_flr : nextHas (.vfFlr 0 0) sQueue (fun t => !queOn t 3 && t.bme == [(0, 0)]) = true := by decide +kernel
theorem test_config : nextHas (.configRequest 0 2 (some (.bme true))) { sQueue with pcie := [(0, { vfs := 4 })] } (fun t => t.bme.contains (0, 2)) = true ∧
    nextHas (.configRequest 0 0 (some (.sriov true 8))) sQueue (fun t => (pcieAt t 0 0).vfs == 8) = true ∧
    nextHas (.configRequest 0 0 none) (setF sQueue TRUST_STATE_STATE 2) (fun t => t.out == [.configReply 0 0 true]) = true := by decide +kernel

/-! ### SessionsActForTheOwnersManager -/

/-- Session 1 open and asking to release the owner, a byte of an image there. -/
def sSession : State := { sReady with sessions := [1], releases := [1], image := [(1, 0, [7])], rpa := { ownerSet := true, ownerDigest := sha512 [1] } }
theorem wit_session : (2 ∉ sSession.sessions) ∧ 1 ∈ sSession.sessions ∧ getF sSession TRUST_STATE_STATE = 3 ∧ sSession.power.refLost = false ∧
    imageOf sSession 1 2 = none ∧ imageOf sSession 1 1 = some [7] ∧ getF sSession TRUST_UPDATE_STATUS_STATE ≠ 1 ∧ sha512 [1] = sSession.rpa.ownerDigest := by
  decide +kernel
/-- An offer of one certificate with the key of the tests, the owner's root where its octets are those. -/
def offerOf (der : List Byte) : TlsOffer :=
  ⟨true, true, true, true, [{ der := der, signed := [], signature := [], modulus := natBe 512 testKey.1 }], pssSign testKey (verifyContent false []) (zeros 64), [], []⟩
/-- Flash that may not be written; no reply of session 1 waits. -/
theorem wit_low : ({ sSession.power with low54 := true } : PowerSt).low54 = true ∧ sSession.power.low54 = false ∧ ∀ x ∈ sSession.replies, x.1 ≠ 1 := by decide +kernel
theorem test_tls : nextHas (.tlsHandshake 2 (offerOf [1])) sSession (fun t => t.sessions == [1, 2]) = true ∧
    nextHas (.tlsHandshake 2 (offerOf [2])) sSession (fun t => t.sessions == [1]) = true := by decide +kernel
theorem test_close : nextHas (.mgmtSessionClose 1) sSession (fun t => !t.rpa.ownerSet && t.sessions == [] && t.image == []) = true ∧
    nextHas (.imageEnd 1 2 true) sSession (fun t => t.out == [.mgmtReply 1 [0x94, 0, 1, 0, 4]]) = true := by decide +kernel
theorem test_session_read : nextHas (.regRead 1 [BitVec.ofNat 32 GLOBAL_ID]) sSession (fun t => t.out == [.mgmtReply 1 ([0x91, 0, 4, 0] ++ natLe 4 (rd sSession GLOBAL_ID).toNat)]) = true ∧
    nextHas (.regWrite 1 [(BitVec.ofNat 32 POWER_CAP, 1000)]) sSession (fun t => getF t POWER_CAP_WATTS == 1000) = true := by decide +kernel

/-! ### StepRunsTheFrontCommand -/

theorem wit_step : ({ sReady with pending := [.modEnLow] } : State).pending = [.modEnLow] ∧ sReady.pending = [] ∧ sReady.power.refLost = false ∧
    sNoRef.pending = [] ∧ sNoRef.power.refLost = true := by decide +kernel

/-! ### ResetLeavesTheTablesValues -/

theorem test_reset_values : (rd State.reset POWER_CAP).toNat = 1600 ∧ (rd State.reset (CAY_KLIMIT 127)).toNat = 16777216 := by decide +kernel

/-! ### BlocksHaveTheValuesOfTheirCodes -/

theorem wit_blocks : (zeros 32).length = 32 ∧ (List.replicate 16 (0 : BitVec 32)).length = 16 ∧ (zeros 64).length = 64 ∧
    (floatDy .bf16 0x3F80).isSome = true ∧ (0x3F80#16).getLsbD 15 = false ∧ (floatDy .bf16 0).isSome = true := by decide +kernel
theorem test_blocks : g8Values [0x80, 0xFF, 3] 128 = [none, some ⟨-1, 1⟩, some ⟨3, 1⟩] ∧ g8Values [3] 0xFF = [none] ∧
    w32Values ⟨[0x80000000, 0xFFFFFFFE], 0xFFFF⟩ = [none, some ⟨-2, -1⟩] := by decide +kernel

/-! ### MemoryReadsWhatWasWritten -/

theorem wit_memory : memWf [(5, 7), (flashBase, 9)] = true ∧ memWf [(5, 0)] = false ∧ memWf [(5, 1), (5, 2)] = false ∧ memWf [(6, 1), (5, 2)] = false := by
  decide +kernel
theorem test_memory : (poke sFlash 4 [1, 0, 3]).mem = [(4, 1), (6, 3), (flashBase, 9)] ∧ (wipe sFlash 0 16).mem = [(flashBase, 9)] := by decide +kernel

/-! ### EveryStepKeepsMemoryCanonical -/

theorem wit_kept : memWf sFlash.mem = true ∧ sFlash.pending = [] := by decide +kernel

/-! ### TheRollbackFloorNeverFalls -/

theorem wit_floor : nextHas (.confirm (.pf 0) 1) sTrial (fun t => sTrial.rpa.floor < t.rpa.floor) = true := by decide +kernel

/-! ### EveryCommandGoesOnAndTheQueueDrains -/

theorem wit_drain : nextHas .modEnLow { sReady with pending := [.inputHigh] } (fun t => t.pending == [.inputHigh]) = true := by decide +kernel

end Sys2Proof.Tests
end

section
/-! SUPPORT. What the memory list reads after a write and after a zeroing (R10, R255, R425). -/

namespace Sys2Proof.Machine

/-! ## Lookups in the memory list -/

theorem cellGet_append (l m : List Host.Cell) (k : Nat) : cellGet (l ++ m) k = (cellGet l k).or (cellGet m k) := by
  induction l with
  | nil => rfl
  | cons x l ih =>
    simp only [List.cons_append, cellGet, ih]
    split <;> rfl

/-- Entries of other addresses taken away leave a lookup. -/
theorem cellGet_filter_of_kept (m : List Host.Cell) {p : Host.Cell → Bool} {k : Nat} (h : ∀ v, p (k, v) = true) :
    cellGet (m.filter p) k = cellGet m k := by
  induction m with
  | nil => rfl
  | cons x m ih =>
    obtain ⟨a, v⟩ := x
    by_cases ha : a = k
    · subst ha
      simp [h, cellGet]
    · by_cases hp : p (a, v) = true <;> simp [hp, cellGet, ha, ih]

/-- An address of which no entry is kept reads as unlisted. -/
theorem cellGet_filter_of_dropped (m : List Host.Cell) {p : Host.Cell → Bool} {k : Nat} (h : ∀ v, p (k, v) = false) :
    cellGet (m.filter p) k = none := by
  induction m with
  | nil => rfl
  | cons x m ih =>
    obtain ⟨a, v⟩ := x
    by_cases ha : a = k
    · subst ha
      simp [h, ih]
    · by_cases hp : p (a, v) = true <;> simp [hp, cellGet, ha, ih]

/-- A run lists nothing outside itself. -/
theorem cellGet_freshCells_outside {a k : Nat} {bs : List Byte} (h : k < a ∨ a + bs.length ≤ k) :
    cellGet (freshCells a bs) k = none := by
  induction bs generalizing a with
  | nil => rfl
  | cons b bs ih =>
    simp only [List.length_cons] at h
    have hk : cellGet (freshCells (a + 1) bs) k = none := ih (by omega)
    simp only [freshCells]
    split
    · exact hk
    · simp only [cellGet, hk, if_neg (show ¬ a = k by omega)]

/-- A run lists its bytes, but those that an unlisted address reads as anyway. -/
theorem cellGet_freshCells {a i : Nat} {bs : List Byte} {b : Byte} (h : bs[i]? = some b) :
    cellGet (freshCells a bs) (a + i) = if memDefault (a + i) = some b then none else some b := by
  induction bs generalizing a i with
  | nil => simp at h
  | cons c bs ih =>
    cases i with
    | zero =>
      obtain rfl : c = b := by simpa using h
      have hout : cellGet (freshCells (a + 1) bs) a = none := cellGet_freshCells_outside (.inl (Nat.lt_succ_self a))
      simp only [freshCells, Nat.add_zero]
      split
      · exact hout
      · simp [cellGet]
    | succ i =>
      have hi := ih (a := a + 1) (i := i) (by simpa using h)
      rw [show a + 1 + i = a + (i + 1) by omega] at hi
      simp only [freshCells]
      split
      · exact hi
      · simp only [cellGet, hi, if_neg (show ¬ a = a + (i + 1) by omega)]

theorem cellGet_cellsPut_outside (m : List Host.Cell) {a k : Nat} {bs : List Byte} (h : k < a ∨ a + bs.length ≤ k) :
    cellGet (cellsPut m a bs) k = cellGet m k := by
  unfold cellsPut
  rw [cellGet_append, cellGet_append, cellGet_freshCells_outside h, Option.or_none]
  rcases h with h | h
  · rw [cellGet_filter_of_kept m (by simpa using h), cellGet_filter_of_dropped m (p := fun x => decide (a + bs.length ≤ x.1))
      (by simp; omega), Option.or_none]
  · rw [cellGet_filter_of_dropped m (by simp; omega), cellGet_filter_of_kept m (by simpa using h), Option.none_or]

theorem cellGet_cellsPut_inside (m : List Host.Cell) {a i : Nat} {bs : List Byte} {b : Byte} (h : bs[i]? = some b) :
    cellGet (cellsPut m a bs) (a + i) = if memDefault (a + i) = some b then none else some b := by
  have hi : i < bs.length := (List.getElem?_eq_some_iff.mp h).1
  unfold cellsPut
  rw [cellGet_append, cellGet_append, cellGet_filter_of_dropped m (by simp), cellGet_freshCells h,
    cellGet_filter_of_dropped m (by simp; omega), Option.none_or, Option.or_none]

/-! ## What a byte reads as -/

theorem byteAt_congr {m m' : List Host.Cell} {k : Nat} (r : Nat) (h : cellGet m k = cellGet m' k) :
    byteAt m r k = byteAt m' r k := by
  unfold byteAt
  rw [h]

theorem byteAt_of_unlisted {m : List Host.Cell} {k : Nat} (r : Nat) (h : cellGet m k = none) :
    byteAt m r k = (memDefault k).getD (Config.hostByte r k) := by
  unfold byteAt
  rw [h]

theorem byteAt_of_listed {m : List Host.Cell} {k : Nat} {v : Byte} (r : Nat) (h : cellGet m k = some v) : byteAt m r k = v := by
  unfold byteAt
  rw [h]

/-- A written byte reads back (R10). -/
theorem byteAt_cellsPut_inside (m : List Host.Cell) (r : Nat) {a i : Nat} {bs : List Byte} {b : Byte} (h : bs[i]? = some b) :
    byteAt (cellsPut m a bs) r (a + i) = b := by
  have hget := cellGet_cellsPut_inside m (a := a) h
  by_cases hd : memDefault (a + i) = some b
  · rw [if_pos hd] at hget
    rw [byteAt_of_unlisted r hget, hd, Option.getD_some]
  · rw [if_neg hd] at hget
    exact byteAt_of_listed r hget

theorem byteAt_wipe_outside (s : State) (r : Nat) {a n k : Nat} (h : k < a ∨ a + n ≤ k) :
    byteAt (wipe s a n).mem r k = byteAt s.mem r k :=
  byteAt_congr r (cellGet_filter_of_kept s.mem (by simp; omega))

/-- A zeroed range of the module's own memory reads zero (R425). -/
theorem byteAt_wipe_inside (s : State) (r : Nat) {a n k : Nat} (h1 : a ≤ k) (h2 : k < a + n) (h3 : k < hostBase) :
    byteAt (wipe s a n).mem r k = 0 := by
  have hget : cellGet (wipe s a n).mem k = none := cellGet_filter_of_dropped s.mem (by simp; omega)
  rw [byteAt_of_unlisted r hget, memDefault, if_pos h3, Option.getD_some]

/-- A mark goes where a whole block was written (R268). -/
theorem mem_poison_poke (s : State) (a : Nat) (bs : List Byte) (k : Nat) :
    k ∈ (poke s a bs).poison ↔ k ∈ s.poison ∧ ¬ (a ≤ 64 * k ∧ 64 * k + 64 ≤ a + bs.length) := by
  simp only [poke, List.mem_filter, Bool.not_eq_true', Bool.and_eq_false_iff, decide_eq_false_iff_not,
    Classical.not_and_iff_not_or_not]

/-- Two canonical memories that list the same bytes are the same data. -/
theorem memWf_ext {m m' : List Host.Cell} (h : memWf m = true) (h' : memWf m' = true) (e : ∀ a, cellGet m a = cellGet m' a) :
    m = m' := by
  have hmem : ∀ x, x ∈ m ↔ x ∈ m' := fun x => by rw [← cellGet_eq_some h, ← cellGet_eq_some h', e]
  have hr := ((memWf_iff m).mp h).1
  have hr' := ((memWf_iff m').mp h').1
  have hnodup : ∀ {l : List Host.Cell}, l.Pairwise (fun x y => x.1 < y.1) → l.Nodup := fun hl =>
    hl.imp fun hxy e => absurd (congrArg Prod.fst e) (Nat.ne_of_lt hxy)
  refine ((List.perm_ext_iff_of_nodup (hnodup hr) (hnodup hr')).mpr hmem).eq_of_pairwise ?_ hr hr'
  intro x y _ _ hxy hyx
  exact absurd hxy (Nat.lt_asymm hyx)

/-- A read of several bytes has the bytes in rising order of address. -/
theorem getElem?_bytesAt (m : List Host.Cell) (r a : Nat) {n i : Nat} (h : i < n) :
    (bytesAt m r a n)[i]? = some (byteAt m r (a + i)) := by
  simp [bytesAt, h]

/-- Settles O57. A lookup goes through the three parts of the written list; outside the run it meets the old entries, inside it
the run's own, which lists a byte unless an unlisted address reads as that byte anyway. -/
theorem memoryReadsWhatWasWritten : Obligations.MemoryReadsWhatWasWritten := by
  refine ⟨fun s a bs => ⟨fun r x hx => ?_, fun r i b hb => ?_, memWf_poke a bs, mem_poison_poke s a bs, rfl⟩,
    fun s a n => ⟨fun r x => byteAt_wipe_outside s r, fun r x => byteAt_wipe_inside s r, memWf_wipe a n⟩,
    fun m m' => memWf_ext, fun m r a n i => ⟨by simp [bytesAt], getElem?_bytesAt m r a⟩⟩
  · exact byteAt_congr r (cellGet_cellsPut_outside s.mem hx)
  · exact byteAt_cellsPut_inside s.mem r hb

end Sys2Proof.Machine
end

section
/-! SUPPORT. A step and a tick (R9, R435). -/

namespace Sys2Proof.Machine

/-- An entry that a table holds is one of its pairs. -/
theorem mem_of_tget {α : Type} {t : Table α} {k : Nat} {v : α} (h : tget t k = some v) : (k, v) ∈ t := by
  induction t with
  | nil => simp [tget] at h
  | cons x t ih =>
    obtain ⟨j, w⟩ := x
    simp only [tget] at h
    split at h
    · next hj =>
      obtain rfl := Option.some.inj h
      exact hj ▸ List.mem_cons_self
    · exact List.mem_cons_of_mem _ (ih h)

/-- A Cay that runs no call has no stream to move. -/
theorem runStream_of_idle {s : State} {n : Nat} (k count : Nat) (h : (cayAt s n).call = none) : runStream s n k count = s := by
  simp [runStream, h]

/-- A fold whose every step leaves its start leaves it. -/
theorem foldl_eq_self {α β : Type} {f : β → α → β} {b : β} (h : ∀ x, f b x = b) (l : List α) : l.foldl f b = b := by
  induction l with
  | nil => rfl
  | cons x l ih => rw [List.foldl_cons, h, ih]

theorem call_cayAt_eq_none {s : State} (h : ∀ p ∈ s.cays, p.2.call = none) (n : Nat) : (cayAt s n).call = none := by
  unfold cayAt
  cases hn : tget s.cays n with
  | none => rfl
  | some m => exact h _ (mem_of_tget hn)

/-- Without a running call a tick moves no row. -/
theorem moveStreams_of_no_call {s : State} (h : ∀ p ∈ s.cays, p.2.call = none) : moveStreams s = s :=
  foldl_eq_self (fun p => foldl_eq_self (fun k => runStream_of_idle k 1 (call_cayAt_eq_none h p.1)) (List.range 4)) s.cays

/-- An upset strikes one Cay below 128, and no other entry of the table changes. -/
theorem strike_some (s : State) (n k : Nat) : ∃ x, strike s (some (n, k)) = { s with upsets := x } ∧
    ∀ m : Nat, tget x m = tget s.upsets m ∨ (m = n ∧ m < 128 ∧ (tget x m).isSome = true) := by
  refine ⟨_, rfl, fun m => ?_⟩
  by_cases hn : n < 128
  · rw [if_pos hn]
    by_cases hm : m = n
    · subst hm
      exact .inr ⟨rfl, hn, by simp⟩
    · exact .inl (tget_tput_ne _ _ (Ne.symm hm))
  · rw [if_neg hn]
    exact .inl rfl

/-- Settles O54: `step` answers by the head of the queue, and `tick` by whether the reference is lost. -/
theorem stepRunsTheFrontCommand : Obligations.StepRunsTheFrontCommand := by
  refine ⟨fun s c rest hp => ?_, fun s hp => ⟨fun hr => ?_, fun hr => ?_⟩,
    fun s => ⟨rfl, rfl, moveStreams_of_no_call, strike_some s⟩⟩
  · simp only [step, hp]
  · simp [step, hp, tick, hr]
  · simp [step, hp, tick, hr]

end Sys2Proof.Machine
end

section
/-! SUPPORT. Which registers an update leaves alone: the rules of `RegsBut`, and what a message of a function changes. -/

namespace Sys2Proof.Safety

open Sys2Proof.Machine

theorem getF_congr {s t : State} {f : Fld} (h : rd t f.off = rd s f.off) : getF t f = getF s f := by
  unfold getF
  rw [h]

theorem flag_congr {s t : State} {f : Fld} (h : rd t f.off = rd s f.off) : flag t f = flag s f := by
  unfold flag
  rw [getF_congr h]

theorem RegsBut.refl (s : State) (l : List Nat) : RegsBut s s l := fun _ _ => rfl

theorem RegsBut.trans {s t u : State} {l : List Nat} (h : RegsBut s t l) (g : RegsBut t u l) : RegsBut s u l :=
  fun o ho => (g o ho).trans (h o ho)

theorem RegsBut.mono {s t : State} {l m : List Nat} (h : RegsBut s t l) (hl : l ⊆ m) : RegsBut s t m :=
  fun o ho => h o (fun hm => ho (hl hm))

/-- An update that leaves the register table leaves every register. -/
theorem regsBut_of_regs {s t : State} (h : t.regs = s.regs) (l : List Nat) : RegsBut s t l := fun o _ => by
  simp only [rd, h]

theorem regsBut_wr (s : State) {o : Nat} (w : Word) {l : List Nat} (h : o ∈ l) : RegsBut s (wr s o w) l :=
  fun _ hj => rd_wr_ne s w (fun e => hj (e ▸ h))

theorem regsBut_setF (s : State) {f : Fld} (v : Nat) {l : List Nat} (h : f.off ∈ l) : RegsBut s (setF s f v) l :=
  regsBut_wr s _ h

theorem regsBut_bump (s : State) {f : Fld} (k : Nat) {l : List Nat} (h : f.off ∈ l) : RegsBut s (bump s f k) l :=
  regsBut_setF s _ h

/-- A field of a register that stays. -/
theorem RegsBut.getF {s t : State} {l : List Nat} (h : RegsBut s t l) {f : Fld} (hf : f.off ∉ l) : getF t f = getF s f :=
  getF_congr (h f.off hf)

theorem RegsBut.flag {s t : State} {l : List Nat} (h : RegsBut s t l) {f : Fld} (hf : f.off ∉ l) : flag t f = flag s f :=
  flag_congr (h f.off hf)

end Sys2Proof.Safety

namespace Sys2Proof.Machine

open Sys2Proof.Safety

theorem getF_lt (s : State) (f : Fld) : getF s f < 2 ^ (f.hi + 1 - f.lo) := bits_lt _ _ _

/-- A field written with a value that it can hold reads that value. -/
theorem getF_setF_of_lt (s : State) {f : Fld} {v : Nat} (h : f.hi < 32) (hl : f.lo ≤ f.hi) (hv : v < 2 ^ (f.hi + 1 - f.lo)) :
    getF (setF s f v) f = v := by
  rw [getF_setF_same s f v h hl, Nat.mod_eq_of_lt hv]

/-! ## Messages (R363, R365) -/

/-- What a message of a function can do: nothing, a pending vector, or the message. -/
theorem msix_cases (s : State) (h fn vec : Nat) :
    msix s h fn vec = s ∨ (∃ f, msix s h fn vec = withPcie s h fn f) ∨ msix s h fn vec = emit s (.msix h fn vec) := by
  simp only [msix]
  split
  · exact .inl rfl
  · split
    · exact .inr (.inl ⟨_, rfl⟩)
    · exact .inr (.inr rfl)

@[simp] theorem msix_regs (s : State) (h fn vec : Nat) : (msix s h fn vec).regs = s.regs := by
  rcases msix_cases s h fn vec with e | ⟨f, e⟩ | e <;> rw [e] <;> rfl

@[simp] theorem msix_power (s : State) (h fn vec : Nat) : (msix s h fn vec).power = s.power := by
  rcases msix_cases s h fn vec with e | ⟨f, e⟩ | e <;> rw [e] <;> rfl

@[simp] theorem msix_boot (s : State) (h fn vec : Nat) : (msix s h fn vec).boot = s.boot := by
  rcases msix_cases s h fn vec with e | ⟨f, e⟩ | e <;> rw [e] <;> rfl

@[simp] theorem pfMsix_regs (s : State) (vec : Nat) : (pfMsix s vec).regs = s.regs := by simp [pfMsix]
@[simp] theorem pfMsix_power (s : State) (vec : Nat) : (pfMsix s vec).power = s.power := by simp [pfMsix]
@[simp] theorem pfMsix_boot (s : State) (vec : Nat) : (pfMsix s vec).boot = s.boot := by simp [pfMsix]

@[simp] theorem pcieAt_setF (s : State) (f : Fld) (v h fn : Nat) : pcieAt (setF s f v) h fn = pcieAt s h fn := by simp [pcieAt]

@[simp] theorem pcieAt_withPcie_same (s : State) (h fn : Nat) (f : PcieFn → PcieFn) :
    pcieAt (withPcie s h fn f) h fn = f (pcieAt s h fn) := by
  simp [pcieAt, withPcie]

/-- A message leaves the configuration of every other function. -/
theorem pcieAt_msix_ne (s : State) {h fn h' fn' : Nat} (vec : Nat) (hne : 64 * h + fn ≠ 64 * h' + fn') :
    pcieAt (msix s h fn vec) h' fn' = pcieAt s h' fn' := by
  rcases msix_cases s h fn vec with e | ⟨f, e⟩ | e <;> rw [e]
  · simp [pcieAt, withPcie, tget_tput_ne _ _ hne]
  · rfl

theorem msix_bme (s : State) (h fn vec : Nat) : (msix s h fn vec).bme = s.bme := by
  rcases msix_cases s h fn vec with e | ⟨f, e⟩ | e <;> rw [e] <;> rfl

/-- A message of one port's function leaves what the other port may issue. -/
theorem hostUp_msix_ne (s : State) {h fn h' fn' : Nat} (vec : Nat) (h0 : 64 * h + fn ≠ 64 * h') (h1 : 64 * h + fn ≠ 64 * h' + fn') :
    hostUp (msix s h fn vec) h' fn' = hostUp s h' fn' := by
  unfold hostUp
  rw [pcieAt_msix_ne s vec h0, pcieAt_msix_ne s vec h1, msix_bme,
    (regsBut_of_regs (msix_regs s h fn vec) []).flag (List.not_mem_nil)]

/-- What has left the module stays in what has left it. -/
theorem mem_out_msix {s : State} {o : Out} (h fn vec : Nat) (ho : o ∈ s.out) : o ∈ (msix s h fn vec).out := by
  rcases msix_cases s h fn vec with e | ⟨f, e⟩ | e <;> rw [e]
  · exact ho
  · exact ho
  · exact List.mem_cons_of_mem _ ho

theorem msix_sent {s : State} {h fn vec : Nat} (hup : hostUp s h fn = true) (hon : (pcieAt s h fn).msixOn = true)
    (hm : (pcieAt s h fn).fnMask = false) (hv : vec ∈ (pcieAt s h fn).unmasked) : msix s h fn vec = emit s (.msix h fn vec) := by
  simp [msix, hup, hon, hm, hv]

/-- A masked vector waits (R365). -/
theorem msix_waits {s : State} {h fn vec : Nat} (hup : hostUp s h fn = true) (hon : (pcieAt s h fn).msixOn = true)
    (hm : (pcieAt s h fn).fnMask = true ∨ vec ∉ (pcieAt s h fn).unmasked) : vec ∈ (pcieAt (msix s h fn vec) h fn).waiting := by
  have hb : ((pcieAt s h fn).fnMask || !(pcieAt s h fn).unmasked.contains vec) = true := by simpa using hm
  simp only [msix, hup, hon, Bool.not_true, Bool.or_self, Bool.false_eq_true, if_false, if_pos hb, pcieAt_withPcie_same]
  split
  · next hw => simpa using hw
  · simp

end Sys2Proof.Machine
end

section
/-! SUPPORT. The power loop (R431 to R434, R442): the rules of a die's limit and of an event, then the loop and the fast step. -/

namespace Sys2Proof.Machine

open Sys2Proof.Safety

/-! ## The word of a die -/

theorem toNat_vcoreWord {t m p : Nat} (ht : t < 1024) (hm : m < 1024) (hp : p < 1024) :
    (vcoreWord t m p).toNat = t * 2 ^ 20 + m * 2 ^ 10 + p := by
  simp only [vcoreWord, BitVec.toNat_ofNat]
  omega

theorem target_vcoreWord {t m p : Nat} (ht : t < 1024) (hm : m < 1024) (hp : p < 1024) :
    bits (vcoreWord t m p).toNat 29 20 = t := by
  rw [toNat_vcoreWord ht hm hp, bits, Nat.shiftRight_eq_div_pow]
  omega

theorem vmin_vcoreWord {t m p : Nat} (ht : t < 1024) (hm : m < 1024) (hp : p < 1024) :
    bits (vcoreWord t m p).toNat 19 10 = m := by
  rw [toNat_vcoreWord ht hm hp, bits, Nat.shiftRight_eq_div_pow]
  omega

theorem present_vcoreWord {t m p : Nat} (ht : t < 1024) (hm : m < 1024) (hp : p < 1024) :
    bits (vcoreWord t m p).toNat 9 0 = p := by
  rw [toNat_vcoreWord ht hm hp, bits, Nat.shiftRight_zero]
  omega

theorem vmin_lt (s : State) (d : Nat) : vmin s d < 1024 := bits_lt _ 19 10
theorem vtarget_lt (s : State) (d : Nat) : vtarget s d < 1024 := bits_lt _ 29 20

theorem vcoreReg_ne {d e : Nat} (hd : d < 2) (he : e < 2) (h : d ≠ e) : vcoreReg d ≠ vcoreReg e := by
  have h1 : d = 0 ∧ e = 1 ∨ d = 1 ∧ e = 0 := by omega
  rcases h1 with ⟨rfl, rfl⟩ | ⟨rfl, rfl⟩ <;> decide

theorem vcoreReg_ne_event (d : Nat) : vcoreReg d ≠ POWER_EVENT := by
  unfold vcoreReg
  split <;> decide

/-- PRESENT of a die is the lower of its TARGET and its limit (R433). -/
def presentOk (s : State) (d : Nat) : Prop := bits (rd s (vcoreReg d)).toNat 9 0 = min (vtarget s d) (vlimit s d)

theorem rd_putPresent_same (s : State) (d : Nat) : rd (putPresent s d) (vcoreReg d) =
    vcoreWord (vtarget s d) (vmin s d) (min (vtarget s d) (vlimit s d)) := rd_wr_same ..

theorem present_lt (s : State) (d : Nat) : min (vtarget s d) (vlimit s d) < 1024 :=
  Nat.lt_of_le_of_lt (Nat.min_le_left _ _) (vtarget_lt s d)

theorem vtarget_putPresent (s : State) (d : Nat) : vtarget (putPresent s d) d = vtarget s d := by
  unfold vtarget
  rw [rd_putPresent_same, target_vcoreWord (vtarget_lt s d) (vmin_lt s d) (present_lt s d)]
  rfl

theorem vmin_putPresent (s : State) (d : Nat) : vmin (putPresent s d) d = vmin s d := by
  unfold vmin
  rw [rd_putPresent_same, vmin_vcoreWord (vtarget_lt s d) (vmin_lt s d) (present_lt s d)]
  rfl

theorem putPresent_power (s : State) (d : Nat) : (putPresent s d).power = s.power := wr_power ..

theorem presentOk_putPresent (s : State) (d : Nat) : presentOk (putPresent s d) d := by
  have hl : vlimit (putPresent s d) d = vlimit s d := by simp only [vlimit, putPresent_power]
  unfold presentOk
  rw [vtarget_putPresent, hl, rd_putPresent_same, present_vcoreWord (vtarget_lt s d) (vmin_lt s d) (present_lt s d)]

/-! ## Steps of a die's limit -/

/-- `t` is `s` after work of the loop on die `d`, whose limit is now `v`: nothing but that limit, the die's register and
POWER_EVENT can differ in what the loop reads, and neither TARGET nor VMIN does. -/
structure LimitStep (s t : State) (d v : Nat) : Prop where
  regs : RegsBut s t [vcoreReg d, POWER_EVENT]
  power : t.power = { s.power with vl := t.power.vl }
  boot : t.boot = s.boot
  limit : vlimit t d = v
  others : ∀ e, e < 2 → e ≠ d → vlimit t e = vlimit s e
  vmin : vmin t d = vmin s d
  vtarget : vtarget t d = vtarget s d

theorem LimitStep.refl (s : State) (d : Nat) : LimitStep s s d (vlimit s d) :=
  ⟨.refl _ _, rfl, rfl, rfl, fun _ _ _ => rfl, rfl, rfl⟩

theorem LimitStep.cap {s t : State} {d v : Nat} (h : LimitStep s t d v) : t.power.cap = s.power.cap := by rw [h.power]
theorem LimitStep.fast {s t : State} {d v : Nat} (h : LimitStep s t d v) : t.power.fast = s.power.fast := by rw [h.power]

/-- A step of one die leaves the word of the other. -/
theorem LimitStep.rd_other {s t : State} {d v e : Nat} (h : LimitStep s t d v) (hd : d < 2) (he : e < 2) (hne : e ≠ d) :
    rd t (vcoreReg e) = rd s (vcoreReg e) :=
  h.regs _ (by simp [vcoreReg_ne he hd hne, vcoreReg_ne_event e])

theorem LimitStep.vmin_other {s t : State} {d v e : Nat} (h : LimitStep s t d v) (hd : d < 2) (he : e < 2) (hne : e ≠ d) :
    Machine.vmin t e = Machine.vmin s e := by
  unfold Machine.vmin
  rw [h.rd_other hd he hne]

theorem LimitStep.vtarget_other {s t : State} {d v e : Nat} (h : LimitStep s t d v) (hd : d < 2) (he : e < 2) (hne : e ≠ d) :
    Machine.vtarget t e = Machine.vtarget s e := by
  unfold Machine.vtarget
  rw [h.rd_other hd he hne]

theorem LimitStep.present_other {s t : State} {d v e : Nat} (h : LimitStep s t d v) (hd : d < 2) (he : e < 2) (hne : e ≠ d)
    (hp : presentOk s e) : presentOk t e := by
  unfold presentOk
  rw [h.rd_other hd he hne, h.vtarget_other hd he hne, h.others e he hne, hp]

/-- An update that leaves the limits and changes no register but POWER_EVENT ends the step as well. -/
theorem LimitStep.then_event {s t u : State} {d v : Nat} (h : LimitStep s t d v) (hr : RegsBut t u [POWER_EVENT])
    (hp : u.power = t.power) (hb : u.boot = t.boot) : LimitStep s u d v := by
  have hw : rd u (vcoreReg d) = rd t (vcoreReg d) := hr _ (by simp [vcoreReg_ne_event d])
  have hl : ∀ e, vlimit u e = vlimit t e := fun e => by simp only [vlimit, hp]
  refine ⟨h.regs.trans (hr.mono (by simp)), ?_, hb.trans h.boot, (hl d).trans h.limit,
    fun e he hne => (hl e).trans (h.others e he hne), ?_, ?_⟩
  · rw [hp]
    exact h.power
  · rw [← h.vmin]
    unfold Machine.vmin
    rw [hw]
  · rw [← h.vtarget]
    unfold Machine.vtarget
    rw [hw]

/-- The state with a die's limit changed, before PRESENT follows. -/
def withLimit (s : State) (d v : Nat) : State :=
  { s with power := { s.power with vl := if d = 0 then [v, vlimit s 1] else [vlimit s 0, v] } }

theorem setLimit_eq (s : State) (d v : Nat) : setLimit s d v = putPresent (withLimit s d v) d := rfl

theorem vlimit_withLimit_same (s : State) {d : Nat} (v : Nat) (h : d < 2) : vlimit (withLimit s d v) d = v := by
  have h1 : d = 0 ∨ d = 1 := by omega
  rcases h1 with rfl | rfl <;> rfl

theorem vlimit_withLimit_ne (s : State) {d e : Nat} (v : Nat) (hd : d < 2) (he : e < 2) (hne : e ≠ d) :
    vlimit (withLimit s d v) e = vlimit s e := by
  have h1 : d = 0 ∧ e = 1 ∨ d = 1 ∧ e = 0 := by omega
  rcases h1 with ⟨rfl, rfl⟩ | ⟨rfl, rfl⟩ <;> rfl

/-- A limit set is a step of its die. -/
theorem limitStep_setLimit (s : State) {d : Nat} (v : Nat) (h : d < 2) : LimitStep s (setLimit s d v) d v := by
  have hp := putPresent_power (withLimit s d v) d
  have hl : ∀ e, vlimit (putPresent (withLimit s d v) d) e = vlimit (withLimit s d v) e := fun e => by simp only [vlimit, hp]
  rw [setLimit_eq]
  refine ⟨?_, by rw [hp]; rfl, wr_boot .., (hl d).trans (vlimit_withLimit_same s v h),
    fun e he hne => (hl e).trans (vlimit_withLimit_ne s v h he hne), vmin_putPresent _ _, vtarget_putPresent _ _⟩
  exact regsBut_wr (withLimit s d v) _ (by simp)

theorem presentOk_setLimit (s : State) (d v : Nat) : presentOk (setLimit s d v) d := presentOk_putPresent _ _

/-! ## Events (R434) -/

theorem powerEvent_power (s : State) (f : Fld) : (powerEvent s f).power = s.power := by
  unfold powerEvent
  split <;> simp

theorem powerEvent_boot (s : State) (f : Fld) : (powerEvent s f).boot = s.boot := by
  unfold powerEvent
  split <;> simp

/-- An event whose bit is set changes nothing. -/
theorem powerEvent_of_set {s : State} {f : Fld} (h : flag s f = true) : powerEvent s f = s := if_pos h

theorem powerEvent_of_clear {s : State} {f : Fld} (h : flag s f = false) : powerEvent s f = pfMsix (setF s f 1) 1 :=
  if_neg (by simp [h])

theorem regsBut_pfMsix (s : State) (vec : Nat) (l : List Nat) : RegsBut s (pfMsix s vec) l := regsBut_of_regs (pfMsix_regs s vec) l

/-- An event changes no register but its own. -/
theorem regsBut_powerEvent (s : State) {f : Fld} {l : List Nat} (h : f.off ∈ l) : RegsBut s (powerEvent s f) l := by
  unfold powerEvent
  split
  · exact .refl s l
  · exact (regsBut_setF s 1 h).trans (regsBut_pfMsix _ _ _)

theorem flag_pfMsix (s : State) (vec : Nat) (f : Fld) : flag (pfMsix s vec) f = flag s f :=
  (regsBut_pfMsix s vec []).flag List.not_mem_nil

/-- An event's bit reads 1 afterwards. -/
theorem flag_powerEvent_same (s : State) {f : Fld} (h : f.hi < 32) (hl : f.lo ≤ f.hi) : flag (powerEvent s f) f = true := by
  cases hf : flag s f with
  | true => rw [powerEvent_of_set hf, hf]
  | false =>
    have h1 : 1 < 2 ^ (f.hi + 1 - f.lo) := Nat.one_lt_two_pow (by omega)
    rw [powerEvent_of_clear hf, flag_pfMsix, flag, getF_setF_of_lt s h hl h1]
    rfl

/-- An event leaves the bits of the others. -/
theorem flag_powerEvent_ne (s : State) {f g : Fld} (h : f.hi < 32) (hl : f.lo ≤ f.hi) (hd : f.hi < g.lo ∨ g.hi < f.lo) :
    flag (powerEvent s f) g = flag s g := by
  unfold powerEvent
  split
  · rfl
  · rw [flag_pfMsix, flag, flag, getF_setF_ne s f g 1 h hl (.inr hd)]

theorem LimitStep.powerEvent {s t : State} {d v : Nat} (h : LimitStep s t d v) {f : Fld} (hf : f.off = POWER_EVENT) :
    LimitStep s (powerEvent t f) d v :=
  h.then_event (regsBut_powerEvent t (by simp [hf])) (powerEvent_power t f) (powerEvent_boot t f)

theorem presentOk_powerEvent {s : State} {d : Nat} (h : presentOk s d) {f : Fld} (hf : f.off = POWER_EVENT) :
    presentOk (powerEvent s f) d := by
  have hr : rd (powerEvent s f) (vcoreReg d) = rd s (vcoreReg d) :=
    regsBut_powerEvent s (l := [POWER_EVENT]) (by simp [hf]) _ (by simp [vcoreReg_ne_event d])
  unfold presentOk vtarget vlimit at *
  rw [hr, powerEvent_power]
  exact h

/-- An event that is set stays set through another. -/
theorem flag_powerEvent_of_set {s : State} {f g : Fld} (h : f.hi < 32) (hl : f.lo ≤ f.hi) (hd : g = f ∨ f.hi < g.lo ∨ g.hi < f.lo)
    (hg : flag s g = true) : flag (powerEvent s f) g = true := by
  rcases hd with rfl | hd
  · exact flag_powerEvent_same s h hl
  · rw [flag_powerEvent_ne s h hl hd, hg]

/-! ## The loop on one die (R433) -/

/-- The die's power or heat asks for a lower limit. -/
abbrev loopDown (s : State) (watts tj : Nat) : Prop := s.power.cap < watts ∨ 100 ≤ tj

/-- Power and heat leave room for a higher limit. -/
abbrev loopRise (s : State) (watts tj : Nat) : Prop := watts + 40 ≤ s.power.cap ∧ tj ≤ 95 ∧ s.power.fast = false

/-- The limit that the loop gives a die. -/
def loopLimit (s : State) (d watts tj : Nat) : Nat :=
  if loopDown s watts tj then lowered s d 10 else if loopRise s watts tj then min 900 (vlimit s d + 5) else vlimit s d

/-- A die lowered, with the event of a limit at VMIN. -/
def lowerDie (s : State) (d : Nat) : State :=
  let t := setLimit s d (lowered s d 10)
  if lowered s d 10 = vmin s d then powerEvent t POWER_EVENT_CAP_SATURATED else t

theorem loopDie_of_down {s : State} {d watts tj : Nat} (hd : d < 2) (h : loopDown s watts tj) : loopDie s d watts tj =
    if 100 ≤ tj then powerEvent (lowerDie s d) POWER_EVENT_THERM_WARN else lowerDie s d := by
  have hv : vmin (setLimit s d (lowered s d 10)) d = vmin s d := (limitStep_setLimit s _ hd).vmin
  simp only [loopDie, if_pos h, hv, lowerDie]

theorem loopDie_of_rise {s : State} {d watts tj : Nat} (h : ¬ loopDown s watts tj) (hr : loopRise s watts tj) :
    loopDie s d watts tj = setLimit s d (min 900 (vlimit s d + 5)) := by
  rw [loopDie, if_neg h, if_pos (by simpa using hr)]

theorem loopDie_of_hold {s : State} {d watts tj : Nat} (h : ¬ loopDown s watts tj) (hr : ¬ loopRise s watts tj) :
    loopDie s d watts tj = s := by
  rw [loopDie, if_neg h, if_neg (by simpa using hr)]

theorem limitStep_lowerDie (s : State) {d : Nat} (h : d < 2) : LimitStep s (lowerDie s d) d (lowered s d 10) := by
  unfold lowerDie
  split
  · exact (limitStep_setLimit s _ h).powerEvent rfl
  · exact limitStep_setLimit s _ h

theorem presentOk_lowerDie (s : State) (d : Nat) : presentOk (lowerDie s d) d := by
  unfold lowerDie
  split
  · exact presentOk_powerEvent (presentOk_setLimit s d _) rfl
  · exact presentOk_setLimit s d _

theorem flag_saturated_lowerDie {s : State} {d : Nat} (h : lowered s d 10 = vmin s d) :
    flag (lowerDie s d) POWER_EVENT_CAP_SATURATED = true := by
  unfold lowerDie
  rw [if_pos h]
  exact flag_powerEvent_same _ (by decide) (by decide)

/-- The loop's work on a die is a step to the limit that `loopLimit` names. -/
theorem limitStep_loopDie (s : State) {d : Nat} (watts tj : Nat) (hd : d < 2) :
    LimitStep s (loopDie s d watts tj) d (loopLimit s d watts tj) := by
  by_cases h : loopDown s watts tj
  · rw [loopDie_of_down hd h, loopLimit, if_pos h]
    split
    · exact (limitStep_lowerDie s hd).powerEvent rfl
    · exact limitStep_lowerDie s hd
  · by_cases hr : loopRise s watts tj
    · rw [loopDie_of_rise h hr, loopLimit, if_neg h, if_pos hr]
      exact limitStep_setLimit s _ hd
    · rw [loopDie_of_hold h hr, loopLimit, if_neg h, if_neg hr]
      exact .refl s d

/-- PRESENT follows a limit that the loop sets. -/
theorem presentOk_loopDie {s : State} {d watts tj : Nat} (hd : d < 2) (h : loopDown s watts tj ∨ loopRise s watts tj) :
    presentOk (loopDie s d watts tj) d := by
  by_cases hw : loopDown s watts tj
  · rw [loopDie_of_down hd hw]
    split
    · exact presentOk_powerEvent (presentOk_lowerDie s d) rfl
    · exact presentOk_lowerDie s d
  · rw [loopDie_of_rise hw (h.resolve_left hw)]
    exact presentOk_setLimit s d _

theorem flag_saturated_loopDie {s : State} {d watts tj : Nat} (hd : d < 2) (h : loopDown s watts tj)
    (hv : loopLimit s d watts tj = vmin s d) : flag (loopDie s d watts tj) POWER_EVENT_CAP_SATURATED = true := by
  rw [loopLimit, if_pos h] at hv
  rw [loopDie_of_down hd h]
  split
  · exact flag_powerEvent_of_set (by decide) (by decide) (by decide) (flag_saturated_lowerDie hv)
  · exact flag_saturated_lowerDie hv

theorem flag_hot_loopDie {s : State} {d watts tj : Nat} (hd : d < 2) (h : 100 ≤ tj) :
    flag (loopDie s d watts tj) POWER_EVENT_THERM_WARN = true := by
  rw [loopDie_of_down hd (.inr h), if_pos h]
  exact flag_powerEvent_same _ (by decide) (by decide)

theorem event_setLimit (s : State) (d v : Nat) : rd (setLimit s d v) POWER_EVENT = rd s POWER_EVENT :=
  rd_wr_ne (withLimit s d v) _ (vcoreReg_ne_event d)

/-- The loop clears no event. -/
theorem flag_loopDie_of_set {s : State} {d watts tj : Nat} (hd : d < 2) {g : Fld}
    (hg : g = POWER_EVENT_CAP_SATURATED ∨ g = POWER_EVENT_THERM_WARN) (h : flag s g = true) :
    flag (loopDie s d watts tj) g = true := by
  have hoff : g.off = POWER_EVENT := by rcases hg with rfl | rfl <;> rfl
  have hset : ∀ v, flag (setLimit s d v) g = true := fun v => by
    rw [flag_congr (hoff ▸ event_setLimit s d v), h]
  have hlow : flag (lowerDie s d) g = true := by
    unfold lowerDie
    split
    · exact flag_powerEvent_of_set (by decide) (by decide) (by rcases hg with rfl | rfl <;> decide) (hset _)
    · exact hset _
  by_cases hw : loopDown s watts tj
  · rw [loopDie_of_down hd hw]
    split
    · exact flag_powerEvent_of_set (by decide) (by decide) (by rcases hg with rfl | rfl <;> decide) hlow
    · exact hlow
  · by_cases hr : loopRise s watts tj
    · rw [loopDie_of_rise hw hr]
      exact hset _
    · rwa [loopDie_of_hold hw hr]

/-- A loop that lowers nothing raises no event and sends nothing. -/
theorem quiet_loopDie {s : State} {d watts tj : Nat} (h : ¬ loopDown s watts tj) :
    rd (loopDie s d watts tj) POWER_EVENT = rd s POWER_EVENT ∧ (loopDie s d watts tj).out = s.out := by
  by_cases hr : loopRise s watts tj
  · rw [loopDie_of_rise h hr]
    exact ⟨event_setLimit s d _, wr_out ..⟩
  · rw [loopDie_of_hold h hr]
    exact ⟨rfl, rfl⟩

/-! ## The loop on both dies -/

/-- The state with the loop's readings stored, and the pin driven by them. -/
def measured (s : State) (watts tjA tjB : Nat) : State :=
  driveTherm (setF (setF (setF s POWER_INPUT_WATTS (min 65535 watts)) POWER_TEMP_TJ_A (min 255 tjA)) POWER_TEMP_TJ_B (min 255 tjB))
    s.power.hotSensor

/-- Both dies after the loop. -/
def loopBoth (s : State) (watts tjA tjB : Nat) : State := loopDie (loopDie (measured s watts tjA tjB) 0 watts tjA) 1 watts tjB

/-- The state with the next period begun. -/
def nextPeriod (s : State) : State :=
  { s with power := { s.power with fast := false, cap := getF s POWER_CAP_WATTS, loopAt := s.power.loopAt + 156250 } }

section NextPeriod

variable (s : State)

theorem nextPeriod_power : (nextPeriod s).power =
    { s.power with fast := false, cap := getF s POWER_CAP_WATTS, loopAt := s.power.loopAt + 156250 } := rfl
theorem nextPeriod_out : (nextPeriod s).out = s.out := rfl
theorem rd_nextPeriod (o : Nat) : rd (nextPeriod s) o = rd s o := rfl
theorem vmin_nextPeriod (d : Nat) : vmin (nextPeriod s) d = vmin s d := rfl
theorem vtarget_nextPeriod (d : Nat) : vtarget (nextPeriod s) d = vtarget s d := rfl
theorem regsBut_nextPeriod (l : List Nat) : RegsBut s (nextPeriod s) l := regsBut_of_regs rfl l
theorem getF_nextPeriod (f : Fld) : getF (nextPeriod s) f = getF s f := rfl

end NextPeriod

theorem exec_powerLoop {s : State} {watts tjA tjB : Nat} (h1 : s.power.phase = .running) (h2 : s.boot.released = true)
    (h3 : s.power.loopAt + 156250 ≤ s.now) :
    exec (.powerLoop watts tjA tjB) s = .next (nextPeriod (loopBoth s watts tjA tjB)) := by
  have h : ¬ (s.power.phase ≠ .running ∨ (!s.boot.released) = true ∨ s.now < s.power.loopAt + 156250) := by
    simp [h1, h2, h3]
  show execPowerLoop watts tjA tjB s = _
  rw [execPowerLoop, if_neg h]
  simp only [nextPeriod, loopBoth, measured, setF_power]

theorem exec_powerLoop_idle {s : State} {watts tjA tjB : Nat}
    (h : s.power.phase ≠ .running ∨ s.boot.released = false ∨ s.now < s.power.loopAt + 156250) :
    exec (.powerLoop watts tjA tjB) s = .next s := if_pos (by simpa using h)

theorem getF_driveTherm (s : State) (hot : Bool) (f : Fld) : getF (driveTherm s hot) f = getF s f := rfl
theorem tjHot_driveTherm (s : State) (hot : Bool) : tjHot (driveTherm s hot) = tjHot s := rfl
theorem regsBut_driveTherm (s : State) (hot : Bool) (l : List Nat) : RegsBut s (driveTherm s hot) l := regsBut_of_regs rfl l
theorem driveTherm_power (s : State) (hot : Bool) :
    (driveTherm s hot).power = { s.power with hotSensor := hot, thermWarn := hot || tjHot s } := rfl

section Readings

variable (s : State) (watts tjA tjB : Nat)

theorem regsBut_measured : RegsBut s (measured s watts tjA tjB) [POWER_INPUT, POWER_TEMP] :=
  (((regsBut_setF s (f := POWER_INPUT_WATTS) _ (by decide)).trans (regsBut_setF _ (f := POWER_TEMP_TJ_A) _ (by decide))).trans
    (regsBut_setF _ (f := POWER_TEMP_TJ_B) _ (by decide))).trans (regsBut_driveTherm _ _ _)

theorem watts_measured : getF (measured s watts tjA tjB) POWER_INPUT_WATTS = min 65535 watts := by
  unfold measured
  rw [getF_driveTherm, getF_setF_ne _ _ _ _ (by decide) (by decide) (by decide),
    getF_setF_ne _ _ _ _ (by decide) (by decide) (by decide)]
  exact getF_setF_of_lt s (by decide) (by decide) (show min 65535 watts < 2 ^ 16 by omega)

theorem tjA_measured : getF (measured s watts tjA tjB) POWER_TEMP_TJ_A = min 255 tjA := by
  unfold measured
  rw [getF_driveTherm, getF_setF_ne _ _ _ _ (by decide) (by decide) (by decide)]
  exact getF_setF_of_lt _ (by decide) (by decide) (show min 255 tjA < 2 ^ 8 by omega)

theorem tjB_measured : getF (measured s watts tjA tjB) POWER_TEMP_TJ_B = min 255 tjB := by
  unfold measured
  rw [getF_driveTherm]
  exact getF_setF_of_lt _ (by decide) (by decide) (show min 255 tjB < 2 ^ 8 by omega)

theorem measured_boot : (measured s watts tjA tjB).boot = s.boot := by simp [measured, driveTherm]
theorem measured_out : (measured s watts tjA tjB).out = s.out := by simp [measured, driveTherm]

/-- The readings change the pin, and nothing else of the converters. -/
theorem measured_power : (measured s watts tjA tjB).power =
    { s.power with thermWarn := s.power.hotSensor || decide (100 ≤ tjA) || decide (100 ≤ tjB) } := by
  have hhot : tjHot (measured s watts tjA tjB) = (decide (100 ≤ tjA) || decide (100 ≤ tjB)) := by
    have hA : (100 ≤ min 255 tjA) = (100 ≤ tjA) := by simp only [eq_iff_iff]; omega
    have hB : (100 ≤ min 255 tjB) = (100 ≤ tjB) := by simp only [eq_iff_iff]; omega
    simp only [tjHot, tjA_measured, tjB_measured, hA, hB]
  rw [Bool.or_assoc, ← hhot, measured, driveTherm_power, tjHot_driveTherm]
  simp only [setF_power]

end Readings

/-- Steps of die A and then of die B, to the limits `v` and `w`. -/
structure BothSteps (s t : State) (v w : Nat) : Prop where
  regs : RegsBut s t [POWER_VCORE_A, POWER_VCORE_B, POWER_EVENT]
  power : t.power = { s.power with vl := t.power.vl }
  limitA : vlimit t 0 = v
  limitB : vlimit t 1 = w
  vmin : ∀ d, d < 2 → vmin t d = vmin s d
  vtarget : ∀ d, d < 2 → vtarget t d = vtarget s d

theorem LimitStep.both {s t u : State} {v w : Nat} (h : LimitStep s t 0 v) (g : LimitStep t u 1 w) : BothSteps s u v w where
  regs := (h.regs.mono (by decide)).trans (g.regs.mono (by decide))
  power := by rw [g.power, h.power]
  limitA := (g.others 0 (by decide) (by decide)).trans h.limit
  limitB := g.limit
  vmin d hd := by
    obtain rfl | rfl : d = 0 ∨ d = 1 := by omega
    · exact (g.vmin_other (by decide) (by decide) (by decide)).trans h.vmin
    · exact g.vmin.trans (h.vmin_other (by decide) (by decide) (by decide))
  vtarget d hd := by
    obtain rfl | rfl : d = 0 ∨ d = 1 := by omega
    · exact (g.vtarget_other (by decide) (by decide) (by decide)).trans h.vtarget
    · exact g.vtarget.trans (h.vtarget_other (by decide) (by decide) (by decide))

theorem BothSteps.power_of {s t : State} {v w : Nat} (h : BothSteps s t v w) {p : PowerSt} (hs : s.power = p) :
    t.power = { p with vl := t.power.vl } := hs ▸ h.power

theorem lowered_congr {s t : State} {d : Nat} (k : Nat) (hb : t.boot = s.boot) (hl : vlimit t d = vlimit s d)
    (hm : vmin t d = vmin s d) : lowered t d k = lowered s d k := by
  simp only [lowered, hb, hl, hm]

theorem loopLimit_congr {s t : State} {d : Nat} (watts tj : Nat) (hc : t.power.cap = s.power.cap) (hf : t.power.fast = s.power.fast)
    (hb : t.boot = s.boot) (hl : vlimit t d = vlimit s d) (hm : vmin t d = vmin s d) :
    loopLimit t d watts tj = loopLimit s d watts tj := by
  simp only [loopLimit, loopDown, loopRise, hc, hf, hl, lowered_congr 10 hb hl hm]

/-- What the loop leaves of a die. -/
structure DieLooped (s t : State) (d watts tj : Nat) : Prop where
  limit : vlimit t d = loopLimit s d watts tj
  present : loopDown s watts tj ∨ loopRise s watts tj → presentOk t d
  saturated : loopDown s watts tj → loopLimit s d watts tj = vmin s d → flag t POWER_EVENT_CAP_SATURATED = true
  hot : 100 ≤ tj → flag t POWER_EVENT_THERM_WARN = true

theorem dieLooped_loopDie (s : State) {d : Nat} (watts tj : Nat) (hd : d < 2) : DieLooped s (loopDie s d watts tj) d watts tj :=
  ⟨(limitStep_loopDie s watts tj hd).limit, presentOk_loopDie hd, flag_saturated_loopDie hd, flag_hot_loopDie hd⟩

/-- The loop on die B leaves what the loop on die A did. -/
theorem DieLooped.then_other {s t : State} {watts tj tj' : Nat} (h : DieLooped s t 0 watts tj) :
    DieLooped s (loopDie t 1 watts tj') 0 watts tj := by
  have g := limitStep_loopDie t watts tj' (d := 1) (by decide)
  exact ⟨(g.others 0 (by decide) (by decide)).trans h.limit,
    fun hw => g.present_other (by decide) (by decide) (by decide) (h.present hw),
    fun hw hv => flag_loopDie_of_set (by decide) (.inl rfl) (h.saturated hw hv),
    fun hw => flag_loopDie_of_set (by decide) (.inr rfl) (h.hot hw)⟩

theorem DieLooped.nextPeriod {s t : State} {d watts tj : Nat} (h : DieLooped s t d watts tj) :
    DieLooped s (nextPeriod t) d watts tj :=
  ⟨h.limit, h.present, h.saturated, h.hot⟩

/-- What the loop reads of a die is the same in two states. -/
theorem DieLooped.of_congr {s s' t : State} {d watts tj : Nat} (h : DieLooped s' t d watts tj) (hc : s'.power.cap = s.power.cap)
    (hf : s'.power.fast = s.power.fast) (hb : s'.boot = s.boot) (hl : vlimit s' d = vlimit s d) (hm : vmin s' d = vmin s d) :
    DieLooped s t d watts tj := by
  have hlim := loopLimit_congr watts tj hc hf hb hl hm
  obtain ⟨h1, h2, h3, h4⟩ := h
  rw [hlim] at h1 h3
  rw [hm] at h3
  simp only [loopDown, loopRise, hc, hf] at h2 h3
  exact ⟨h1, h2, h3, h4⟩

section Loop

variable (s : State) (watts tjA tjB : Nat)

theorem vlimit_measured (d : Nat) : vlimit (measured s watts tjA tjB) d = vlimit s d := by
  simp only [vlimit, measured_power]

theorem rd_vcoreReg_measured (d : Nat) : rd (measured s watts tjA tjB) (vcoreReg d) = rd s (vcoreReg d) :=
  regsBut_measured s watts tjA tjB _ (by unfold vcoreReg; split <;> decide)

theorem vmin_measured (d : Nat) : vmin (measured s watts tjA tjB) d = vmin s d := by
  unfold vmin
  rw [rd_vcoreReg_measured]

theorem vtarget_measured (d : Nat) : vtarget (measured s watts tjA tjB) d = vtarget s d := by
  unfold vtarget
  rw [rd_vcoreReg_measured]

theorem bothSteps_loopBoth : ∃ v w, BothSteps (measured s watts tjA tjB) (loopBoth s watts tjA tjB) v w :=
  ⟨_, _, (limitStep_loopDie _ watts tjA (by decide)).both (limitStep_loopDie _ watts tjB (by decide))⟩

theorem dieLooped_loopBoth {d : Nat} (hd : d < 2) :
    DieLooped s (loopBoth s watts tjA tjB) d watts (if d = 0 then tjA else tjB) := by
  have hc : (measured s watts tjA tjB).power.cap = s.power.cap := by rw [measured_power]
  have hf : (measured s watts tjA tjB).power.fast = s.power.fast := by rw [measured_power]
  have hb := measured_boot s watts tjA tjB
  obtain rfl | rfl : d = 0 ∨ d = 1 := by omega
  · exact (dieLooped_loopDie _ watts tjA (by decide)).then_other.of_congr hc hf hb (vlimit_measured ..) (vmin_measured ..)
  · have g := limitStep_loopDie (measured s watts tjA tjB) watts tjA (d := 0) (by decide)
    exact (dieLooped_loopDie _ watts tjB (by decide)).of_congr (g.cap.trans hc) (g.fast.trans hf) (g.boot.trans hb)
      ((g.others 1 (by decide) (by decide)).trans (vlimit_measured ..))
      ((g.vmin_other (by decide) (by decide) (by decide)).trans (vmin_measured ..))

theorem regsBut_loopBoth : RegsBut s (loopBoth s watts tjA tjB) [POWER_INPUT, POWER_TEMP, POWER_VCORE_A, POWER_VCORE_B, POWER_EVENT] := by
  obtain ⟨v, w, h⟩ := bothSteps_loopBoth s watts tjA tjB
  exact ((regsBut_measured s watts tjA tjB).mono (by decide)).trans (h.regs.mono (by decide))

theorem getF_loopBoth {f : Fld} (hf : f.off ∉ [POWER_VCORE_A, POWER_VCORE_B, POWER_EVENT]) :
    getF (loopBoth s watts tjA tjB) f = getF (measured s watts tjA tjB) f := by
  obtain ⟨v, w, h⟩ := bothSteps_loopBoth s watts tjA tjB
  exact h.regs.getF hf

/-- Of the converters' state the loop changes the limits and the pin. -/
theorem loopBoth_power : (loopBoth s watts tjA tjB).power = { s.power with
    vl := (loopBoth s watts tjA tjB).power.vl, thermWarn := s.power.hotSensor || decide (100 ≤ tjA) || decide (100 ≤ tjB) } := by
  obtain ⟨v, w, h⟩ := bothSteps_loopBoth s watts tjA tjB
  exact h.power_of (measured_power s watts tjA tjB)

theorem vmin_loopBoth {d : Nat} (hd : d < 2) : vmin (loopBoth s watts tjA tjB) d = vmin s d := by
  obtain ⟨v, w, h⟩ := bothSteps_loopBoth s watts tjA tjB
  rw [h.vmin d hd, vmin_measured]

theorem vtarget_loopBoth {d : Nat} (hd : d < 2) : vtarget (loopBoth s watts tjA tjB) d = vtarget s d := by
  obtain ⟨v, w, h⟩ := bothSteps_loopBoth s watts tjA tjB
  rw [h.vtarget d hd, vtarget_measured]

/-- A loop that lowers nothing raises no event and sends nothing. -/
theorem quiet_loopBoth (hw : watts ≤ s.power.cap) (hA : tjA < 100) (hB : tjB < 100) :
    rd (loopBoth s watts tjA tjB) POWER_EVENT = rd s POWER_EVENT ∧ (loopBoth s watts tjA tjB).out = s.out := by
  have g := limitStep_loopDie (measured s watts tjA tjB) watts tjA (d := 0) (by decide)
  have hm : (measured s watts tjA tjB).power.cap = s.power.cap := by rw [measured_power]
  have hcap := g.cap.trans hm
  obtain ⟨e0, o0⟩ := quiet_loopDie (s := measured s watts tjA tjB) (d := 0) (watts := watts) (tj := tjA) (by rw [loopDown, hm]; omega)
  obtain ⟨e1, o1⟩ := quiet_loopDie (s := loopDie (measured s watts tjA tjB) 0 watts tjA) (d := 1) (watts := watts) (tj := tjB)
    (by rw [loopDown, hcap]; omega)
  exact ⟨e1.trans (e0.trans (regsBut_measured s watts tjA tjB _ (by decide))), o1.trans (o0.trans (measured_out ..))⟩

end Loop

/-! ## The fast step (R433) -/

/-- A die lowered by the fast step. -/
def fastDie (s : State) (d : Nat) : State := setLimit s d (lowered s d 50)

/-- Both dies after the fast step, with its event. -/
def fastBoth (s : State) (watts : Nat) : State :=
  powerEvent (fastDie (fastDie (setF s POWER_INPUT_WATTS (min 65535 watts)) 0) 1) POWER_EVENT_THROTTLE

/-- The loop is told of a fast step in its period. -/
def markFast (s : State) : State := { s with power := { s.power with fast := true } }

theorem fast_markFast (s : State) : (markFast s).power.fast = true := rfl
theorem vlimit_markFast (s : State) (d : Nat) : vlimit (markFast s) d = vlimit s d := rfl
theorem regsBut_markFast (s : State) (l : List Nat) : RegsBut s (markFast s) l := regsBut_of_regs rfl l

/-- The state after the fast step: the step counted, and the loop told of it. -/
def fastStepped (s : State) (watts : Nat) : State := markFast (bump (fastBoth s watts) POWER_THROTTLE_COUNT_COUNT 1)

theorem exec_powerFastStep {s : State} {watts : Nat} (h1 : s.power.phase = .running) (h2 : s.boot.released = true)
    (h3 : 11 * s.power.cap < 10 * watts) : exec (.powerFastStep watts) s = .next (fastStepped s watts) := by
  have h : ¬ (s.power.phase ≠ .running ∨ (!s.boot.released) = true ∨ 10 * watts ≤ 11 * s.power.cap) := by
    simp [h1, h2, h3]
  show execPowerFastStep watts s = _
  rw [execPowerFastStep, if_neg h]
  simp only [fastStepped, fastBoth, fastDie, markFast]

theorem exec_powerFastStep_idle {s : State} {watts : Nat}
    (h : s.power.phase ≠ .running ∨ s.boot.released = false ∨ 10 * watts ≤ 11 * s.power.cap) :
    exec (.powerFastStep watts) s = .next s := if_pos (by simpa using h)

section Fast

variable (s : State) (watts : Nat)

theorem limitStep_fastDie {d : Nat} (hd : d < 2) : LimitStep s (fastDie s d) d (lowered s d 50) := limitStep_setLimit s _ hd

/-- What the fast step reads of a die is the die's in the state before. -/
theorem vmin_setInput (v d : Nat) : vmin (setF s POWER_INPUT_WATTS v) d = vmin s d := by
  unfold vmin
  rw [regsBut_setF s (f := POWER_INPUT_WATTS) (l := [POWER_INPUT]) v (by decide) _ (by unfold vcoreReg; split <;> decide)]

theorem vtarget_setInput (v d : Nat) : vtarget (setF s POWER_INPUT_WATTS v) d = vtarget s d := by
  unfold vtarget
  rw [regsBut_setF s (f := POWER_INPUT_WATTS) (l := [POWER_INPUT]) v (by decide) _ (by unfold vcoreReg; split <;> decide)]

theorem vlimit_setInput (v d : Nat) : vlimit (setF s POWER_INPUT_WATTS v) d = vlimit s d := by simp only [vlimit, setF_power]

theorem bothSteps_fastBoth :
    BothSteps (setF s POWER_INPUT_WATTS (min 65535 watts)) (fastBoth s watts) (lowered s 0 50) (lowered s 1 50) := by
  have hA := limitStep_fastDie (setF s POWER_INPUT_WATTS (min 65535 watts)) (d := 0) (by decide)
  have hB := limitStep_fastDie (fastDie (setF s POWER_INPUT_WATTS (min 65535 watts)) 0) (d := 1) (by decide)
  have e0 : lowered (setF s POWER_INPUT_WATTS (min 65535 watts)) 0 50 = lowered s 0 50 :=
    lowered_congr 50 (setF_boot ..) (vlimit_setInput ..) (vmin_setInput ..)
  have e1 : lowered (fastDie (setF s POWER_INPUT_WATTS (min 65535 watts)) 0) 1 50 = lowered s 1 50 :=
    lowered_congr 50 (hA.boot.trans (setF_boot ..)) ((hA.others 1 (by decide) (by decide)).trans (vlimit_setInput ..))
      ((hA.vmin_other (by decide) (by decide) (by decide)).trans (vmin_setInput ..))
  rw [e0] at hA
  rw [e1] at hB
  unfold fastBoth
  exact hA.both (hB.powerEvent rfl)

theorem presentOk_fastBoth {d : Nat} (hd : d < 2) : presentOk (fastBoth s watts) d := by
  unfold fastBoth
  refine presentOk_powerEvent ?_ rfl
  obtain rfl | rfl : d = 0 ∨ d = 1 := by omega
  · exact (limitStep_fastDie _ (by decide)).present_other (by decide) (by decide) (by decide) (presentOk_setLimit _ 0 _)
  · exact presentOk_setLimit _ 1 _

end Fast

/-! ## Writes of the cap and of a target (R442) -/

theorem access_reached {s : State} {r : Requester} {off : Nat} (f : State → State) (h : reach s r off = .yes) :
    access s r off f = .next (f s) := by
  simp only [access, h]

theorem exec_powerCapWrite {s : State} {r : Requester} {v : Word} (h : reach s r POWER_CAP = .yes) :
    exec (.powerCapWrite r v) s = .next (capWrite s v) := access_reached (fun s => capWrite s v) h

theorem exec_vcoreTargetWrite {s : State} {r : Requester} {d : Die} {v : Word} (h : reach s r (vcoreReg d.val) = .yes) :
    exec (.vcoreTargetWrite r d v) s = .next (targetWrite s d.val v) := access_reached (fun s => targetWrite s d.val v) h

theorem watts_capWrite (s : State) (v : Word) : getF (capWrite s v) POWER_CAP_WATTS = max 800 (min 1600 (v.toNat % 4096)) :=
  getF_setF_of_lt s (by decide) (by decide) (show max 800 (min 1600 (bits v.toNat 11 0)) < 2 ^ 12 by omega)

/-- TARGET as a write sets it: from VMIN to 900 mV. -/
def boundedTarget (s : State) (d : Nat) (v : Word) : Nat := max (vmin s d) (min 900 (bits v.toNat 29 20))

theorem boundedTarget_lt (s : State) (d : Nat) (v : Word) : boundedTarget s d v < 1024 := by
  have h := vmin_lt s d
  unfold boundedTarget
  omega

/-- The state with TARGET stored, before PRESENT follows. -/
def withTarget (s : State) (d : Nat) (v : Word) : State := wr s (vcoreReg d) (vcoreWord (boundedTarget s d v) (vmin s d) 0)

theorem targetWrite_eq (s : State) (d : Nat) (v : Word) : targetWrite s d v = putPresent (withTarget s d v) d := rfl

theorem vtarget_withTarget (s : State) (d : Nat) (v : Word) : vtarget (withTarget s d v) d = boundedTarget s d v := by
  unfold vtarget withTarget
  rw [rd_wr_same, target_vcoreWord (boundedTarget_lt s d v) (vmin_lt s d) (by decide)]

theorem vmin_withTarget (s : State) (d : Nat) (v : Word) : vmin (withTarget s d v) d = vmin s d := by
  conv => lhs; unfold vmin withTarget
  rw [rd_wr_same, vmin_vcoreWord (boundedTarget_lt s d v) (vmin_lt s d) (by decide)]

theorem targetWrite_power (s : State) (d : Nat) (v : Word) : (targetWrite s d v).power = s.power :=
  (putPresent_power _ d).trans (wr_power ..)

theorem regsBut_targetWrite (s : State) (d : Nat) (v : Word) : RegsBut s (targetWrite s d v) [vcoreReg d] :=
  (regsBut_wr s _ (by simp)).trans (regsBut_wr _ _ (by simp))

/-- A target written is in force at once through PRESENT. -/
theorem presentOk_targetWrite (s : State) (d : Nat) (v : Word) : presentOk (targetWrite s d v) d := presentOk_putPresent _ d

/-! ## The statement -/

/-- The registers of POWER_CAP and POWER_VCORE after a write (R433, R442). -/
theorem powerWrites (s : State) (r : Requester) (v : Word) :
    (reach s r POWER_CAP = .yes → ∃ t, exec (.powerCapWrite r v) s = .next t ∧ RegsBut s t [POWER_CAP] ∧ t.power = s.power ∧
      getF t POWER_CAP_WATTS = max 800 (min 1600 (v.toNat % 4096))) ∧
    (∀ d : Die, reach s r (vcoreReg d.val) = .yes → ∃ t, exec (.vcoreTargetWrite r d v) s = .next t ∧ RegsBut s t [vcoreReg d.val] ∧
      t.power = s.power ∧ vmin t d.val = vmin s d.val ∧ vtarget t d.val = max (vmin s d.val) (min 900 (v.toNat / 2 ^ 20 % 1024)) ∧
      bits (rd t (vcoreReg d.val)).toNat 9 0 = min (vtarget t d.val) (vlimit s d.val)) := by
  refine ⟨fun h => ⟨capWrite s v, exec_powerCapWrite h, regsBut_setF s _ (by decide), setF_power .., watts_capWrite s v⟩,
    fun d h => ⟨targetWrite s d v, exec_vcoreTargetWrite h, regsBut_targetWrite s d v, targetWrite_power s d v, ?_, ?_, ?_⟩⟩
  · rw [targetWrite_eq, vmin_putPresent, vmin_withTarget]
  · have hb : bits v.toNat 29 20 = v.toNat / 2 ^ 20 % 1024 := congrArg (· % 1024) (Nat.shiftRight_eq_div_pow _ _)
    rw [targetWrite_eq, vtarget_putPresent, vtarget_withTarget, boundedTarget, hb]
  · have hl : vlimit (targetWrite s d v) d = vlimit s d := by simp only [vlimit, targetWrite_power]
    rw [← hl]
    exact presentOk_targetWrite s d v

/-- A message of a function whose vector is unmasked leaves, one whose vector is masked waits (R365): PF vector 1 on both ports. -/
theorem pfMsix_port (s : State) {h : Nat} (hh : h < 2) (hup : hostUp s h 0 = true) (hon : (pcieAt s h 0).msixOn = true) :
    ((pcieAt s h 0).fnMask = false ∧ 1 ∈ (pcieAt s h 0).unmasked → .msix h 0 1 ∈ (pfMsix s 1).out) ∧
    ((pcieAt s h 0).fnMask = true ∨ 1 ∉ (pcieAt s h 0).unmasked → 1 ∈ (pcieAt (pfMsix s 1) h 0).waiting) := by
  obtain rfl | rfl : h = 0 ∨ h = 1 := by omega
  · refine ⟨fun ⟨hm, hv⟩ => mem_out_msix 1 0 1 ?_, fun hm => ?_⟩
    · rw [msix_sent hup hon hm hv]
      exact List.mem_cons_self
    · rw [pfMsix, pcieAt_msix_ne _ 1 (by decide)]
      exact msix_waits hup hon hm
  · have hp : pcieAt (msix s 0 0 1) 1 0 = pcieAt s 1 0 := pcieAt_msix_ne s 1 (by decide)
    rw [← hostUp_msix_ne s (h := 0) (fn := 0) 1 (by decide) (by decide)] at hup
    rw [← hp] at hon ⊢
    refine ⟨fun ⟨hm, hv⟩ => ?_, fun hm => msix_waits hup hon hm⟩
    rw [pfMsix, msix_sent hup hon hm hv]
    exact List.mem_cons_self

theorem hostUp_setEvent (s : State) {f : Fld} (hf : f.off = POWER_EVENT) (v : Nat) {h : Nat} (hh : h < 2) :
    hostUp (setF s f v) h 0 = hostUp s h 0 := by
  have hne : (HOSTIF_PORT_UP h).off ∉ [POWER_EVENT] := by
    obtain rfl | rfl : h = 0 ∨ h = 1 := by omega
    · decide
    · decide
  have hr : RegsBut s (setF s f v) [POWER_EVENT] := regsBut_setF s v (by simp [hf])
  simp only [hostUp, pcieAt_setF, setF_bme, hr.flag hne]

/-- An event that goes to 1 sends PF vector 1 (R434). -/
theorem powerEvent_msix {s : State} {f : Fld} (hf : f.off = POWER_EVENT) (hc : flag s f = false) {h : Nat} (hh : h < 2)
    (hup : hostUp s h 0 = true) (hon : (pcieAt s h 0).msixOn = true) :
    ((pcieAt s h 0).fnMask = false ∧ 1 ∈ (pcieAt s h 0).unmasked → .msix h 0 1 ∈ (powerEvent s f).out) ∧
    ((pcieAt s h 0).fnMask = true ∨ 1 ∉ (pcieAt s h 0).unmasked → 1 ∈ (pcieAt (powerEvent s f) h 0).waiting) := by
  rw [← hostUp_setEvent s hf 1 hh] at hup
  rw [← pcieAt_setF s f 1] at hon ⊢
  rw [powerEvent_of_clear hc]
  exact pfMsix_port _ hh hup hon

/-- What the loop's command leaves is what `loopBoth` leaves, and the next period's cap (R433). -/
theorem powerLoop_leaves {s t : State} {watts tjA tjB : Nat} (e : t = nextPeriod (loopBoth s watts tjA tjB)) :
    t.power.fast = false ∧ t.power.cap = getF s POWER_CAP_WATTS ∧
      t.power.loopAt = s.power.loopAt + 156250 ∧ getF t POWER_INPUT_WATTS = min 65535 watts ∧ getF t POWER_TEMP_TJ_A = min 255 tjA ∧
      getF t POWER_TEMP_TJ_B = min 255 tjB ∧
      (∀ d, d < 2 → DieLooped s t d watts (if d = 0 then tjA else tjB) ∧ vmin t d = vmin s d ∧ vtarget t d = vtarget s d) ∧
      (watts ≤ s.power.cap → tjA < 100 → tjB < 100 → rd t POWER_EVENT = rd s POWER_EVENT ∧ t.out = s.out) ∧
      t.power.hotSensor = s.power.hotSensor ∧ (t.power.thermWarn = true ↔ s.power.hotSensor = true ∨ 100 ≤ tjA ∨ 100 ≤ tjB) ∧
      RegsBut s t [POWER_INPUT, POWER_TEMP, POWER_VCORE_A, POWER_VCORE_B, POWER_EVENT] := by
  have hr := regsBut_loopBoth s watts tjA tjB
  have hf := fun f => getF_loopBoth s watts tjA tjB (f := f)
  rw [e, nextPeriod_power, loopBoth_power, getF_nextPeriod, getF_nextPeriod, getF_nextPeriod, rd_nextPeriod, nextPeriod_out]
  refine ⟨rfl, hr.getF (by decide), rfl, (hf _ (by decide)).trans (watts_measured ..), (hf _ (by decide)).trans (tjA_measured ..),
    (hf _ (by decide)).trans (tjB_measured ..), fun d hd => ⟨(dieLooped_loopBoth s watts tjA tjB hd).nextPeriod, ?_, ?_⟩,
    quiet_loopBoth s watts tjA tjB, rfl, by simp [or_assoc], hr.trans (regsBut_nextPeriod _ _)⟩
  · rw [vmin_nextPeriod, vmin_loopBoth s watts tjA tjB hd]
  · rw [vtarget_nextPeriod, vtarget_loopBoth s watts tjA tjB hd]

/-- What the fast step leaves (R433). -/
theorem powerFastStep_leaves (s : State) (watts : Nat) :
    let t := fastStepped s watts
    t.power.fast = true ∧
      (∀ d, d < 2 → vlimit t d = lowered s d 50 ∧ vmin t d = vmin s d ∧ vtarget t d = vtarget s d ∧ presentOk t d) ∧
      flag t POWER_EVENT_THROTTLE = true ∧
      getF t POWER_THROTTLE_COUNT_COUNT = min (2 ^ 32 - 1) (getF s POWER_THROTTLE_COUNT_COUNT + 1) ∧
      RegsBut s t [POWER_INPUT, POWER_VCORE_A, POWER_VCORE_B, POWER_EVENT, POWER_THROTTLE_COUNT] := by
  have hb := bothSteps_fastBoth s watts
  have hi := regsBut_setF s (f := POWER_INPUT_WATTS) (l := [POWER_INPUT]) (min 65535 watts) (by decide)
  have hc : RegsBut (fastBoth s watts) (fastStepped s watts) [POWER_THROTTLE_COUNT] :=
    (regsBut_bump (fastBoth s watts) (f := POWER_THROTTLE_COUNT_COUNT) 1 (by decide)).trans (regsBut_markFast _ _)
  have hrd : ∀ d, rd (fastStepped s watts) (vcoreReg d) = rd (fastBoth s watts) (vcoreReg d) := fun d =>
    hc _ (by unfold vcoreReg; split <;> decide)
  have hm : ∀ d, vmin (fastStepped s watts) d = vmin (fastBoth s watts) d := fun d => by simp only [vmin, hrd]
  have ht : ∀ d, vtarget (fastStepped s watts) d = vtarget (fastBoth s watts) d := fun d => by simp only [vtarget, hrd]
  have hl : ∀ d, vlimit (fastStepped s watts) d = vlimit (fastBoth s watts) d := fun d => by
    rw [fastStepped, vlimit_markFast]
    simp only [vlimit, bump_power]
  refine ⟨fast_markFast _, fun d hd => ⟨?_, ?_, ?_, ?_⟩, ?_, ?_, (hi.mono (by decide)).trans ((hb.regs.mono (by decide)).trans (hc.mono (by decide)))⟩
  · obtain rfl | rfl : d = 0 ∨ d = 1 := by omega
    · exact (hl 0).trans hb.limitA
    · exact (hl 1).trans hb.limitB
  · rw [hm, hb.vmin d hd, vmin_setInput]
  · rw [ht, hb.vtarget d hd, vtarget_setInput]
  · have hp := presentOk_fastBoth s watts hd
    unfold presentOk at hp ⊢
    rw [hrd, ht, hl, hp]
  · rw [hc.flag (by decide), fastBoth]
    exact flag_powerEvent_same _ (by decide) (by decide)
  · rw [← hi.getF (f := POWER_THROTTLE_COUNT_COUNT) (by decide), ← hb.regs.getF (f := POWER_THROTTLE_COUNT_COUNT) (by decide)]
    rw [fastStepped, (regsBut_markFast _ []).getF List.not_mem_nil]
    exact getF_setF_of_lt _ (by decide) (by decide)
      (show min (2 ^ 32 - 1) (getF (fastBoth s watts) POWER_THROTTLE_COUNT_COUNT + 1) < 2 ^ 32 by omega)

/-- Settles O44. The loop is a step of each die's limit, die A's and then die B's; a step of one die leaves what the other's
left, and events only rise. -/
theorem thePowerLoopFollowsPowerAndTemperature : Obligations.ThePowerLoopFollowsPowerAndTemperature := by
  refine ⟨powerWrites, fun s watts tjA tjB h1 h2 h3 => ?_, fun s watts h1 h2 h3 => ?_, fun s watts tjA tjB => ⟨fun h => ?_, fun h => ?_, fun h => ?_⟩,
    fun s => ⟨fun h => ?_, fun h => if_neg h, rfl, fun hot h => ?_, fun hot h => if_pos h⟩⟩
  · obtain ⟨hfast, hcap, hat, hin, hA, hB, hdie, hquiet, hsens, hwarn, hregs⟩ := powerLoop_leaves (rfl : _ = nextPeriod (loopBoth s watts tjA tjB))
    refine ⟨_, exec_powerLoop h1 h2 h3, hfast, hcap, hat, hin, hA, hB, fun d hd => ?_, hquiet, hsens, hwarn, hregs⟩
    obtain ⟨hl, hm, ht⟩ := hdie d hd
    refine ⟨hl.limit, hm, ht, fun hw => ⟨hm, ht, hl.present hw⟩, fun hw hv => hl.saturated hw (hl.limit.symm.trans hv), hl.hot⟩
  · obtain ⟨hfast, hdie, hthr, hcount, hregs⟩ := powerFastStep_leaves s watts
    refine ⟨_, exec_powerFastStep h1 h2 h3, hfast, fun d hd => ?_, hthr, hcount, hregs⟩
    obtain ⟨hl, hm, ht, hp⟩ := hdie d hd
    exact ⟨hl, hm, ht, hp⟩
  · exact ⟨exec_powerLoop_idle (h.imp_right .inl), exec_powerFastStep_idle (h.imp_right .inl)⟩
  · exact exec_powerLoop_idle (.inr (.inr h))
  · exact exec_powerFastStep_idle (.inr (.inr h))
  · refine ⟨_, if_pos h, flag_powerEvent_same s (by decide) (by decide), regsBut_powerEvent s (by decide), powerEvent_of_set,
      fun hc _ hh hup hon => powerEvent_msix rfl hc hh hup hon⟩
  · rw [Bool.or_assoc]
    exact if_neg h

end Sys2Proof.Machine
end

section
/-! SUPPORT. The management port's sessions (R422, R423): the replies of a session, what signing and a close leave, and the
messages. -/

namespace Sys2Proof.Machine

open Sys2Proof.Safety

/-! ## What signing leaves of the boot's findings (R413) -/

theorem foldl_boot {α : Type} {f : State → α → State} (hf : ∀ s x, (f s x).boot = s.boot) (l : List α) (s : State) :
    (l.foldl f s).boot = s.boot := by
  induction l generalizing s with
  | nil => rfl
  | cons x l ih => rw [List.foldl_cons, ih, hf]

theorem hostSend_boot (s : State) (h fn a : Nat) (bs : List Byte) : (hostSend s h fn a bs).boot = s.boot := by
  refine foldl_boot (fun t x => ?_) _ s
  rfl

theorem memWrite_boot (s : State) (c : Option Nat) (a : Nat) (bs : List Byte) : (memWrite s c a bs).1.boot = s.boot := by
  unfold memWrite
  split
  · rfl
  · dsimp only
    split
    · rfl
    · exact hostSend_boot ..

/-- A cell of the module's own joins a queue or is dropped. -/
theorem injectAt_boot (s : State) (src : CellSrc) (e : Nat) (dl : Bool) (x : Cell) : (injectAt s src e dl none x).boot = s.boot := by
  simp only [injectAt]
  split <;> rfl

theorem sendTo_boot (s : State) (src : CellSrc) (dest : Nat) (x : Cell) : (sendTo s src dest x).boot = s.boot := by
  unfold sendTo
  split
  · rfl
  · exact injectAt_boot ..

theorem sendMgmt_boot (s : State) (p req tag : Nat) (bs : List Byte) : (sendMgmt s p req tag bs).boot = s.boot := by
  refine foldl_boot (fun t k => ?_) _ s
  dsimp only
  split
  · exact injectAt_boot ..
  · exact sendTo_boot ..

theorem flushReplies_boot (n : Nat) (s : State) (m : Nat) : (flushReplies n s m).boot = s.boot := by
  induction n generalizing s with
  | zero => rfl
  | succ n ih =>
    simp only [flushReplies]
    split
    · exact ih _
    · rfl

theorem attestEnd_boot (s : State) : (attestEnd s).boot = s.boot := by simp [attestEnd]

theorem deliverReport_boot (s : State) (w : SignFor) (bs : List Byte) : (deliverReport s w bs).boot = s.boot := by
  cases w with
  | host a => exact (attestEnd_boot _).trans (memWrite_boot ..)
  | peer p req tag => exact sendMgmt_boot ..
  | session m => exact flushReplies_boot ..

theorem signNext_boot (s : State) : (signNext s).boot = s.boot := by
  unfold signNext
  split
  · rfl
  · exact deliverReport_boot ..

theorem signAll_boot (s : State) : (signAll s).boot = s.boot := foldl_boot (fun t _ => signNext_boot t) _ s

/-- The certificates presented are those of the record that the boot found. -/
theorem ownCerts_signAll (s : State) : ownCerts (signAll s) = ownCerts s := by
  unfold ownCerts
  rw [signAll_boot]

/-! ## Handshakes (R422) -/

/-- What an offer must show. -/
theorem offerOk_iff (s : State) (t : TlsOffer) : offerOk s t = true ↔
    t.tls13 = true ∧ t.suiteOk = true ∧ t.groupOk = true ∧ t.schemeOk = true ∧ s.rpa.ownerSet = true ∧ chainSigned t.chain = true ∧
      ∃ own root, t.chain.head? = some own ∧ t.chain.getLast? = some root ∧ sha512 root.der = s.rpa.ownerDigest ∧
        pssVerify own.modulus (verifyContent false t.clientHash) t.verify = true := by
  unfold offerOk
  cases t.chain.head? with
  | none => simp
  | some own =>
    cases t.chain.getLast? with
    | none => simp
    | some root => simp [and_assoc]

/-- The session that a good offer opens: what waits is signed, then the module shows its certificates and signature. -/
theorem exec_tlsHandshake {s : State} {m : Nat} {t : TlsOffer} (h1 : m ∉ s.sessions) (h2 : getF s TRUST_STATE_STATE = 3)
    (h3 : s.power.refLost = false) : exec (.tlsHandshake m t) s = .next (if offerOk s t = true then
      emit { emit { signAll s with sessions := (signAll s).sessions ++ [m] }
        (.certVerify m (ownCerts s) (identitySign (signAll s) (verifyContent true t.serverHash))) with free := (signAll s).free + 1 }
        (.session m true)
      else emit s (.session m false)) := by
  have h : ¬ (s.sessions.contains m = true ∨ getF s TRUST_STATE_STATE ≠ 3 ∨ s.power.refLost = true) := by
    simp [h1, h2, h3]
  show execTlsHandshake m t s = _
  rw [execTlsHandshake, if_neg h, ← ownCerts_signAll s]
  split <;> rfl

theorem exec_tlsHandshake_idle {s : State} {m : Nat} {t : TlsOffer}
    (h : ¬ (m ∉ s.sessions ∧ getF s TRUST_STATE_STATE = 3 ∧ s.power.refLost = false)) :
    exec (.tlsHandshake m t) s = .next s := by
  refine if_pos (Classical.byContradiction fun hn => h ?_)
  simpa only [List.contains_iff_mem, not_or, ne_eq, Classical.not_not, Bool.not_eq_true] using hn

theorem chainSigned_cons (a b : Cert) (l : List Cert) : chainSigned (a :: b :: l) = true ↔
    pssVerify b.modulus a.signed a.signature = true ∧ chainSigned (b :: l) = true := by
  rw [chainSigned, Bool.and_eq_true]

/-! ## Replies (R423) -/

/-- With no reply of its own waiting a session sends nothing more. -/
theorem flushReplies_of_none {s : State} {m : Nat} (n : Nat) (h : ∀ x ∈ s.replies, x.1 ≠ m) : flushReplies n s m = s := by
  have hf : s.replies.find? (fun x => x.1 == m) = none := by simpa using h
  cases n with
  | zero => rfl
  | succ n => simp only [flushReplies, hf]

/-- A reply with none of the session's before it leaves at once. -/
theorem reply_of_none {s : State} {m kind : Nat} {body : List Byte} (h : ∀ x ∈ s.replies, x.1 ≠ m) :
    reply s m kind body = emit s (.mgmtReply m (mgmtMessage kind body)) := by
  have hnot : (m, some (kind, body)) ∉ s.replies := fun hm => h _ hm rfl
  have hfind : s.replies.find? (fun x => x.1 == m) = none := by simpa using h
  have hlast : (s.replies ++ [(m, some (kind, body))]).find? (fun x => x.1 == m) = some (m, some (kind, body)) := by
    simp [List.find?_append, hfind]
  have herase : (s.replies ++ [(m, some (kind, body))]).erase (m, some (kind, body)) = s.replies := by
    rw [List.erase_append_right _ hnot, List.erase_cons_head, List.append_nil]
  simp only [reply, flushReplies, hlast, herase]
  exact flushReplies_of_none _ h

/-! ## The messages of a session -/

theorem inSession_open {s : State} {m : Nat} (h : m ∈ s.sessions) (f : State → State) : inSession s m f = .next (f s) :=
  if_pos (List.contains_iff_mem.mpr h)

theorem inSession_closed {s : State} {m : Nat} (h : m ∉ s.sessions) (f : State → State) : inSession s m f = .next s :=
  if_neg (fun hc => h (List.contains_iff_mem.mp hc))

section Rows

variable (s : State) (m : Nat)

theorem exec_regWrite (ws : List (Word × Word)) : exec (.regWrite m ws) s = execRegWrite m ws s := rfl
theorem exec_regRead (offs : List Word) : exec (.regRead m offs) s = execRegRead m offs s := rfl
theorem exec_attest (ch : List Byte) : exec (.attest m ch) s = execAttest m ch s := rfl
theorem exec_imageData (off : Word) (data : List Byte) : exec (.imageData m off data) s = execImageData m off data s := rfl
theorem exec_imageEnd (len : Word) (ok : Bool) : exec (.imageEnd m len ok) s = execImageEnd m len ok s := rfl
theorem exec_releaseOwner : exec (.releaseOwner m) s = execReleaseOwner m s := rfl
theorem exec_mgmtSessionClose : exec (.mgmtSessionClose m) s = execMgmtSessionClose m s := rfl

end Rows

/-- Without its session none of the session's messages does anything. -/
theorem exec_session_closed {s : State} {m : Nat} (h : m ∉ s.sessions) (ws : List (Word × Word)) (offs : List Word) (ch : List Byte)
    (off : Word) (data : List Byte) (len : Word) (ok : Bool) : ∀ i ∈ [Instr.regWrite m ws, .regRead m offs, .attest m ch,
      .imageData m off data, .imageEnd m len ok, .releaseOwner m, .mgmtSessionClose m], exec i s = .next s := by
  simp only [List.forall_mem_cons, List.not_mem_nil, false_implies, implies_true, and_true, exec_regWrite, exec_regRead, exec_attest,
    exec_imageData, exec_imageEnd, exec_releaseOwner, exec_mgmtSessionClose, execRegWrite, execRegRead, execAttest, execImageData,
    execImageEnd, execReleaseOwner, execMgmtSessionClose, inSession_closed h]

/-- The state in which a session asks to release the owner. -/
def asksRelease (s : State) (m : Nat) : State := if s.releases.contains m then s else { s with releases := s.releases ++ [m] }

theorem mem_releases_asksRelease (s : State) (m : Nat) : m ∈ (asksRelease s m).releases := by
  unfold asksRelease
  split
  · next h => exact List.contains_iff_mem.mp h
  · simp

theorem asksRelease_rpa (s : State) (m : Nat) : (asksRelease s m).rpa = s.rpa := by
  unfold asksRelease
  split <;> rfl

theorem imageUpdate_busy {s : State} (m n : Nat) (ok : Bool) (h : getF s TRUST_UPDATE_STATUS_STATE = 1) :
    imageUpdate s m n ok = (s, 6) := if_pos h

/-- A missing byte or one too many is result 4. -/
theorem imageUpdate_incomplete {s : State} {m n : Nat} (ok : Bool) (h : getF s TRUST_UPDATE_STATUS_STATE ≠ 1)
    (hn : 0x1000000 < n ∨ imageOf s m n = none) : imageUpdate s m n ok = (s, 4) := by
  rw [imageUpdate, if_neg h]
  split
  · rfl
  · next hle =>
    rw [hn.resolve_left hle]

/-! ## The close of a session (R423) -/

/-- The state without a session and what it holds. -/
def withoutSession (s : State) (m : Nat) : State :=
  { s with
    sessions := s.sessions.filter (· != m)
    releases := s.releases.filter (· != m)
    image := s.image.filter (fun i => i.1 != m)
    signs := s.signs.filter (fun x => x.1 != .session m)
    replies := s.replies.filter (fun x => x.1 != m)
    shadows := s.shadows.filter (fun x => x.1 != .mgmt m) }

/-- The owner released, as far as the flash may be written. -/
def ownerReleased (s : State) : State :=
  let t := writeRpa s { s.rpa with ownerSet := false }
  setF t TRUST_STATE_OWNER_SET (if t.rpa.ownerSet then 1 else 0)

theorem endSession_of_release {s : State} {m : Nat} (h : m ∈ s.sessions) (hr : m ∈ s.releases) :
    endSession s m = ownerReleased (withoutSession s m) := by
  have hs : s.sessions.contains m = true := List.contains_iff_mem.mpr h
  have hrel : s.releases.contains m = true := List.contains_iff_mem.mpr hr
  simp only [endSession, hs, hrel, Bool.and_self, Bool.not_true, Bool.false_eq_true, if_false]
  rfl

theorem endSession_of_no_release {s : State} {m : Nat} (hr : m ∉ s.releases) : endSession s m = withoutSession s m := by
  simp [endSession, hr, withoutSession]

/-- A write of the replay-protected area changes the area and what has left the module. -/
theorem writeRpa_eq (s : State) (r : Rpa) : ∃ a o, writeRpa s r = { s with rpa := a, out := o } := by
  unfold writeRpa
  split
  · exact ⟨_, _, rfl⟩
  · exact ⟨_, _, rfl⟩

theorem writeRpa_low {s : State} (r : Rpa) (h : s.power.low54 = true) : writeRpa s r = s := if_pos h

theorem rpa_writeRpa {s : State} (r : Rpa) (h : s.power.low54 = false) :
    (writeRpa s r).rpa = { r with writes := s.rpa.writes + 1 } := by
  simp [writeRpa, h]

/-- A release of the owner is a change of the replay-protected area, one register and what has left the module. -/
theorem ownerReleased_eq (s : State) : ∃ a o g, ownerReleased s = { s with rpa := a, out := o, regs := g } := by
  obtain ⟨a, o, e⟩ := writeRpa_eq s { s.rpa with ownerSet := false }
  refine ⟨a, o, (ownerReleased s).regs, ?_⟩
  simp only [ownerReleased, e]
  exact wr_eq _ _ _

theorem rpa_ownerReleased (s : State) : (ownerReleased s).rpa = (writeRpa s { s.rpa with ownerSet := false }).rpa := setF_rpa ..

theorem flag_ownerReleased {s : State} (h : s.power.low54 = false) : flag (ownerReleased s) TRUST_STATE_OWNER_SET = false := by
  have ho : (writeRpa s { s.rpa with ownerSet := false }).rpa.ownerSet = false := by rw [rpa_writeRpa _ h]
  simp only [ownerReleased, ho, flag, getF_setF_of_lt _ (f := TRUST_STATE_OWNER_SET) (v := 0) (by decide) (by decide) (by decide),
    Bool.false_eq_true, if_false]
  decide

/-- A close ends everything that the session holds, whether or not it releases the owner. -/
theorem endSession_eq {s : State} {m : Nat} (h : m ∈ s.sessions) :
    ∃ a o g, endSession s m = { withoutSession s m with rpa := a, out := o, regs := g } := by
  by_cases hr : m ∈ s.releases
  · rw [endSession_of_release h hr]
    exact ownerReleased_eq _
  · exact ⟨_, _, _, endSession_of_no_release hr⟩

/-- What the replay-protected area and the registers are after a close. -/
theorem endSession_owner {s : State} {m : Nat} (h : m ∈ s.sessions) :
    (m ∈ s.releases → s.power.low54 = true → (endSession s m).rpa = s.rpa) ∧
    (m ∈ s.releases → s.power.low54 = false → (endSession s m).rpa = { s.rpa with ownerSet := false, writes := s.rpa.writes + 1 } ∧
      flag (endSession s m) TRUST_STATE_OWNER_SET = false) ∧
    (m ∉ s.releases → (endSession s m).rpa = s.rpa ∧ ∀ off, rd (endSession s m) off = rd s off) := by
  refine ⟨fun hr hl => ?_, fun hr hl => ?_, fun hr => ?_⟩
  · rw [endSession_of_release h hr, rpa_ownerReleased, writeRpa_low (s := withoutSession s m) _ hl]
    rfl
  · rw [endSession_of_release h hr, rpa_ownerReleased, rpa_writeRpa (s := withoutSession s m) _ hl]
    exact ⟨rfl, flag_ownerReleased hl⟩
  · rw [endSession_of_no_release hr]
    exact ⟨rfl, fun _ => rfl⟩

theorem mgmtSessionClose_leaves {s : State} {m : Nat} (h : m ∈ s.sessions) : ∃ t, exec (.mgmtSessionClose m) s = .next t ∧
    m ∉ t.sessions ∧ m ∉ t.releases ∧ (∀ n, n ≠ m → (n ∈ t.sessions ↔ n ∈ s.sessions)) ∧
    (∀ x ∈ t.image, x.1 ≠ m) ∧ (∀ x ∈ t.replies, x.1 ≠ m) ∧ (∀ x ∈ t.shadows, x.1 ≠ .mgmt m) ∧
    (m ∈ s.releases → s.power.low54 = true → t.rpa = s.rpa) ∧
    (m ∈ s.releases → s.power.low54 = false → t.rpa = { s.rpa with ownerSet := false, writes := s.rpa.writes + 1 } ∧ flag t TRUST_STATE_OWNER_SET = false) ∧
    (m ∉ s.releases → t.rpa = s.rpa ∧ ∀ off, rd t off = rd s off) := by
  obtain ⟨hlow, hrel, hkept⟩ := endSession_owner h
  refine ⟨endSession s m, by rw [exec_mgmtSessionClose, execMgmtSessionClose, inSession_open h], ?_, ?_, ?_, ?_, ?_, ?_, hlow, hrel, hkept⟩
  all_goals
    obtain ⟨a, o, g, e⟩ := endSession_eq h
    rw [e]
    simp +contextual [withoutSession]

/-! ## The statement -/

theorem sessionWrite_aligned {m : Nat} {x : Word × Word} (s : State) (h : x.1.toNat % 4 = 0) :
    sessionWrite m s x = writeWord (.mgmt m) x.1.toNat x.2 s := if_pos h

theorem sessionWrite_unaligned {m : Nat} {x : Word × Word} (s : State) (h : x.1.toNat % 4 ≠ 0) :
    sessionWrite m s x = idlePart s (.mgmt m) x.1.toNat := if_neg h

theorem sessionRead_unaligned {m : Nat} {o : Word} (s : State) (h : o.toNat % 4 ≠ 0) : (sessionRead m s o).2 = 0 := by
  rw [sessionRead, if_neg h]

/-- Settles O53. A handshake turns on `offerOk`; a message acts through `inSession`; a close is `withoutSession`, with the owner
released where the session asked for it. -/
theorem sessionsActForTheOwnersManager : Obligations.SessionsActForTheOwnersManager := by
  refine ⟨fun s m t => ⟨exec_tlsHandshake_idle, fun ⟨h1, h2, h3⟩ hg => ?_, fun ⟨h1, h2, h3⟩ hg => ?_⟩,
    fun a b l => ⟨rfl, chainSigned_cons a b l⟩, fun s m h => exec_session_closed h, fun s m h => ⟨fun ws => ?_, fun offs => ?_, fun ch => ?_,
      fun off data => ?_, fun len ok => ⟨?_, imageUpdate_busy m _ ok, fun hn => imageUpdate_incomplete ok hn⟩, fun kind body => reply_of_none,
      ⟨asksRelease s m, ?_, mem_releases_asksRelease s m, asksRelease_rpa s m⟩, mgmtSessionClose_leaves h⟩,
    fun s m o os x => ⟨rfl, rfl, sessionWrite_aligned s, sessionWrite_unaligned s, sessionRead_unaligned s⟩⟩
  · rw [exec_tlsHandshake h1 h2 h3, if_pos ((offerOk_iff s t).mpr hg)]
    rfl
  · rw [exec_tlsHandshake h1 h2 h3, if_neg (fun ho => hg ((offerOk_iff s t).mp ho))]
  · rw [exec_regWrite, execRegWrite, inSession_open h]
    simp only [List.contains_iff_mem]
  · rw [exec_regRead, execRegRead, inSession_open h]
  · rw [exec_attest, execAttest, inSession_open h]
    simp only [Bool.and_eq_true, beq_iff_eq]
  · rw [exec_imageData, execImageData, inSession_open h]
  · rw [exec_imageEnd, execImageEnd, inSession_open h]
  · rw [exec_releaseOwner, execReleaseOwner, inSession_open h, asksRelease]

end Sys2Proof.Machine
end

section
/-! SUPPORT. The register map as a table (R13): what every row has, and where the register of a row stands. -/

namespace Sys2Proof.Machine

/-- The first index of an offset in a row: the place in the row over the stride, if it has one. -/
theorem index_mul_le (d s : Nat) : (if s = 0 then 0 else d / s) * s ≤ d := by
  split
  · omega
  · exact Nat.div_mul_le_self d s

theorem rowIndex_eq_some {r : RegRow} {off i j : Nat} (h : rowIndex r off = some (i, j)) :
    off = r.base + i * r.s1 + j * r.s2 ∧ i < r.n1 ∧ j < r.n2 := by
  by_cases hb : off < r.base
  · rw [rowIndex, if_pos hb] at h
    exact absurd h (by simp)
  · rw [rowIndex, if_neg hb] at h
    dsimp only at h
    rw [Option.ite_none_right_eq_some] at h
    obtain ⟨⟨hi, hj, hd⟩, he⟩ := h
    have hle := index_mul_le (off - r.base) r.s1
    obtain ⟨e1, e2⟩ := Prod.mk.inj (Option.some.inj he)
    rw [e1] at hi hj hd hle e2
    rw [e2] at hj hd
    exact ⟨by omega, hi, hj⟩

/-- Two fields of a register share no bit. -/
abbrev apart (f g : RegField) : Prop := f.hi < g.lo ∨ g.hi < f.lo

/-- A field lies within 32 bits. -/
abbrev fits (f : RegField) : Prop := f.hi < 32 ∧ f.lo ≤ f.hi

/-- No field of the register is a word of a 64-bit counter. -/
abbrev plain (r : RegRow) : Prop := ∀ f ∈ r.fields, f.acc ≠ .countLo ∧ f.acc ≠ .countHi

/-- What every row of the map has: fields within 32 bits and apart; a word of a 64-bit counter as its one field, the high word
not at offset 0; the 13 rails in one row, and the other registers that a sensor fills alone in theirs. -/
abbrev RowOk (r : RegRow) : Prop :=
  ((∀ f ∈ r.fields, fits f) ∧ r.fields.Pairwise apart) ∧
  (plain r ∨ r.fields = [⟨31, 0, .countLo⟩] ∨ (r.fields = [⟨31, 0, .countHi⟩] ∧ 4 ≤ r.base)) ∧
  (r.base = POWER_RAIL 0 → r.n1 = 13 ∧ r.s1 = 4 ∧ r.s2 = 0) ∧ (r.base = POWER_INPUT ∨ r.base = POWER_TEMP → r.s1 = 0 ∧ r.s2 = 0)

theorem forall_mem_ite {p : Prop} [Decidable p] {P : RegRow → Prop} {a b : List RegRow} (ha : ∀ r ∈ a, P r) (hb : ∀ r ∈ b, P r) :
    ∀ r ∈ (if p then a else b), P r := by
  split
  · exact ha
  · exact hb

/-- The tables have it, block by block. -/
theorem rowOk_of_mem (off : Nat) : ∀ r ∈ regBlock off, RowOk r := by
  unfold regBlock
  iterate 14 refine forall_mem_ite (by decide +kernel) ?_
  exact List.forall_mem_nil _

/-- A register stands in a row of the map, at the place its indices name. -/
theorem regAt_eq_some {off i j : Nat} {row : RegRow} (h : regAt off = some (row, i, j)) :
    RowOk row ∧ off = row.base + i * row.s1 + j * row.s2 ∧ i < row.n1 ∧ j < row.n2 := by
  obtain ⟨r, hr, hm⟩ := List.exists_of_findSome?_eq_some h
  obtain ⟨⟨a, b⟩, hi, he⟩ := Option.map_eq_some_iff.mp hm
  obtain ⟨rfl, rfl, rfl⟩ : r = row ∧ a = i ∧ b = j := by simpa using he
  exact ⟨rowOk_of_mem off r hr, rowIndex_eq_some hi⟩

theorem rowOk_of_regAt {off i j : Nat} {row : RegRow} (h : regAt off = some (row, i, j)) : RowOk row := (regAt_eq_some h).1

/-- The high word of a counter has a register before it. -/
theorem four_le_of_countHi {p i j : Nat} {row : RegRow} (h : regAt p = some (row, i, j)) (hk : row.fields = [⟨31, 0, .countHi⟩]) :
    4 ≤ p := by
  obtain ⟨⟨-, hkind, -⟩, hp, -⟩ := regAt_eq_some h
  have hbase : 4 ≤ row.base := by
    rcases hkind with hpl | hlo | ⟨-, hb⟩
    · exact absurd rfl (hpl ⟨31, 0, .countHi⟩ (by rw [hk]; exact List.mem_cons_self)).2
    · rw [hk] at hlo
      exact absurd hlo (by decide)
    · exact hb
  omega

/-! ## The registers that a sensor fills (R428) -/

theorem sensed_eq_some {b : Nat} {x : Nat × Nat} (h : sensed b = some x) : b = POWER_INPUT ∨ b = POWER_TEMP ∨ b = POWER_RAIL 0 := by
  unfold sensed at h
  split at h
  · next hb => exact .inl hb
  · split at h
    · next hb => exact .inr (.inl hb)
    · split at h
      · next hb => exact .inr (.inr hb)
      · cases h

/-- No register that a sensor fills is a word of a pair (R15): neither it nor the register before it is a low word. -/
theorem not_pairLow_of_sensed {p i j : Nat} {row : RegRow} {x : Nat × Nat} (h : regAt p = some (row, i, j))
    (hs : sensed row.base = some x) : pairLow row.base = false ∧ ∀ low a b, regAt (p - 4) = some (low, a, b) → pairLow low.base = false := by
  obtain ⟨⟨-, -, hrail, hsingle⟩, hp, hi, -⟩ := regAt_eq_some h
  have of_check : ∀ q, (regAt q).all (fun y => !pairLow y.1.base) = true →
      ∀ low a b, regAt q = some (low, a, b) → pairLow low.base = false := fun q hq low a b e => by
    rw [e] at hq
    simpa using hq
  rcases sensed_eq_some hs with hb | hb | hb
  · obtain ⟨h1, h2⟩ := hsingle (.inl hb)
    obtain rfl : p = POWER_INPUT := by rw [hp, h1, h2, hb]; omega
    exact ⟨by rw [hb]; decide, of_check _ (by decide +kernel)⟩
  · obtain ⟨h1, h2⟩ := hsingle (.inr hb)
    obtain rfl : p = POWER_TEMP := by rw [hp, h1, h2, hb]; omega
    exact ⟨by rw [hb]; decide, of_check _ (by decide +kernel)⟩
  · obtain ⟨hn, h1, h2⟩ := hrail hb
    have hcheck : ∀ k, k < 13 → (regAt (POWER_RAIL 0 + k * 4 - 4)).all (fun y => !pairLow y.1.base) = true := by decide +kernel
    obtain rfl : p = POWER_RAIL 0 + i * 4 := by rw [hp, h1, h2, hb]; omega
    exact ⟨by rw [hb]; decide, of_check _ (hcheck i (hn ▸ hi))⟩

end Sys2Proof.Machine
end

section
/-! SUPPORT. Writes by access code (R16, R17): what one field takes, and the fields of a register together. -/

namespace Sys2Proof.Machine

open Sys2Proof.Safety

/-- What a write of `v` leaves in a field of the register at `off`. -/
def fieldAfter (s : State) (off : Nat) (v : Word) (i j : Nat) (f : RegField) : Nat :=
  let g : Fld := ⟨off, f.hi, f.lo⟩
  let x := bits v.toNat f.hi f.lo
  match f.acc with
  | .rw => x
  | .flag => getF s g - (getF s g &&& x)
  | .count => getF s g - x
  | .qmax => if x = 0 then getF s g else min (fldMax g) (vcDepth s i j)
  | _ => getF s g

/-- Two changes of the register table alone are one. -/
theorem regsOnly_trans {s t u : State} (h : t = { s with regs := t.regs }) (g : u = { t with regs := u.regs }) :
    u = { s with regs := u.regs } := g.trans (congrArg (fun x : State => { x with regs := u.regs }) h)

/-- The change of one field to `x`: the register table alone changes, in that field alone. -/
structure FieldSet (s t : State) (off : Nat) (f : RegField) (x : Nat) : Prop where
  regsOnly : t = { s with regs := t.regs }
  regs : RegsBut s t [off]
  same : getF t ⟨off, f.hi, f.lo⟩ = x
  others : ∀ g : RegField, apart f g → getF t ⟨off, g.hi, g.lo⟩ = getF s ⟨off, g.hi, g.lo⟩

theorem FieldSet.refl (s : State) (off : Nat) (f : RegField) : FieldSet s s off f (getF s ⟨off, f.hi, f.lo⟩) :=
  ⟨rfl, .refl s _, rfl, fun _ _ => rfl⟩

theorem fieldSet_setF (s : State) (off : Nat) {f : RegField} {x : Nat} (hf : fits f) (hx : x < 2 ^ (f.hi + 1 - f.lo)) :
    FieldSet s (setF s ⟨off, f.hi, f.lo⟩ x) off f x :=
  ⟨wr_eq .., regsBut_setF s x (by simp), getF_setF_of_lt s hf.1 hf.2 hx,
    fun g hg => getF_setF_ne s ⟨off, f.hi, f.lo⟩ ⟨off, g.hi, g.lo⟩ x hf.1 hf.2 (.inr hg)⟩

/-- A field takes its part of the value by its access code. -/
theorem fieldSet_writeField (s : State) (off : Nat) (v : Word) (i j : Nat) {f : RegField} (hf : fits f)
    (hk : f.acc ≠ .countLo ∧ f.acc ≠ .countHi) : FieldSet s (writeField off v i j s f) off f (fieldAfter s off v i j f) := by
  have hx := bits_lt v.toNat f.hi f.lo
  have hg := getF_lt s ⟨off, f.hi, f.lo⟩
  unfold writeField fieldAfter
  dsimp only
  cases ha : f.acc with
  | ro => exact .refl s off f
  | wo => exact .refl s off f
  | rw => exact fieldSet_setF s off hf hx
  | flag => exact fieldSet_setF s off hf (Nat.lt_of_le_of_lt (Nat.sub_le _ _) hg)
  | count => exact fieldSet_setF s off hf (Nat.lt_of_le_of_lt (Nat.sub_le _ _) hg)
  | countLo => exact absurd ha hk.1
  | countHi => exact absurd ha hk.2
  | qmax =>
    dsimp only
    split
    · exact .refl s off f
    · refine fieldSet_setF s off hf (Nat.lt_of_le_of_lt (Nat.min_le_left _ _) ?_)
      exact Nat.sub_lt (Nat.two_pow_pos _) Nat.one_pos

/-- What a field takes depends on the field and on the waiting cells alone. -/
theorem fieldAfter_congr {s t : State} {off : Nat} (v : Word) (i j : Nat) {f : RegField} (hc : t.cells = s.cells)
    (hg : getF t ⟨off, f.hi, f.lo⟩ = getF s ⟨off, f.hi, f.lo⟩) : fieldAfter t off v i j f = fieldAfter s off v i j f := by
  simp only [fieldAfter, hg, vcDepth, occupancy, hc]

/-- The fields of a register written in order, where they are apart. -/
structure FieldsSet (s t : State) (off : Nat) (v : Word) (i j : Nat) (l : List RegField) : Prop where
  regsOnly : t = { s with regs := t.regs }
  regs : RegsBut s t [off]
  fields : ∀ f ∈ l, getF t ⟨off, f.hi, f.lo⟩ = fieldAfter s off v i j f
  others : ∀ g : RegField, (∀ f ∈ l, apart f g) → getF t ⟨off, g.hi, g.lo⟩ = getF s ⟨off, g.hi, g.lo⟩

theorem fieldsSet_foldl (off : Nat) (v : Word) (i j : Nat) (l : List RegField) (s : State) (hf : ∀ f ∈ l, fits f)
    (ha : l.Pairwise apart) (hk : ∀ f ∈ l, f.acc ≠ .countLo ∧ f.acc ≠ .countHi) :
    FieldsSet s (l.foldl (writeField off v i j) s) off v i j l := by
  induction l generalizing s with
  | nil => exact ⟨rfl, .refl s _, fun _ h => absurd h List.not_mem_nil, fun _ _ => rfl⟩
  | cons f l ih =>
    obtain ⟨hfl, hl⟩ := List.pairwise_cons.mp ha
    obtain ⟨hff, hfl'⟩ := List.forall_mem_cons.mp hf
    obtain ⟨hkf, hkl⟩ := List.forall_mem_cons.mp hk
    have h1 := fieldSet_writeField s off v i j hff hkf
    have h2 := ih (writeField off v i j s f) hfl' hl hkl
    have hcells : (writeField off v i j s f).cells = s.cells := by rw [h1.regsOnly]
    rw [List.foldl_cons]
    refine ⟨regsOnly_trans h1.regsOnly h2.regsOnly, h1.regs.trans h2.regs, ?_, fun g hg => ?_⟩
    · refine List.forall_mem_cons.mpr ⟨?_, fun g hg => ?_⟩
      · exact (h2.others f (fun g hg => (hfl g hg).symm)).trans h1.same
      · exact (h2.fields g hg).trans (fieldAfter_congr v i j hcells (h1.others g (hfl g hg)))
    · obtain ⟨hgf, hgl⟩ := List.forall_mem_cons.mp hg
      exact (h2.others g hgl).trans (h1.others g hgf)

/-! ## 64-bit counters (R15, R17) -/

theorem rd64_lt (s : State) (off : Nat) : rd64 s off < 2 ^ 64 := by
  have h1 := (rd s off).isLt
  have h2 := (rd s (off + 4)).isLt
  unfold rd64
  omega

theorem regsBut_wr64 (s : State) (off x : Nat) : RegsBut s (wr64 s off x) [off, off + 4] :=
  (regsBut_wr s _ (by simp)).trans (regsBut_wr _ _ (by simp))

theorem wr64_regsOnly (s : State) (off x : Nat) : wr64 s off x = { s with regs := (wr64 s off x).regs } :=
  regsOnly_trans (wr_eq s off _) (wr_eq _ (off + 4) _)

/-- A pair written reads back. -/
theorem rd64_wr64 (s : State) (off : Nat) {x : Nat} (h : x < 2 ^ 64) : rd64 (wr64 s off x) off = x := by
  have hlo : rd (wr64 s off x) off = BitVec.ofNat 32 x := by
    unfold wr64
    rw [rd_wr_ne _ _ (by omega), rd_wr_same]
  have hhi : rd (wr64 s off x) (off + 4) = BitVec.ofNat 32 (x / 2 ^ 32) := rd_wr_same ..
  rw [rd64, hlo, hhi, BitVec.toNat_ofNat, BitVec.toNat_ofNat]
  omega

theorem bits_whole (v : Word) : bits v.toNat 31 0 = v.toNat := by
  rw [bits, Nat.shiftRight_zero]
  exact Nat.mod_eq_of_lt v.isLt

theorem writeField_countLo (s : State) (p : Nat) (v : Word) (i j : Nat) :
    writeField p v i j s ⟨31, 0, .countLo⟩ = wr64 s p (rd64 s p - bits v.toNat 31 0) := rfl

theorem writeField_countHi (s : State) (p : Nat) (v : Word) (i j : Nat) :
    writeField p v i j s ⟨31, 0, .countHi⟩ = wr64 s (p - 4) (rd64 s (p - 4) - bits v.toNat 31 0 * 2 ^ 32) := rfl

/-- The low word of a counter subtracts the value from the whole count. -/
theorem writeFields_countLo {s : State} {row : RegRow} (p i j : Nat) (v : Word) (h : row.fields = [⟨31, 0, .countLo⟩]) :
    writeFields s p row i j v = wr64 s p (rd64 s p - v.toNat) := by
  rw [writeFields, h, List.foldl_cons, List.foldl_nil, writeField_countLo, bits_whole]

/-- The high word of a counter subtracts the value times 2^32. -/
theorem writeFields_countHi {s : State} {row : RegRow} (p i j : Nat) (v : Word) (h : row.fields = [⟨31, 0, .countHi⟩]) :
    writeFields s p row i j v = wr64 s (p - 4) (rd64 s (p - 4) - v.toNat * 2 ^ 32) := by
  rw [writeFields, h, List.foldl_cons, List.foldl_nil, writeField_countHi, bits_whole]

/-- What a counter holds after a subtraction. -/
theorem rd64_wr64_sub (s : State) (off k : Nat) : rd64 (wr64 s off (rd64 s off - k)) off = rd64 s off - k :=
  rd64_wr64 s off (Nat.lt_of_le_of_lt (Nat.sub_le _ _) (rd64_lt s off))

end Sys2Proof.Machine
end

section
/-! SUPPORT. Accesses to the register map (R13 to R18): what each part of an access does, by what it meets. -/

namespace Sys2Proof.Machine

open Sys2Proof.Safety

/-! ## Writes -/

theorem exec_registerWrite {off : Word} (h : off.toNat % 4 = 0) (s : State) (r : Requester) (vs : List (Option Word)) :
    exec (.registerWrite r off vs) s = .next (writeWords r off.toNat vs s) := if_neg (fun hn => hn h)

theorem writeWord_reached {s : State} {r : Requester} {o p : Nat} (h : meets s r o = (.yes, p)) (v : Word) :
    writeWord r o v s = regWriteAt s r p v := by
  simp only [writeWord, h]

theorem meets_of_fst {s : State} {r : Requester} {o : Nat} {x : Reach} (h : (meets s r o).1 = x) : ∃ p, meets s r o = (x, p) :=
  ⟨_, Prod.ext h rfl⟩

theorem writeWord_unmapped {s : State} {r : Requester} {o : Nat} (h : (meets s r o).1 = .unmapped) (v : Word) :
    writeWord r o v s = bump s GLOBAL_UNMAPPED_COUNT_COUNT 1 := by
  obtain ⟨p, e⟩ := meets_of_fst h
  simp only [writeWord, e]

theorem writeWord_absent {s : State} {r : Requester} {o : Nat} (h : (meets s r o).1 = .absent) (v : Word) :
    writeWord r o v s = s := by
  obtain ⟨p, e⟩ := meets_of_fst h
  simp only [writeWord, e]

/-- A register without a meaning of its own that takes a write takes it by the codes of its fields. -/
theorem regWriteAt_fields {s : State} {r : Requester} {p i j : Nat} {row : RegRow} {v : Word} (h : regAt p = some (row, i, j))
    (h1 : ownWrite s r row.base i j v = none) (h2 : ownWriteLate s r row.base i v = none) (h3 : writable s r row.base i = true) :
    regWriteAt s r p v = writeFields s p row i j v := by
  simp only [regWriteAt, h, h1, h2, h3, Option.getD_none, if_true, ite_self]

/-- A register that takes no write keeps everything. -/
theorem regWriteAt_unwritable {s : State} {r : Requester} {p i j : Nat} {row : RegRow} {v : Word} (h : regAt p = some (row, i, j))
    (h1 : ownWrite s r row.base i j v = none) (hp : p < HEALTH_CTRL) (h3 : writable s r row.base i = false) :
    regWriteAt s r p v = s := by
  simp only [regWriteAt, h, if_pos hp, h1, h3, Option.getD_none, Bool.false_eq_true, if_false]

theorem exec_registerWrite_one {off : Word} (h : off.toNat % 4 = 0) (s : State) (r : Requester) (v : Word) :
    exec (.registerWrite r off [some v]) s = .next (writeWord r off.toNat v s) := exec_registerWrite h s r _

theorem toNat_add_four {off : Word} (h : off.toNat + 4 < 2 ^ 32) : (off + 4).toNat = off.toNat + 4 := by
  have h4 : (4 : Word).toNat = 4 := rfl
  rw [BitVec.toNat_add, h4, Nat.mod_eq_of_lt h]

/-- The parts of a wide write act in ascending order (R14). -/
theorem exec_registerWrite_wide {off : Word} (h : off.toNat % 4 = 0) (ho : off.toNat + 4 < 2 ^ 32) (s : State) (r : Requester)
    (vs : List (Option Word)) : exec (.registerWrite r (off + 4) vs) s = .next (writeWords r (off.toNat + 4) vs s) := by
  rw [exec_registerWrite (by rw [toNat_add_four ho]; omega), toNat_add_four ho]

/-! ## Reads -/

theorem exec_read {off : Word} (h : off.toNat % 4 = 0) {s : State} {r : Requester} (hd : decoded s r = true) (en : List Bool) :
    exec (.registerPairLowRead r off en) s = .next (answerRead r (readWords r off.toNat en s)) := by
  show execRegisterPairLowRead r off en s = _
  rw [execRegisterPairLowRead, if_neg (fun hn => hn h), readParts, if_pos hd]

theorem waitRead_reached {s : State} {r : Requester} {o p i j : Nat} {row : RegRow} (h : meets s r o = (.yes, p))
    (hr : regAt p = some (row, i, j)) (hw : row.base ≠ QUE_COMPAT_WAIT 0) : waitRead s r o = none := by
  simp only [waitRead, h, hr, if_neg hw]

/-- A read of one word of a register goes back to the requester. -/
theorem exec_read_one {off : Word} (h : off.toNat % 4 = 0) {s : State} {r : Requester} {p i j : Nat} {row : RegRow}
    (hm : meets s r off.toNat = (.yes, p)) (hr : regAt p = some (row, i, j)) (hd : decoded s r = true)
    (hw : row.base ≠ QUE_COMPAT_WAIT 0) :
    exec (.registerPairLowRead r off [true]) s = .next (emit (regReadAt s r p).1 (.readData r [(regReadAt s r p).2])) := by
  have hword : readWord r off.toNat s = regReadAt s r p := by simp only [readWord, hm]
  rw [exec_read h hd]
  simp only [readWords, waitRead_reached hm hr hw, hword, answerRead, List.isEmpty_cons, Bool.false_eq_true, if_false]

theorem shadowAt_setShadow (s : State) (r : Requester) (off : Nat) (w : Word) : shadowAt (setShadow s r off w) r off = some w := by
  simp [shadowAt, setShadow]

/-- A low word fills the requester's shadow of the high word (R15). -/
theorem regReadAt_low {s : State} {r : Requester} {p i j : Nat} {row : RegRow} (h : regAt p = some (row, i, j))
    (hp : pairLow row.base = true) :
    regReadAt s r p = (setShadow (liveWord s p row i j).1 r p (rd s (p + 4)), (liveWord s p row i j).2) := by
  simp only [regReadAt, h, hp, if_true]

/-- A high word comes from the shadow where there is one (R15). -/
theorem regReadAt_high {s : State} {r : Requester} {p i j a b : Nat} {row low : RegRow} (h : regAt p = some (row, i, j))
    (hp : pairLow row.base = false) (hl : regAt (p - 4) = some (low, a, b)) (hlow : pairLow low.base = true) :
    regReadAt s r p = ((liveWord s p row i j).1, (shadowAt s r (p - 4)).getD (liveWord s p row i j).2) := by
  simp only [regReadAt, h, hp, hl, hlow, if_true, Bool.false_eq_true, if_false]

/-- Every other register reads its present word. -/
theorem regReadAt_single {s : State} {r : Requester} {p i j : Nat} {row : RegRow} (h : regAt p = some (row, i, j))
    (hp : pairLow row.base = false) (hl : ∀ low a b, regAt (p - 4) = some (low, a, b) → pairLow low.base = false) :
    regReadAt s r p = liveWord s p row i j := by
  simp only [regReadAt, h, hp, Bool.false_eq_true, if_false]
  split
  · next low a b e => rw [hl low a b e, if_neg Bool.false_ne_true]
  · rfl

/-- The word of a register whose bits the state gives: computed, or stored. -/
def stateWord (s : State) (p : Nat) (row : RegRow) (i j : Nat) : Word :=
  match computed s row.base i j (rd s p).toNat with
  | some n => BitVec.ofNat 32 n
  | none => rd s p

theorem liveWord_of_state {s : State} {p i j : Nat} {row : RegRow} (h : sensed row.base = none) :
    liveWord s p row i j = (s, stateWord s p row i j) := by
  cases hc : computed s row.base i j (rd s p).toNat <;> simp only [liveWord, stateWord, h, hc]

theorem liveWord_of_sensor {s : State} {p i j hi lo : Nat} {row : RegRow} (h : sensed row.base = some (hi, lo)) :
    liveWord s p row i j = ({ s with free := s.free + 1 }, if row.base = POWER_RAIL 0 then railWord s i (Config.reading s.free p)
      else putBits (rd s p) hi lo (Config.reading s.free p)) := by
  simp only [liveWord, h]

/-! ## The rails (R428) -/

theorem railRange_bounds (s : State) (n : Nat) : (railRange s n).1 ≤ (railRange s n).2 ∧ (railRange s n).2 < 4096 := by
  unfold railRange
  split
  · have h := bits_lt (rd s (vcoreReg n)).toNat 9 0
    dsimp only
    omega
  · have h : ∀ v ∈ railNominal, v ≤ 3300 := by decide
    have hv : railNominal.getD (n - 2) 0 ≤ 3300 := by
      rw [List.getD_eq_getElem?_getD]
      cases e : railNominal[n - 2]? with
      | none => exact Nat.zero_le _
      | some v => exact h v (List.mem_of_getElem? e)
    dsimp only
    omega

/-- The voltage that a rail reads lies in the rail's range. -/
theorem railWord_bounds (s : State) (n x : Nat) :
    (railRange s n).1 ≤ bits (railWord s n x).toNat 15 0 ∧ bits (railWord s n x).toNat 15 0 ≤ (railRange s n).2 := by
  obtain ⟨h1, h2⟩ := railRange_bounds s n
  have hx := bits_lt x 31 16
  have hm : x % ((railRange s n).2 + 1 - (railRange s n).1) < (railRange s n).2 + 1 - (railRange s n).1 := Nat.mod_lt _ (by omega)
  have hw : bits (railWord s n x).toNat 15 0 = (railRange s n).1 + x % ((railRange s n).2 + 1 - (railRange s n).1) := by
    simp only [railWord, bits, Nat.shiftRight_zero, BitVec.toNat_ofNat] at hx ⊢
    omega
  omega

/-! ## The statement -/

/-- What a write of a register by the codes of its fields leaves. -/
theorem fieldsSet_writeFields {s : State} {row : RegRow} (p : Nat) (v : Word) (i j : Nat) (hr : RowOk row) (hk : plain row) :
    FieldsSet s (writeFields s p row i j v) p v i j row.fields :=
  fieldsSet_foldl p v i j row.fields s hr.1.1 hr.1.2 hk

/-- A field that a write set, by its access code. -/
theorem FieldsSet.byCode {s t : State} {p i j : Nat} {v : Word} {l : List RegField} (h : FieldsSet s t p v i j l) {f : RegField}
    (hf : f ∈ l) : let g : Fld := ⟨p, f.hi, f.lo⟩
      (f.acc = .rw → getF t g = bits v.toNat f.hi f.lo) ∧
      (f.acc = .ro ∨ f.acc = .wo → getF t g = getF s g) ∧
      (f.acc = .flag → getF t g = getF s g - (getF s g &&& bits v.toNat f.hi f.lo)) ∧
      (f.acc = .count → getF t g = getF s g - bits v.toNat f.hi f.lo) ∧
      (f.acc = .qmax → getF t g = if bits v.toNat f.hi f.lo = 0 then getF s g else min (fldMax g) (vcDepth s i j)) := by
  dsimp only
  rw [h.fields f hf]
  refine ⟨fun ha => ?_, fun ha => ?_, fun ha => ?_, fun ha => ?_, fun ha => ?_⟩
  · simp only [fieldAfter, ha]
  · rcases ha with ha | ha <;> simp only [fieldAfter, ha]
  · simp only [fieldAfter, ha]
  · simp only [fieldAfter, ha]
  · simp only [fieldAfter, ha]

/-- A write that meets a register without a meaning of its own, while it takes writes (R16, R17). -/
theorem registerWrite_fields {s : State} {r : Requester} {off : Word} (ho : off.toNat % 4 = 0) {v : Word} {p i j : Nat} {row : RegRow}
    (hm : meets s r off.toNat = (.yes, p)) (hr : regAt p = some (row, i, j))
    (h1 : ownWrite s r row.base i j v = none) (h2 : ownWriteLate s r row.base i v = none) (h3 : writable s r row.base i = true) :
    exec (.registerWrite r off [some v]) s = .next (writeFields s p row i j v) := by
  rw [exec_registerWrite_one ho, writeWord_reached hm, regWriteAt_fields hr h1 h2 h3]

/-- Reads of a register whose bits the state gives (R15). -/
theorem read_of_state {s : State} {r : Requester} {off : Word} (ho : off.toNat % 4 = 0) {p i j : Nat} {row : RegRow}
    (hm : meets s r off.toNat = (.yes, p)) (hr : regAt p = some (row, i, j)) (hd : decoded s r = true)
    (hs : sensed row.base = none) (hw : row.base ≠ QUE_COMPAT_WAIT 0) :
    let w := stateWord s p row i j
    (pairLow row.base = true → exec (.registerPairLowRead r off [true]) s =
      .next (emit (setShadow s r p (rd s (p + 4))) (.readData r [w])) ∧
      shadowAt (setShadow s r p (rd s (p + 4))) r p = some (rd s (p + 4))) ∧
    (pairLow row.base = false → ∀ low a b, regAt (p - 4) = some (low, a, b) → pairLow low.base = true →
      exec (.registerPairLowRead r off [true]) s = .next (emit s (.readData r [(shadowAt s r (p - 4)).getD w]))) ∧
    (pairLow row.base = false → (∀ low a b, regAt (p - 4) = some (low, a, b) → pairLow low.base = false) →
      exec (.registerPairLowRead r off [true]) s = .next (emit s (.readData r [w]))) := by
  have hlive := liveWord_of_state (s := s) (p := p) (i := i) (j := j) hs
  dsimp only
  rw [exec_read_one ho hm hr hd hw]
  refine ⟨fun hp => ⟨?_, shadowAt_setShadow ..⟩, fun hp low a b hl hlow => ?_, fun hp hl => ?_⟩
  · rw [regReadAt_low hr hp, hlive]
  · rw [regReadAt_high hr hp hl hlow, hlive]
  · rw [regReadAt_single hr hp hl, hlive]

/-- Reads of a register with bits of a sensor: the present word with free bits there (R428). -/
theorem read_of_sensor {s : State} {r : Requester} {off : Word} (ho : off.toNat % 4 = 0) {p i j hi lo : Nat} {row : RegRow}
    (hm : meets s r off.toNat = (.yes, p)) (hr : regAt p = some (row, i, j)) (hd : decoded s r = true)
    (hs : sensed row.base = some (hi, lo)) : exec (.registerPairLowRead r off [true]) s =
      .next (emit { s with free := s.free + 1 } (.readData r [if row.base = POWER_RAIL 0 then railWord s i (Config.reading s.free p)
        else putBits (rd s p) hi lo (Config.reading s.free p)])) := by
  obtain ⟨hp, hl⟩ := not_pairLow_of_sensed hr hs
  have hw : row.base ≠ QUE_COMPAT_WAIT 0 := fun e => by
    have hnone : sensed (QUE_COMPAT_WAIT 0) = none := by decide
    rw [e, hnone] at hs
    exact absurd hs (by simp)
  rw [exec_read_one ho hm hr hd hw, regReadAt_single hr hp hl, liveWord_of_sensor hs]

theorem sensed_rail : sensed (POWER_RAIL 0) = some (31, 0) := by decide

/-- An access at an offset that no block defines (R18). -/
theorem access_unmapped {s : State} {r : Requester} {off : Word} (ho : off.toNat % 4 = 0) (hm : (meets s r off.toNat).1 = .unmapped)
    (hd : decoded s r = true) (v : Word) :
    let u := bump s GLOBAL_UNMAPPED_COUNT_COUNT 1
    exec (.registerWrite r off [some v]) s = .next u ∧ exec (.unmappedAccess r off (some v)) s = .next u ∧
    exec (.unmappedAccess r off none) s = .next (emit u (.readData r [0])) := by
  obtain ⟨p, hmeets⟩ := meets_of_fst hm
  refine ⟨?_, ?_, ?_⟩
  · rw [exec_registerWrite_one ho, writeWord_unmapped hm]
  · show execUnmappedAccess r off (some v) s = _
    rw [execUnmappedAccess, if_neg (fun hn => hn ho), writeWord_unmapped hm]
  · show execUnmappedAccess r off none s = _
    have hwait : waitRead s r off.toNat = none := by simp only [waitRead, hmeets]
    have hword : readWord r off.toNat s = (bump s GLOBAL_UNMAPPED_COUNT_COUNT 1, 0) := by simp only [readWord, hmeets]
    rw [execUnmappedAccess, if_neg (fun hn => hn ho)]
    simp only [readParts, if_pos hd, readWords, hwait, hword, answerRead, List.isEmpty_cons, Bool.false_eq_true, if_false]

/-- A part of a wide access whose bytes are not all enabled, and the order of the parts (R14). -/
theorem wide_parts {s : State} {r : Requester} {off : Word} (ho : off.toNat % 4 = 0) (hlt : off.toNat + 4 < 2 ^ 32) (v : Word)
    (vs : List (Option Word)) :
    exec (.registerWrite r off (none :: vs)) s = exec (.registerWrite r (off + 4) vs)
      (if (meets s r off.toNat).1 = .unmapped then bump s GLOBAL_UNMAPPED_COUNT_COUNT 1 else s) ∧
    ((meets s r off.toNat).1 ≠ .unmapped → decoded s r = true →
      exec (.registerPairLowRead r off [false]) s = .next (emit s (.readData r [0]))) ∧
    ∀ t, exec (.registerWrite r off [some v]) s = .next t →
      exec (.registerWrite r off (some v :: vs)) s = exec (.registerWrite r (off + 4) vs) t := by
  refine ⟨?_, fun hn hd => ?_, fun t ht => ?_⟩
  · rw [exec_registerWrite_wide ho hlt, exec_registerWrite ho]
    rfl
  · rw [exec_read ho hd]
    simp only [readWords, idlePart, if_neg hn, answerRead, List.isEmpty_cons, Bool.false_eq_true, if_false]
  · rw [exec_registerWrite_one ho] at ht
    rw [exec_registerWrite_wide ho hlt, exec_registerWrite ho, ← Host.Outcome.next.inj ht]
    rfl

/-- A narrow or unaligned access has no effect and reads zero (R14, R18). -/
theorem narrow_access {s : State} {r : Requester} {off : Word} {len : Nat} (h : off.toNat % 4 ≠ 0 ∨ len % 4 ≠ 0)
    (hd : decoded s r = true) :
    let u := if (meets s r off.toNat).1 = .unmapped then bump s GLOBAL_UNMAPPED_COUNT_COUNT 1 else s
    exec (.narrowAccess r off len true) s = .next u ∧ exec (.narrowAccess r off len false) s = .next (emit u (.readData r [0])) := by
  have hn : ¬ (off.toNat % 4 = 0 ∧ len % 4 = 0 ∧ 0 < len) := by omega
  have hrow : ∀ w, exec (.narrowAccess r off len w) s =
      .next (if w = true then idlePart s r off.toNat else emit (idlePart s r off.toNat) (.readData r [0])) := fun w => by
    show execNarrowAccess r off len w s = _
    rw [execNarrowAccess, if_neg hn, hd]
    rfl
  exact ⟨hrow true, hrow false⟩

/-- Settles O26. What an access meets names its register; the map's rows have their fields apart, so that each takes its part of
the value by itself, and a 64-bit counter's word is its register's one field. -/
theorem registerAccessesActUnderTheirCodes : Obligations.RegisterAccessesActUnderTheirCodes := by
  refine ⟨fun s r off ho => ⟨fun v p row i j hm hr => ⟨fun h1 h2 h3 => ⟨fun hk => ?_, fun hk => ?_, fun hk => ?_⟩, fun h1 hp h3 => ?_, ?_⟩,
    fun v hm => ?_, fun v vs hlt => wide_parts ho hlt v vs, fun p row i j hm hr hd => ⟨read_of_state ho hm hr hd, fun hi lo hs hb => ?_, fun hb => ?_⟩,
    fun v p hm hd => access_unmapped ho (congrArg Prod.fst hm) hd v⟩, fun s r off len => narrow_access,
    fun s r off vs en v h => ⟨if_pos h, if_pos h, if_pos h⟩⟩
  · have h := fieldsSet_writeFields (s := s) p v i j (rowOk_of_regAt hr) hk
    exact ⟨_, registerWrite_fields ho hm hr h1 h2 h3, h.regs, h.regsOnly, fun f hf => h.byCode hf⟩
  · refine ⟨_, registerWrite_fields ho hm hr h1 h2 h3, ?_⟩
    rw [writeFields_countLo p i j v hk]
    exact ⟨regsBut_wr64 _ _ _, wr64_regsOnly .., rd64_wr64_sub ..⟩
  · refine ⟨_, registerWrite_fields ho hm hr h1 h2 h3, ?_⟩
    rw [writeFields_countHi p i j v hk]
    have hr64 := regsBut_wr64 s (p - 4) (rd64 s (p - 4) - v.toNat * 2 ^ 32)
    rw [Nat.sub_add_cancel (four_le_of_countHi hr hk)] at hr64
    exact ⟨hr64, wr64_regsOnly .., rd64_wr64_sub ..⟩
  · rw [exec_registerWrite_one ho, writeWord_reached hm, regWriteAt_unwritable hr h1 hp h3]
  · obtain ⟨-, hkind, -⟩ := rowOk_of_regAt hr
    exact hkind.imp_right (Or.imp_right And.left)
  · rw [exec_registerWrite_one ho, writeWord_absent hm]
  · refine ⟨Config.reading s.free p, ?_⟩
    rw [read_of_sensor ho hm hr hd hs, if_neg hb]
  · have hs : sensed row.base = some (31, 0) := by rw [hb, sensed_rail]
    exact ⟨railWord s i (Config.reading s.free p), by rw [read_of_sensor ho hm hr hd hs, if_pos hb], railWord_bounds ..⟩

end Sys2Proof.Machine
end

section
/-! SUPPORT. Work of the torus that is dropped (R23, R190, R253): what discarding waiting cells leaves alone, and a flush of an
egress. -/

namespace Sys2Proof.Machine

open Sys2Proof.Safety

/-! ## What a discard leaves alone -/

/-- What discarding waiting cells leaves alone: the memory, the command queues, the streams, the queued OPENs and the registers
of the GLOBAL block (Table 0-6); every cell that still waits did so before, for the same egress. -/
structure Discards (s t : State) : Prop where
  mem : t.mem = s.mem
  queues : t.queues = s.queues
  ferries : t.ferries = s.ferries
  opens : t.opens = s.opens
  global : ∀ o, o < 0x100000 → rd t o = rd s o
  cells : ∀ q ∈ t.cells, ∃ p ∈ s.cells, p.cell = q.cell ∧ p.egress = q.egress

theorem Discards.trans {s t u : State} (h : Discards s t) (g : Discards t u) : Discards s u where
  mem := g.mem.trans h.mem
  queues := g.queues.trans h.queues
  ferries := g.ferries.trans h.ferries
  opens := g.opens.trans h.opens
  global o ho := (g.global o ho).trans (h.global o ho)
  cells q hq := by
    obtain ⟨p, hp, hc, he⟩ := g.cells q hq
    obtain ⟨r, hr, hc', he'⟩ := h.cells p hp
    exact ⟨r, hr, hc'.trans hc, he'.trans he⟩

/-- An update of other parts of the state. -/
theorem Discards.of_eq {s t : State} (hm : t.mem = s.mem) (hq : t.queues = s.queues) (hf : t.ferries = s.ferries)
    (ho : t.opens = s.opens) (hr : t.regs = s.regs) (hc : t.cells = s.cells) : Discards s t :=
  ⟨hm, hq, hf, ho, fun _ _ => by simp only [rd, hr], fun q h => ⟨q, hc ▸ h, rfl, rfl⟩⟩

theorem Discards.refl (s : State) : Discards s s := .of_eq rfl rfl rfl rfl rfl rfl

theorem Discards.foldl {α : Type} {f : State → α → State} (h : ∀ s x, Discards s (f s x)) (l : List α) (s : State) :
    Discards s (l.foldl f s) := by
  induction l generalizing s with
  | nil => exact .refl s
  | cons x l ih => exact (h s x).trans (ih (f s x))

theorem discards_setF (s : State) {f : Fld} (v : Nat) (h : 0x100000 ≤ f.off) : Discards s (setF s f v) where
  mem := setF_mem ..
  queues := setF_queues ..
  ferries := setF_ferries ..
  opens := setF_opens ..
  global o ho := rd_wr_ne s _ (by omega)
  cells q hq := ⟨q, setF_cells s f v ▸ hq, rfl, rfl⟩

theorem discards_bump (s : State) {f : Fld} (k : Nat) (h : 0x100000 ≤ f.off) : Discards s (bump s f k) := discards_setF s _ h

/-! ## The pool (R250, R251) -/

theorem discards_setDesc (s : State) (a : Nat) (d : PoolDesc) : Discards s (setDesc s a d) := by
  unfold setDesc
  split <;> exact .of_eq rfl rfl rfl rfl rfl rfl

theorem discards_poolLog (s : State) (kind cell req last : Nat) : Discards s (poolLog s kind cell req last) := by
  unfold poolLog
  split
  · exact .refl s
  · exact ((((discards_setF s 1 (by decide)).trans (discards_setF _ kind (by decide))).trans
      (discards_setF _ cell (by decide))).trans (discards_setF _ req (by decide))).trans (discards_setF _ last (by decide))

theorem discards_poolReject (s : State) (e : PoolErr) (a : Nat) (q : OwnerId) : Discards s (poolReject s e a q) := by
  have hcount : ∀ f : Fld, 0x100000 ≤ f.off → ∀ k c r l, Discards s (scoreModule (poolLog (bump s f 1) k c r l) 64) :=
    fun f hf k c r l => ((discards_bump s 1 hf).trans (discards_poolLog _ k c r l)).trans (discards_bump _ 64 (by decide))
  cases e <;> exact hcount _ (by decide) _ _ _ _

theorem le_off_poolUsed (d c : Nat) : 0x100000 ≤ (poolUsed d c).off := by
  unfold poolUsed
  split <;> simp only [MEM_CTX_POOL_USED_A_CELLS, MEM_CTX_POOL_USED_B_CELLS, MEM_CTX_POOL_USED_A, MEM_CTX_POOL_USED_B] <;> omega

theorem le_off_poolFreeF (d : Nat) : 0x100000 ≤ (poolFreeF d).off := by
  unfold poolFreeF
  split <;> decide

theorem discards_poolReturn (s : State) (c d n : Nat) : Discards s (poolReturn s c d n) :=
  (discards_setF s _ (le_off_poolUsed d c)).trans (discards_setF _ _ (le_off_poolFreeF d))

theorem discards_poolRelease (s : State) (a : Nat) : Discards s (poolRelease s a) := by
  have hpend : ∀ b : Bool, Discards s (if b then setF s POOL_PENDING_COUNT (getF s POOL_PENDING_COUNT - 1) else s) := fun b => by
    cases b
    · exact .refl s
    · exact discards_setF s _ (by decide)
  have hfree : ∀ u : State, Discards u { setDesc u a {} with
      freeList := lmod (setDesc u a {}).freeList (cellDie a) (fun l => a :: l) } :=
    fun u => (discards_setDesc u a {}).trans (.of_eq rfl rfl rfl rfl rfl rfl)
  simp only [poolRelease]
  split
  · exact ((hpend _).trans (hfree _)).trans (discards_poolReturn ..)
  · exact (hpend _).trans (hfree _)

theorem discards_poolDrop (s : State) (a : Nat) (q : OwnerId) : Discards s (poolDrop s a q) := by
  simp only [poolDrop]
  split
  · exact .refl s
  split
  · exact discards_poolReject ..
  split
  · exact discards_poolReject ..
  split
  · exact (discards_setDesc ..).trans (discards_poolRelease ..)
  · exact discards_setDesc ..

theorem discards_poolFree (s : State) (a : Nat) (q : OwnerId) : Discards s (poolFree s a q).1 := by
  simp only [poolFree]
  split
  · exact .refl s
  split
  · exact discards_poolReject s .doubleFree a q
  split
  · exact discards_poolReject s .owner a q
  split
  · exact discards_poolRelease s a
  split
  · exact .refl s
  · exact (discards_setDesc s a _).trans (discards_setF _ _ (by decide))

/-! ## Waiting cells (R212, R253) -/

theorem discards_dropRef (s : State) (q : QCell) : Discards s (dropRef s q) := by
  unfold dropRef
  split
  · exact discards_poolDrop ..
  · exact .refl s

theorem discards_giveCredit (s : State) (p sub : Nat) : Discards s (giveCredit s p sub) := .of_eq rfl rfl rfl rfl rfl rfl

theorem le_off_dropRoute (p : Nat) : 0x100000 ≤ (FAB_PORT_DROP_ROUTE_COUNT p).off := by
  simp only [FAB_PORT_DROP_ROUTE_COUNT, FAB_PORT_DROP_ROUTE]
  omega

theorem discards_discardWaiting (s : State) (q : QCell) : Discards s (discardWaiting s q) := by
  unfold discardWaiting
  split
  · dsimp only
    split
    · exact (discards_bump s 1 (le_off_dropRoute _)).trans (discards_giveCredit ..)
    · exact discards_bump s 1 (le_off_dropRoute _)
  · exact discards_dropRef ..

/-- A member of a list with one member changed is an old member, or the changed one. -/
theorem mem_lmod {α : Type} {l : List α} {n : Nat} {f : α → α} {x : α} (h : x ∈ lmod l n f) : ∃ y ∈ l, x = y ∨ x = f y := by
  induction l generalizing n with
  | nil => simp [lmod] at h
  | cons a l ih =>
    cases n with
    | zero =>
      rcases List.mem_cons.mp h with rfl | h
      · exact ⟨a, List.mem_cons_self, .inr rfl⟩
      · exact ⟨x, List.mem_cons_of_mem a h, .inl rfl⟩
    | succ n =>
      rcases List.mem_cons.mp h with rfl | h
      · exact ⟨x, List.mem_cons_self, .inl rfl⟩
      · obtain ⟨y, hy, e⟩ := ih h
        exact ⟨y, List.mem_cons_of_mem a hy, e⟩

/-- A cell that crosses the bridge waits on for its egress (R217). -/
theorem discards_bridged (s : State) (i : Nat) (a : Option Nat) :
    Discards s { s with cells := lmod s.cells i (fun b => { b with bridged := true, place := a }) } where
  mem := rfl
  queues := rfl
  ferries := rfl
  opens := rfl
  global _ _ := rfl
  cells q hq := by
    obtain ⟨p, hp, rfl | rfl⟩ := mem_lmod hq
    · exact ⟨q, hp, rfl, rfl⟩
    · exact ⟨p, hp, rfl, rfl⟩

theorem discards_crossBridge (s : State) (q : QCell) : Discards s (crossBridge s q) := by
  simp only [crossBridge]
  split
  · split
    · split
      · split
        · split
          · exact (discards_bridged ..).trans (discards_giveCredit ..)
          · exact discards_bridged ..
        · exact discards_bridged ..
      · exact .refl s
    · exact .refl s
  · exact .refl s

theorem discards_bridgeGo (s : State) : Discards s (bridgeGo s) := .foldl discards_crossBridge s.cells s

/-- A cell that stays in its queue is one of those that `f` keeps; only the tick from which it waits may differ (R225). -/
theorem mem_keepCells {now : Tick} {f : QCell → Bool} {l : List QCell} {q : QCell} (h : q ∈ keepCells now f l) :
    ∃ p ∈ l, f p = true ∧ p.cell = q.cell ∧ p.egress = q.egress := by
  obtain ⟨p, hp, rfl⟩ := List.mem_map.mp h
  obtain ⟨hl, hf⟩ := List.mem_filter.mp hp
  refine ⟨p, hl, hf, ?_⟩
  split <;> exact ⟨rfl, rfl⟩

/-- The cells that `f` does not select for an egress stay. -/
def unselected (s : State) (e : Nat) (f : QCell → Bool) : State :=
  { s with cells := keepCells s.now (fun q => !(q.egress == e && f q)) s.cells }

theorem discards_unselected (s : State) (e : Nat) (f : QCell → Bool) : Discards s (unselected s e f) where
  mem := rfl
  queues := rfl
  ferries := rfl
  opens := rfl
  global _ _ := rfl
  cells q hq := by
    obtain ⟨p, hp, -, hc⟩ := mem_keepCells hq
    exact ⟨p, hp, hc⟩

theorem unselected_discards_flushEgress (s : State) (e : Nat) (f : QCell → Bool) : Discards (unselected s e f) (flushEgress s e f) :=
  (Discards.foldl discards_discardWaiting _ _).trans (discards_bridgeGo _)

theorem discards_flushEgress (s : State) (e : Nat) (f : QCell → Bool) : Discards s (flushEgress s e f) :=
  (discards_unselected s e f).trans (unselected_discards_flushEgress s e f)

/-- After a flush by the cells' contents no selected cell waits for the egress. -/
theorem not_selected_of_mem_flushEgress {s : State} {e : Nat} {f : Cell → Bool} {q : QCell}
    (h : q ∈ (flushEgress s e (fun q => f q.cell)).cells) (he : q.egress = e) : f q.cell = false := by
  obtain ⟨p, hp, hc, hpe⟩ := (unselected_discards_flushEgress s e _).cells q h
  obtain ⟨r, -, hr, hrc, hre⟩ := mem_keepCells hp
  simpa [hre, hpe, he, hrc, hc] using hr

/-- Several egresses are flushed one after another. -/
theorem flushEgress_foldl (f : Cell → Bool) (l : List Nat) (s : State) :
    let t := l.foldl (fun t p => flushEgress t p (fun q => f q.cell)) s
    Discards s t ∧ ∀ q ∈ t.cells, q.egress ∈ l → f q.cell = false := by
  induction l generalizing s with
  | nil => exact ⟨.refl s, fun _ _ h => absurd h (by simp)⟩
  | cons e l ih =>
    obtain ⟨hd, hl⟩ := ih (flushEgress s e (fun q => f q.cell))
    refine ⟨(discards_flushEgress s e _).trans hd, fun q hq he => ?_⟩
    rcases List.mem_cons.mp he with he | he
    · obtain ⟨p, hp, hc, hpe⟩ := hd.cells q hq
      exact hc ▸ not_selected_of_mem_flushEgress hp (hpe.trans he)
    · exact hl q hq he

end Sys2Proof.Machine
end

section
/-! SUPPORT. The assignment of axis lengths and coordinate and their withdrawal (R22, R23, R370, R381). -/

namespace Sys2Proof.Machine

open Sys2Proof.Safety

/-! ## What is written (R21, R22) -/

/-- A field of the low bits of a number is the number's field. -/
theorem bits_low {n k hi lo : Nat} (h : hi ≤ k) : bits (bits n k 0) hi lo = bits n hi lo :=
  bits_congr fun i _ hi' => by
    simp only [bits, Nat.shiftRight_zero, Nat.testBit_mod_two_pow, decide_eq_true (show i < k + 1 - 0 by omega), Bool.true_and]

theorem dimFits_iff (n : Nat) : dimFits (bits n 14 0) = true ↔
    (2 ≤ bits n 4 0 ∧ bits n 4 0 ≤ 25) ∧ (2 ≤ bits n 9 5 ∧ bits n 9 5 ≤ 25) ∧ (2 ≤ bits n 14 10 ∧ bits n 14 10 ≤ 25) := by
  simp [dimFits, axisPos, List.range_succ, bits_low]

theorem coordOk_iff (s : State) (n : Nat) : coordOk s (bits n 14 0) = true ↔
    bits n 4 0 < getF s GLOBAL_TORUS_DIM_LEN_X ∧ bits n 9 5 < getF s GLOBAL_TORUS_DIM_LEN_Y ∧
      bits n 14 10 < getF s GLOBAL_TORUS_DIM_LEN_Z := by
  simp [coordOk, axisPos, axisLen, List.range_succ, bits_low, getF, GLOBAL_TORUS_DIM_LEN_X, GLOBAL_TORUS_DIM_LEN_Y,
    GLOBAL_TORUS_DIM_LEN_Z]

theorem torusDimWrite_assigns {s : State} {v : Word} (hv : v.getLsbD 31 = true) (h : dimValid s = false)
    (hf : dimFits (bits v.toNat 14 0) = true) :
    torusDimWrite s v = wr s GLOBAL_TORUS_DIM (BitVec.ofNat 32 (2 ^ 31 + bits v.toNat 14 0)) := by
  simp [torusDimWrite, hv, h, hf]

theorem torusDimWrite_keeps {s : State} {v : Word} (hv : v.getLsbD 31 = true)
    (h : ¬ (dimValid s = false ∧ dimFits (bits v.toNat 14 0) = true)) : torusDimWrite s v = s := by
  rw [torusDimWrite, if_pos hv, if_pos]
  cases hd : dimValid s with
  | true => exact Bool.true_or _
  | false => rw [Bool.false_or, Bool.not_eq_true', Bool.eq_false_iff]; exact fun hf => h ⟨hd, hf⟩

theorem torusDimWrite_withdraws {s : State} {v : Word} (hv : v.getLsbD 31 = false) :
    torusDimWrite s v = setF (withdrawCoord s) GLOBAL_TORUS_DIM_VALID 0 := by
  rw [torusDimWrite, hv, if_neg Bool.false_ne_true]

theorem coordWrite_assigns {s : State} {v : Word} (hv : v.getLsbD 31 = true) (h : coordValid s = false) (hd : dimValid s = true)
    (hc : coordOk s (bits v.toNat 14 0) = true) : coordWrite s v =
      checkCays (retrainPorts (clearView (wr s GLOBAL_COORD (BitVec.ofNat 32 (2 ^ 31 + bits v.toNat 14 0))))) := by
  simp [coordWrite, hv, h, hd, hc]

theorem coordWrite_keeps {s : State} {v : Word} (hv : v.getLsbD 31 = true)
    (h : ¬ (coordValid s = false ∧ dimValid s = true ∧ coordOk s (bits v.toNat 14 0) = true)) : coordWrite s v = s := by
  rw [coordWrite, if_pos hv, if_pos]
  cases hc : coordValid s with
  | true => simp only [Bool.true_or]
  | false =>
    cases hd : dimValid s with
    | false => simp only [Bool.not_false, Bool.or_true, Bool.true_or]
    | true =>
      simp only [Bool.not_true, Bool.or_false, Bool.false_or, Bool.not_eq_true', Bool.eq_false_iff]
      exact fun hk => h ⟨hc, hd, hk⟩

theorem coordWrite_withdraws {s : State} {v : Word} (hv : v.getLsbD 31 = false) : coordWrite s v = withdrawCoord s := by
  rw [coordWrite, hv, if_neg Bool.false_ne_true]

theorem exec_globalTorusDimWrite {s : State} {r : Requester} (h : reach s r GLOBAL_TORUS_DIM = .yes) (v : Word) :
    exec (.globalTorusDimWrite r v) s = .next (torusDimWrite s v) :=
  access_reached (fun s => torusDimWrite s v) h

theorem exec_globalCoordWrite {s : State} {r : Requester} (h : reach s r GLOBAL_COORD = .yes) (v : Word) :
    exec (.globalCoordWrite r v) s = .next (coordWrite s v) :=
  access_reached (fun s => coordWrite s v) h

/-- An access that reaches nothing is counted (R18). -/
theorem access_missed {s : State} {r : Requester} {off : Nat} (f : State → State) (h : reach s r off = .unmapped) :
    access s r off f = .next (bump s GLOBAL_UNMAPPED_COUNT_COUNT 1) := by
  simp only [access, h]

/-! ## The fence view is cleared (R370) -/

/-- A key of which no entry is kept reads as unlisted. -/
theorem tget_filter_of_dropped {α : Type} (t : Table α) {p : Nat × α → Bool} {k : Nat} (h : ∀ v, p (k, v) = false) :
    tget (t.filter p) k = none := by
  cases e : tget (t.filter p) k with
  | none => rfl
  | some v =>
    have hp := (List.mem_filter.mp (mem_of_tget e)).2
    rw [h v] at hp
    exact absurd hp Bool.false_ne_true

/-- Past the block's single registers every row of the HEALTH block has the reset value 0. -/
theorem reset_zero_of_regsHealth : ∀ r ∈ regsHealth, r.reset = 0 ∨ (r.n1 = 1 ∧ r.n2 = 1 ∧ r.base < 0x2410000) := by decide +kernel

theorem base_ne_of_regsHealth : ∀ r ∈ regsHealth, r.base ≠ FAB_RED_CAY_MAP 0 ∧ r.base ≠ FAB_VC_CREDIT 0 := by decide +kernel

theorem regBlock_view {o : Nat} (h1 : 0x2410000 ≤ o) (h2 : o < 0x2430000) : regBlock o = regsHealth := by
  unfold regBlock
  iterate 10 rw [if_neg (by omega)]
  rw [if_pos (by omega)]

theorem regReset_view {o : Nat} (h1 : 0x2410000 ≤ o) (h2 : o < 0x2430000) : regReset o = 0 := by
  unfold regReset
  cases h : regAt o with
  | none => rfl
  | some x =>
    obtain ⟨row, i, j⟩ := x
    obtain ⟨-, ho, hi, hj⟩ := regAt_eq_some h
    obtain ⟨r, hr, hm⟩ := List.exists_of_findSome?_eq_some h
    obtain ⟨p, -, he⟩ := Option.map_eq_some_iff.mp hm
    obtain ⟨rfl, -⟩ := Prod.mk.inj he
    rw [regBlock_view h1 h2] at hr
    obtain ⟨hmap, hcredit⟩ := base_ne_of_regsHealth r hr
    have hreset : r.reset = 0 := (reset_zero_of_regsHealth r hr).resolve_right fun ⟨hn1, hn2, hb⟩ => by
      obtain rfl : i = 0 := by omega
      obtain rfl : j = 0 := by omega
      omega
    simp only [if_neg hmap, if_neg hcredit, hreset]
    rfl

theorem fenced_clearView (s : State) {c : Nat} (h : c < 32768) : flag (clearView s) (HEALTH_VIEW_FENCED c) = false := by
  have hrd : rd (clearView s) (HEALTH_VIEW c) = 0 := by
    unfold rd clearView
    simp only [HEALTH_VIEW]
    rw [tget_filter_of_dropped s.regs (by simp; omega), Option.getD_none, regReset_view (by omega) (by omega)]
  simp only [flag, getF, HEALTH_VIEW_FENCED, hrd]
  rfl

/-- A module that does not hold itself fenced does so for want of Cays (R381). -/
theorem checkCays_of_not_fenced {s : State} (h : selfFenced s = false) : checkCays s =
    if inService s 0 < getF s HEALTH_CTRL_MIN_CAYS ∨ inService s 1 < getF s HEALTH_CTRL_MIN_CAYS then selfFence s causeSelf else s := by
  simp [checkCays, h]

/-! ## What leaves VALID 0 (R23) -/

theorem setF_regs_eq (s : State) (f : Fld) (v : Nat) : setF s f v = { s with regs := (setF s f v).regs } := wr_eq ..

theorem coordValid_cleared (s : State) : coordValid (setF s GLOBAL_COORD_VALID 0) = false := by
  simp [coordValid, flag, GLOBAL_COORD_VALID]

theorem dimValid_cleared (s : State) : dimValid (setF s GLOBAL_TORUS_DIM_VALID 0) = false := by
  simp [dimValid, flag, GLOBAL_TORUS_DIM_VALID]

theorem coordinate_setF_valid (s : State) (v : Nat) :
    getF (setF s GLOBAL_COORD_VALID v) GLOBAL_COORD_X = getF s GLOBAL_COORD_X ∧
    getF (setF s GLOBAL_COORD_VALID v) GLOBAL_COORD_Y = getF s GLOBAL_COORD_Y ∧
    getF (setF s GLOBAL_COORD_VALID v) GLOBAL_COORD_Z = getF s GLOBAL_COORD_Z :=
  ⟨getF_setF_ne s _ _ v (by decide) (by decide) (by decide), getF_setF_ne s _ _ v (by decide) (by decide) (by decide),
    getF_setF_ne s _ _ v (by decide) (by decide) (by decide)⟩

theorem lengths_setF_valid (s : State) (v : Nat) :
    getF (setF s GLOBAL_TORUS_DIM_VALID v) GLOBAL_TORUS_DIM_LEN_X = getF s GLOBAL_TORUS_DIM_LEN_X ∧
    getF (setF s GLOBAL_TORUS_DIM_VALID v) GLOBAL_TORUS_DIM_LEN_Y = getF s GLOBAL_TORUS_DIM_LEN_Y ∧
    getF (setF s GLOBAL_TORUS_DIM_VALID v) GLOBAL_TORUS_DIM_LEN_Z = getF s GLOBAL_TORUS_DIM_LEN_Z :=
  ⟨getF_setF_ne s _ _ v (by decide) (by decide) (by decide), getF_setF_ne s _ _ v (by decide) (by decide) (by decide),
    getF_setF_ne s _ _ v (by decide) (by decide) (by decide)⟩

/-! ## Work that needs the torus, the coordinate withdrawn (R129, R143, R190, R199) -/

theorem childFenced_of_invalid {s : State} (h : coordValid s = false) (c : Nat) : childFenced s c = true := by
  simp [childFenced, h]

/-- Every queued OPEN goes. -/
theorem keptOpens_of_invalid {s : State} (h : coordValid s = false) : s.opens.filter (fun o => !childFenced s o.parent) = [] :=
  List.filter_eq_nil_iff.mpr fun o _ => by simp [childFenced_of_invalid h]

theorem ferryFences_of_no_stream {s : State} (h : coordValid s = false) (hf : s.ferries = []) : ferryFences s = { s with opens := [] } := by
  simp only [ferryFences, keptOpens_of_invalid h, hf, List.foldl_nil, ferryGo, List.map_nil]

theorem permFences_of_no_permute {s : State} (h : s.permutes = []) : permFences s = s := by
  simp only [permFences, h, List.foldl_nil]

theorem pump_of_no_layer {s : State} (h : s.layers = []) : pump s = s := by
  simp only [pump, h, List.filter_nil, List.foldl_nil]

/-- With nothing of the torus in progress only the queued OPENs go. -/
theorem dropTraffic_of_no_work {s : State} (h : coordValid s = false) (hb : s.buckets = []) (hc : s.causeway = [])
    (hp : s.permutes = []) (hf : s.ferries = []) (hl : s.layers = []) (cause : Nat) :
    dropTraffic s cause = { s with opens := [] } := by
  calc dropTraffic s cause = pump (permFences (ferryFences s)) := by simp only [dropTraffic, hb, hc, List.foldl_nil]
    _ = pump (permFences { s with opens := [] }) := by rw [ferryFences_of_no_stream h hf]
    _ = pump { s with opens := [] } := by rw [permFences_of_no_permute (s := { s with opens := [] }) hp]
    _ = { s with opens := [] } := pump_of_no_layer (s := { s with opens := [] }) hl

/-- The end of a Causeway operation and of the commands that wait behind it. -/
theorem cwEndAll_of_op {s : State} {g : Nat} {q : CwSlot} {op : CwOp} {c : Nat × Nat} (h : cwAt s g = some q) (ho : q.op = some op)
    (hc : op.cmd = some c) : cwEndAll s g = q.queue.foldl (fun t k => endCmd t k.1 k.2 0x30)
      (endCmdWith (withCw s g (fun q => { q with op := none, next := op.n + 1, queue := [] })) c.1 c.2 0x30 op.n) := by
  simp only [cwEndAll, h, ho, cwEndCmd, hc, endAll]

/-- A permute in which another member has still to report its completion ends. -/
theorem permFences_of_waiting {s : State} {m : Perm} (h : coordValid s = false) (hm : s.permutes = [m])
    (hw : (permOthers s m).all (fun p => p.complete.isSome) = false) : permFences s = endPerm s m 0x30 := by
  have hany : (permOthers s m).any (fun p => childFenced s p.coord) = true := by
    obtain ⟨p, hp, -⟩ := List.all_eq_false.mp hw
    exact List.any_eq_true.mpr ⟨p, hp, childFenced_of_invalid h p.coord⟩
  simp only [permFences, hm, List.foldl_cons, List.foldl_nil, hany, hw, Bool.not_false, Bool.and_self, if_true]

/-! ## A stream that a parent feeds (R190) -/

theorem foldl_ferries {α : Type} {f : State → α → State} (hf : ∀ s x, (f s x).ferries = s.ferries) (l : List α) (s : State) :
    (l.foldl f s).ferries = s.ferries := by
  induction l generalizing s with
  | nil => rfl
  | cons x l ih => rw [List.foldl_cons, ih, hf]

theorem sendJob_ferries (s : State) (dest : Nat) (x : Cell) : (sendJob s dest x).ferries = s.ferries := by
  simp only [sendJob, sendTo]
  split
  · rfl
  · simp only [injectAt]
    split <;> rfl

theorem freeWindow_ferries (s : State) (f : Ferry) : (freeWindow s f).ferries = s.ferries := by
  refine foldl_ferries (fun t w => ?_) f.window s
  split
  · exact (discards_poolFree ..).ferries
  · rfl

theorem endGathers_ferries (s : State) (k st n : Nat) : (endGathers s k st n).ferries = s.ferries := by
  refine foldl_ferries (fun t g => ?_) _ _
  rfl

/-- A stream that ends leaves the table. -/
theorem dropFerry_ferries (s : State) (k st : Nat) : (dropFerry s k st).ferries = s.ferries.filter (fun g => g.key != k) := by
  unfold dropFerry
  cases h : ferryAt s k with
  | none =>
    refine (List.filter_eq_self.mpr fun f hf => ?_).symm
    simpa using List.find?_eq_none.mp h f hf
  | some f =>
    have hsent := foldl_ferries (f := fun s (c : FerryChild) => sendJob s c.coord (ferryCell f true (natLe 1 2)))
      (fun t c => sendJob_ferries t c.coord _) (f.children.filter (fun c => c.state == .accepted)) s
    simp only [showSlots, setF_ferries]
    cases f.cmd <;> simp [endCmd, withCmd, endGathers_ferries, withCopy, freeWindow_ferries, hsent]

theorem coordValid_congr {s t : State} (h : rd t GLOBAL_COORD = rd s GLOBAL_COORD) : coordValid t = coordValid s := flag_congr h

/-- Streams are ended one by one, then those that are left go on; none is left of a single one that has ended. -/
theorem ferryGo_of_last_stream {g₁ g₂ : State → Ferry → State} {s t : State} {f : Ferry} (hf : s.ferries = [f]) (h : g₁ s f = t)
    (ht : t.ferries = []) : ferryGo ((s.ferries.foldl g₁ s).ferries.foldl g₂ (s.ferries.foldl g₁ s)) = t := by
  have hu : s.ferries.foldl g₁ s = t := by rw [hf, List.foldl_cons, List.foldl_nil, h]
  simp only [hu, ht, List.foldl_nil, ferryGo, List.map_nil]

theorem rd_without_opens (s : State) (o : Nat) : rd { s with opens := [] } o = rd s o := rfl

/-- A slot that a parent feeds, alone in the table, is aborted. -/
theorem ferryFences_of_parent {s : State} {f : Ferry} {p k : Nat} (h : coordValid s = false) (hf : s.ferries = [f])
    (hsrc : f.src = .parent p k) : ferryFences s = abortFerry { s with opens := [] } f.key := by
  have hgone : (abortFerry { s with opens := [] } f.key).ferries = [] := by
    rw [abortFerry, dropFerry_ferries, bump_ferries]
    simp [hf]
  have hfenced : childFenced { s with opens := [] } p = true :=
    childFenced_of_invalid (s := { s with opens := [] }) ((coordValid_congr (rd_without_opens s _)).trans h) p
  rw [ferryFences, keptOpens_of_invalid h]
  refine ferryGo_of_last_stream (s := { s with opens := [] }) hf ?_ hgone
  simp only [hsrc, hfenced, if_true]

/-! ## The statement -/

theorem withdrawCoord_of_invalid {s : State} (h : coordValid s = false) : withdrawCoord s = s := by
  simp [withdrawCoord, h]

theorem withdrawCoord_of_valid {s : State} (h : coordValid s = true) : withdrawCoord s =
    (List.range 6).foldl (fun t p => flushEgress t p (fun q => q.cell.dest != 0x7FFF)) (dropTraffic (setF s GLOBAL_COORD_VALID 0) 0x41) := by
  simp [withdrawCoord, h]

/-- The cells of the torus egresses that are not link-local go, and no OPEN is left. -/
def flushTorus (s : State) : State :=
  (List.range 6).foldl (fun t p => flushEgress t p (fun q => q.cell.dest != 0x7FFF)) { s with opens := [] }

theorem flushTorus_leaves (s : State) : let t := flushTorus s
    (∀ o, o < 0x100000 → rd t o = rd s o) ∧ t.opens = [] ∧ t.mem = s.mem ∧ t.queues = s.queues ∧
      ∀ q ∈ t.cells, q.egress < 6 → q.cell.dest = 0x7FFF := by
  obtain ⟨hd, hcells⟩ := flushEgress_foldl (fun x => x.dest != 0x7FFF) (List.range 6) { s with opens := [] }
  exact ⟨hd.global, hd.opens, hd.mem, hd.queues, fun q hq he => by simpa using hcells q hq (List.mem_range.mpr he)⟩

/-- With nothing of the torus in progress a withdrawal is a cleared VALID and the flush (R23). -/
theorem withdrawCoord_of_no_work {s : State} (h : coordValid s = true) (hb : s.buckets = []) (hc : s.causeway = [])
    (hp : s.permutes = []) (hf : s.ferries = []) (hl : s.layers = []) :
    withdrawCoord s = flushTorus (setF s GLOBAL_COORD_VALID 0) := by
  rw [withdrawCoord_of_valid h, dropTraffic_of_no_work (coordValid_cleared s) (by simpa using hb) (by simpa using hc)
    (by simpa using hp) (by simpa using hf) (by simpa using hl), flushTorus]

theorem fenceBucket_of_live {s : State} {b : Nat} {e : Bucket} (h : bucketAt s b = some e) (hl : bLive e = true) :
    fenceBucket s b = endBucket s b 0x30 := by
  simp only [fenceBucket, h, hl, if_true]

/-- Settles O27. A write goes by the tests of R23, which the model makes on the three positions; a withdrawal is a cleared VALID,
the end of the torus work, in which every other module counts as fenced, and six flushes that leave all else. -/
theorem coordinatesAreAssignedOnceAndWithdrawn : Obligations.CoordinatesAreAssignedOnceAndWithdrawn := by
  refine ⟨fun s r v => ⟨fun hr => ?_, fun hr => ?_, access_missed (fun s => torusDimWrite s v),
    access_missed (fun s => coordWrite s v), checkCays_of_not_fenced, fun c => fenced_clearView s⟩,
    fun s => ⟨withdrawCoord_of_invalid,
      ⟨coordValid_cleared s, coordinate_setF_valid s 0, regsBut_setF s 0 List.mem_cons_self, setF_regs_eq ..⟩,
      fun h => ⟨withdrawCoord_of_valid h, fun hb hc hp hf hl => ?_⟩,
      dimValid_cleared s, regsBut_setF s 0 List.mem_cons_self, setF_regs_eq .., lengths_setF_valid s 0⟩,
    fun s h => ⟨childFenced_of_invalid h, ?_, fun g q op c => cwEndAll_of_op, fun m => permFences_of_waiting h,
      fun f p k => ferryFences_of_parent h⟩⟩
  · rw [exec_globalTorusDimWrite hr]
    refine ⟨fun hv hd hx hy hz => ?_, fun hv h => ?_, fun hv => ?_⟩
    · rw [torusDimWrite_assigns hv hd ((dimFits_iff _).mpr ⟨hx, hy, hz⟩)]
    · rw [torusDimWrite_keeps hv (by rwa [dimFits_iff])]
    · rw [torusDimWrite_withdraws hv]
  · rw [exec_globalCoordWrite hr]
    refine ⟨fun hv hc hd hbelow => ?_, fun hv h => ?_, fun hv => ?_⟩
    · rw [coordWrite_assigns hv hc hd ((coordOk_iff s _).mpr hbelow)]
    · rw [coordWrite_keeps hv (by rwa [coordOk_iff])]
    · rw [coordWrite_withdraws hv]
  · rw [withdrawCoord_of_no_work h hb hc hp hf hl]
    obtain ⟨hglobal, hopens, hmem, hqueues, hcells⟩ := flushTorus_leaves (setF s GLOBAL_COORD_VALID 0)
    have hcoord : rd (flushTorus (setF s GLOBAL_COORD_VALID 0)) GLOBAL_COORD = rd (setF s GLOBAL_COORD_VALID 0) GLOBAL_COORD :=
      hglobal _ (by decide)
    have hdim : rd (setF s GLOBAL_COORD_VALID 0) GLOBAL_TORUS_DIM = rd s GLOBAL_TORUS_DIM := rd_wr_ne s _ (by decide)
    obtain ⟨hx, hy, hz⟩ := coordinate_setF_valid s 0
    exact ⟨(coordValid_congr hcoord).trans (coordValid_cleared s),
      ⟨(getF_congr (f := GLOBAL_COORD_X) hcoord).trans hx, (getF_congr (f := GLOBAL_COORD_Y) hcoord).trans hy,
        (getF_congr (f := GLOBAL_COORD_Z) hcoord).trans hz⟩,
      (hglobal _ (by decide)).trans hdim, hopens, hmem.trans (setF_mem ..), hqueues.trans (setF_queues ..), hcells⟩
  · refine congrArg (fun t : State => pump (permFences (ferryFences (t.causeway.foldl (fun t p => cwEndAll t p.1) t)))) ?_
    refine congrArg (fun f => s.buckets.foldl f s) (funext fun t => funext fun p => ?_)
    cases hb : bucketAt t p.1 with
    | none => simp only [hb]
    | some e =>
      simp only [hb]
      split
      · next hl => exact fenceBucket_of_live hb hl
      · rfl

end Sys2Proof.Machine
end

section
/-! SUPPORT. The end of a close (R275) of a context with a layer entry past the 4,096 of R145, whose journal register is a window's
register. -/

namespace Sys2Proof.Machine

/-- The entry past the end of the layer table whose LAYER_JNL_B has the offset of the size of context 0's HBM window. -/
def strayEntry : Nat := (MEM_CTX_HBM_WIN_SIZE 0 - LAYER_JNL_B 0) / 8

/-- Context 0 CLOSING without work, its HBM window 1 MiB with one byte written, and a layer of it at `strayEntry`. -/
def strayClosing : State :=
  { regs := [(CTX_STATE 0, 2), (MEM_CTX_HBM_WIN_SIZE 0, 1)], mem := [(hbmBase, 1)], layers := [(strayEntry, { ctx := 0, desc := [] })] }

theorem strayClosing_closes : ctxState strayClosing 0 = 2 ∧ ctxBusy strayClosing 0 = false := by decide +kernel

theorem strayClosing_window : within hbmBase 1 (hbmWin strayClosing 0) = true := by decide +kernel

/-- The release of the layer clears its journal, here the size of the window, before the window is zeroed: no byte is. -/
theorem byte_stays_of_ctxClosed : ∃ t, exec (.ctxClosed 0) strayClosing = .next t ∧ byteAt t.mem 0 hbmBase = 1 := by
  obtain ⟨hstate, hbusy⟩ := strayClosing_closes
  have hgo : ¬ (decide (ctxState strayClosing 0 ≠ 2) || ctxBusy strayClosing 0) = true := by simp [hstate, hbusy]
  exact ⟨_, if_neg (t := .next strayClosing) hgo, by decide +kernel⟩

/-- Refutes O18: its last clause says of every state that a close leaves the windows zero. In `strayClosing`, whose layer entry
lies past the 4,096 of the table (R145), where no LAYER_BIND puts one, the byte written in the window stays. -/
theorem not_contextsOpenCloseAndEnd : ¬ Obligations.ContextsOpenCloseAndEnd := by
  intro h
  obtain ⟨hstate, hbusy⟩ := strayClosing_closes
  obtain ⟨t, ht, -, -, -, -, -, -, -, hzero, -⟩ := (h strayClosing (.pf 0) 0 0).2 hstate hbusy
  obtain ⟨u, hu, hbyte⟩ := byte_stays_of_ctxClosed
  obtain rfl : t = u := Host.Outcome.next.inj (ht.symm.trans hu)
  have hread : byteAt t.mem 0 hbmBase = 0 := hzero 0 hbmBase (.inl strayClosing_window)
  rw [hbyte] at hread
  exact absurd hread (by decide)

end Sys2Proof.Machine
end

section
/-! SUPPORT. The values of G8, W32 and S1 blocks (R36, R49, R50, R54, R59). -/

namespace Sys2Proof.Machine

/-- The elements of lists of one length `k`, laid end to end: element `i` is element `i % k` of list `i / k`. -/
theorem getElem?_flatMap_of_length {α β : Type} {f : α → List β} {k : Nat} (hk : 0 < k) (hf : ∀ a, (f a).length = k)
    (l : List α) (i : Nat) : (l.flatMap f)[i]? = l[i / k]?.bind (fun a => (f a)[i % k]?) := by
  induction l generalizing i with
  | nil => rfl
  | cons a l ih =>
    rw [List.flatMap_cons]
    by_cases hi : i < k
    · rw [List.getElem?_append_left (by rwa [hf]), Nat.div_eq_of_lt hi, Nat.mod_eq_of_lt hi]
      rfl
    · have hle : k ≤ i := Nat.le_of_not_lt hi
      rw [List.getElem?_append_right (by rwa [hf]), hf, ih, ← Nat.mod_eq_sub_mod hle, Nat.div_eq_sub_div hk hle]
      rfl

theorem length_flatMap_of_length {α β : Type} {f : α → List β} {k : Nat} (hf : ∀ a, (f a).length = k) (l : List α) :
    (l.flatMap f).length = k * l.length := by
  induction l with
  | nil => rfl
  | cons a l ih => rw [List.flatMap_cons, List.length_append, hf, ih, List.length_cons, Nat.mul_succ, Nat.add_comm]

/-- A byte has eight bits. -/
theorem length_byteBits (b : Byte) : ((List.range 8).map fun k => b.getLsbD k).length = 8 := by
  rw [List.length_map, List.length_range]

/-! ## G8 and W32 -/

/-- 0x80 is the one code of a byte with the value −128. -/
theorem byte_invalid_iff (q : Byte) : q.toInt = -128 ↔ q = 0x80 := BitVec.toInt_inj (y := 0x80)

theorem length_g8Values (codes : List Byte) (scale : Byte) : (g8Values codes scale).length = codes.length := List.length_map _

theorem getElem?_g8Values {codes : List Byte} {i : Nat} {q : Byte} (h : codes[i]? = some q) (scale : Byte) :
    (g8Values codes scale)[i]? =
      some (if scale = 0xFF ∨ q.toInt = -128 then none else some ⟨q.toInt, (scale.toNat : Int) - 127⟩) := by
  simp only [g8Values, List.getElem?_map, h, Option.map_some, byte_invalid_iff]

/-- The code 0x00 is zero under a valid scale. -/
theorem getElem?_g8Values_zero {codes : List Byte} {i : Nat} (h : codes[i]? = some 0) {scale : Byte} (hs : scale ≠ 0xFF) :
    (g8Values codes scale)[i]? = some (some ⟨0, (scale.toNat : Int) - 127⟩) := by
  rw [getElem?_g8Values h, if_neg (not_or.mpr ⟨hs, by decide⟩)]
  rfl

theorem length_w32Values (b : W32) : (w32Values b).length = b.q.length := List.length_map _

theorem getElem?_w32Values {b : W32} {i : Nat} {c : BitVec 32} (h : b.q[i]? = some c) :
    (w32Values b)[i]? = some (if c = 0x80000000 then none else some ⟨c.toInt, b.e.toInt⟩) := by
  simp only [w32Values, List.getElem?_map, h, Option.map_some]

/-! ## S1 -/

/-- The sign of a finite operand is its code's top bit. -/
theorem sign_of_floatDecode {f : FloatFmt} {x m : Nat} {n : Bool} {e : Int} (h : floatDecode f x = .fin n m e) :
    n = x.testBit (floatWidth f - 1) := by
  have hsign : (x >>> (floatWidth f - 1) % 2 == 1) = x.testBit (floatWidth f - 1) := by
    rw [Nat.testBit_eq_decide_div_mod_eq, Nat.shiftRight_eq_div_pow]
    rfl
  rw [← hsign]
  unfold floatDecode at h
  dsimp only at h
  split at h
  · split at h
    · cases h
    · split at h <;> cases h <;> rfl
  · split at h
    · split at h <;> cases h
    · split at h <;> cases h <;> rfl

/-- A finite BF16 scale with sign bit 0 is valid. -/
theorem s1Invalid_of_finite {c : BitVec 16} {v : Dy} (hv : floatDy .bf16 c.toNat = some v) (hc : c.getLsbD 15 = false) :
    s1Invalid c = false := by
  cases hd : floatDecode .bf16 c.toNat with
  | fin n m e => simpa only [s1Invalid, hd] using (sign_of_floatDecode hd).trans hc
  | inf n => simp only [floatDy, hd, reduceCtorEq] at hv
  | nan g => simp only [floatDy, hd, reduceCtorEq] at hv

/-- Element `i` of an S1 payload is bit `i % 8` of its byte `i / 8` (R36). -/
theorem getElem?_payloadBits {p : List Byte} {i : Nat} {b : Byte} (h : p[i / 8]? = some b) :
    (p.flatMap fun b => (List.range 8).map fun k => b.getLsbD k)[i]? = some (b.getLsbD (i % 8)) := by
  rw [getElem?_flatMap_of_length (by decide) length_byteBits, h, Option.bind_some, List.getElem?_map,
    List.getElem?_range (Nat.mod_lt i (by decide))]
  rfl

/-- An element of an S1 cell under a finite scale with sign bit 0. -/
theorem getElem?_s1Values {p : List Byte} {i : Nat} {b : Byte} (h : p[i / 8]? = some b) {c : BitVec 16} {v : Dy}
    (hv : floatDy .bf16 c.toNat = some v) (hc : c.getLsbD 15 = false) : (s1Values p c)[i]? =
      some (some (if v.m = 0 then dyZero else if b.getLsbD (i % 8) then dyNeg v else v)) := by
  simp only [s1Values, List.getElem?_map, getElem?_payloadBits h, Option.map_some, s1Invalid_of_finite hv hc, hv,
    Option.getD_some, Bool.false_eq_true, if_false]
  split <;> rfl

theorem length_s1Values (p : List Byte) (c : BitVec 16) : (s1Values p c).length = 8 * p.length := by
  rw [s1Values, List.length_map, length_flatMap_of_length length_byteBits]

/-- +0.0 is zero. -/
theorem floatDy_bf16_zero : floatDy .bf16 (0 : BitVec 16).toNat = some ⟨0, -133⟩ := by decide

/-- Settles O56: each block maps its codes, or its payload's bits, to values one by one. -/
theorem blocksHaveTheValuesOfTheirCodes : Obligations.BlocksHaveTheValuesOfTheirCodes := by
  refine ⟨fun codes scale hlen => ⟨(length_g8Values ..).trans hlen, fun i q hq => ⟨getElem?_g8Values hq scale, ?_⟩⟩,
    fun b hlen => ⟨(length_w32Values b).trans hlen, fun i c => getElem?_w32Values⟩,
    fun p c v hlen hv hc => ⟨by rw [length_s1Values, hlen], fun i b _ hb => ⟨fun hm => ?_, ?_⟩⟩⟩
  · rintro rfl hs
    exact ⟨_, getElem?_g8Values_zero hq hs, rfl⟩
  · rw [getElem?_s1Values hb hv hc, if_neg hm]
    rfl
  · rintro rfl
    obtain rfl : ⟨0, -133⟩ = v := Option.some.inj (floatDy_bf16_zero.symm.trans hv)
    exact ⟨dyZero, getElem?_s1Values hb hv hc, rfl⟩

end Sys2Proof.Machine
end

section
/-! SUPPORT. The lane moves and the conversions of Milar (R315 to R317). -/

namespace Sys2Proof.Machine

open Sys2Proof.Safety

/-- An instruction whose meaning succeeds leaves the state and the program state that it gives. -/
theorem milar_ok {s : State} {n : CayNum} {c : MCall} {w : Word} (h : Executing s n c w) {f : State → Milar → MCall → MOut}
    {t : State} {m : Milar} (hf : f s (fetched s n) c = .ok t m) : milar s n w f = .next (putCay t n.val m) := by
  rw [milar_executing h, hf]

theorem legal_of_encodes {w : Word} {b : Bool} (h : b = true) (r : MOut) : legal w b r = r := if_pos h

/-- The two bits of a width field are the width code. -/
theorem widthBits_wb (w : Word) (lo : Nat) : widthBits (wb w (lo + 1) lo) = 8 * 2 ^ wb w (lo + 1) lo := by
  have hlt : wb w (lo + 1) lo < 2 ^ (lo + 2 - lo) := bits_lt _ _ _
  rw [Nat.add_sub_cancel_left] at hlt
  rw [widthBits, Nat.mod_eq_of_lt (show wb w (lo + 1) lo < 4 from hlt)]

theorem laneIndex_of_lt {m : Milar} {wd r : Nat} (h : (getG m r).toNat < 2048 / wd) :
    laneIndex m wd r = some (getG m r).toNat := if_pos h

/-! ## The lane moves -/

section
variable {s : State} {n : CayNum} {c : MCall} {w : Word}

theorem exec_vbcast (h : Executing s n c w) (he : encodes w 0x33 (some (5, 2, 0)) [] = true) :
    exec (.vbcast n w) s = .next (putCay s n.val (setV (fetched s n) (wRd w) (ofLanes (8 * 2 ^ wb w 1 0)
      (List.replicate (2048 / (8 * 2 ^ wb w 1 0)) (getG (fetched s n) (wRa w)).toNat)) none)) := by
  rw [← widthBits_wb w 0]
  exact milar_ok h (legal_of_encodes he _)

theorem exec_vext (h : Executing s n c w) (he : encodes w 0x33 (some (5, 2, 1)) [] = true)
    (hi : (getG (fetched s n) (wRb w)).toNat < 2048 / (8 * 2 ^ wb w 1 0)) :
    exec (.vext n w) s = .next (putCay s n.val (setG (fetched s n) (wRd w)
      (BitVec.ofNat 64 (lane (8 * 2 ^ wb w 1 0) (getG (fetched s n) (wRb w)).toNat (getV (fetched s n) (wRa w)))))) := by
  rw [← widthBits_wb w 0] at hi ⊢
  refine milar_ok h ((legal_of_encodes he _).trans ?_)
  simp only [laneIndex_of_lt hi]

theorem exec_vins (h : Executing s n c w) (he : encodes w 0x33 (some (5, 2, 2)) [] = true)
    (hi : (getG (fetched s n) (wRb w)).toNat < 2048 / (8 * 2 ^ wb w 1 0)) :
    exec (.vins n w) s = .next (putCay s n.val (setV (fetched s n) (wRd w) (ofLanes (8 * 2 ^ wb w 1 0)
      (lmod (lanesOf (8 * 2 ^ wb w 1 0) (getV (fetched s n) (wRd w))) (getG (fetched s n) (wRb w)).toNat
        (fun _ => (getG (fetched s n) (wRa w)).toNat))) none)) := by
  rw [← widthBits_wb w 0] at hi ⊢
  refine milar_ok h ((legal_of_encodes he _).trans ?_)
  simp only [laneIndex_of_lt hi]

theorem exec_vmov (h : Executing s n c w) (he : encodes w 0x33 (some (5, 0, 0xF)) [] = true) :
    exec (.vmov n w) s =
      .next (putCay s n.val (setV (fetched s n) (wRd w) (getV (fetched s n) (wRa w)) (getTag (fetched s n) (wRa w)))) :=
  milar_ok h (legal_of_encodes he _)

/-! ## The conversions -/

/-- A pair of R316 is the two formats that the word's codes name. -/
theorem laneFmt_of_convPair {a b : LaneFmt} (h : convPair w = some (a, b)) :
    laneFmt (wb w 4 1) = some a ∧ laneFmt (wb w 8 5) = some b := by
  unfold convPair at h
  dsimp only at h
  split at h
  · next x y hx hy =>
    obtain ⟨-, hxy⟩ := Option.ite_none_right_eq_some.mp h
    cases hxy
    exact ⟨hx, hy⟩
  · cases h

theorem wordForm_of_convPair {a b : LaneFmt} (h : convPair w = some (a, b)) : wordForm w = convForm a b := by
  obtain ⟨ha, hb⟩ := laneFmt_of_convPair h
  simp only [wordForm, ha, hb]

theorem sameZero_of_field (h : wb w 15 9 = 0) : sameZero w = true := by
  simp only [sameZero, zeroFields, List.all_cons, List.all_nil, h, beq_self_eq_true, Bool.and_self, Bool.or_true]

/-- A conversion word of the form that its pair has goes on with its pair; the same-width form has vb and part zero. -/
theorem convAs_of_convPair {a b : LaneFmt} (hp : convPair w = some (a, b)) (he : encodes w 0x32 none [(0, 0)] = true)
    {k : ConvForm} (hk : convForm a b = k) (hz : k = .same → wb w 15 9 = 0) (r : LaneFmt → LaneFmt → MOut) :
    convAs w k r = r a b := by
  have hsame : (k != .same || sameZero w) = true := by
    by_cases hs : k = .same
    · rw [sameZero_of_field (hz hs), Bool.or_true]
    · rw [bne_iff_ne.mpr hs, Bool.true_or]
  have hform : wordForm w = k := (wordForm_of_convPair hp).trans hk
  unfold convAs
  rw [legal_of_encodes (by rw [he, hform, hsame, beq_self_eq_true]; rfl)]
  simp only [hp]

theorem convForm_same {a b : LaneFmt} (h : laneWidth a = laneWidth b) : convForm a b = .same := if_pos h

theorem convForm_widen {a b : LaneFmt} (h : laneWidth a < laneWidth b) : convForm a b = .widen := by
  rw [convForm, if_neg (Nat.ne_of_lt h), if_pos h]

theorem convForm_narrow {a b : LaneFmt} (h : laneWidth b < laneWidth a) : convForm a b = .narrow := by
  rw [convForm, if_neg (Nat.ne_of_gt h), if_neg (Nat.lt_asymm h)]

end

/-- Settles O8: each row's encoding opens its meaning, and a conversion's widths choose its form. -/
theorem laneMovesAndConversionsWriteTheirLanes : Obligations.LaneMovesAndConversionsWriteTheirLanes := by
  intro s n c w h
  refine ⟨exec_vbcast h, fun ⟨he, hi⟩ => exec_vext h he hi, fun ⟨he, hi⟩ => exec_vins h he hi, exec_vmov h,
    fun a b hp he => ⟨fun ⟨hw, hz⟩ => ?_, fun ⟨hw, hpart⟩ => ?_, fun ⟨hw, hpart⟩ => ?_⟩⟩
  · exact milar_ok h (convAs_of_convPair hp he (convForm_same hw) (fun _ => hz) _)
  · exact milar_ok h ((convAs_of_convPair hp he (convForm_widen hw) nofun _).trans (if_neg (Nat.not_le.mpr hpart)))
  · exact milar_ok h ((convAs_of_convPair hp he (convForm_narrow hw) nofun _).trans (if_neg (Nat.not_le.mpr hpart)))

end Sys2Proof.Machine
end
